-- ==== Sys2Proof/Word.lean ====
section
/-! DEFINITION. The word types of the model and their plainest arithmetic (R2, R35). -/

namespace Sys2Proof

/-- A 32-bit register word (R72, R99). -/
abbrev Word := BitVec 32

/-- A byte of memory. -/
abbrev Byte := BitVec 8

/-- A 64-bit address, column pointer or code address (R105, R238). -/
abbrev Addr := BitVec 64

/-- A 64-bit thread mask: bit t stands for thread t of a warp (R72). -/
abbrev Mask := BitVec 64

end Sys2Proof
end

