-- ==== Sys2Proof/Encoding.lean ====
section
/-! DEFINITION. The parts an encoded instruction is made of: forms, types, selectors, and the one record of fields
that every encoding carries (R37-R53). -/

namespace Sys2Proof

/-- The two layouts of R41 and R44. Whether a literal follows is told by `Fields.lit`. -/
inductive Form where
  | short | ext
  deriving DecidableEq, Repr

/-- The operation types of R51. -/
inductive Ty where
  | s32 | n32 | s16x2 | n16x2 | s8x4 | n8x4 | s64 | n64 | f32 | bf16x2 | f16x2 | e4m3x4 | e5m2x4 | b32 | b64
  deriving DecidableEq, Repr

/-- The rounding modes of R51 and R158. -/
inductive Rnd where
  | rne | rz | rd | ru
  deriving DecidableEq, Repr

/-- The operand widths of R48: how many registers an operand names. -/
inductive Wid where
  | w1 | w2 | w4 | w8
  deriving DecidableEq, Repr

/-- A selector, after R42 or R46 has been read: what one operand field names. -/
inductive Sel where
  | v (n : BitVec 8)      -- V0-V255
  | s (n : BitVec 6)      -- S0-S63
  | c (n : BitVec 3)      -- C0-C7
  | l (n : BitVec 2)      -- L0-L3
  | zero
  | lit                   -- the literal, low 32 bits or all 64
  | litHi                 -- the literal's high 32 bits
  | p (n : BitVec 3)      -- P0-P7
  | imm (k : BitVec 5)    -- the small integer k - 16
  deriving DecidableEq, Repr

/-- The fields of one encoded instruction. A short form holds the values R43 gives it. -/
structure Fields where
  form : Form
  rb   : Bool
  uni  : Bool
  gp   : BitVec 3
  la   : BitVec 4
  rnd  : Rnd
  ty   : Ty
  sub  : BitVec 6
  d    : Sel
  a    : Sel
  b    : Sel
  c    : Sel
  dw   : Wid
  aw   : Wid
  bw   : Wid
  cw   : Wid
  da   : Bool
  db   : Bool
  dc   : Bool
  keep : Bool
  kc   : BitVec 3
  na   : Bool
  nb   : Bool
  absa : Bool
  sat  : Bool
  x    : BitVec 9
  lit  : Option (BitVec 64)
  deriving DecidableEq, Repr

end Sys2Proof
end

