-- ==== Sys2Proof/Machine/Bits.lean ====
section
/-! DEFINITION. Bit fields and pairs of words (R2, R35, R48). -/

namespace Sys2Proof

/-- The field `hi:lo` of a bit vector (R35: `x[hi:lo]`). -/
def bits {n : Nat} (x : BitVec n) (hi lo : Nat) : BitVec (hi - lo + 1) :=
  x.extractLsb' lo (hi - lo + 1)

/-- One bit of a word, as a Boolean. -/
def bit {n : Nat} (x : BitVec n) (i : Nat) : Bool :=
  x.getLsbD i

/-- A 64-bit value from its low and high words (R48: the lowest-numbered register is the low word). -/
def pair (lo hi : Word) : Addr :=
  hi ++ lo

/-- The low word of a 64-bit value. -/
def loWord (x : Addr) : Word :=
  x.setWidth 32

/-- The high word of a 64-bit value. -/
def hiWord (x : Addr) : Word :=
  (x >>> 32).setWidth 32

end Sys2Proof
end

