-- ==== Sys2Proof/Machine/Types.lean ====
section
/-! DEFINITION. What the parts of an encoding stand for: widths, small integers, and the element widths of the types
(R37, R46, R48, R50, R53, R156). -/

namespace Sys2Proof

/-- The number of registers a width names (R48). -/
def Wid.count : Wid → Nat
  | .w1 => 1
  | .w2 => 2
  | .w4 => 4
  | .w8 => 8

/-- The value of a small-integer selector (R46): selector - 0x170. -/
def smallInt (k : BitVec 5) : Int :=
  (k.toNat : Int) - 16

/-- Does a type hold 64-bit elements (R53)? -/
def Ty.is64 : Ty → Bool
  | .s64 | .n64 | .b64 => true
  | _ => false

/-- Is a type one of the signed integer types on which R50 lets a sign modifier act? -/
def Ty.isSigned : Ty → Bool
  | .s32 | .s16x2 | .s8x4 | .s64 => true
  | _ => false

/-- The floating types of R50. -/
def Ty.isFloat : Ty → Bool
  | .f32 | .bf16x2 | .f16x2 | .e4m3x4 | .e5m2x4 => true
  | _ => false

/-- The width in bits of one element of a type (R156). -/
def Ty.elemBits : Ty → Nat
  | .s32 | .n32 | .f32 | .b32 => 32
  | .s16x2 | .n16x2 | .bf16x2 | .f16x2 => 16
  | .s8x4 | .n8x4 | .e4m3x4 | .e5m2x4 => 8
  | .s64 | .n64 | .b64 => 64

/-- How many registers an operand of a type takes: a pair for the 64-bit types (R169). -/
def Ty.regs (t : Ty) : Nat :=
  if t.is64 then 2 else 1

/-- The number of bytes of an instruction (R37). -/
def Fields.bytes (f : Fields) : Nat :=
  (match f.form with | .short => 4 | .ext => 12) + (if f.lit.isSome then 8 else 0)

end Sys2Proof
end

