-- ==== Sys2Proof/Machine/Float.lean ====
section
/-! DEFINITION. Floating-point values and their rounding (R35, R150-R162, R184-R189): every operation forms its exact
result and rounds once. Patterns are natural numbers below 2^width. -/

namespace Sys2Proof.Machine

open Sys2Proof

/-- A floating-point element format (R153). -/
structure Fmt where
  width : Nat
  exp   : Nat      -- exponent bits
  frac  : Nat      -- fraction bits
  bias  : Nat
  inf   : Bool     -- it has infinities
  deriving DecidableEq, Repr

/-- FP32 (R153). -/
def fp32 : Fmt := { width := 32, exp := 8, frac := 23, bias := 127, inf := true }
/-- BF16 (R153). -/
def bf16 : Fmt := { width := 16, exp := 8, frac := 7, bias := 127, inf := true }
/-- FP16 (R153). -/
def fp16 : Fmt := { width := 16, exp := 5, frac := 10, bias := 15, inf := true }
/-- E4M3 (R153). -/
def e4m3 : Fmt := { width := 8, exp := 4, frac := 3, bias := 7, inf := false }
/-- E5M2 (R153). -/
def e5m2 : Fmt := { width := 8, exp := 5, frac := 2, bias := 15, inf := true }

/-- The value of a pattern (R153): a finite one is (-1)^neg * m * 2^e. -/
inductive FVal where
  | nan
  | inf (neg : Bool)
  | fin (neg : Bool) (m : Nat) (e : Int)
  deriving DecidableEq, Repr

/-- The sign bit of a pattern. -/
def Fmt.neg (f : Fmt) (x : Nat) : Bool := x.testBit (f.width - 1)

/-- The exponent field of a pattern. -/
def Fmt.expOf (f : Fmt) (x : Nat) : Nat := x / 2 ^ f.frac % 2 ^ f.exp

/-- The fraction field of a pattern. -/
def Fmt.fracOf (f : Fmt) (x : Nat) : Nat := x % 2 ^ f.frac

/-- The value of a pattern (R153). -/
def Fmt.val (f : Fmt) (x : Nat) : FVal :=
  let e := f.expOf x
  let m := f.fracOf x
  let top := 2 ^ f.exp - 1
  if e = top ∧ f.inf then (if m = 0 then .inf (f.neg x) else .nan)
  else if e = top ∧ !f.inf ∧ m = 2 ^ f.frac - 1 then .nan
  else if e = 0 then .fin (f.neg x) m (1 - (f.bias : Int) - f.frac)
  else .fin (f.neg x) (2 ^ f.frac + m) ((e : Int) - f.bias - f.frac)

/-- Is a pattern a NaN? -/
def Fmt.isNan (f : Fmt) (x : Nat) : Bool := f.val x == .nan

/-- Is a pattern a nonzero subnormal? -/
def Fmt.isSubnormal (f : Fmt) (x : Nat) : Bool := f.expOf x == 0 && f.fracOf x != 0

/-- The canonical NaN (R154). -/
def Fmt.nan (f : Fmt) : Nat :=
  if f.inf then (2 ^ f.exp - 1) * 2 ^ f.frac + 2 ^ (f.frac - 1) else 2 ^ (f.width - 1) - 1

/-- A pattern with a sign. -/
def Fmt.signed (f : Fmt) (neg : Bool) (mag : Nat) : Nat := if neg then 2 ^ (f.width - 1) + mag else mag

/-- Zero of a sign. -/
def Fmt.zero (f : Fmt) (neg : Bool) : Nat := f.signed neg 0

/-- The magnitude of the largest finite value (R154). -/
def Fmt.maxMag (f : Fmt) : Nat :=
  if f.inf then (2 ^ f.exp - 2) * 2 ^ f.frac + (2 ^ f.frac - 1) else 2 ^ (f.width - 1) - 2

/-- An infinite result of a sign (R159): the largest finite value under saturation, the NaN where there is no
infinity. -/
def Fmt.infinite (f : Fmt) (sat neg : Bool) : Nat :=
  if sat then f.signed neg f.maxMag
  else if f.inf then f.signed neg ((2 ^ f.exp - 1) * 2 ^ f.frac)
  else f.nan

/-- Does a magnitude in units of the last place round away from zero (R158)? `rem` of `unit` is dropped, and `sticky`
says whether something below it is dropped too. -/
def roundsUp (r : Rnd) (neg odd : Bool) (rem unit : Nat) (sticky : Bool) : Bool :=
  let some_ := rem != 0 || sticky
  match r with
  | .rne => decide (unit < 2 * rem) || (2 * rem == unit && (sticky || odd))
  | .rz => false
  | .rd => neg && some_
  | .ru => !neg && some_

/-- The exact value (-1)^neg * (m + d) * 2^e, where d is 0, or lies in (0, 1) when `sticky`, rounded once into a format
(R158-R160). A zero keeps the given sign. -/
def Fmt.round (f : Fmt) (r : Rnd) (sat neg : Bool) (m : Nat) (e : Int) (sticky : Bool) : Nat :=
  if m = 0 ∧ !sticky then f.zero neg
  else
    let top : Int := (Nat.log2 m : Int) + e
    let emin : Int := 1 - (f.bias : Int)
    let q : Int := (if top < emin then emin else top) - f.frac
    let (k, up) :=
      if q ≤ e then (m * 2 ^ (e - q).toNat, false)
      else
        let sh := (q - e).toNat
        let k := m / 2 ^ sh
        (k, roundsUp r neg (k % 2 == 1) (m % 2 ^ sh) (2 ^ sh) sticky)
    let k := if up then k + 1 else k
    let (k, q) := if k = 2 ^ (f.frac + 1) then (2 ^ f.frac, q + 1) else (k, q)
    let mag := if k < 2 ^ f.frac then (k : Int) else (q + f.frac + f.bias) * 2 ^ f.frac + (k - 2 ^ f.frac : Nat)
    if mag ≤ (f.maxMag : Int) then f.signed neg mag.toNat
    else match r with
      | .rne => f.infinite sat neg
      | .rz => f.signed neg f.maxMag
      | .ru => if neg then f.signed neg f.maxMag else f.infinite sat neg
      | .rd => if neg then f.infinite sat neg else f.signed neg f.maxMag

/-- A pattern flushed when `ftz` is set (R162): zero of its sign for a nonzero subnormal. FP8 is never flushed. -/
def Fmt.flush (f : Fmt) (ftz : Bool) (x : Nat) : Nat :=
  if ftz && decide (16 ≤ f.width) && f.isSubnormal x then f.zero (f.neg x) else x

/-- The sum of two finite values, exactly, with the sign of a zero sum (R160). -/
def exactAdd (r : Rnd) (na : Bool) (ma : Nat) (ea : Int) (nb : Bool) (mb : Nat) (eb : Int) : Bool × Nat × Int :=
  let e := if ea ≤ eb then ea else eb
  let x : Int := (if na then -1 else 1) * (ma * 2 ^ (ea - e).toNat : Nat)
  let y : Int := (if nb then -1 else 1) * (mb * 2 ^ (eb - e).toNat : Nat)
  let z := x + y
  if z = 0 then ((if ma = 0 ∧ mb = 0 ∧ na = nb then na else r == .rd), 0, e) else (decide (z < 0), z.natAbs, e)

/-- a + b in a format (R157-R160). -/
def Fmt.add (f : Fmt) (r : Rnd) (sat : Bool) (a b : Nat) : Nat :=
  match f.val a, f.val b with
  | .nan, _ | _, .nan => f.nan
  | .inf n, .inf k => if n = k then f.infinite sat n else f.nan
  | .inf n, .fin _ _ _ | .fin _ _ _, .inf n => f.infinite sat n
  | .fin na ma ea, .fin nb mb eb =>
    let (n, m, e) := exactAdd r na ma ea nb mb eb
    f.round r sat n m e false

/-- a * b in a format. -/
def Fmt.mul (f : Fmt) (r : Rnd) (sat : Bool) (a b : Nat) : Nat :=
  match f.val a, f.val b with
  | .nan, _ | _, .nan => f.nan
  | .inf n, .inf k => f.infinite sat (n != k)
  | .inf n, .fin k m _ | .fin k m _, .inf n => if m = 0 then f.nan else f.infinite sat (n != k)
  | .fin na ma ea, .fin nb mb eb => f.round r sat (na != nb) (ma * mb) (ea + eb) false

/-- The sum of products and an addend, rounded once into `g`: the products of elements of `f`, exactly, and an addend of
`g` (FFMA, FDOT2, R185). An infinite product is invalid with an infinite one of the other sign, and carries a finite one with it
(log 83, DEDUCED). -/
def sumProducts (f g : Fmt) (r : Rnd) (sat : Bool) (ps : List (Nat × Nat)) (c : Nat) : Nat :=
  let term (p : Nat × Nat) : FVal :=
    match f.val p.1, f.val p.2 with
    | .nan, _ | _, .nan => .nan
    | .inf n, .inf k => .inf (n != k)
    | .inf n, .fin k m _ | .fin k m _, .inf n => if m = 0 then .nan else .inf (n != k)
    | .fin na ma ea, .fin nb mb eb => .fin (na != nb) (ma * mb) (ea + eb)
  let plus (a b : FVal) : FVal :=
    match a, b with
    | .nan, _ | _, .nan => .nan
    | .inf n, .inf k => if n = k then .inf n else .nan
    | .inf n, .fin _ _ _ | .fin _ _ _, .inf n => .inf n
    | .fin na ma ea, .fin nb mb eb =>
      let (n, m, e) := exactAdd r na ma ea nb mb eb
      .fin n m e
  match ps with
  | [] => c
  | p :: rest =>
    match plus (rest.foldl (fun acc q => plus acc (term q)) (term p)) (g.val c) with
    | .nan => g.nan
    | .inf n => g.infinite sat n
    | .fin n m e => g.round r sat n m e false

/-- A quotient of two magnitudes with at least 80 bits beyond the point, and whether something is left over. -/
def divBits (ma mb : Nat) : Nat × Int × Bool :=
  let k := 80 + Nat.log2 mb
  (ma * 2 ^ k / mb, -(k : Int), ma * 2 ^ k % mb != 0)

/-- a / b in a format (R189). -/
def Fmt.div (f : Fmt) (r : Rnd) (sat : Bool) (a b : Nat) : Nat :=
  match f.val a, f.val b with
  | .nan, _ | _, .nan => f.nan
  | .inf _, .inf _ => f.nan
  | .inf n, .fin k _ _ => f.infinite sat (n != k)
  | .fin n _ _, .inf k => f.zero (n != k)
  | .fin na ma ea, .fin nb mb eb =>
    if mb = 0 then (if ma = 0 then f.nan else f.infinite sat (na != nb))
    else if ma = 0 then f.zero (na != nb)
    else
      let (q, e, st) := divBits ma mb
      f.round r sat (na != nb) q (ea - eb + e) st

/-- The floor of a square root, by bisection from the top bit down. -/
def isqrtFrom : Nat → Nat → Nat → Nat
  | 0, _, acc => acc
  | k + 1, n, acc =>
    let t := acc + 2 ^ k
    isqrtFrom k n (if t * t ≤ n then t else acc)

/-- The floor of the square root of a natural number. -/
def isqrt (n : Nat) : Nat := isqrtFrom (Nat.log2 n / 2 + 1) n 0

/-- The square root of m * 2^e with at least 80 bits, and whether something is left over. -/
def sqrtBits (m : Nat) (e : Int) : Nat × Int × Bool :=
  let (m, e) := if e % 2 = 0 then (m, e) else (2 * m, e - 1)
  let n := m * 2 ^ 160
  let q := isqrt n
  (q, e / 2 - 80, q * q != n)

/-- The square root in a format (R189). -/
def Fmt.sqrt (f : Fmt) (r : Rnd) (sat : Bool) (a : Nat) : Nat :=
  match f.val a with
  | .nan => f.nan
  | .inf n => if n then f.nan else f.infinite sat false
  | .fin n m e =>
    if m = 0 then f.zero n
    else if n then f.nan
    else
      let (q, e, st) := sqrtBits m e
      f.round r sat false q e st

/-- The order of two finite or infinite values: -1, 0 or 1; none when one is a NaN. -/
def FVal.cmp : FVal → FVal → Option Int
  | .nan, _ | _, .nan => none
  | .inf n, .inf k => some (if n = k then 0 else if n then -1 else 1)
  | .inf n, .fin _ _ _ => some (if n then -1 else 1)
  | .fin _ _ _, .inf n => some (if n then 1 else -1)
  | .fin na ma ea, .fin nb mb eb =>
    let e := if ea ≤ eb then ea else eb
    let x : Int := (if na then -1 else 1) * (ma * 2 ^ (ea - e).toNat : Nat)
    let y : Int := (if nb then -1 else 1) * (mb * 2 ^ (eb - e).toNat : Nat)
    some (if x < y then -1 else if x = y then 0 else 1)

/-- FMIN and FMAX (R186): one operand, unchanged; -0 is less than +0. -/
def Fmt.minMax (f : Fmt) (max : Bool) (a b : Nat) : Nat :=
  match (f.val a).cmp (f.val b) with
  | none => if f.isNan a then (if f.isNan b then f.nan else b) else a
  | some c =>
    let less := c < 0 || (c == 0 && f.neg a && !f.neg b)
    if less != max then a else b

/-- The integer nearest a value in a rounding mode. -/
def roundInt (r : Rnd) (neg : Bool) (m : Nat) (e : Int) : Int :=
  let mag : Nat :=
    if 0 ≤ e then m * 2 ^ e.toNat
    else
      let sh := (-e).toNat
      let k := m / 2 ^ sh
      if roundsUp r neg (k % 2 == 1) (m % 2 ^ sh) (2 ^ sh) false then k + 1 else k
  if neg then -(mag : Int) else (mag : Int)

/-- FRND (R188): an integral value of the same format; a zero result keeps the sign of the source. -/
def Fmt.toIntegral (f : Fmt) (r : Rnd) (a : Nat) : Nat :=
  match f.val a with
  | .nan => f.nan
  | .inf _ => a
  | .fin n m e =>
    if 0 ≤ e then a
    else
      let k := roundInt r n m e
      f.round .rne false n k.natAbs 0 false

/-- FSCL (R185): a * 2^n, rounded once. A shift beyond any exponent of the format rounds as the largest such shift. -/
def Fmt.scale (f : Fmt) (r : Rnd) (sat : Bool) (a : Nat) (n : Int) : Nat :=
  match f.val a with
  | .nan => f.nan
  | .inf k => f.infinite sat k
  | .fin k m e =>
    if m = 0 then a
    else
      let n := if n < -1000 then -1000 else if 1000 < n then 1000 else n
      f.round r sat k m (e + n) false

/-- An integer rounded into a format. -/
def Fmt.ofInt (f : Fmt) (r : Rnd) (sat : Bool) (k : Int) : Nat :=
  f.round r sat (decide (k < 0)) k.natAbs 0 false

/-- One format into another (R191): a NaN becomes canonical. -/
def Fmt.convert (f g : Fmt) (r : Rnd) (sat : Bool) (a : Nat) : Nat :=
  match f.val a with
  | .nan => g.nan
  | .inf n => g.infinite sat n
  | .fin n m e => g.round r sat n m e false

/-- A value into an integer range (R161): rounded, then clamped; a NaN gives the stated value. -/
def FVal.toInt (v : FVal) (r : Rnd) (lo hi nan : Int) : Int :=
  match v with
  | .nan => nan
  | .inf n => if n then lo else hi
  | .fin n m e => max lo (min hi (roundInt r n m e))

/-- The class bit of R187. -/
def Fmt.classBit (f : Fmt) (a : Nat) : Nat :=
  match f.val a with
  | .nan => 8
  | .inf n => if n then 0 else 7
  | .fin n m _ =>
    if m = 0 then (if n then 3 else 4)
    else if f.isSubnormal a then (if n then 2 else 5)
    else if n then 1 else 6

/-- RNE32 of R35 on FP32 patterns: sum, product, quotient and root. -/
def add32 (a b : Nat) : Nat := fp32.add .rne false a b
/-- The FP32 product. -/
def mul32 (a b : Nat) : Nat := fp32.mul .rne false a b
/-- The FP32 quotient. -/
def div32 (a b : Nat) : Nat := fp32.div .rne false a b
/-- The FP32 root. -/
def sqrt32 (a : Nat) : Nat := fp32.sqrt .rne false a
/-- The pattern with its sign flipped. -/
def neg32 (a : Nat) : Nat := a ^^^ 2 ^ 31
/-- The FP32 difference. -/
def sub32 (a b : Nat) : Nat := add32 a (neg32 b)

/-- The format of the elements of a floating type. -/
def fmtOf : Ty → Fmt
  | .bf16x2 => bf16
  | .f16x2 => fp16
  | .e4m3x4 => e4m3
  | .e5m2x4 => e5m2
  | _ => fp32

end Sys2Proof.Machine
end

