-- ==== Sys2Proof/Syntax.lean ====
section
/-! DEFINITION. The instructions and events of the part, one constructor for each row of the opcode table. An encoded
instruction carries its fields; an event carries what names the place where it happens. -/

namespace Sys2Proof

/-- One row of the opcode table: an extended form, a short form, or an event of an agent other than a warp. -/
inductive Instr where
  /-- R109: Short form of NOP: has no effect; it costs 1 clk uniform or 4 clk vector. -/
  | nopShort (f : Fields)
  /-- R109: Extended form of NOP: has no effect. -/
  | nop (f : Fields)
  /-- R85: Opens a structure level: disables the threads whose predicate is 0 and jumps when no thread remains active. -/
  | ifBlock (f : Fields)
  /-- R85: Applies exit marks, swaps the active and disabled sets of the level, and jumps when no thread is active. -/
  | elseBlock (f : Fields)
  /-- R85: Short form of ENDIF: applies exit marks, steps nesting counters down and closes a level. -/
  | endifShort (f : Fields)
  /-- R85: Extended form of ENDIF: applies exit marks, steps nesting counters down and closes a level. -/
  | endif (f : Fields)
  /-- R85: Short form of LOOP: opens a loop level and raises the counters of inactive threads. -/
  | loopShort (f : Fields)
  /-- R85: Extended form of LOOP: opens a loop level. -/
  | loop (f : Fields)
  /-- R85: Ends its run; either branches back while some thread is active or closes the loop level. -/
  | endloop (f : Fields)
  /-- R85: Breaks the active threads whose predicate is 1 out of the innermost loop. -/
  | brk (f : Fields)
  /-- R85: Disables the active threads whose predicate is 1 until the loop's next pass. -/
  | cont (f : Fields)
  /-- R85: Short form of EXIT: retires the active threads at depth 0 and marks them otherwise. -/
  | exitShort (f : Fields)
  /-- R85: Extended form of EXIT: retires or exit-marks the active threads. -/
  | exit (f : Fields)
  /-- R108: Uniform run-ending jump to the address of JMP plus an offset. -/
  | jmp (f : Fields)
  /-- R108: Writes the return address into an S pair and jumps. -/
  | call (f : Fields)
  /-- R108: Jumps to the code address held in an S pair. -/
  | ret (f : Fields)
  /-- R109: Short form of YIELD: commits the run, invalidates the operand cache and gives up the slot for arbitration. -/
  | yieldShort (f : Fields)
  /-- R109: Extended form of YIELD: voluntary descheduling at the end of the run. -/
  | yield (f : Fields)
  /-- R109: Commits the run and makes the warp wait until its column's CYC reaches a target. -/
  | sleep (f : Fields)
  /-- R174: Short form of integer add, wrapping. -/
  | iaddShort (f : Fields)
  /-- R174: Integer add with optional negation and saturation. -/
  | iadd (f : Fields)
  /-- R174: Short form of integer subtract. -/
  | isubShort (f : Fields)
  /-- R174: Integer subtract with optional saturation. -/
  | isub (f : Fields)
  /-- R174: Short form of integer multiply, low bits. -/
  | imulShort (f : Fields)
  /-- R174: Integer multiply with optional saturation. -/
  | imul (f : Fields)
  /-- R174: Short form of the high 32 bits of an integer product. -/
  | imulhShort (f : Fields)
  /-- R174: High 32 bits of an exact integer product. -/
  | imulh (f : Fields)
  /-- R174: Integer multiply-add, formed exactly and then wrapped or clamped once. -/
  | imad (f : Fields)
  /-- R174: Short form of integer minimum. -/
  | iminShort (f : Fields)
  /-- R174: Integer minimum per element. -/
  | imin (f : Fields)
  /-- R174: Short form of integer maximum. -/
  | imaxShort (f : Fields)
  /-- R174: Integer maximum per element. -/
  | imax (f : Fields)
  /-- R174: Short form of integer absolute value. -/
  | iabsShort (f : Fields)
  /-- R174: Integer absolute value, wrapping or saturating. -/
  | iabs (f : Fields)
  /-- R174: Short form of integer negation. -/
  | inegShort (f : Fields)
  /-- R174: Integer negation, wrapping or saturating. -/
  | ineg (f : Fields)
  /-- R175: Adds a scaled index to a 64-bit pointer. -/
  | lea (f : Fields)
  /-- R176: Adds the sum of absolute differences of elements to C, then wraps or clamps once. -/
  | isad (f : Fields)
  /-- R176: Four-element 8-bit dot product added to C, formed exactly. -/
  | dp4 (f : Fields)
  /-- R176: Two-element 16-bit dot product added to C, formed exactly. -/
  | dp2 (f : Fields)
  /-- R177: Integer comparison into a predicate. -/
  | icmp (f : Fields)
  /-- R175: 32-bit add with carry-in, writing the sum and the carry-out as a pair. -/
  | iaddx (f : Fields)
  /-- R179: Short form of bitwise AND. -/
  | andShort (f : Fields)
  /-- R179: Bitwise AND. -/
  | and (f : Fields)
  /-- R179: Short form of bitwise OR. -/
  | orShort (f : Fields)
  /-- R179: Bitwise OR. -/
  | or (f : Fields)
  /-- R179: Short form of bitwise exclusive or. -/
  | xorShort (f : Fields)
  /-- R179: Bitwise exclusive or. -/
  | xor (f : Fields)
  /-- R179: Short form of A AND NOT B. -/
  | andnShort (f : Fields)
  /-- R179: A AND NOT B. -/
  | andn (f : Fields)
  /-- R179: Short form of bitwise NOT. -/
  | notShort (f : Fields)
  /-- R179: Bitwise NOT. -/
  | not (f : Fields)
  /-- R179: Short form of shift left. -/
  | shlShort (f : Fields)
  /-- R179: Shift left per element, with optional wrap of the amount. -/
  | shl (f : Fields)
  /-- R179: Short form of logical shift right. -/
  | shrShort (f : Fields)
  /-- R179: Logical shift right per element. -/
  | shr (f : Fields)
  /-- R179: Short form of arithmetic shift right. -/
  | sarShort (f : Fields)
  /-- R179: Arithmetic shift right per element. -/
  | sar (f : Fields)
  /-- R179: Short form of rotate left. -/
  | rotlShort (f : Fields)
  /-- R179: Rotate left by an amount taken modulo the width. -/
  | rotl (f : Fields)
  /-- R180: Extracts a bit field, zero- or sign-extended. -/
  | bfe (f : Fields)
  /-- R180: Inserts a bit field into B. -/
  | bfi (f : Fields)
  /-- R180: Short form of population count. -/
  | popcShort (f : Fields)
  /-- R180: Counts the 1 bits of A. -/
  | popc (f : Fields)
  /-- R180: Short form of leading-zero count. -/
  | clzShort (f : Fields)
  /-- R180: Counts the leading zeros of A. -/
  | clz (f : Fields)
  /-- R179: Short form of bit reversal. -/
  | brevShort (f : Fields)
  /-- R179: Reverses the order of the bits. -/
  | brev (f : Fields)
  /-- R181: Selects A when C is nonzero, otherwise B. -/
  | sel (f : Fields)
  /-- R181: Short form of move. -/
  | movShort (f : Fields)
  /-- R181: Moves A to D, a C entry, or from a V register to an S register. -/
  | mov (f : Fields)
  /-- R182: Logical operation on predicates. -/
  | plop (f : Fields)
  /-- R182: Writes predicates from a value or a 64-bit mask. -/
  | pmov (f : Fields)
  /-- R112: Takes a vote over the guarded threads into a predicate, a mask or a count. -/
  | vote (f : Fields)
  /-- R113: Copies a special register into D. -/
  | sread (f : Fields)
  /-- R113: Writes a RW special register at the commit of the run. -/
  | swrite (f : Fields)
  /-- R183: Short form of narrowing two values into packed elements. -/
  | packShort (f : Fields)
  /-- R183: Narrows A and B into packed elements, with optional saturation. -/
  | pack (f : Fields)
  /-- R183: Short form of extracting and widening one packed element. -/
  | unpkShort (f : Fields)
  /-- R183: Extracts packed element k and widens it to 32 bits. -/
  | unpk (f : Fields)
  /-- R183: Permutes bytes of A and B under selector nibbles of C. -/
  | prmt (f : Fields)
  /-- R185: Short form of FP32 add with RNE. -/
  | faddShort (f : Fields)
  /-- R185: Floating-point add, rounded once. -/
  | fadd (f : Fields)
  /-- R185: Short form of FP32 subtract. -/
  | fsubShort (f : Fields)
  /-- R185: Floating-point subtract, rounded once. -/
  | fsub (f : Fields)
  /-- R185: Short form of FP32 multiply. -/
  | fmulShort (f : Fields)
  /-- R185: Floating-point multiply, rounded once. -/
  | fmul (f : Fields)
  /-- R185: Fused multiply-add with a single rounding. -/
  | ffma (f : Fields)
  /-- R186: Short form of floating-point minimum. -/
  | fminShort (f : Fields)
  /-- R186: Floating-point minimum; a lone NaN yields the other operand. -/
  | fmin (f : Fields)
  /-- R186: Short form of floating-point maximum. -/
  | fmaxShort (f : Fields)
  /-- R186: Floating-point maximum; a lone NaN yields the other operand. -/
  | fmax (f : Fields)
  /-- R187: Short form of clearing the sign bit. -/
  | fabsShort (f : Fields)
  /-- R187: Clears each element's sign bit. -/
  | fabs (f : Fields)
  /-- R187: Short form of flipping the sign bit. -/
  | fnegShort (f : Fields)
  /-- R187: Flips each element's sign bit. -/
  | fneg (f : Fields)
  /-- R187: Floating-point comparison into a predicate. -/
  | fcmp (f : Fields)
  /-- R187: Sets a predicate when A's class bit is set in B. -/
  | fclass (f : Fields)
  /-- R188: Short form of rounding to an integral value. -/
  | frndShort (f : Fields)
  /-- R188: Rounds each element to an integral value in mode RND. -/
  | frnd (f : Fields)
  /-- R189: Short form of correctly rounded FP32 divide on the divide unit. -/
  | fdivShort (f : Fields)
  /-- R189: Correctly rounded FP32 divide, long-latency. -/
  | fdiv (f : Fields)
  /-- R189: Short form of correctly rounded FP32 square root. -/
  | fsqrtShort (f : Fields)
  /-- R189: Correctly rounded FP32 square root, long-latency. -/
  | fsqrt (f : Fields)
  /-- R185: Short form of scaling by a power of two. -/
  | fsclShort (f : Fields)
  /-- R185: Multiplies by 2^n, rounded once. -/
  | fscl (f : Fields)
  /-- R185: Two-element dot product plus an FP32 C, rounded once into FP32. -/
  | fdot2 (f : Fields)
  /-- R191: Converts elements between numeric types. -/
  | cvt (f : Fields)
  /-- R192: Decodes from or encodes into a format slot. -/
  | cvts (f : Fields)
  /-- R193: Quantises FP32 values into offset-binary or ternary codes through a slot. -/
  | qpk (f : Fields)
  /-- R193: Dequantises offset-binary or ternary codes into FP32 through a slot. -/
  | qupk (f : Fields)
  /-- R197: Short form of table-based reciprocal. -/
  | rcpShort (f : Fields)
  /-- R197: Table-based reciprocal on the special-function pipe. -/
  | rcp (f : Fields)
  /-- R197: Short form of reciprocal square root. -/
  | rsqShort (f : Fields)
  /-- R197: Table-based reciprocal square root. -/
  | rsq (f : Fields)
  /-- R197: Short form of table-based square root. -/
  | sqrtShort (f : Fields)
  /-- R197: Table-based square root. -/
  | sqrt (f : Fields)
  /-- R197: Short form of base-2 exponential. -/
  | exp2Short (f : Fields)
  /-- R197: Table-based base-2 exponential. -/
  | exp2 (f : Fields)
  /-- R197: Short form of base-2 logarithm. -/
  | log2Short (f : Fields)
  /-- R197: Table-based base-2 logarithm. -/
  | log2 (f : Fields)
  /-- R197: Short form of sine. -/
  | sinShort (f : Fields)
  /-- R197: Table-based sine with exact argument reduction. -/
  | sin (f : Fields)
  /-- R197: Short form of cosine. -/
  | cosShort (f : Fields)
  /-- R197: Table-based cosine. -/
  | cos (f : Fields)
  /-- R197: Short form of hyperbolic tangent. -/
  | tanhShort (f : Fields)
  /-- R197: Table-based hyperbolic tangent. -/
  | tanh (f : Fields)
  /-- R197: Short form of logistic sigmoid. -/
  | sigmShort (f : Fields)
  /-- R197: Table-based logistic sigmoid. -/
  | sigm (f : Fields)
  /-- R197: Short form of error function. -/
  | erfShort (f : Fields)
  /-- R197: Table-based error function. -/
  | erf (f : Fields)
  /-- R197: Short form of GELU. -/
  | geluShort (f : Fields)
  /-- R197: Table-based GELU. -/
  | gelu (f : Fields)
  /-- R202: One AdamW step on parameter, moments and gradient, suppressed on NaN or SKIP. -/
  | mupd (f : Fields)
  /-- R205: Sets a predicate when any element is infinite or NaN. -/
  | lsck (f : Fields)
  /-- R206: Steps the column's loss-scale registers by one training step. -/
  | lsupd (f : Fields)
  /-- R208: Fixed-order FP32 sum of squares of the A group. -/
  | gnrm (f : Fields)
  /-- R289: Loads a register group from column memory, optionally as an acquire. -/
  | ld (f : Fields)
  /-- R289: Buffers a store to column memory, released at commit, optionally as a release. -/
  | st (f : Fields)
  /-- R290: Short form of a private-memory load with a register index. -/
  | ldlShort (f : Fields)
  /-- R290: Loads private words of each thread under the private limit. -/
  | ldl (f : Fields)
  /-- R290: Short form of a private-memory store with a register index. -/
  | stlShort (f : Fields)
  /-- R290: Stores private words of each thread under the private limit. -/
  | stl (f : Fields)
  /-- R291: Short form of a constant-bank load. -/
  | ldkShort (f : Fields)
  /-- R291: Loads from the constant bank or the launch record. -/
  | ldk (f : Fields)
  /-- R292: Prefetches a line or sector without faulting. -/
  | pref (f : Fields)
  /-- R293: Writes back, invalidates, zeroes or re-orients an L1 line or cache sector after commit. -/
  | cctl (f : Fields)
  /-- R294: Sets or advances the column phase register CPH at commit. -/
  | phase (f : Fields)
  /-- R295: Full, acquire or release fence at a scope. -/
  | fence (f : Fields)
  /-- R296: Checks and queues a change of the scratchpad way count. -/
  | cpart (f : Fields)
  /-- R298: Irrevocable read-modify-write atomic on column memory, returning the old value. -/
  | atom (f : Fields)
  /-- R298: Atomic compare-and-swap. -/
  | acas (f : Fields)
  /-- R298: Atomic floating-point add. -/
  | afadd (f : Fields)
  /-- R298: Atomic reduction that returns no value. -/
  | red (f : Fields)
  /-- R311: Atomic on a pool window, performed at the window's column. -/
  | patom (f : Fields)
  /-- R305: Exchanges register groups among the warps of an exchange group by a permutation. -/
  | xch (f : Fields)
  /-- R306: Reduces across the exchange group in ascending member order. -/
  | xred (f : Fields)
  /-- R309: Loads from a pool window of the gang. -/
  | pld (f : Fields)
  /-- R309: Buffers a store to a pool window of the gang. -/
  | pst (f : Fields)
  /-- R301: Extracts, builds, resolves or tests column-pointer fields. -/
  | ptrc (f : Fields)
  /-- R312: Moves values between lanes of a segment of the warp. -/
  | shfl (f : Fields)
  /-- R313: Loads a permutation slot's control words from memory. -/
  | bset (f : Fields)
  /-- R314: Routes lane values through the Beneš network set by a slot. -/
  | bperm (f : Fields)
  /-- R315: Butterfly reduction across the threads of one warp. -/
  | redx (f : Fields)
  /-- R321: Queues a copy between columns, writing a handle record at commit. -/
  | cpy (f : Fields)
  /-- R321: Queues a two-dimensional strided copy. -/
  | cpy2 (f : Fields)
  /-- R321: Queues a zero fill of a range. -/
  | cpyz (f : Fields)
  /-- R324: Waits for a copy or bank command of the block, reporting done, a fault or a missed promise. -/
  | cwait (f : Fields)
  /-- R325: Queues a bank-level zero fill of the column's DRAM. -/
  | bzero (f : Fields)
  /-- R325: Queues a bank-level copy within the column's DRAM. -/
  | bcopy (f : Fields)
  /-- R325: Queues a bank-level comparison of two ranges. -/
  | bcmp (f : Fields)
  /-- R326: Orders bank commands and later accesses after earlier bank commands. -/
  | bfence (f : Fields)
  /-- R323: Queues a copy to or from a peer device over Watik links. -/
  | cpyx (f : Fields)
  /-- R228: Queues a matrix multiply-accumulate into a tile. -/
  | mma (f : Fields)
  /-- R228: Queues a ternary-by-integer matrix accumulate into a tile. -/
  | mmat (f : Fields)
  /-- R229: Queues the clearing of a tile. -/
  | mzero (f : Fields)
  /-- R230: Queues the load of a whole tile through a slot. -/
  | mldz (f : Fields)
  /-- R231: Queues the store of a whole tile through a slot. -/
  | mst (f : Fields)
  /-- R232: Closes the warp's open batch of matrix commands and numbers it. -/
  | mfence (f : Fields)
  /-- R233: Waits for closed batches of matrix commands and reports their faults. -/
  | mwait (f : Fields)
  /-- R234: Reads a tile's state into an S quad. -/
  | mstat (f : Fields)
  /-- R346: Queues the opening of a merge round at the issuing column's station. -/
  | mrgOpen (f : Fields)
  /-- R346: Queues the staging of tiles of a contributor. -/
  | mrgPut (f : Fields)
  /-- R334: Queues the boundary marker that closes a contributor. -/
  | mrgEnd (f : Fields)
  /-- R347: Waits for the warp's merge commands and the round's completion, reporting refusals. -/
  | mrgWait (f : Fields)
  /-- R348: Reads a round's state or counts, or the station's free landing. -/
  | mrgStat (f : Fields)
  /-- R341: Sets the send rank of a round reference in the column's rank table. -/
  | mrgRank (f : Fields)
  /-- R339: Queues the dropping of a round. -/
  | mrgDrop (f : Fields)
  /-- R115: Arrives at a block barrier and waits for its completion. -/
  | bar (f : Fields)
  /-- R115: Arrives at a gang barrier and waits for its completion. -/
  | gbar (f : Fields)
  /-- R118: Queues an arrival on a barrier object in a pool window. -/
  | arrv (f : Fields)
  /-- R119: Waits until a barrier object's phase differs from a given value. -/
  | waitb (f : Fields)
  /-- R121: Creates a child grid from a launch record at commit. -/
  | launch (f : Fields)
  /-- R122: Pushes onto, drains or clears the context's wake stack at commit. -/
  | tape (f : Fields)
  /-- R123: Waits for a grid to retire and returns its status. -/
  | gwait (f : Fields)
  /-- R124: Commits its run and enters the handler with a software cause. -/
  | trap (f : Fields)
  /-- R126: Returns from the handler to RPC, restoring the saved warp state. -/
  | tret (f : Fields)
  /-- R128: Reads and clears CIR, or kills and relaunches a restartable gang that consumed poison. -/
  | chkerr (f : Fields)
  /-- R129: Reads a meter of the issuing column for the context. -/
  | rdctr (f : Fields)
  /-- R111: Short form of the breakpoint trap. -/
  | bkptShort (f : Fields)
  /-- R111: Raises the breakpoint trap, skipped once after TRET with BSKIP. -/
  | bkpt (f : Fields)
  /-- R130: Reads a system register. -/
  | sysr (f : Fields)
  /-- R130: Writes a system register at commit. -/
  | sysw (f : Fields)
  /-- R59: A fetched instruction whose OP is unassigned raises the illegal-instruction trap in every mode and form, even when fetched without effect. -/
  | unassignedOpcode (w : Word)
  /-- R79: Once every instruction of a run has passed its checks, makes its writes architectural, releases stores, sends commands and performs its irrevocable instruction. -/
  | runCommit (w : Nat)
  /-- R100: Writes the arriving result of a long-latency instruction and closes its lookahead window. -/
  | longLatencyArrival (w n : Nat)
  /-- R78: The slot's monopoly count reaches the applicable watchdog limit. -/
  | watchdogLimit (col core slot : Nat)
  /-- R109: A sleeping warp becomes ready when CYC reaches its target. -/
  | sleepEnd (w : Nat)
  /-- R303: An exchange instance completes when all members stand arrived, and results are delivered. -/
  | exchangeComplete (w : Nat)
  /-- R304: An arrival that has stood 2^20 clk withdraws and takes the exchange-timeout trap. -/
  | exchangeTimeout (w : Nat)
  /-- R118: Performs an arrival atomically at a barrier object, advancing its phase and waking waiters. -/
  | barrierObjectArrive (n : Nat)
  /-- R324: A waited copy's promise passes and CWAIT raises the missed-promise trap. -/
  | copyPromiseExpire (w : Nat)
  /-- R321: The copy engine performs a copy command chunk by chunk, with release and arrival. -/
  | copyPerform (col : Nat)
  /-- R325: The bank logic performs a zero, copy or compare command in 1 KiB units. -/
  | bankCommandPerform (col n : Nat)
  /-- R228: The matrix engine performs an MMA or MMAT chunk by chunk on a tile. -/
  | mmaPerform (col core : Nat)
  /-- R229: The engine clears a tile and its state. -/
  | mzeroPerform (col core : Nat)
  /-- R230: The engine loads a tile line by line. -/
  | mldzPerform (col core : Nat)
  /-- R231: The engine encodes and writes a tile line by line. -/
  | mstPerform (col core : Nat)
  /-- R346: The station takes a slot, reserves landing and reads the total. -/
  | roundOpen (n : Nat)
  /-- R333: The station stages tiles of a PUT into the landing. -/
  | stageTiles (n : Nat)
  /-- R335: At an END, the station measures the group and sets its scale or rejects it. -/
  | measureContributor (n : Nat)
  /-- R336: The head contributor commits or is rejected when ready, adding into the total. -/
  | contributorCommit (col asid round : Nat)
  /-- R339: Ends a round at once, discarding staged contributions. -/
  | roundDrop (n : Nat)
  /-- R341: The outbound merge queue sends the next tile or marker by rank, resending returned tiles. -/
  | mergeTileSend (col : Nat)
  /-- R337: A station receives a gang's retirement or kill and releases or unbinds its held contributors. -/
  | mergeGangNotice (col gang : Nat)
  /-- R353: Performs a scratchpad way change once earlier accesses are performed. -/
  | partitionChange (col : Nat)
  /-- R136: The scheduler accepts the next record of a host queue, assigns its handle and chooses its bucket. -/
  | hostRecordAccept (q : Nat)
  /-- R74: A block retires once its warps have retired and its matrix commands are done, retiring gang and grid in turn. -/
  | blockRetire (b : Nat)
  /-- R149: Halts every core of the target gangs and saves their context. -/
  | preemptionRequest (gang : Nat)
  /-- R140: A pre-empted gang is restored on its columns. -/
  | gangResume (gang : Nat)
  /-- R98: Writes a victim warp to its save area at its next run boundary. -/
  | swapOut (w : Nat)
  /-- R98: A swapped-out warp returns once its registers fit in the pool. -/
  | swapIn (w : Nat)
  /-- R397: Relaunches a killed restartable gang from its retained record. -/
  | gangRelaunch (gang : Nat)
  /-- R405: Declares a column failed after missing heartbeats or a fault, halts its warps and logs it. -/
  | columnFailure (col kind : Nat)
  /-- R252: Dirty host bytes are written back within 2^16 clk of the storing run's commit. -/
  | hostWritebackTimeout (col : Nat)
  /-- R381: A boot stage ends and BOOTST advances, or enters the recovery state. -/
  | bootStageEnd (ok : Bool)
  /-- R135: Enables or disables a host launch queue, resetting its indices. -/
  | qctlWrite (q : Nat) (v : Word)
  /-- R136: Doorbell write announcing new records in a host queue. -/
  | qtailWrite (q : Nat) (v : Word)
  /-- R360: Sets the device watchdog limit, taking 0 as 1. -/
  | wdogdWrite (v : Word)
  /-- R5: Host write to a register with no behaviour of its own, by its access code. -/
  | registerWrite (addr : Nat) (v : Addr)
  /-- R382: Reads an image from host memory into the staging store. -/
  | stage (image : Nat)
  /-- R372: Translates and performs a host access through an aperture of a context. -/
  | hostApertureAccess (ap off : Nat) (write : Bool) (data : List Byte)
  /-- R372: Performs a host access to physical DRAM under key slot 0. -/
  | tableApertureAccess (off : Nat) (write : Bool) (data : List Byte)
  /-- R323: A peer's copy chunk or merge transfer arrives and is checked against the pairing. -/
  | watikReceive (n : Nat)
  /-- R286: At the end of a window, the rebalancer may move one bucket to the least busy slice. -/
  | rebalanceWindowEnd (col : Nat)
  /-- R399: Periodic read and correction of every line of a column's pseudo-channels. -/
  | patrolScrub (col line : Nat)
  /-- R400: Retries a transfer with a parity error 16 clk later. -/
  | transferRetry (col : Nat)
  /-- R400: After four failed attempts, a lane test names the lane, then swaps a spare or poisons the line. -/
  | laneTest (col lane : Nat)
  /-- R403: A vertical bus that falls due is realigned, deferred past a transfer in flight. -/
  | retraining (col bus : Nat)
  /-- R404: A head packet blocked for 4,096 clk moves its flow to the escape channel. -/
  | flowEscape (flow : Nat)
  /-- R222: The supply monitor raises MXTHR when the draw passes 4,700 W. -/
  | throttleRaise (tower draw : Nat)
  /-- R222: Lowers MXTHR one step per 2^16 clk of draw below 4,600 W. -/
  | throttleLower (tower draw : Nat)
  /-- R383: At 100 °C, raises MXTHR in the tower and signals THERM. -/
  | thermalThrottle (tower : Nat)
  /-- R360: Makes an ASID live with reset state. -/
  | create (asid : Nat)
  /-- R360: Ends a context, erasing its keys and closing its meters. -/
  | destroy (asid : Nat)
  /-- R362: Sets one column-map entry and drops translations reached through it. -/
  | mapcol (asid : Nat)
  /-- R363: Sets a physical or logical page-table root. -/
  | setroot (asid : Nat)
  /-- R366: Invalidates translations and L1 lines of a range. -/
  | inval (asid : Nat)
  /-- R369: Binds a key slot to an ASID and loads or generates its key. -/
  | keyload (asid : Nat)
  /-- R284: Writes one eviction-schedule entry. -/
  | setsched (asid : Nat)
  /-- R373: Writes one Watik pairing entry. -/
  | pair (asid : Nat)
  /-- R361: Places the context's save area on a column. -/
  | savearea (asid : Nat)
  /-- R147: Sets the context's private region on a column. -/
  | privarea (asid : Nat)
  /-- R377: Returns meter samples of a context on up to 16 columns. -/
  | readMeters (asid col n : Nat)
  /-- R377: Returns and frees a closed meter block. -/
  | collect (asid : Nat)
  /-- R377: Writes a tower's octant budget. -/
  | setBudget (tower v : Nat)
  /-- R377: Writes a tower's throttle level. -/
  | setThrottle (tower v : Nat)
  /-- R377: Returns error-log entries. -/
  | readLog (col first n : Nat)
  /-- R380: Answers an attestation request with dual-signed measurements. -/
  | spdmRequest (nonce : Nat)
  /-- R404: A flit that fails its CRC on a link is retried at link level, changing only rate. -/
  | linkLevelRetry (link : Nat)
  /-- R373: A Watik port trains and the two ends agree the AES-GCM-256 keys for its flits. -/
  | watikLinkTraining (port : Nat)
  /-- R371: The host's CXL.cache coherence request for a host line the device holds, which the device answers by invalidating or writing back its copy. -/
  | cxlCacheSnoop (line : Nat) (invalidate : Bool)
  /-- R137: A LAUNCH or drained grid waiting in the command queue enters the pending set when it has room. -/
  | commandGridAccept
  /-- R143: The scheduler places a gang of a ready grid on admissible columns and cores. -/
  | gangPlace
  /-- R383: At 115 °C, halts every column and logs the event. -/
  | thermalHalt
  /-- R378: Resets the device, which then verifies its record and firmware and boots. -/
  | coldReset
  /-- R382: Checks the signatures of staged images. -/
  | verify
  /-- R382: Writes verified staged images to the boot flash. -/
  | commit
  /-- R382: Firmware-mailbox command that performs a cold reset. -/
  | reset
  /-- R382: Drops every staged image. -/
  | discard
  /-- R377: Returns live ASIDs and uncollected meter blocks. -/
  | getContexts
  /-- R377: Returns the boot stage. -/
  | bootStatus
  /-- R382: Loss of supply, including during a firmware COMMIT, after which the previous flash image stays bootable. -/
  | powerLoss
  deriving DecidableEq, Repr

end Sys2Proof
end

