-- ==== Sys2Proof/Machine/Opcodes.lean ====
section
/-! DEFINITION. The primary opcodes (R59): their codes, and how an opcode with its fields is written as an
instruction. -/

namespace Sys2Proof

/-- The 149 assigned primary opcodes (R59). -/
inductive Opcode where
  | nop | ifBlock | elseBlock | endif | loop | endloop | brk | cont | exit | jmp
  | call | ret | yield | sleep | iadd | isub | imul | imulh | imad | imin
  | imax | iabs | ineg | lea | isad | dp4 | dp2 | icmp | iaddx | and
  | or | xor | andn | not | shl | shr | sar | rotl | bfe | bfi
  | popc | clz | brev | sel | mov | plop | pmov | vote | sread | swrite
  | pack | unpk | prmt | fadd | fsub | fmul | ffma | fmin | fmax | fabs
  | fneg | fcmp | fclass | frnd | fdiv | fsqrt | fscl | fdot2 | cvt | cvts
  | qpk | qupk | rcp | rsq | sqrt | exp2 | log2 | sin | cos | tanh
  | sigm | erf | gelu | mupd | lsck | lsupd | gnrm | ld | st | ldl
  | stl | ldk | pref | cctl | phase | fence | cpart | atom | acas | afadd
  | red | patom | xch | xred | pld | pst | ptrc | shfl | bset | bperm
  | redx | cpy | cpy2 | cpyz | cwait | bzero | bcopy | bcmp | bfence | cpyx
  | mma | mmat | mzero | mldz | mst | mfence | mwait | mstat | mrgOpen | mrgPut
  | mrgEnd | mrgWait | mrgStat | mrgRank | mrgDrop | bar | gbar | arrv | waitb | launch
  | tape | gwait | trap | tret | chkerr | rdctr | bkpt | sysr | sysw
  deriving DecidableEq, Repr

/-- The code of an opcode in bits 11:4 of the first word (R59). -/
def Opcode.code : Opcode → BitVec 8
  | .nop => 0x00
  | .ifBlock => 0x01
  | .elseBlock => 0x02
  | .endif => 0x03
  | .loop => 0x04
  | .endloop => 0x05
  | .brk => 0x06
  | .cont => 0x07
  | .exit => 0x08
  | .jmp => 0x09
  | .call => 0x0A
  | .ret => 0x0B
  | .yield => 0x0C
  | .sleep => 0x0D
  | .iadd => 0x10
  | .isub => 0x11
  | .imul => 0x12
  | .imulh => 0x13
  | .imad => 0x14
  | .imin => 0x15
  | .imax => 0x16
  | .iabs => 0x17
  | .ineg => 0x18
  | .lea => 0x19
  | .isad => 0x1A
  | .dp4 => 0x1B
  | .dp2 => 0x1C
  | .icmp => 0x1D
  | .iaddx => 0x1E
  | .and => 0x20
  | .or => 0x21
  | .xor => 0x22
  | .andn => 0x23
  | .not => 0x24
  | .shl => 0x25
  | .shr => 0x26
  | .sar => 0x27
  | .rotl => 0x28
  | .bfe => 0x29
  | .bfi => 0x2A
  | .popc => 0x2B
  | .clz => 0x2C
  | .brev => 0x2D
  | .sel => 0x2E
  | .mov => 0x2F
  | .plop => 0x30
  | .pmov => 0x31
  | .vote => 0x32
  | .sread => 0x33
  | .swrite => 0x34
  | .pack => 0x35
  | .unpk => 0x36
  | .prmt => 0x37
  | .fadd => 0x40
  | .fsub => 0x41
  | .fmul => 0x42
  | .ffma => 0x43
  | .fmin => 0x44
  | .fmax => 0x45
  | .fabs => 0x46
  | .fneg => 0x47
  | .fcmp => 0x48
  | .fclass => 0x49
  | .frnd => 0x4A
  | .fdiv => 0x4B
  | .fsqrt => 0x4C
  | .fscl => 0x4D
  | .fdot2 => 0x4E
  | .cvt => 0x50
  | .cvts => 0x51
  | .qpk => 0x52
  | .qupk => 0x53
  | .rcp => 0x60
  | .rsq => 0x61
  | .sqrt => 0x62
  | .exp2 => 0x63
  | .log2 => 0x64
  | .sin => 0x65
  | .cos => 0x66
  | .tanh => 0x67
  | .sigm => 0x68
  | .erf => 0x69
  | .gelu => 0x6A
  | .mupd => 0x70
  | .lsck => 0x71
  | .lsupd => 0x72
  | .gnrm => 0x73
  | .ld => 0x80
  | .st => 0x81
  | .ldl => 0x82
  | .stl => 0x83
  | .ldk => 0x84
  | .pref => 0x85
  | .cctl => 0x86
  | .phase => 0x87
  | .fence => 0x88
  | .cpart => 0x89
  | .atom => 0x90
  | .acas => 0x91
  | .afadd => 0x92
  | .red => 0x93
  | .patom => 0x94
  | .xch => 0xA0
  | .xred => 0xA1
  | .pld => 0xA2
  | .pst => 0xA3
  | .ptrc => 0xA4
  | .shfl => 0xA5
  | .bset => 0xA6
  | .bperm => 0xA7
  | .redx => 0xA8
  | .cpy => 0xB0
  | .cpy2 => 0xB1
  | .cpyz => 0xB2
  | .cwait => 0xB3
  | .bzero => 0xB4
  | .bcopy => 0xB5
  | .bcmp => 0xB6
  | .bfence => 0xB7
  | .cpyx => 0xB8
  | .mma => 0xC0
  | .mmat => 0xC1
  | .mzero => 0xC2
  | .mldz => 0xC3
  | .mst => 0xC4
  | .mfence => 0xC5
  | .mwait => 0xC6
  | .mstat => 0xC7
  | .mrgOpen => 0xD0
  | .mrgPut => 0xD1
  | .mrgEnd => 0xD2
  | .mrgWait => 0xD3
  | .mrgStat => 0xD4
  | .mrgRank => 0xD5
  | .mrgDrop => 0xD6
  | .bar => 0xE0
  | .gbar => 0xE1
  | .arrv => 0xE2
  | .waitb => 0xE3
  | .launch => 0xE4
  | .tape => 0xE5
  | .gwait => 0xE6
  | .trap => 0xF0
  | .tret => 0xF1
  | .chkerr => 0xF2
  | .rdctr => 0xF3
  | .bkpt => 0xF4
  | .sysr => 0xF5
  | .sysw => 0xF6

/-- The opcode of a code; an unassigned cell of R59 gives none. -/
def Opcode.ofCode (c : BitVec 8) : Option Opcode :=
  match c.toNat with
  | 0x00 => some .nop
  | 0x01 => some .ifBlock
  | 0x02 => some .elseBlock
  | 0x03 => some .endif
  | 0x04 => some .loop
  | 0x05 => some .endloop
  | 0x06 => some .brk
  | 0x07 => some .cont
  | 0x08 => some .exit
  | 0x09 => some .jmp
  | 0x0A => some .call
  | 0x0B => some .ret
  | 0x0C => some .yield
  | 0x0D => some .sleep
  | 0x10 => some .iadd
  | 0x11 => some .isub
  | 0x12 => some .imul
  | 0x13 => some .imulh
  | 0x14 => some .imad
  | 0x15 => some .imin
  | 0x16 => some .imax
  | 0x17 => some .iabs
  | 0x18 => some .ineg
  | 0x19 => some .lea
  | 0x1A => some .isad
  | 0x1B => some .dp4
  | 0x1C => some .dp2
  | 0x1D => some .icmp
  | 0x1E => some .iaddx
  | 0x20 => some .and
  | 0x21 => some .or
  | 0x22 => some .xor
  | 0x23 => some .andn
  | 0x24 => some .not
  | 0x25 => some .shl
  | 0x26 => some .shr
  | 0x27 => some .sar
  | 0x28 => some .rotl
  | 0x29 => some .bfe
  | 0x2A => some .bfi
  | 0x2B => some .popc
  | 0x2C => some .clz
  | 0x2D => some .brev
  | 0x2E => some .sel
  | 0x2F => some .mov
  | 0x30 => some .plop
  | 0x31 => some .pmov
  | 0x32 => some .vote
  | 0x33 => some .sread
  | 0x34 => some .swrite
  | 0x35 => some .pack
  | 0x36 => some .unpk
  | 0x37 => some .prmt
  | 0x40 => some .fadd
  | 0x41 => some .fsub
  | 0x42 => some .fmul
  | 0x43 => some .ffma
  | 0x44 => some .fmin
  | 0x45 => some .fmax
  | 0x46 => some .fabs
  | 0x47 => some .fneg
  | 0x48 => some .fcmp
  | 0x49 => some .fclass
  | 0x4A => some .frnd
  | 0x4B => some .fdiv
  | 0x4C => some .fsqrt
  | 0x4D => some .fscl
  | 0x4E => some .fdot2
  | 0x50 => some .cvt
  | 0x51 => some .cvts
  | 0x52 => some .qpk
  | 0x53 => some .qupk
  | 0x60 => some .rcp
  | 0x61 => some .rsq
  | 0x62 => some .sqrt
  | 0x63 => some .exp2
  | 0x64 => some .log2
  | 0x65 => some .sin
  | 0x66 => some .cos
  | 0x67 => some .tanh
  | 0x68 => some .sigm
  | 0x69 => some .erf
  | 0x6A => some .gelu
  | 0x70 => some .mupd
  | 0x71 => some .lsck
  | 0x72 => some .lsupd
  | 0x73 => some .gnrm
  | 0x80 => some .ld
  | 0x81 => some .st
  | 0x82 => some .ldl
  | 0x83 => some .stl
  | 0x84 => some .ldk
  | 0x85 => some .pref
  | 0x86 => some .cctl
  | 0x87 => some .phase
  | 0x88 => some .fence
  | 0x89 => some .cpart
  | 0x90 => some .atom
  | 0x91 => some .acas
  | 0x92 => some .afadd
  | 0x93 => some .red
  | 0x94 => some .patom
  | 0xA0 => some .xch
  | 0xA1 => some .xred
  | 0xA2 => some .pld
  | 0xA3 => some .pst
  | 0xA4 => some .ptrc
  | 0xA5 => some .shfl
  | 0xA6 => some .bset
  | 0xA7 => some .bperm
  | 0xA8 => some .redx
  | 0xB0 => some .cpy
  | 0xB1 => some .cpy2
  | 0xB2 => some .cpyz
  | 0xB3 => some .cwait
  | 0xB4 => some .bzero
  | 0xB5 => some .bcopy
  | 0xB6 => some .bcmp
  | 0xB7 => some .bfence
  | 0xB8 => some .cpyx
  | 0xC0 => some .mma
  | 0xC1 => some .mmat
  | 0xC2 => some .mzero
  | 0xC3 => some .mldz
  | 0xC4 => some .mst
  | 0xC5 => some .mfence
  | 0xC6 => some .mwait
  | 0xC7 => some .mstat
  | 0xD0 => some .mrgOpen
  | 0xD1 => some .mrgPut
  | 0xD2 => some .mrgEnd
  | 0xD3 => some .mrgWait
  | 0xD4 => some .mrgStat
  | 0xD5 => some .mrgRank
  | 0xD6 => some .mrgDrop
  | 0xE0 => some .bar
  | 0xE1 => some .gbar
  | 0xE2 => some .arrv
  | 0xE3 => some .waitb
  | 0xE4 => some .launch
  | 0xE5 => some .tape
  | 0xE6 => some .gwait
  | 0xF0 => some .trap
  | 0xF1 => some .tret
  | 0xF2 => some .chkerr
  | 0xF3 => some .rdctr
  | 0xF4 => some .bkpt
  | 0xF5 => some .sysr
  | 0xF6 => some .sysw
  | _ => none

/-- The instruction an opcode and its fields stand for: the short row where the table has one and the form is short. -/
def Opcode.instr (op : Opcode) (f : Fields) : Instr :=
  match op, f.form with
  | .nop, .short => .nopShort f
  | .nop, _ => .nop f
  | .ifBlock, _ => .ifBlock f
  | .elseBlock, _ => .elseBlock f
  | .endif, .short => .endifShort f
  | .endif, _ => .endif f
  | .loop, .short => .loopShort f
  | .loop, _ => .loop f
  | .endloop, _ => .endloop f
  | .brk, _ => .brk f
  | .cont, _ => .cont f
  | .exit, .short => .exitShort f
  | .exit, _ => .exit f
  | .jmp, _ => .jmp f
  | .call, _ => .call f
  | .ret, _ => .ret f
  | .yield, .short => .yieldShort f
  | .yield, _ => .yield f
  | .sleep, _ => .sleep f
  | .iadd, .short => .iaddShort f
  | .iadd, _ => .iadd f
  | .isub, .short => .isubShort f
  | .isub, _ => .isub f
  | .imul, .short => .imulShort f
  | .imul, _ => .imul f
  | .imulh, .short => .imulhShort f
  | .imulh, _ => .imulh f
  | .imad, _ => .imad f
  | .imin, .short => .iminShort f
  | .imin, _ => .imin f
  | .imax, .short => .imaxShort f
  | .imax, _ => .imax f
  | .iabs, .short => .iabsShort f
  | .iabs, _ => .iabs f
  | .ineg, .short => .inegShort f
  | .ineg, _ => .ineg f
  | .lea, _ => .lea f
  | .isad, _ => .isad f
  | .dp4, _ => .dp4 f
  | .dp2, _ => .dp2 f
  | .icmp, _ => .icmp f
  | .iaddx, _ => .iaddx f
  | .and, .short => .andShort f
  | .and, _ => .and f
  | .or, .short => .orShort f
  | .or, _ => .or f
  | .xor, .short => .xorShort f
  | .xor, _ => .xor f
  | .andn, .short => .andnShort f
  | .andn, _ => .andn f
  | .not, .short => .notShort f
  | .not, _ => .not f
  | .shl, .short => .shlShort f
  | .shl, _ => .shl f
  | .shr, .short => .shrShort f
  | .shr, _ => .shr f
  | .sar, .short => .sarShort f
  | .sar, _ => .sar f
  | .rotl, .short => .rotlShort f
  | .rotl, _ => .rotl f
  | .bfe, _ => .bfe f
  | .bfi, _ => .bfi f
  | .popc, .short => .popcShort f
  | .popc, _ => .popc f
  | .clz, .short => .clzShort f
  | .clz, _ => .clz f
  | .brev, .short => .brevShort f
  | .brev, _ => .brev f
  | .sel, _ => .sel f
  | .mov, .short => .movShort f
  | .mov, _ => .mov f
  | .plop, _ => .plop f
  | .pmov, _ => .pmov f
  | .vote, _ => .vote f
  | .sread, _ => .sread f
  | .swrite, _ => .swrite f
  | .pack, .short => .packShort f
  | .pack, _ => .pack f
  | .unpk, .short => .unpkShort f
  | .unpk, _ => .unpk f
  | .prmt, _ => .prmt f
  | .fadd, .short => .faddShort f
  | .fadd, _ => .fadd f
  | .fsub, .short => .fsubShort f
  | .fsub, _ => .fsub f
  | .fmul, .short => .fmulShort f
  | .fmul, _ => .fmul f
  | .ffma, _ => .ffma f
  | .fmin, .short => .fminShort f
  | .fmin, _ => .fmin f
  | .fmax, .short => .fmaxShort f
  | .fmax, _ => .fmax f
  | .fabs, .short => .fabsShort f
  | .fabs, _ => .fabs f
  | .fneg, .short => .fnegShort f
  | .fneg, _ => .fneg f
  | .fcmp, _ => .fcmp f
  | .fclass, _ => .fclass f
  | .frnd, .short => .frndShort f
  | .frnd, _ => .frnd f
  | .fdiv, .short => .fdivShort f
  | .fdiv, _ => .fdiv f
  | .fsqrt, .short => .fsqrtShort f
  | .fsqrt, _ => .fsqrt f
  | .fscl, .short => .fsclShort f
  | .fscl, _ => .fscl f
  | .fdot2, _ => .fdot2 f
  | .cvt, _ => .cvt f
  | .cvts, _ => .cvts f
  | .qpk, _ => .qpk f
  | .qupk, _ => .qupk f
  | .rcp, .short => .rcpShort f
  | .rcp, _ => .rcp f
  | .rsq, .short => .rsqShort f
  | .rsq, _ => .rsq f
  | .sqrt, .short => .sqrtShort f
  | .sqrt, _ => .sqrt f
  | .exp2, .short => .exp2Short f
  | .exp2, _ => .exp2 f
  | .log2, .short => .log2Short f
  | .log2, _ => .log2 f
  | .sin, .short => .sinShort f
  | .sin, _ => .sin f
  | .cos, .short => .cosShort f
  | .cos, _ => .cos f
  | .tanh, .short => .tanhShort f
  | .tanh, _ => .tanh f
  | .sigm, .short => .sigmShort f
  | .sigm, _ => .sigm f
  | .erf, .short => .erfShort f
  | .erf, _ => .erf f
  | .gelu, .short => .geluShort f
  | .gelu, _ => .gelu f
  | .mupd, _ => .mupd f
  | .lsck, _ => .lsck f
  | .lsupd, _ => .lsupd f
  | .gnrm, _ => .gnrm f
  | .ld, _ => .ld f
  | .st, _ => .st f
  | .ldl, .short => .ldlShort f
  | .ldl, _ => .ldl f
  | .stl, .short => .stlShort f
  | .stl, _ => .stl f
  | .ldk, .short => .ldkShort f
  | .ldk, _ => .ldk f
  | .pref, _ => .pref f
  | .cctl, _ => .cctl f
  | .phase, _ => .phase f
  | .fence, _ => .fence f
  | .cpart, _ => .cpart f
  | .atom, _ => .atom f
  | .acas, _ => .acas f
  | .afadd, _ => .afadd f
  | .red, _ => .red f
  | .patom, _ => .patom f
  | .xch, _ => .xch f
  | .xred, _ => .xred f
  | .pld, _ => .pld f
  | .pst, _ => .pst f
  | .ptrc, _ => .ptrc f
  | .shfl, _ => .shfl f
  | .bset, _ => .bset f
  | .bperm, _ => .bperm f
  | .redx, _ => .redx f
  | .cpy, _ => .cpy f
  | .cpy2, _ => .cpy2 f
  | .cpyz, _ => .cpyz f
  | .cwait, _ => .cwait f
  | .bzero, _ => .bzero f
  | .bcopy, _ => .bcopy f
  | .bcmp, _ => .bcmp f
  | .bfence, _ => .bfence f
  | .cpyx, _ => .cpyx f
  | .mma, _ => .mma f
  | .mmat, _ => .mmat f
  | .mzero, _ => .mzero f
  | .mldz, _ => .mldz f
  | .mst, _ => .mst f
  | .mfence, _ => .mfence f
  | .mwait, _ => .mwait f
  | .mstat, _ => .mstat f
  | .mrgOpen, _ => .mrgOpen f
  | .mrgPut, _ => .mrgPut f
  | .mrgEnd, _ => .mrgEnd f
  | .mrgWait, _ => .mrgWait f
  | .mrgStat, _ => .mrgStat f
  | .mrgRank, _ => .mrgRank f
  | .mrgDrop, _ => .mrgDrop f
  | .bar, _ => .bar f
  | .gbar, _ => .gbar f
  | .arrv, _ => .arrv f
  | .waitb, _ => .waitb f
  | .launch, _ => .launch f
  | .tape, _ => .tape f
  | .gwait, _ => .gwait f
  | .trap, _ => .trap f
  | .tret, _ => .tret f
  | .chkerr, _ => .chkerr f
  | .rdctr, _ => .rdctr f
  | .bkpt, .short => .bkptShort f
  | .bkpt, _ => .bkpt f
  | .sysr, _ => .sysr f
  | .sysw, _ => .sysw f

/-- The opcode and the fields of an encoded instruction; an event has none. -/
def Instr.encoded : Instr → Option (Opcode × Fields)
  | .nopShort f => some (.nop, f)
  | .nop f => some (.nop, f)
  | .ifBlock f => some (.ifBlock, f)
  | .elseBlock f => some (.elseBlock, f)
  | .endifShort f => some (.endif, f)
  | .endif f => some (.endif, f)
  | .loopShort f => some (.loop, f)
  | .loop f => some (.loop, f)
  | .endloop f => some (.endloop, f)
  | .brk f => some (.brk, f)
  | .cont f => some (.cont, f)
  | .exitShort f => some (.exit, f)
  | .exit f => some (.exit, f)
  | .jmp f => some (.jmp, f)
  | .call f => some (.call, f)
  | .ret f => some (.ret, f)
  | .yieldShort f => some (.yield, f)
  | .yield f => some (.yield, f)
  | .sleep f => some (.sleep, f)
  | .iaddShort f => some (.iadd, f)
  | .iadd f => some (.iadd, f)
  | .isubShort f => some (.isub, f)
  | .isub f => some (.isub, f)
  | .imulShort f => some (.imul, f)
  | .imul f => some (.imul, f)
  | .imulhShort f => some (.imulh, f)
  | .imulh f => some (.imulh, f)
  | .imad f => some (.imad, f)
  | .iminShort f => some (.imin, f)
  | .imin f => some (.imin, f)
  | .imaxShort f => some (.imax, f)
  | .imax f => some (.imax, f)
  | .iabsShort f => some (.iabs, f)
  | .iabs f => some (.iabs, f)
  | .inegShort f => some (.ineg, f)
  | .ineg f => some (.ineg, f)
  | .lea f => some (.lea, f)
  | .isad f => some (.isad, f)
  | .dp4 f => some (.dp4, f)
  | .dp2 f => some (.dp2, f)
  | .icmp f => some (.icmp, f)
  | .iaddx f => some (.iaddx, f)
  | .andShort f => some (.and, f)
  | .and f => some (.and, f)
  | .orShort f => some (.or, f)
  | .or f => some (.or, f)
  | .xorShort f => some (.xor, f)
  | .xor f => some (.xor, f)
  | .andnShort f => some (.andn, f)
  | .andn f => some (.andn, f)
  | .notShort f => some (.not, f)
  | .not f => some (.not, f)
  | .shlShort f => some (.shl, f)
  | .shl f => some (.shl, f)
  | .shrShort f => some (.shr, f)
  | .shr f => some (.shr, f)
  | .sarShort f => some (.sar, f)
  | .sar f => some (.sar, f)
  | .rotlShort f => some (.rotl, f)
  | .rotl f => some (.rotl, f)
  | .bfe f => some (.bfe, f)
  | .bfi f => some (.bfi, f)
  | .popcShort f => some (.popc, f)
  | .popc f => some (.popc, f)
  | .clzShort f => some (.clz, f)
  | .clz f => some (.clz, f)
  | .brevShort f => some (.brev, f)
  | .brev f => some (.brev, f)
  | .sel f => some (.sel, f)
  | .movShort f => some (.mov, f)
  | .mov f => some (.mov, f)
  | .plop f => some (.plop, f)
  | .pmov f => some (.pmov, f)
  | .vote f => some (.vote, f)
  | .sread f => some (.sread, f)
  | .swrite f => some (.swrite, f)
  | .packShort f => some (.pack, f)
  | .pack f => some (.pack, f)
  | .unpkShort f => some (.unpk, f)
  | .unpk f => some (.unpk, f)
  | .prmt f => some (.prmt, f)
  | .faddShort f => some (.fadd, f)
  | .fadd f => some (.fadd, f)
  | .fsubShort f => some (.fsub, f)
  | .fsub f => some (.fsub, f)
  | .fmulShort f => some (.fmul, f)
  | .fmul f => some (.fmul, f)
  | .ffma f => some (.ffma, f)
  | .fminShort f => some (.fmin, f)
  | .fmin f => some (.fmin, f)
  | .fmaxShort f => some (.fmax, f)
  | .fmax f => some (.fmax, f)
  | .fabsShort f => some (.fabs, f)
  | .fabs f => some (.fabs, f)
  | .fnegShort f => some (.fneg, f)
  | .fneg f => some (.fneg, f)
  | .fcmp f => some (.fcmp, f)
  | .fclass f => some (.fclass, f)
  | .frndShort f => some (.frnd, f)
  | .frnd f => some (.frnd, f)
  | .fdivShort f => some (.fdiv, f)
  | .fdiv f => some (.fdiv, f)
  | .fsqrtShort f => some (.fsqrt, f)
  | .fsqrt f => some (.fsqrt, f)
  | .fsclShort f => some (.fscl, f)
  | .fscl f => some (.fscl, f)
  | .fdot2 f => some (.fdot2, f)
  | .cvt f => some (.cvt, f)
  | .cvts f => some (.cvts, f)
  | .qpk f => some (.qpk, f)
  | .qupk f => some (.qupk, f)
  | .rcpShort f => some (.rcp, f)
  | .rcp f => some (.rcp, f)
  | .rsqShort f => some (.rsq, f)
  | .rsq f => some (.rsq, f)
  | .sqrtShort f => some (.sqrt, f)
  | .sqrt f => some (.sqrt, f)
  | .exp2Short f => some (.exp2, f)
  | .exp2 f => some (.exp2, f)
  | .log2Short f => some (.log2, f)
  | .log2 f => some (.log2, f)
  | .sinShort f => some (.sin, f)
  | .sin f => some (.sin, f)
  | .cosShort f => some (.cos, f)
  | .cos f => some (.cos, f)
  | .tanhShort f => some (.tanh, f)
  | .tanh f => some (.tanh, f)
  | .sigmShort f => some (.sigm, f)
  | .sigm f => some (.sigm, f)
  | .erfShort f => some (.erf, f)
  | .erf f => some (.erf, f)
  | .geluShort f => some (.gelu, f)
  | .gelu f => some (.gelu, f)
  | .mupd f => some (.mupd, f)
  | .lsck f => some (.lsck, f)
  | .lsupd f => some (.lsupd, f)
  | .gnrm f => some (.gnrm, f)
  | .ld f => some (.ld, f)
  | .st f => some (.st, f)
  | .ldlShort f => some (.ldl, f)
  | .ldl f => some (.ldl, f)
  | .stlShort f => some (.stl, f)
  | .stl f => some (.stl, f)
  | .ldkShort f => some (.ldk, f)
  | .ldk f => some (.ldk, f)
  | .pref f => some (.pref, f)
  | .cctl f => some (.cctl, f)
  | .phase f => some (.phase, f)
  | .fence f => some (.fence, f)
  | .cpart f => some (.cpart, f)
  | .atom f => some (.atom, f)
  | .acas f => some (.acas, f)
  | .afadd f => some (.afadd, f)
  | .red f => some (.red, f)
  | .patom f => some (.patom, f)
  | .xch f => some (.xch, f)
  | .xred f => some (.xred, f)
  | .pld f => some (.pld, f)
  | .pst f => some (.pst, f)
  | .ptrc f => some (.ptrc, f)
  | .shfl f => some (.shfl, f)
  | .bset f => some (.bset, f)
  | .bperm f => some (.bperm, f)
  | .redx f => some (.redx, f)
  | .cpy f => some (.cpy, f)
  | .cpy2 f => some (.cpy2, f)
  | .cpyz f => some (.cpyz, f)
  | .cwait f => some (.cwait, f)
  | .bzero f => some (.bzero, f)
  | .bcopy f => some (.bcopy, f)
  | .bcmp f => some (.bcmp, f)
  | .bfence f => some (.bfence, f)
  | .cpyx f => some (.cpyx, f)
  | .mma f => some (.mma, f)
  | .mmat f => some (.mmat, f)
  | .mzero f => some (.mzero, f)
  | .mldz f => some (.mldz, f)
  | .mst f => some (.mst, f)
  | .mfence f => some (.mfence, f)
  | .mwait f => some (.mwait, f)
  | .mstat f => some (.mstat, f)
  | .mrgOpen f => some (.mrgOpen, f)
  | .mrgPut f => some (.mrgPut, f)
  | .mrgEnd f => some (.mrgEnd, f)
  | .mrgWait f => some (.mrgWait, f)
  | .mrgStat f => some (.mrgStat, f)
  | .mrgRank f => some (.mrgRank, f)
  | .mrgDrop f => some (.mrgDrop, f)
  | .bar f => some (.bar, f)
  | .gbar f => some (.gbar, f)
  | .arrv f => some (.arrv, f)
  | .waitb f => some (.waitb, f)
  | .launch f => some (.launch, f)
  | .tape f => some (.tape, f)
  | .gwait f => some (.gwait, f)
  | .trap f => some (.trap, f)
  | .tret f => some (.tret, f)
  | .chkerr f => some (.chkerr, f)
  | .rdctr f => some (.rdctr, f)
  | .bkptShort f => some (.bkpt, f)
  | .bkpt f => some (.bkpt, f)
  | .sysr f => some (.sysr, f)
  | .sysw f => some (.sysw, f)
  | .runCommit _ => none
  | .longLatencyArrival _ _ => none
  | .watchdogLimit _ _ _ => none
  | .sleepEnd _ => none
  | .exchangeComplete _ => none
  | .exchangeTimeout _ => none
  | .barrierObjectArrive _ => none
  | .copyPromiseExpire _ => none
  | .copyPerform _ => none
  | .bankCommandPerform _ _ => none
  | .mmaPerform _ _ => none
  | .mzeroPerform _ _ => none
  | .mldzPerform _ _ => none
  | .mstPerform _ _ => none
  | .roundOpen _ => none
  | .stageTiles _ => none
  | .measureContributor _ => none
  | .contributorCommit _ _ _ => none
  | .roundDrop _ => none
  | .mergeTileSend _ => none
  | .mergeGangNotice _ _ => none
  | .partitionChange _ => none
  | .hostRecordAccept _ => none
  | .commandGridAccept => none
  | .gangPlace => none
  | .blockRetire _ => none
  | .preemptionRequest _ => none
  | .gangResume _ => none
  | .swapOut _ => none
  | .swapIn _ => none
  | .gangRelaunch _ => none
  | .columnFailure _ _ => none
  | .hostWritebackTimeout _ => none
  | .rebalanceWindowEnd _ => none
  | .patrolScrub _ _ => none
  | .transferRetry _ => none
  | .laneTest _ _ => none
  | .retraining _ _ => none
  | .flowEscape _ => none
  | .throttleRaise _ _ => none
  | .throttleLower _ _ => none
  | .thermalThrottle _ => none
  | .thermalHalt => none
  | .coldReset => none
  | .bootStageEnd _ => none
  | .qctlWrite _ _ => none
  | .qtailWrite _ _ => none
  | .wdogdWrite _ => none
  | .registerWrite _ _ => none
  | .create _ => none
  | .destroy _ => none
  | .mapcol _ => none
  | .setroot _ => none
  | .inval _ => none
  | .keyload _ => none
  | .setsched _ => none
  | .pair _ => none
  | .savearea _ => none
  | .privarea _ => none
  | .stage _ => none
  | .verify => none
  | .commit => none
  | .reset => none
  | .discard => none
  | .getContexts => none
  | .readMeters _ _ _ => none
  | .collect _ => none
  | .setBudget _ _ => none
  | .setThrottle _ _ => none
  | .readLog _ _ _ => none
  | .bootStatus => none
  | .spdmRequest _ => none
  | .hostApertureAccess _ _ _ _ => none
  | .tableApertureAccess _ _ _ => none
  | .watikReceive _ => none
  | .unassignedOpcode _ => none
  | .linkLevelRetry _ => none
  | .watikLinkTraining _ => none
  | .powerLoss => none
  | .cxlCacheSnoop _ _ => none

end Sys2Proof
end

