-- ==== Sys2Proof/Machine/Legality.lean ====
section
/-! DEFINITION. Which encodings are legal (R40-R69): a table of what each opcode admits, and the checks of R54, each
with the name of its group. The checks that need the machine (the fetch address, a format slot, HMODE, a partial active
set) stand with the meanings. -/

namespace Sys2Proof

/-- Why an encoding is illegal: the groups of R54. Every one raises the illegal-instruction trap. -/
inductive Reject where
  | unassignedOpcode     -- an unassigned OP (R59)
  | wrongForm            -- a short or extended form the opcode does not admit (R43, R61)
  | wrongIssue           -- a UNI value the opcode does not admit (R40)
  | reservedSelector     -- a reserved selector value (R42, R46)
  | reservedType         -- a reserved TYPE code (R51)
  | badSub               -- a SUB value reserved, or not defined for the TYPE (R62-R65, R69)
  | badType              -- a TYPE the opcode does not admit (R51)
  | badX                 -- an X field reserved or not defined (R67, R69)
  | badRounding          -- a rounding where none is listed (R51)
  | badGuard             -- a guard where R45 forbids one
  | badLookahead         -- a lookahead on an instruction that is not long-latency (R45)
  | badSelector          -- a selector standing where R47 or the entry forbids it
  | badWidth             -- a width that is not the operand's, or a misaligned register group (R48)
  | badDead              -- a dead bit on anything but a V source (R50)
  | badKeep              -- KEEP without a single V destination, or KC without KEEP (R50)
  | badModifier          -- NA, NB, ABSA or SAT where the entry or the type forbids it (R50)
  | literalMissing       -- a literal selector without a literal (R52)
  | literalUnread        -- a literal that no selector reads (R52)
  | literalHigh          -- 0x14E in a 64-bit operation (R53)
  | truncated            -- fewer words than the length asks for (R37)
  | notEncoded           -- an event, which has no encoding
  deriving DecidableEq, Repr

/-- What one operand field may hold: the widths its registers may have, and the selectors that may stand there. -/
structure Role where
  widths : List Nat := [1]
  v     : Bool := false
  s     : Bool := false
  c     : Bool := false
  l     : Bool := false
  p     : Bool := false
  p7    : Bool := false     -- P7 as well as P0 to P6
  zero  : Bool := false
  imm   : Bool := false
  lit   : Bool := false
  litHi : Bool := false
  dead  : Bool := false     -- a source, so a V register may carry a dead bit
  dest  : Bool := false     -- a destination
  deriving DecidableEq, Repr

/-- An unused field holds ZERO (R49). -/
def Role.unused : Role := { zero := true }

/-- A data source of `w` registers (R47): a group wider than a 64-bit pair takes registers alone (R48). A predicate stands as a
64-bit source too, as its bit (log 81, DESIGN CHOICE). -/
def Role.src (uni : Bool) (w : Nat) : Role :=
  { widths := [w], v := !uni, s := true, c := !uni && w == 1, l := !uni && w == 1, p := decide (w ≤ 2), p7 := true,
    zero := decide (w ≤ 2), imm := decide (w ≤ 2), lit := decide (w ≤ 2), litHi := w == 1, dead := true }

/-- A source that must be a V or S register group. -/
def Role.regs (uni : Bool) (ws : List Nat) : Role :=
  { widths := ws, v := !uni, s := true, dead := true }

/-- A source that must be a V register group. -/
def Role.vregs (ws : List Nat) : Role := { widths := ws, v := true, dead := true }

/-- A source that must be an S register group. -/
def Role.sregs (ws : List Nat) : Role := { widths := ws, s := true }

/-- An S register, a small integer or LIT. -/
def Role.sImm : Role := { s := true, imm := true, lit := true }

/-- A destination of one of the widths: V in a vector form, S in a uniform one, a C entry alone, or ZERO (R47). -/
def Role.dst (uni : Bool) (ws : List Nat) : Role :=
  { widths := ws, v := !uni, s := uni, c := !uni && ws.contains 1, zero := true, dest := true }

/-- A destination that must be an S group. -/
def Role.sdst (ws : List Nat) : Role := { widths := ws, s := true, dest := true }

/-- A predicate destination, P0 to P6. -/
def Role.pdst : Role := { p := true, dest := true }

/-- A predicate selector as a source. -/
def Role.psrc : Role := { p := true, p7 := true }

/-- The data of a store or of an atomic's source in D (R49): any source of the width, with no dead bit. ZERO, a literal, a small
integer and a predicate have the width code 00, of one register, and so are none of the width of a wider group
(log 92, DESIGN CHOICE). -/
def Role.data (uni : Bool) (ws : List Nat) : Role :=
  { widths := ws, v := !uni, s := true, c := !uni && ws.contains 1, l := !uni && ws.contains 1, p := ws.contains 1,
    p7 := true, zero := ws.contains 1, imm := ws.contains 1, lit := ws.contains 1, litHi := ws.contains 1 }

/-- A branch target: LIT or a small integer (R105). -/
def Role.target : Role := { imm := true, lit := true }

/-- A displacement: a small integer, ZERO or LIT (R49). -/
def Role.disp : Role := { zero := true, imm := true, lit := true }

/-- What an opcode admits (R61 and its reference entry), for the fields it is given. -/
structure OpSpec where
  shortTy : Option Ty := none      -- the short-form type; none: no short form
  vec     : Bool := true
  uni     : Bool := true
  long    : Bool := false          -- long-latency: a lookahead is legal
  guard   : Bool := true           -- a guard other than P7 is legal
  tys     : List Ty := [.s32]      -- the admitted types; TYPE 0 alone where none is listed
  rnd     : Bool := false
  subOk   : Bool
  xOk     : Bool
  d       : Role := .unused
  a       : Role := .unused
  b       : Role := .unused
  c       : Role := .unused
  na      : Bool := false
  nb      : Bool := false
  absa    : Bool := false
  sat     : Bool := false
  dReads  : Option Nat := none     -- how many registers of D it reads, where not all
  bReads  : Option Nat := none     -- how many registers of B

/-- TYPE codes of R51. -/
def Ty.code : Ty → BitVec 5
  | .s32 => 0x00 | .n32 => 0x01 | .s16x2 => 0x02 | .n16x2 => 0x03 | .s8x4 => 0x04 | .n8x4 => 0x05
  | .s64 => 0x06 | .n64 => 0x07 | .f32 => 0x08 | .bf16x2 => 0x09 | .f16x2 => 0x0A | .e4m3x4 => 0x0C
  | .e5m2x4 => 0x0D | .b32 => 0x0E | .b64 => 0x0F

/-- The type of a TYPE code; a reserved code gives none (R51). -/
def Ty.ofCode (c : BitVec 5) : Option Ty :=
  match c.toNat with
  | 0x00 => some .s32 | 0x01 => some .n32 | 0x02 => some .s16x2 | 0x03 => some .n16x2 | 0x04 => some .s8x4
  | 0x05 => some .n8x4 | 0x06 => some .s64 | 0x07 => some .n64 | 0x08 => some .f32 | 0x09 => some .bf16x2
  | 0x0A => some .f16x2 | 0x0C => some .e4m3x4 | 0x0D => some .e5m2x4 | 0x0E => some .b32 | 0x0F => some .b64
  | _ => none

/-- Elements of a type in one register, a 64-bit type counting one (R190). -/
def Ty.perReg (t : Ty) : Nat :=
  match t.elemBits with
  | 8 => 4 | 16 => 2 | _ => 1

/-- The source type of CVT: SUB bits 4:0, with bit 5 zero (R62, R190). -/
def cvtSource (sub : BitVec 6) : Option Ty :=
  if bit sub 5 then none
  else match Ty.ofCode (sub.setWidth 5) with
    | some .b32 => none | some .b64 => none | t => t

/-- The number of elements CVT converts (R190). -/
def cvtCount (dst fr : Ty) : Nat := max dst.perReg fr.perReg

/-- The width of a special register, by its number (R114); none: not listed. -/
def specialWidth (n : Nat) : Option Nat :=
  if n = 0x012 ∨ n = 0x024 then some 64 else if n ≤ 0x02C then some 32 else none

/-- May SWRITE write a special register (R114)? -/
def specialWritable (n : Nat) : Bool := decide (0x027 ≤ n) && decide (n ≤ 0x02C)

/-- The width of a system register, by its number (R130); none: not listed. -/
def systemWidth (n : Nat) : Option Nat :=
  if n = 1 ∨ n = 2 then some 64 else if n ≤ 5 then some 32 else none

/-- May SYSW write a system register (R130)? -/
def systemWritable (n : Nat) : Bool := decide (n ≤ 2)

/-- The scope code in bits `lo+2 : lo` is one of R66. -/
def scopeAt (x : BitVec 9) (lo : Nat) : Nat := (x.toNat / 2 ^ lo) % 8

/-- The Memory class of R67; `acq` and `rel` say which ordering the instruction may take. -/
def xMemory (x : BitVec 9) (acq rel : Bool) : Bool :=
  let ord := x.toNat % 4
  (ord == 0 && scopeAt x 2 == 0 || ord == 1 && (acq || rel) && decide (scopeAt x 2 ≤ 4))
    && decide ((x.toNat / 32) % 4 ≤ 2) && decide ((x.toNat / 128) % 4 ≤ 2)

/-- The Ordered class of R67. -/
def xOrdered (x : BitVec 9) (acq rel : Bool) : Bool :=
  let ord := x.toNat % 4
  decide (x.toNat < 32) && (ord != 0 || scopeAt x 2 == 0) && decide (scopeAt x 2 ≤ 4)
    && (acq || ord != 1 && ord != 3) && (rel || ord != 2 && ord != 3)

/-- The Engine class of R67. -/
def xEngine (x : BitVec 9) (acq : Bool) : Bool :=
  let ord := x.toNat % 4
  decide (x.toNat < 32) && (ord != 0 || scopeAt x 2 == 0) && decide (scopeAt x 2 ≤ 4) && (acq || ord % 2 == 0)

/-- The Fence class of R67. -/
def xFence (x : BitVec 9) : Bool :=
  decide (x.toNat < 32) && x.toNat % 4 == 0 && decide (scopeAt x 2 ≤ 4)

/-- SUB of the matrix instructions (R65): tile, scope in bits 4:2, bit 5 zero; `order` says whether a scope is used. -/
def subMatrix (sub : BitVec 6) (order : Bool) : Bool :=
  decide (sub.toNat < 32) && (if order then decide (sub.toNat / 4 ≤ 4) else sub.toNat / 4 == 0)

/-- The types of an atomic operation, by its SUB (R63, R297). -/
def atomTypes (sub : BitVec 6) : List Ty :=
  if sub.toNat ≤ 2 then [.s32, .n32, .s64, .n64]
  else if sub.toNat ≤ 6 then [.b32, .b64]
  else if sub.toNat ≤ 8 then [.n32] else []

/-- The types of a reduction, by its SUB (R64, R306). -/
def redxTypes (sub : BitVec 6) : List Ty :=
  if sub.toNat ≤ 2 then [.s32, .n32, .s64, .n64, .f32, .bf16x2, .f16x2]
  else if sub.toNat ≤ 5 then [.b32, .b64] else []

/-- The data widths of R288 and R309: .b32 takes 1 to 8 registers, .b64 2 to 8. -/
def dataWidths (t : Ty) : List Nat := if t.is64 then [2, 4, 8] else [1, 2, 4, 8]

/-- What each opcode admits (R61, and the reference entry of each). LEA's A is a pair of registers, and no immediate stands for
it (log 82, DEDUCED). -/
def Opcode.spec (op : Opcode) (f : Fields) : OpSpec :=
  let u := f.uni
  let r := f.ty.regs
  let sub0 := f.sub == 0
  let x0 := f.x == 0
  let intAll : List Ty := [.s32, .n32, .s16x2, .n16x2, .s8x4, .n8x4, .s64, .n64]
  let fl : List Ty := [.f32, .bf16x2, .f16x2]
  let bb : List Ty := [.b32, .b64]
  match op with
  -- control (R107-R111)
  | .nop | .bkpt => { shortTy := some .s32, subOk := sub0, xOk := x0 }
  | .endif | .loop | .exit => { shortTy := some .s32, uni := false, guard := false, subOk := sub0, xOk := x0 }
  | .elseBlock | .endloop =>
    { shortTy := some .s32, uni := false, guard := false, subOk := sub0, xOk := x0, a := .target }
  | .ifBlock => { uni := false, guard := false, subOk := sub0, xOk := x0, a := .target, b := .psrc }
  | .brk | .cont => { uni := false, guard := false, subOk := sub0, xOk := decide (f.x.toNat ≤ 126), b := .psrc }
  | .jmp => { shortTy := some .s32, vec := false, subOk := sub0, xOk := x0, a := .target }
  | .call => { vec := false, subOk := sub0, xOk := x0, d := .sdst [2], a := .target }
  | .ret => { vec := false, subOk := sub0, xOk := x0, a := .sregs [2] }
  | .yield => { shortTy := some .s32, vec := false, subOk := sub0, xOk := x0 }
  | .sleep => { vec := false, subOk := sub0, xOk := x0, a := { widths := [2], s := true, lit := true } }
  -- integer (R173)
  | .iadd | .isub =>
    { shortTy := some .s32, tys := intAll, subOk := sub0, xOk := x0, d := .dst u [r], a := .src u r, b := .src u r,
      na := true, nb := true, sat := true }
  | .imul =>
    { shortTy := some .s32, tys := [.s32, .n32, .s16x2, .n16x2, .s64, .n64], subOk := sub0, xOk := x0, d := .dst u [r],
      a := .src u r, b := .src u r, na := true, nb := true, sat := true }
  | .imulh =>
    { shortTy := some .s32, tys := [.s32, .n32], subOk := sub0, xOk := x0, d := .dst u [1], a := .src u 1,
      b := .src u 1, na := true, nb := true }
  | .imad =>
    { tys := [.s32, .n32], subOk := sub0, xOk := x0, d := .dst u [1], a := .src u 1, b := .src u 1, c := .src u 1,
      na := true, nb := true, sat := true }
  | .imin | .imax =>
    { shortTy := some .s32, tys := intAll, subOk := sub0, xOk := x0, d := .dst u [r], a := .src u r, b := .src u r,
      na := true, nb := true }
  | .iabs | .ineg =>
    { shortTy := some .s32, tys := [.s32, .s16x2, .s8x4, .s64], subOk := sub0, xOk := x0, d := .dst u [r],
      a := .src u r, sat := true }
  | .lea =>
    { tys := [.n32, .s32], subOk := sub0, xOk := x0, d := .dst u [2], a := .regs u [2], b := .src u 1, c := .src u 1 }
  | .isad =>
    { tys := [.n8x4, .s8x4, .n16x2, .s16x2, .n32, .s32], subOk := sub0, xOk := x0, d := .dst u [1], a := .src u 1,
      b := .src u 1, c := .src u 1, sat := true }
  | .dp4 =>
    { tys := [.s8x4, .n8x4], subOk := sub0, xOk := x0, d := .dst u [1], a := .src u 1, b := .src u 1, c := .src u 1,
      sat := true }
  | .dp2 =>
    { tys := [.s16x2, .n16x2], subOk := sub0, xOk := x0, d := .dst u [1], a := .src u 1, b := .src u 1,
      c := .src u 1, sat := true }
  | .icmp =>
    { tys := [.s32, .n32, .s64, .n64], subOk := decide (f.sub.toNat ≤ 5), xOk := x0, d := .pdst, a := .src u r,
      b := .src u r, na := true, nb := true }
  | .iaddx =>
    { tys := [.n32], subOk := sub0, xOk := x0, d := .dst u [2], a := .src u 1, b := .src u 1, c := .src u 1 }
  -- logic (R178)
  | .and | .or | .xor | .andn =>
    { shortTy := some .b32, tys := bb, subOk := sub0, xOk := x0, d := .dst u [r], a := .src u r, b := .src u r }
  | .not | .brev => { shortTy := some .b32, tys := bb, subOk := sub0, xOk := x0, d := .dst u [r], a := .src u r }
  | .shl | .shr =>
    { shortTy := some .b32, tys := [.b32, .b64, .n16x2, .n8x4], subOk := sub0, xOk := decide (f.x.toNat ≤ 1),
      d := .dst u [r], a := .src u r, b := .src u 1 }
  | .sar =>
    { shortTy := some .b32, tys := [.b32, .b64, .s16x2, .s8x4], subOk := sub0, xOk := decide (f.x.toNat ≤ 1),
      d := .dst u [r], a := .src u r, b := .src u 1 }
  | .rotl => { shortTy := some .b32, tys := bb, subOk := sub0, xOk := x0, d := .dst u [r], a := .src u r, b := .src u 1 }
  | .popc | .clz => { shortTy := some .b32, tys := bb, subOk := sub0, xOk := x0, d := .dst u [1], a := .src u r }
  | .bfe =>
    { tys := [.n32, .s32], subOk := sub0, xOk := x0, d := .dst u [1], a := .src u 1, b := .src u 1, c := .src u 1 }
  | .bfi =>
    { tys := [.b32], subOk := sub0, xOk := x0, d := .dst u [1], a := .src u 1, b := .src u 1, c := .src u 1 }
  | .sel =>
    { tys := bb, subOk := sub0, xOk := x0, d := .dst u [r], a := .src u r, b := .src u r, c := .src u 1 }
  | .mov =>
    { shortTy := some .b32, tys := bb, subOk := sub0, xOk := x0, d := .dst u [r], a := { Role.src u r with v := true } }
  -- predicates, special registers, packing (R112, R113, R182, R183)
  | .plop =>
    let ab : Role := if u then { s := true, zero := true, imm := true, lit := true, litHi := true } else .psrc
    { subOk := decide (f.sub.toNat ≤ 7), xOk := x0, d := .pdst, a := ab, b := ab }
  | .pmov =>
    { tys := bb, subOk := sub0, xOk := x0, d := .pdst, a := if u then { Role.src u r with p := false, p7 := false } else .src u r }
  | .vote =>
    let d : Role := if f.sub.toNat = 2 then .sdst [2] else if f.sub.toNat = 4 ∨ f.sub.toNat = 5 then .sdst [1] else .pdst
    { uni := false, subOk := decide (f.sub.toNat ≤ 5), xOk := x0, d := d, a := .psrc }
  | .sread =>
    { tys := bb, subOk := sub0, d := .dst u [r],
      xOk := match specialWidth f.x.toNat with
        | none => false
        | some w => (decide (w = 64) || !f.ty.is64) && !(u && f.x.toNat == 0) }
  | .swrite => { tys := [.b32], subOk := sub0, xOk := specialWritable f.x.toNat, a := .src u 1 }
  | .pack =>
    { shortTy := some .b32, tys := [.b32, .s16x2, .n16x2, .s8x4, .n8x4], subOk := sub0, xOk := x0, d := .dst u [1],
      a := .src u 1, b := .src u 1, sat := f.ty != .b32 }
  | .unpk =>
    { shortTy := some .b32, tys := [.b32, .s16x2, .n16x2, .s8x4, .n8x4], subOk := sub0, xOk := x0, d := .dst u [1],
      a := .src u 1, b := .src u 1 }
  | .prmt =>
    { tys := [.b32], subOk := sub0, xOk := x0, d := .dst u [1], a := .src u 1, b := .src u 1, c := .src u 1 }
  -- floating point (R184)
  | .fadd | .fsub | .fmul =>
    { shortTy := some .f32, tys := fl, rnd := true, subOk := sub0, xOk := x0, d := .dst u [1], a := .src u 1,
      b := .src u 1, na := true, nb := true, absa := true, sat := true }
  | .ffma =>
    { tys := fl, rnd := true, subOk := sub0, xOk := x0, d := .dst u [1], a := .src u 1, b := .src u 1, c := .src u 1,
      na := true, nb := true, absa := true, sat := true }
  | .fmin | .fmax =>
    { shortTy := some .f32, tys := fl, subOk := sub0, xOk := x0, d := .dst u [1], a := .src u 1, b := .src u 1,
      na := true, nb := true, absa := true }
  | .fabs | .fneg =>
    { shortTy := some .f32, tys := [.f32, .bf16x2, .f16x2, .e4m3x4, .e5m2x4], subOk := sub0, xOk := x0, d := .dst u [1],
      a := .src u 1 }
  | .fcmp =>
    { tys := [.f32], subOk := decide (f.sub.toNat ≤ 13), xOk := x0, d := .pdst, a := .src u 1, b := .src u 1,
      na := true, nb := true, absa := true }
  | .fclass => { tys := [.f32], subOk := sub0, xOk := x0, d := .pdst, a := .src u 1, b := .src u 1 }
  | .frnd =>
    { shortTy := some .f32, tys := fl, rnd := true, subOk := sub0, xOk := x0, d := .dst u [1], a := .src u 1,
      na := true, absa := true }
  | .fdiv =>
    { shortTy := some .f32, long := true, tys := [.f32], rnd := true, subOk := sub0, xOk := x0, d := .dst u [1],
      a := .src u 1, b := .src u 1, na := true, nb := true, absa := true, sat := true }
  | .fsqrt =>
    { shortTy := some .f32, long := true, tys := [.f32], rnd := true, subOk := sub0, xOk := x0, d := .dst u [1],
      a := .src u 1, absa := true, sat := true }
  | .fscl =>
    { shortTy := some .f32, tys := fl, rnd := true, subOk := sub0, xOk := x0, d := .dst u [1], a := .src u 1,
      b := .src u 1, na := true, absa := true, sat := true }
  | .fdot2 =>
    { tys := [.bf16x2, .f16x2], rnd := true, subOk := sub0, xOk := x0, d := .dst u [1], a := .src u 1, b := .src u 1,
      c := .src u 1, na := true, nb := true, sat := true }
  -- conversion (R190-R193)
  | .cvt =>
    match cvtSource f.sub with
    | none => { tys := [], subOk := false, xOk := x0 }
    | some fr =>
      let n := cvtCount f.ty fr
      let sw := n * fr.elemBits / 32
      let dw := n * f.ty.elemBits / 32
      { tys := [.s32, .n32, .s64, .n64, .s16x2, .n16x2, .s8x4, .n8x4, .f32, .bf16x2, .f16x2, .e4m3x4, .e5m2x4],
        rnd := true, subOk := true, xOk := x0, d := .dst u [dw],
        a := if sw = 2 ∧ ¬ fr.is64 then .regs u [sw] else .src u sw, sat := true }
  | .cvts =>
    if f.sub.toNat = 0 then { subOk := true, xOk := decide (f.x.toNat ≤ 7), d := .dst u [1, 2, 4], a := .src u 1 }
    else { subOk := f.sub.toNat == 1, xOk := decide (f.x.toNat ≤ 7), d := .dst u [1],
           a := { Role.src u 1 with widths := [1, 2, 4] } }
  | .qpk => { subOk := sub0, xOk := decide (f.x.toNat ≤ 7), d := .dst u [1], a := .regs u [4, 8], b := .src u 1 }
  | .qupk => { subOk := sub0, xOk := decide (f.x.toNat ≤ 7), d := .dst u [4, 8], a := .src u 1, b := .src u 1 }
  -- special functions and training (R194, R200)
  | .rcp | .rsq | .sqrt | .exp2 | .log2 | .sin | .cos | .tanh | .sigm | .erf | .gelu =>
    { shortTy := some .f32, uni := false, long := true, tys := [.f32], subOk := sub0, xOk := x0, d := .dst u [1],
      a := .src u 1, na := true, absa := true, sat := true }
  | .mupd =>
    { uni := false, long := true, tys := [.f32], subOk := sub0, xOk := x0,
      d := { widths := [4], v := true, dest := true }, a := .vregs [1], b := .sregs [8], dReads := some 3, bReads := some 7 }
  | .lsck =>
    { uni := false, tys := [.f32, .bf16x2, .f16x2, .e4m3x4, .e5m2x4], subOk := sub0, xOk := x0, d := .pdst,
      a := .vregs [1, 2, 4, 8], c := { Role.psrc with zero := true } }
  | .lsupd => { vec := false, subOk := sub0, xOk := x0, d := .sdst [2], a := .sImm }
  | .gnrm =>
    { uni := false, long := true, tys := fl, subOk := sub0, xOk := x0, d := { v := true, dest := true },
      a := .vregs [1, 2, 4, 8], c := { Role.vregs [1] with zero := true } }
  -- memory (R288-R296)
  | .ld =>
    { long := true, tys := bb, subOk := sub0, xOk := xMemory f.x true false, d := .dst u (dataWidths f.ty),
      a := .regs u [2], b := .src u 1, c := .disp }
  | .st =>
    { tys := bb, subOk := sub0, xOk := xMemory f.x false true, d := .data u (dataWidths f.ty), a := .regs u [2],
      b := .src u 1, c := .disp }
  | .ldl =>
    { shortTy := some .b32, uni := false, long := true, tys := [.b32], subOk := sub0, xOk := x0,
      d := .dst u [1, 2, 4, 8], b := .src u 1, c := .disp }
  | .stl =>
    { shortTy := some .b32, uni := false, tys := [.b32], subOk := sub0, xOk := x0, d := .data u [1, 2, 4, 8],
      b := .src u 1, c := .disp }
  | .ldk =>
    { shortTy := some .b32, long := true, tys := bb, subOk := decide (f.sub.toNat ≤ 1), xOk := x0,
      d := .dst u (dataWidths f.ty), b := .src u 1, c := .disp }
  | .pref => { subOk := sub0, xOk := xMemory f.x false false, a := .regs u [2], b := .src u 1, c := .disp }
  | .cctl =>
    { subOk := [0x00, 0x01, 0x02, 0x04, 0x05, 0x06, 0x08, 0x0C, 0x0D].contains f.sub.toNat, xOk := x0,
      a := .regs u [2], b := .src u 1, c := .disp }
  | .phase =>
    { vec := false, subOk := decide (f.sub.toNat ≤ 1), xOk := x0, a := if f.sub.toNat = 1 then .unused else .sImm }
  | .fence => { vec := false, subOk := decide (f.sub.toNat ≤ 2), xOk := xFence f.x }
  | .cpart => { vec := false, subOk := sub0, xOk := x0, a := .sImm }
  -- atomics (R297, R311)
  | .atom =>
    { long := true, tys := atomTypes f.sub, subOk := decide (f.sub.toNat ≤ 8), xOk := xOrdered f.x true true,
      d := { Role.dst u [r] with c := false, zero := false }, a := .regs u [2], b := .src u 1, c := .disp }
  | .acas =>
    { long := true, tys := bb, subOk := sub0, xOk := xOrdered f.x true true,
      d := { Role.dst u [2 * r] with c := false, zero := false }, a := .regs u [2], b := .src u 1, c := .disp }
  | .afadd =>
    { long := true, tys := fl, rnd := true, subOk := sub0, xOk := xOrdered f.x true true,
      d := { Role.dst u [1] with c := false, zero := false }, a := .regs u [2], b := .src u 1, c := .disp }
  | .red =>
    { tys := atomTypes f.sub, subOk := decide (f.sub.toNat ≤ 8) && f.sub.toNat != 6, xOk := xOrdered f.x true true,
      d := { Role.src u r with dead := false }, a := .regs u [2], b := .src u 1, c := .disp }
  | .patom =>
    { long := true, tys := atomTypes f.sub, subOk := decide (f.sub.toNat ≤ 8), xOk := xOrdered f.x true true,
      d := { Role.dst u [r] with c := false, zero := false }, a := { Role.regs u [1] with imm := true }, b := .src u 1,
      c := .disp }
  -- exchanges, pool, pointers, lanes (R301-R315)
  | .xch =>
    { uni := false, long := true, tys := [.b32], subOk := decide (f.sub.toNat ≤ 3),
      xOk := decide (f.x.toNat ≤ 255) && (f.sub.toNat != 2 || f.x == 0),
      d := if f.d = .zero then .unused else { widths := [f.aw.count], v := true, dest := true },
      a := { widths := if f.d = .zero then [1] else [1, 2, 4], v := true, s := true, c := true, l := true, dead := true } }
  | .xred | .redx =>
    { uni := false, long := true, tys := redxTypes f.sub, subOk := decide (f.sub.toNat ≤ 5), xOk := x0,
      d := .dst u [r], a := .src u r }
  | .pld =>
    { long := true, tys := bb, subOk := sub0, xOk := x0, d := .dst u (dataWidths f.ty),
      a := { Role.regs u [1] with imm := true }, b := .src u 1, c := .disp }
  | .pst =>
    { tys := bb, subOk := sub0, xOk := x0, d := .data u (dataWidths f.ty), a := { Role.regs u [1] with imm := true },
      b := .src u 1, c := .disp }
  | .ptrc =>
    let d : Role := match f.sub.toNat with
      | 0 => .dst u [1] | 4 => .pdst | 6 => .pdst | _ => .dst u [2]
    let b : Role := match f.sub.toNat with
      | 1 => .src u 1 | 3 => { Role.regs u [2] with lit := true } | _ => .unused
    { subOk := decide (f.sub.toNat ≤ 6), xOk := x0, d := d, a := .regs u [2], b := b }
  | .shfl =>
    { uni := false, long := true, tys := bb, subOk := decide (f.sub.toNat ≤ 4), xOk := decide (f.x.toNat ≤ 5),
      d := .dst u [r], a := .src u r, b := if f.sub.toNat = 4 then .unused else .src u 1 }
  | .bset =>
    { vec := false, long := true, subOk := sub0, xOk := decide (f.x.toNat ≤ 3), a := .sregs [2], b := .src u 1,
      c := .disp }
  | .bperm =>
    { uni := false, long := true, tys := bb, subOk := sub0, xOk := decide (f.x.toNat ≤ 3), d := .dst u [r],
      a := .src u r }
  -- copy and bank commands (R317)
  | .cpy =>
    { vec := false, subOk := sub0, xOk := xEngine f.x true, d := .sdst [4], a := .sregs [2], b := .sregs [2],
      c := .sregs [2] }
  | .cpy2 =>
    { vec := false, subOk := sub0, xOk := xEngine f.x true, d := .sdst [4], a := .sregs [2], b := .sregs [2],
      c := .sregs [8] }
  | .cpyz => { vec := false, subOk := sub0, xOk := xEngine f.x true, d := .sdst [4], a := .sregs [2], c := .sregs [2] }
  | .cpyx =>
    { vec := false, subOk := sub0, xOk := xEngine f.x true, d := .sdst [4], a := .sregs [2], b := .sregs [2],
      c := .sregs [4] }
  | .bzero => { vec := false, subOk := sub0, xOk := xEngine f.x true, d := .sdst [4], a := .sregs [2], c := .sImm }
  | .bcopy | .bcmp =>
    { vec := false, subOk := sub0, xOk := xEngine f.x true, d := .sdst [4], a := .sregs [2], b := .sregs [2],
      c := .sImm }
  | .cwait => { vec := false, subOk := sub0, xOk := x0, d := .sdst [1], a := .sregs [1] }
  | .bfence => { vec := false, subOk := sub0, xOk := xFence f.x }
  -- matrix (R226, R227)
  | .mma | .mmat =>
    { vec := false, guard := false, subOk := subMatrix f.sub (decide (64 ≤ f.x.toNat)), xOk := decide (f.x.toNat ≤ 255),
      a := .sregs [4], b := .sregs [4] }
  | .mzero => { vec := false, guard := false, subOk := subMatrix f.sub false, xOk := x0 }
  | .mldz | .mst =>
    { vec := false, guard := false, subOk := subMatrix f.sub (decide (64 ≤ f.x.toNat)),
      xOk := decide (f.x.toNat ≤ 255) && (f.x.toNat / 8) % 8 == 0, a := .sregs [4] }
  | .mfence => { vec := false, guard := false, subOk := sub0, xOk := x0, d := .sdst [1] }
  | .mwait => { vec := false, guard := false, subOk := sub0, xOk := x0, a := .sImm }
  | .mstat => { vec := false, guard := false, long := true, subOk := subMatrix f.sub false, xOk := x0, d := .sdst [4] }
  -- merge (R344)
  | .mrgOpen =>
    { vec := false, subOk := sub0, xOk := xEngine f.x true && decide (2 ≤ f.x.toNat % 4), a := .sregs [2],
      b := .sregs [2], c := .sregs [2] }
  | .mrgPut =>
    { vec := false, subOk := sub0, xOk := xEngine f.x true, a := .sregs [2], b := .sregs [2], c := .sregs [1] }
  | .mrgEnd => { vec := false, subOk := sub0, xOk := xEngine f.x false, a := .sregs [2], b := .sImm }
  | .mrgWait => { vec := false, subOk := sub0, xOk := x0, d := .sdst [1], a := .sregs [2] }
  | .mrgStat =>
    { vec := false, long := true, subOk := decide (f.sub.toNat ≤ 4), xOk := x0, d := .sdst [1], a := .sregs [2] }
  | .mrgRank => { vec := false, subOk := sub0, xOk := x0, a := .sregs [2], b := .sImm }
  | .mrgDrop => { vec := false, subOk := sub0, xOk := x0, a := .sregs [2] }
  -- barriers and launch (R115-R123)
  | .bar | .gbar => { vec := false, subOk := sub0, xOk := decide (f.x.toNat ≤ 15) }
  | .arrv =>
    { vec := false, subOk := sub0, xOk := xOrdered f.x false true, d := { Role.sregs [1] with zero := true },
      a := { Role.sregs [1] with imm := true }, b := .src u 1, c := .disp }
  | .waitb =>
    { vec := false, subOk := sub0, xOk := xOrdered f.x true false, d := .sregs [1],
      a := { Role.sregs [1] with imm := true }, b := .src u 1, c := .disp }
  | .launch => { vec := false, subOk := sub0, xOk := xEngine f.x false, d := .sdst [1], a := .sregs [2] }
  | .tape =>
    { vec := false, subOk := decide (f.sub.toNat ≤ 2), xOk := decide (f.x.toNat ≤ (if f.sub.toNat = 0 then 1 else 0)),
      d := .sdst [if f.sub.toNat = 1 then 2 else 1], a := if f.sub.toNat = 0 then .sregs [2] else .unused }
  | .gwait => { vec := false, subOk := sub0, xOk := x0, d := .sdst [1], a := .sregs [1] }
  -- system (R124-R130)
  | .trap => { vec := false, subOk := sub0, xOk := decide (f.x.toNat ≤ 255) }
  | .tret => { vec := false, subOk := sub0, xOk := x0 }
  | .chkerr =>
    { vec := false, subOk := sub0, xOk := x0, d := .sdst [2], a := { widths := [2], s := true, zero := true, lit := true } }
  | .rdctr => { vec := false, long := true, subOk := sub0, xOk := decide (f.x.toNat ≤ 9), d := .sdst [2] }
  | .sysr =>
    match systemWidth f.x.toNat with
    | none => { vec := false, subOk := sub0, xOk := false }
    | some w => { vec := false, subOk := sub0, xOk := true, d := .sdst [w / 32] }
  | .sysw =>
    match systemWidth f.x.toNat with
    | none => { vec := false, subOk := sub0, xOk := false }
    | some w =>
      { vec := false, subOk := sub0, xOk := systemWritable f.x.toNat, a := { widths := [w / 32], s := true, lit := true } }

/-- Does the opcode read 64-bit operands, so that 0x14E may not stand in it (R53)? -/
def Opcode.is64 (op : Opcode) (f : Fields) : Bool :=
  f.ty.is64 || op == .chkerr || op == .sleep

/-- Is a register group of `w` registers one the role takes, starting at a multiple of its width (R48)? -/
def Role.groupOk (r : Role) (n w : Nat) : Bool := r.widths.contains w && n % w == 0

/-- One operand field against its role (R47-R49). -/
def Role.check (r : Role) (sel : Sel) (w : Wid) : Option Reject :=
  let single : Option Reject := if w = .w1 then none else some .badWidth
  match sel with
  | .v n => if !r.v then some .badSelector else if r.groupOk n.toNat w.count then none else some .badWidth
  | .s n => if !r.s then some .badSelector else if r.groupOk n.toNat w.count then none else some .badWidth
  | .c _ => if !r.c then some .badSelector else if r.widths.contains 1 then single else some .badWidth
  | .l _ => if !r.l then some .badSelector else if r.widths.contains 1 then single else some .badWidth
  | .p n => if r.p && (n != 7 || r.p7) then single else some .badSelector
  | .zero => if r.zero then single else some .badSelector
  | .imm _ => if r.imm then single else some .badSelector
  | .lit => if r.lit then single else some .badSelector
  | .litHi => if r.litHi then single else some .badSelector

/-- Is a dead bit legal on this operand (R50)? -/
def Role.deadOk (r : Role) (dead : Bool) (sel : Sel) : Bool :=
  !dead || r.dead && (match sel with | .v _ => true | _ => false)

/-- Does a selector read the literal? -/
def Sel.isLit : Sel → Bool
  | .lit | .litHi => true
  | _ => false

/-- May a selector stand in a short form (R42)? -/
def Sel.fits6 (uni : Bool) : Sel → Bool
  | .v n => !uni && decide (n.toNat < 48)
  | .s n => uni && decide (n.toNat < 60)
  | .c _ | .l _ => !uni
  | .zero | .lit => true
  | .litHi | .p _ | .imm _ => false

/-- The values R43 gives a short form. -/
def Fields.shortDefaults (f : Fields) (t : Ty) : Bool :=
  f.gp == 7 && f.la == 0 && f.rnd == .rne && f.ty == t && f.sub == 0 && f.dw == .w1 && f.aw == .w1 && f.bw == .w1
    && f.cw == .w1 && f.c == .zero && !f.dc && !f.keep && f.kc == 0 && !f.na && !f.nb && !f.absa && !f.sat && f.x == 0
    && f.d.fits6 f.uni && f.a.fits6 f.uni && f.b.fits6 f.uni

/-- The first of two verdicts that rejects. -/
def Reject.first (a b : Option Reject) : Option Reject :=
  match a with | some r => some r | none => b

/-- A verdict from a condition that must hold. -/
def Reject.unless (ok : Bool) (r : Reject) : Option Reject := if ok then none else some r

/-- The checks of R54, in the order of its groups: none when the fields are a legal instruction of the opcode
(log 11, DEDUCED). -/
def Opcode.check (op : Opcode) (f : Fields) : Option Reject :=
  let o := op.spec f
  let anyLit := f.d.isLit || f.a.isLit || f.b.isLit || f.c.isLit
  let signOk := f.ty.isFloat || f.ty.isSigned
  Reject.first (match f.form, o.shortTy with
      | .ext, _ => none
      | .short, none => some .wrongForm
      | .short, some t => Reject.unless (f.shortDefaults t) .wrongForm) <|
  Reject.first (Reject.unless (if f.uni then o.uni else o.vec) .wrongIssue) <|
  Reject.first (Reject.unless o.subOk .badSub) <|
  Reject.first (Reject.unless (o.tys.contains f.ty) .badType) <|
  Reject.first (Reject.unless o.xOk .badX) <|
  Reject.first (o.d.check f.d f.dw) <|
  Reject.first (o.a.check f.a f.aw) <|
  Reject.first (o.b.check f.b f.bw) <|
  Reject.first (o.c.check f.c f.cw) <|
  Reject.first (Reject.unless (!anyLit || f.lit.isSome) .literalMissing) <|
  Reject.first (Reject.unless (anyLit || f.lit.isNone) .literalUnread) <|
  Reject.first (Reject.unless
    (!(op.is64 f && (f.d == .litHi || f.a == .litHi || f.b == .litHi || f.c == .litHi))) .literalHigh) <|
  Reject.first (Reject.unless (o.a.deadOk f.da f.a && o.b.deadOk f.db f.b && o.c.deadOk f.dc f.c) .badDead) <|
  Reject.first (Reject.unless
    (if f.keep then o.d.dest && (match f.d with | .v _ => f.dw == .w1 | _ => false) else f.kc == 0) .badKeep) <|
  Reject.first (Reject.unless
    ((!f.na || o.na && signOk) && (!f.nb || o.nb && signOk) && (!f.absa || o.absa && signOk) && (!f.sat || o.sat))
    .badModifier) <|
  Reject.first (Reject.unless (o.long || f.la == 0) .badLookahead) <|
  Reject.first (Reject.unless (o.rnd || f.rnd == .rne) .badRounding) <|
  Reject.unless (o.guard || f.gp == 7) .badGuard

/-- The verdict on an instruction as syntax: none when it is well formed. An event is always well formed; an
unassigned opcode never is; the constructor must be the one the form calls for. -/
def Instr.check (i : Instr) : Option Reject :=
  match i.encoded with
  | some (op, f) => if op.instr f = i then op.check f else some .wrongForm
  | none => match i with
    | .unassignedOpcode _ => some .unassignedOpcode
    | _ => none

end Sys2Proof
end

