-- ==== Sys2Proof/WellFormed.lean ====
section
/-! DEFINITION. Well-formed instructions (R54). The table of what each opcode admits and the checks themselves stand in
Machine/Legality.lean. -/

namespace Sys2Proof

/-- A well-formed instruction: one that the checks of R54 let pass. -/
abbrev Instr.WellFormed (i : Instr) : Prop := i.check = none

end Sys2Proof
end

