-- ==== Sys2Proof/Decode.lean ====
section
/-! DEFINITION. The decoder (R37-R54), total on any words, and the encoder written from the same tables. -/

namespace Sys2Proof

/-- The length code of bits 1:0 (R37): the form and whether a literal follows. -/
def lenForm (w : Word) : Form × Bool :=
  (if bit w 1 then .ext else .short, bit w 0)

/-- How many words an instruction has, from its first word (R37). -/
def lenWords (w : Word) : Nat :=
  (if bit w 1 then 3 else 1) + (if bit w 0 then 2 else 0)

/-- A 9-bit selector (R46); a reserved value gives none. -/
def sel9 (x : BitVec 9) : Option Sel :=
  let n := x.toNat
  if n < 0x100 then some (.v (x.setWidth 8))
  else if n < 0x140 then some (.s (x.setWidth 6))
  else if n < 0x148 then some (.c (x.setWidth 3))
  else if n < 0x14C then some (.l (x.setWidth 2))
  else if n = 0x14C then some .zero
  else if n = 0x14D then some .lit
  else if n = 0x14E then some .litHi
  else if 0x150 ≤ n ∧ n < 0x158 then some (.p (x.setWidth 3))
  else if 0x160 ≤ n ∧ n < 0x180 then some (.imm (x.setWidth 5))
  else none

/-- A 6-bit selector (R42); a reserved value gives none. -/
def sel6 (uni : Bool) (x : BitVec 6) : Option Sel :=
  let n := x.toNat
  if n = 60 then some .zero
  else if n = 61 then some .lit
  else if 62 ≤ n then none
  else if uni then some (.s x)
  else if n < 48 then some (.v (x.setWidth 8))
  else if n < 56 then some (.c (x.setWidth 3))
  else some (.l (x.setWidth 2))

/-- The rounding of a RND code (R51). -/
def rndOf (x : BitVec 2) : Rnd :=
  match x.toNat with
  | 0 => .rne | 1 => .rz | 2 => .rd | _ => .ru

/-- The width of a width code (R48). -/
def widOf (x : BitVec 2) : Wid :=
  match x.toNat with
  | 0 => .w1 | 1 => .w2 | 2 => .w4 | _ => .w8

/-- The fields of a short form (R41, R43). -/
def rawShort (w : Word) (ty : Ty) (lit : Option Addr) : Except Reject Fields :=
  let uni := bit w 3
  match sel6 uni (bits w 17 12), sel6 uni (bits w 23 18), sel6 uni (bits w 29 24) with
  | some d, some a, some b =>
    .ok { form := .short, rb := bit w 2, uni := uni, gp := 7, la := 0, rnd := .rne, ty := ty, sub := 0, d := d, a := a,
          b := b, c := .zero, dw := .w1, aw := .w1, bw := .w1, cw := .w1, da := bit w 30, db := bit w 31, dc := false,
          keep := false, kc := 0, na := false, nb := false, absa := false, sat := false, x := 0, lit := lit }
  | _, _, _ => .error .reservedSelector

/-- The fields of an extended form (R44). -/
def rawExt (w0 w1 w2 : Word) (lit : Option Addr) : Except Reject Fields :=
  match Ty.ofCode (bits w0 22 18) with
  | none => .error .reservedType
  | some ty =>
    match sel9 (bits w1 8 0), sel9 (bits w1 19 11), sel9 (bits w1 30 22), sel9 (bits w2 10 2) with
    | some d, some a, some b, some c =>
      .ok { form := .ext, rb := bit w0 2, uni := bit w0 3, gp := bits w0 31 29, la := bits w0 28 25,
            rnd := rndOf (bits w0 24 23), ty := ty, sub := bits w0 17 12, d := d, a := a, b := b, c := c,
            dw := widOf (bits w1 10 9), aw := widOf (bits w1 21 20), bw := widOf (bits w2 1 0),
            cw := widOf (bits w2 12 11), da := bit w1 31, db := bit w2 13, dc := bit w2 14, keep := bit w2 15,
            kc := bits w2 18 16, na := bit w2 19, nb := bit w2 20, absa := bit w2 21, sat := bit w2 22,
            x := bits w2 31 23, lit := lit }
    | _, _, _, _ => .error .reservedSelector

/-- The short-form type of an opcode (R61), or the reason it has no short form. It does not depend on the fields, so
it is read from fields that hold nothing. -/
def Opcode.shortType (op : Opcode) : Option Ty :=
  (op.spec { form := .short, rb := false, uni := false, gp := 7, la := 0, rnd := .rne, ty := .s32, sub := 0, d := .zero,
             a := .zero, b := .zero, c := .zero, dw := .w1, aw := .w1, bw := .w1, cw := .w1, da := false, db := false,
             dc := false, keep := false, kc := 0, na := false, nb := false, absa := false, sat := false, x := 0,
             lit := none }).shortTy

/-- The fields of an instruction of a known opcode, before the checks of R54. -/
def rawFields (op : Opcode) (ws : List Word) : Except Reject Fields :=
  match ws with
  | [] => .error .truncated
  | w0 :: rest =>
    match lenForm w0, rest with
    | (.short, hasLit), rest =>
      match op.shortType with
      | none => .error .wrongForm
      | some ty =>
        match hasLit, rest with
        | false, _ => rawShort w0 ty none
        | true, lo :: hi :: _ => rawShort w0 ty (some (pair lo hi))
        | true, _ => .error .truncated
    | (.ext, false), w1 :: w2 :: _ => rawExt w0 w1 w2 none
    | (.ext, true), w1 :: w2 :: lo :: hi :: _ => rawExt w0 w1 w2 (some (pair lo hi))
    | (.ext, _), _ => .error .truncated

/-- The decoder: the instruction whose first words these are, or the reason it is illegal (R54). -/
def decode (ws : List Word) : Except Reject Instr :=
  match ws with
  | [] => .error .truncated
  | w0 :: _ =>
    match Opcode.ofCode (bits w0 11 4) with
    | none => .error .unassignedOpcode
    | some op =>
      match rawFields op ws with
      | .error r => .error r
      | .ok f =>
        match op.check f with
        | some r => .error r
        | none => .ok (op.instr f)

/-- The 9-bit code of a selector (R46). -/
def Sel.code9 : Sel → BitVec 9
  | .v n => n.setWidth 9
  | .s n => 0x100 + n.setWidth 9
  | .c n => 0x140 + n.setWidth 9
  | .l n => 0x148 + n.setWidth 9
  | .zero => 0x14C
  | .lit => 0x14D
  | .litHi => 0x14E
  | .p n => 0x150 + n.setWidth 9
  | .imm k => 0x160 + k.setWidth 9

/-- The 6-bit code of a selector that fits a short form (R42). -/
def Sel.code6 : Sel → BitVec 6
  | .v n => n.setWidth 6
  | .s n => n
  | .c n => 48 + n.setWidth 6
  | .l n => 56 + n.setWidth 6
  | .zero => 60
  | .lit => 61
  | .litHi | .p _ | .imm _ => 62

/-- The RND code of a rounding (R51). -/
def Rnd.code : Rnd → BitVec 2
  | .rne => 0 | .rz => 1 | .rd => 2 | .ru => 3

/-- The code of a width (R48). -/
def Wid.code : Wid → BitVec 2
  | .w1 => 0 | .w2 => 1 | .w4 => 2 | .w8 => 3

/-- One bit as a field. -/
def flag (b : Bool) : BitVec 1 := BitVec.ofBool b

/-- The bits 11:0 every form carries (R40). -/
def encodeCommon (op : Opcode) (f : Fields) : BitVec 12 :=
  op.code ++ flag f.uni ++ flag f.rb ++ flag (f.form == .ext) ++ flag f.lit.isSome

/-- The word of a short form (R41). -/
def encodeShort (op : Opcode) (f : Fields) : Word :=
  flag f.db ++ flag f.da ++ f.b.code6 ++ f.a.code6 ++ f.d.code6 ++ encodeCommon op f

/-- Word 0 of an extended form (R44). -/
def encodeExt0 (op : Opcode) (f : Fields) : Word :=
  f.gp ++ f.la ++ f.rnd.code ++ f.ty.code ++ f.sub ++ encodeCommon op f

/-- Word 1 of an extended form (R44). -/
def encodeExt1 (f : Fields) : Word :=
  flag f.da ++ f.b.code9 ++ f.aw.code ++ f.a.code9 ++ f.dw.code ++ f.d.code9

/-- Word 2 of an extended form (R44). -/
def encodeExt2 (f : Fields) : Word :=
  f.x ++ flag f.sat ++ flag f.absa ++ flag f.nb ++ flag f.na ++ f.kc ++ flag f.keep ++ flag f.dc ++ flag f.db
    ++ f.cw.code ++ f.c.code9 ++ f.bw.code

/-- The words of a literal, low word first (R38). -/
def encodeLit : Option Addr → List Word
  | none => []
  | some x => [loWord x, hiWord x]

/-- The words of an encoded instruction. -/
def encodeFields (op : Opcode) (f : Fields) : List Word :=
  match f.form with
  | .short => encodeShort op f :: encodeLit f.lit
  | .ext => encodeExt0 op f :: encodeExt1 f :: encodeExt2 f :: encodeLit f.lit

/-- The words of an instruction; an event has none. -/
def encode (i : Instr) : List Word :=
  match i.encoded with
  | some (op, f) => encodeFields op f
  | none => []

/-- The words of a number whose bits are numbered as the opcode table numbers them: word `k` holds bits
`32k+31 : 32k`. -/
def tableWords : Nat → Nat → List Word
  | 0, _ => []
  | k + 1, w => BitVec.ofNat 32 w :: tableWords k (w / 2 ^ 32)

/-- The instruction the decoder reads from an instruction whose bits are `w`, of which the table gives `nbits`; every
bit above them is 0, up to the longest instruction. -/
def decodeTableWord (nbits w : Nat) : Option Instr :=
  match decode (tableWords 5 (w % 2 ^ nbits)) with
  | .ok i => some i
  | .error _ => none

end Sys2Proof
end

