-- ==== Sys2Proof/Config.lean ====
section
/-! DEFINITION. What the specification leaves open: free values, with no body, so that nothing can be proved about
their numbers; and the functions of this part whose tables the specification does not publish. -/

namespace Sys2Proof.Config

/-- A result whose value the specification does not state: the machine's counter `fresh` picks one
(log 6, DESIGN CHOICE). -/
opaque freeWord : Nat → BitVec 32

/-- What a value that R103, R95 or R97 leaves unspecified is drawn from: nothing, for zero, or one of the patterns that its
context has on the core, named by a holder, a kind of register, a number and a thread (log 6, DESIGN CHOICE). -/
opaque freePattern : Nat → Option (Nat × Nat × Nat × Nat)

/-- An unspecified choice between alternatives, each of which the specification allows (log 6, DESIGN CHOICE). -/
opaque freeBit : Nat → Bool

/-- What a read of a line under a key other than the one that wrote it decrypts to (R367): the key it was written with, the key
it is read with, the tweak, the 32 bytes of its data unit before encryption, and the byte's place among them
(log 13, DESIGN CHOICE). -/
opaque foreignByte : Nat → Nat → Nat → Nat → Nat → Byte

/-- A signature, measurement or attestation value (R378-R380), uninterpreted: kind and input (log 14, DESIGN CHOICE). -/
opaque digest : Nat → Nat → Nat

/-- The energy, in microjoules, that the energy model of R375 gives a context's work at a column, uninterpreted: the weights of
the configuration record, what works, the column, the context, the column's clock and the clocks that pass
(log 15, DESIGN CHOICE). -/
opaque energy : Nat → Nat → Nat → Nat → Nat → Nat → Nat

end Sys2Proof.Config
end

