-- ==== Sys2Proof/Machine/State.lean ====
section
/-! DEFINITION. The state of the machine: plain data, one part for each agent the specification names, and the state
after reset. INVENTORY.md lists every field with its rule. -/

namespace Sys2Proof.Machine

/-- A sparse map: pairs of key and value, keys rising; an unlisted key has the default its reader names. -/
abbrev AMap (α : Type) := List (Nat × α)

/-- A 32-bit value for each of the 64 threads, and the threads whose lane is poisoned (R394). -/
structure Lanes where
  val    : List Word
  poison : Mask
  deriving DecidableEq, Repr

/-- The lanes that hold zero. -/
def Lanes.zero : Lanes := { val := List.replicate 64 0, poison := 0 }

/-- A live V register: its physical register within the bank, and its lanes (R97). -/
structure VReg where
  phys  : Nat
  lanes : Lanes
  deriving DecidableEq, Repr

/-- An operand-cache entry or a latch: valid for the whole warp or not (R94, R95). -/
structure Entry where
  valid : Bool
  lanes : Lanes
  deriving DecidableEq, Repr

/-- An S register (R99), with its poison (R394). -/
structure SVal where
  val    : Word
  poison : Bool
  deriving DecidableEq, Repr

/-- The value of an S register at warp start. -/
def SVal.zero : SVal := { val := 0, poison := false }

/-- A permutation slot: 11 words (R313), with its poison (R394). -/
structure QSlot where
  words  : List Word
  poison : Bool
  deriving DecidableEq, Repr

/-- The registers and counters of a warp that a run buffers (R79). -/
structure Regs where
  v     : AMap VReg            -- the live V registers
  s     : List SVal            -- S0-S63
  p     : List Mask            -- P0-P7
  c     : List Entry           -- C0-C7
  q     : List QSlot           -- Q0-Q3
  nc    : List (BitVec 8)      -- NC of each thread
  mark  : Mask                 -- exit marks
  depth : Nat                  -- D
  ldep  : Nat                  -- LDEP
  pc    : Addr
  home  : List Lanes           -- H0-H11 of compatible mode (R104)
  deriving DecidableEq, Repr

/-- Where a byte lies, once its address is resolved and translated. -/
inductive Loc where
  | mem (col pa slot : Nat)    -- DRAM of a column, with the key slot of the leaf
  | host (pa : Nat)            -- host memory
  | spad (col off : Nat)       -- scratchpad
  | peer (dev asid ptr : Nat)  -- a peer's memory, at a pointer of its paired context
  deriving DecidableEq, Repr

/-- An ordering flag with its scope code (R66, R67). -/
structure Ord where
  acq   : Bool
  rel   : Bool
  scope : Nat
  deriving DecidableEq, Repr

/-- One byte a store writes. -/
structure ByteW where
  loc    : Loc
  va     : Nat                 -- the address it was written at, with its space (R80)
  byte   : Byte
  poison : Bool
  deriving DecidableEq, Repr

/-- A buffered store of a run (R80), its bytes in the order they are written. -/
structure BufStore where
  bytes  : List ByteW
  so     : Bool                -- to a strongly ordered page (R245)
  priv   : Bool                -- an STL, whose L1 line is write-back (R276)
  rel    : Option Nat          -- a release, with its scope
  pool   : Bool
  colAx  : Bool
  stream : Bool
  noL1   : Bool
  zero   : Bool                -- CCZERO's zeros (R293)
  after  : Nat                 -- how many commands of the run were queued before it
  pc     : Addr
  deriving DecidableEq, Repr

/-- The matrix commands (R228-R231). -/
inductive MatOp where
  | mma | mmat | mzero | mldz | mst
  deriving DecidableEq, Repr

/-- A queued matrix command. The engine performs a chunk or a line of it at a time, between two boundaries of R224. -/
structure MatCmd where
  op    : MatOp
  tile  : Nat
  descA : List Word            -- Sa to Sa+3 (R212)
  descB : List Word
  slotA : Nat
  slotB : Nat
  ord   : Ord
  warp  : Nat
  block : Nat
  batch : Nat                  -- the warp's batch count when it was queued: its batch is this plus one
  next  : Nat                  -- the chunk or line it performs next
  pc    : Addr
  deriving DecidableEq, Repr

/-- The copy and bank commands (R317). -/
inductive CopyOp where
  | cpy | cpy2 | cpyz | cpyx | bzero | bcopy | bcmp | bfence
  deriving DecidableEq, Repr

/-- A copy or bank command: its operands, its handle, and how far it has come (R320-R322). -/
structure CopyCmd where
  op      : CopyOp
  dst     : Addr
  src     : Addr
  len     : Nat                -- bytes, or row bytes times rows
  row     : Nat                -- row bytes of CPY2; otherwise the length
  dstride : Nat
  sstride : Nat
  barrier : Word
  link    : Word
  ord     : Ord
  dreg    : Nat                -- the S quad of the handle record
  pc      : Addr
  col     : Nat
  asid    : Nat
  warp    : Nat
  block   : Nat
  gang    : Nat
  handle  : Nat
  promise : Option Nat
  done    : Nat                -- bytes moved, whole chunks or units
  fault   : Option (Nat × Addr) -- cause and address (R322)
  stage   : Nat                -- 0 queued, 1 in progress, 2 performed or faulted
  bank    : Bool               -- in the bank queue
  deriving DecidableEq, Repr

/-- The merge commands (R344). -/
inductive MergeOp where
  | openRound | put | endGroup | rank | drop
  deriving DecidableEq, Repr

/-- A merge command on its way to a station (R340-R346). -/
structure MergeCmd where
  id      : Nat
  op      : MergeOp
  ref     : Addr               -- the round reference
  src     : Addr               -- TOT or SRC
  w0      : Word               -- the parameter, PUT, END or RANK word
  w1      : Word
  ord     : Ord
  col     : Nat                -- the issuing column
  asid    : Nat
  warp    : Nat
  block   : Nat
  gang    : Nat
  sent    : Nat                -- tiles that have left the outbound queue; 1 for a marker that has
  done    : Nat                -- tiles staged, or sent on to a peer
  part    : List (Byte × Bool) -- the bytes read of the next tile, whole chunks, with their poison (R333)
  deriving DecidableEq, Repr

/-- A refusal recorded against a warp (R343). -/
structure MergeRefusal where
  ref  : Addr
  code : Nat
  cont : Nat
  tile : Nat
  addr : Addr
  deriving DecidableEq, Repr

/-- What a run sends or changes at its commit, in program order (class Q of R60, and the writes of special registers). -/
inductive QCmd where
  | mat (c : MatCmd)
  | mfence (d : Nat)
  | copy (c : CopyCmd)
  | merge (c : MergeCmd)
  | phase (next : Bool) (v : Word)
  | cpart (v : Nat)
  | arrv (col off : Nat) (n : Word) (rel : Option Nat)
  | launch (d : Nat) (ptr : Addr) (rel : Option Nat)
  | tape (kind : Nat) (ind : Bool) (d : Nat) (ptr : Addr)
  | cctl (sub : Nat) (locs : List (Nat × Nat × Loc))
  | fence (kind scope : Nat)
  | chkerr (d : Nat) (mask : Addr)
  | sreg (n : Nat) (v : Word)
  | lsupd (d : Nat) (flag : Bool)
  | mupd (suppressed : Nat) (negv : Bool)
  | sysreg (n : Nat) (v : Addr)
  | trn
  | poisoned (d n : Nat)       -- a command that consumed poison: the results it writes from Sd on are poisoned (R60, R394)
  deriving DecidableEq, Repr

/-- The atomics (R297, R311). -/
inductive AtomKind where
  | atom | acas | afadd | red | patom
  deriving DecidableEq, Repr

/-- One thread's atomic: where its bytes lie, the schedule offset of the first, and its D group, with its poison. -/
structure AtomAcc where
  t      : Nat
  locs   : List Loc
  off    : Nat
  data   : List Word
  poison : Bool
  deriving DecidableEq, Repr

/-- The irrevocable instruction a run ends in (R82): an atomic, or an exchange. -/
inductive Irr where
  | atomic (f : Fields) (op : AtomKind) (accs : List AtomAcc) (pend : Nat)
  | exchange (f : Fields) (red : Bool) (vals : List Lanes) (mask : Mask) (pend : Nat)
  deriving DecidableEq, Repr

/-- What a pending result does besides writing registers (R203, R313). -/
inductive PendFx where
  | none
  | mupd (suppressed : Nat) (negv : Bool)
  | bset (k : Nat) (words : List Word) (poison : Bool)
  | mstat (tile : Nat)         -- its words are read when it arrives (R234)
  -- a load behind a BFENCE, the command of its run at this place, or a BSET of a slot: for each thread its bytes, and those a
  -- store of its run gave (R326)
  | load (at_ : Nat) (slot : Option Nat) (psn : Mask) (got : List (Nat × List (Loc × Option (Byte × Bool))))
  deriving DecidableEq, Repr

/-- A long-latency result on its way (R100). -/
structure Pending where
  id        : Nat
  dst       : Sel
  count     : Nat              -- registers of the group
  vals      : List Lanes       -- one for each register; a uniform result stands in lane 0
  mask      : Mask
  uni       : Bool
  latch     : Option Nat
  keep      : Option Nat
  window    : Nat              -- instructions that may still execute before it
  ready     : Bool             -- false while an irrevocable instruction is not performed
  here      : Bool             -- its data has arrived, inside its window
  ofRun     : Bool             -- opened by the run in flight
  outer     : Bool             -- opened before the trap whose handler runs
  contested : List Nat         -- registers of the group, and 8 for the KEEP entry, written inside the window (R103 code 2)
  touched   : List Nat         -- those that the run in flight has written
  fx        : PendFx
  pc        : Addr
  deriving DecidableEq, Repr

/-- What ends a run (R75), and what its commit then does. -/
inductive RunEnd where
  | plain                      -- RB, a jump, ENDLOOP, retirement, or the cut-off of R56
  | yield
  | sleep (target : Option Nat)
  | bar (b : Nat)
  | gbar (b : Nat)
  | waitb (col off : Nat) (p : Word) (acq : Option Nat)
  | cwait (d : Nat) (h : Word)
  | mwait (n : Word)
  | mrgWait (d : Nat) (ref : Addr)
  | gwait (d : Nat) (h : Word)
  | trap (c : Nat)
  | tret
  | irr
  deriving DecidableEq, Repr

/-- The run in flight (R79). -/
structure Run where
  startPc : Addr
  count   : Nat                -- instructions executed
  stores  : Nat
  allocs  : Nat
  work    : Regs               -- the registers with the run's own writes
  latch   : List Entry         -- L0-L3 (R93, R94)
  freed   : List (Nat × VReg)  -- physical registers to free at commit: bank, index and what they hold
  dead    : List Nat           -- logical registers whose dead read ends them at commit
  stbuf   : List BufStore      -- oldest first
  cmds    : List QCmd
  irr     : Option Irr
  soLoads : List Loc           -- bytes the run's SO loads read (R245)
  soHit   : Bool               -- another party has written one of them since
  -- 1 after a release of the run, or of the exchange performed before it; 2 after a full fence, or an acquire after a release,
  -- of CORE or COLUMN scope; 3 after one of a wider scope (R255, R262)
  fenced  : Nat
  late    : List (Loc × Byte × Bool) -- bytes that loads behind such an order read of memory; whether behind a wide one
  -- what MRG.STAT read of a round behind such an order: its reference, selector, word (R355)
  lateStat : List (Addr × Nat × Word)
  behind  : Bool               -- it acquired while a load of it waited behind a BFENCE: later loads wait too (R268)
  cmp     : List (Addr × Addr) -- in protected mode, results compared at commit: primary and shadow (R90)
  lastPc  : Addr               -- the last instruction executed
  skipped : Bool               -- a BKPT of it was skipped (R111)
  sAt     : AMap Nat           -- for an S register an instruction of it wrote: how many commands stood before (R128, R206)
  cold    : Bool               -- its last instruction is YIELD or a W instruction (R96)
  ended   : Option RunEnd
  deriving DecidableEq, Repr

/-- The part of a committed run that stands behind a BFENCE or CPART of it (R326, R353): the place of the run's commands just
past that one, and the places of its BFENCEs, each with the bank command it is. -/
structure Rest where
  run    : Run
  place  : Nat
  fences : List (Nat × Nat)
  deriving DecidableEq, Repr

/-- What a warp waits for (R361). -/
inductive Wait where
  | none
  | bar (b : Nat)
  | gbar (b : Nat)
  | waitb (col off : Nat) (p : Word) (acq : Option Nat)
  | sleep (target : Nat)
  | cwait (d : Nat) (h : Word)
  | mwait (n : Word)
  -- 0 still waiting, 1 the round was dropped, 2 + its scope when it is DONE; from a peer's station also 7 no such round, 8
  -- refused with code 10
  | mrgWait (d : Nat) (ref : Addr) (fate : Nat)
  | gwait (d : Nat) (h : Word) (fate : Nat) -- 0 while its grid runs, then 1 + the status (R123)
  -- discarded for want of a register of a bank: the registers in use then, whether an older warp was swapped out, and whether it
  -- was the privileged warp (R98)
  | pressure (bank : Nat) (held : List Nat) (older priv : Bool)
  deriving DecidableEq, Repr

/-- What trap entry saves of a warp (R124). -/
structure Saved where
  c     : List Entry
  nc    : List (BitVec 8)
  depth : Nat
  ldep  : Nat
  mark  : Mask
  tpc   : Addr                 -- the address of the trapping instruction (R111)
  frame : Addr                 -- where entry wrote the frame (R126)
  deriving DecidableEq, Repr

/-- An exchange that a warp has arrived at (R303). -/
structure Arrival where
  red    : Bool
  f      : Fields
  vals   : List Lanes
  mask   : Mask
  q      : Nat
  since  : Nat                 -- CYC of its column at the arrival
  pend   : Nat
  pc     : Addr
  nextPc : Addr
  deriving DecidableEq, Repr

/-- A matrix fault of a warp's command that no MWAIT has reported (R233). -/
structure MatFault where
  batch : Nat
  tile  : Nat
  done  : Nat
  addr  : Addr
  deriving DecidableEq, Repr

/-- A resident, swapped-out or pre-empted warp (R72). -/
structure Warp where
  col     : Nat
  core    : Nat
  wcore   : Nat                -- core-local number
  slot    : Nat
  num     : Nat                -- number within the block
  block   : Nat
  age     : Nat                -- when its block became resident on the core
  since   : Nat                -- release time (R77)
  regs    : Regs
  run     : Option Run
  pend    : List Pending
  wait    : Wait
  waitPc  : Addr               -- the instruction that waits
  hmode   : Bool
  saved   : Option Saved
  bskip   : Option Addr        -- TPC of a breakpoint to skip in the next run (R111)
  batch   : Nat                -- R232
  xcount  : Nat                -- R303
  arrived : Option Arrival
  pbase   : Addr
  plim    : Nat
  swapped : Bool
  halted  : Bool               -- by pre-emption or a column failure
  retired : Bool
  yielded : Bool               -- since it last held the slot it executed YIELD or was forced to
  swapReq : Bool               -- a swap-out waits for its run boundary
  colFail : List (Nat × Nat × Nat) -- column-failure events not yet delivered: g, kind, column
  wdog    : Bool               -- a forced yield waits for its run boundary
  soTries : Nat                -- successive discards of R245
  refused : List MergeRefusal
  matFlt  : List MatFault
  static  : List (Nat × Nat)   -- physical registers of H0-H11 in compatible mode (R104)
  begun   : Bool               -- it has ended a run: only from then on does it stand at a run boundary between two runs
  rest    : Option Rest        -- what its last run has still to perform behind a BFENCE or CPART (R326, R353)
  deriving DecidableEq, Repr

/-- A Z tile (R210): its elements are listed where they are not zero. -/
structure Tile where
  elems : AMap (BitVec 48)     -- element (m, n) at 128m + n
  prod  : Word
  mode  : Nat                  -- 0 CLEAR, 1 FLOAT, 2 INT48
  flt   : Bool
  psn   : Bool
  ovf   : Bool
  fltAt : Nat                  -- chunks or lines completed by the command that set FLT
  deriving DecidableEq, Repr

/-- A tile at block start and after MZERO (R210). -/
def Tile.clear : Tile :=
  { elems := [], prod := 0, mode := 0, flt := false, psn := false, ovf := false, fltAt := 0 }

/-- A resident block (R72). -/
structure Block where
  gang    : Nat
  g       : Nat                -- gang-relative index
  col     : Nat
  core    : Nat
  nwarp   : Nat
  oct     : Nat
  tiles   : List Tile
  bar     : List (Nat × Nat)   -- arrivals: barrier and warp
  poison  : Bool               -- the record of R127
  lost    : Bool               -- R406
  retired : Bool
  counted : AMap (Nat × Word)  -- MODE and PROD of a tile after the commands counted so far (R218)
  queue   : List MatCmd        -- its matrix commands while its gang is pre-empted (R224)
  deriving DecidableEq, Repr

/-- A LAUNCH or TAPE command that a restartable gang's retirement will perform (R391): a held child grid, a record to
push, a drain, a clear. -/
inductive Held where
  | launch (grid : Nat)
  | push (bytes : List Byte) (ind : Bool)
  | drain
  | clear
  deriving DecidableEq, Repr

/-- The states of a gang. -/
inductive GangState where
  | running | preempted | killed | retired
  deriving DecidableEq, Repr

/-- A placed gang (R143). -/
structure Gang where
  grid     : Nat
  index    : Nat
  columns  : List Nat          -- its physical columns, in the order of its blocks
  m        : Nat               -- blocks per column
  size     : Nat               -- G
  base     : Nat               -- base core b
  pool     : AMap Nat          -- pool window base on each physical column
  gbar     : List (Nat × Nat)  -- arrivals: barrier and warp
  held     : List Held         -- in commit order (R391)
  lnum     : List (Nat × Nat)  -- for a pre-empted gang: its columns with their logical numbers then (R140)
  relaunch : Nat
  peers    : List Nat          -- the peer devices at whose stations it has contributors (R337)
  state    : GangState
  deriving DecidableEq, Repr

/-- The fields of a launch record (R131). -/
structure Record where
  bytes  : List Byte           -- the 256 bytes, for LDK
  entry  : Addr
  gdx    : Nat
  gdy    : Nat
  gdz    : Nat
  nwarp  : Nat
  gang   : Nat
  mode   : Nat                 -- 0 native, 1 native-debug, 2 compatible
  ftz    : Bool
  prot   : Bool
  rstrt  : Bool
  oct    : Nat
  ways   : Nat                 -- 0, 4, 8 or 12
  prio   : Nat
  poolw  : Nat                 -- KiB
  pwords : Nat
  nreg   : Nat
  tvec   : Addr
  tframe : Addr
  const  : Addr
  csize  : Nat
  disp   : Addr
  pred0  : Nat
  pred1  : Nat
  parent : Nat
  shp    : List Word
  slots  : List (BitVec 64)
  deriving DecidableEq, Repr

/-- The states of a grid. -/
inductive GridState where
  | held                       -- a held launch (R391)
  | command                    -- in a column's command queue (R137)
  | pending                    -- in the pending set, with its gangs placed one by one
  | retired
  deriving DecidableEq, Repr

/-- A predecessor of a grid (R138). -/
structure Pred where
  handle : Nat                 -- the handle its record names; 0 for a chain predecessor
  grid   : Option Nat          -- the grid, once the handle has named one
  status : Option Nat          -- the status that grid retired with
  deriving DecidableEq, Repr

/-- A grid the scheduler knows (R131-R149). -/
structure Grid where
  asid    : Nat
  handle  : Nat
  rcd     : Record
  depth   : Nat
  parent  : Option Nat
  prio    : Nat
  order   : Nat                -- acceptance order
  preds   : List Pred          -- PRED0, PRED1 and the chain predecessor (R138, R148)
  drain   : List Nat           -- for the last grid of a drain: the grids it covers
  queue   : Option (Nat × Addr × Nat) -- host queue, QCMPL and ring size in force at acceptance
  bucket  : Word
  spad    : List Word
  next    : Nat                -- grid index of the next gang to place
  passed  : Nat                -- placements that passed it over
  judged  : Bool               -- R141's judgement has been made
  state   : GridState
  error   : Bool               -- some part of it ended with an error
  cause   : Option Nat         -- the cause of a trap that had no handler (R124)
  status  : Nat
  tvec    : AMap Addr          -- by physical column
  tframe  : AMap Addr
  lapse   : Nat                -- the count of records of its queue, or of grids created, at which its handle lapses (R133)
  deriving DecidableEq, Repr

/-- A context (R359). -/
structure Context where
  live     : Bool
  map      : List (Nat × Nat)  -- logical to physical columns, in the order they were mapped (R114, R408)
  roots    : AMap Nat          -- level-3 table of each physical column
  lroots   : List (Nat × Nat × Nat) -- physical column, logical column, table
  sched    : AMap (BitVec 128) -- eviction schedule: entry e of column c at 16c + e (R284)
  save     : AMap (Nat × Nat)  -- save area of each column: address and key slot
  priv     : AMap (Nat × Nat)  -- private region of each column: offset and length
  pairs    : AMap Nat          -- Watik pairing: peer device to peer ASID (R373)
  meters   : AMap (BitVec 64)  -- meter n of column c at 16c + n (R375)
  closed   : Bool              -- a closed meter block waits to be collected (R376)
  cir      : AMap (BitVec 64)  -- CIR of each column (R127)
  sreg     : AMap Word         -- RW special register n of column c at 64c + n (R114)
  wdogl    : AMap Word         -- WDOGL of each column (R130)
  stack    : List (List Byte × Bool) -- wake stack, newest first (R122)
  launches : Nat               -- the counter of R133
  copies   : AMap Nat          -- commands accepted on each column (R320)
  rank     : List (Nat × Addr × Nat) -- rank table: column, reference, rank (R341)
  created  : Nat               -- grids created by LAUNCH and TAPE.DRAIN (R133)
  accepted : AMap Nat          -- records accepted from each host queue (R133)
  deriving DecidableEq, Repr

/-- An L1 line (R275). -/
structure L1Line where
  asid  : Nat
  lcol  : Nat
  vline : Nat                  -- OFF div 64
  way   : Nat
  ploc  : Loc                  -- where its first byte lies
  read  : Bool
  write : Bool
  exec  : Bool
  kind  : Nat
  priv  : Bool                 -- brought in by LDL or STL: write-back (R276)
  dirty : Bool
  psn   : Bool                 -- the line is poisoned (R394)
  deriving DecidableEq, Repr

/-- A host line that a column holds (R252). -/
structure HostLine where
  bytes : List Byte            -- 64 bytes
  dirty : Nat                  -- one bit for each byte written and not yet written back
  psn   : Nat                  -- one bit for each 32-byte row line that is poisoned (R394)
  since : Nat                  -- CYC of the column when a byte of it became dirty
  asid  : Nat                  -- the context whose access brought it or last stored into it (R375)
  deriving DecidableEq, Repr

/-- A sector of a column cache (R280-R285, R368). -/
structure Sector where
  slice  : Nat
  set    : Nat
  way    : Nat
  zero   : Bool                -- held in a zero tag
  addr   : Nat                 -- physical address div 1,024
  host   : Bool
  slot   : Nat
  colAx  : Bool                -- oriented along columns
  dirty  : Bool
  phase  : Word
  passed : Bool
  deriving DecidableEq, Repr

/-- A leaf held by a TLB (R363). -/
structure TlbEntry where
  asid  : Nat
  lcol  : Nat
  page  : Nat                  -- OFF div page size
  shift : Nat                  -- log2 of the page size
  base  : Nat                  -- physical address of the page
  host  : Bool
  slot  : Nat
  read  : Bool
  write : Bool
  exec  : Bool
  kind  : Nat
  deriving DecidableEq, Repr

/-- A page from which a grid has fetched an instruction (R39): of a column or of the host. -/
structure CodePage where
  grid : Nat
  col  : Nat
  host : Bool
  base : Nat
  size : Nat
  deriving DecidableEq, Repr

/-- A word of a code page as it stood before a store of the grid that fetches there (R39). -/
structure OldWord where
  grid  : Nat
  place : Loc
  word  : Word
  deriving DecidableEq, Repr

/-- The states of a merge round slot (R331). -/
inductive RoundState where
  | opened | done
  deriving DecidableEq, Repr

/-- A contributor of a round (R333-R337). -/
structure Contributor where
  tiles   : AMap (List Word)   -- staged tiles, 1,024 elements each
  loose   : List Nat           -- those that stand in the landing's free space (R332)
  gang    : Option (Nat × Bool) -- bound gang, and whether its grid is restartable
  ended   : Bool
  faulted : Bool
  poison  : Bool               -- a PUT of it read poison (R343)
  -- row lines of its staged tiles that an error of the landing has poisoned, line n of tile i at 128 i + n (R409)
  psn     : List Nat
  scale   : Option (Option Word) -- measured: none, rejected; some s, the scale
  released : Bool              -- its gang has retired (R337)
  deriving DecidableEq, Repr

/-- A merge round that holds a slot (R331). -/
structure Round where
  col     : Nat                -- the station
  asid    : Nat
  id      : Nat
  state   : RoundState
  bf16    : Bool
  t       : Nat
  k       : Nat
  limit   : Word
  tot     : Addr
  scope   : Nat
  order   : Nat                -- when it completed
  total   : List (List Word)
  psn     : List Nat           -- row lines of the running total that an error of the landing has poisoned (R409)
  cont    : AMap Contributor
  head    : Nat
  nDone   : Nat
  nRej    : Nat
  nScaled : Nat
  waiters : List (Nat × Nat)   -- the peers' warps that wait for it: device and warp (R347)
  deriving DecidableEq, Repr

/-- An issue slot (R77, R78). -/
structure Slot where
  holder : Option Nat
  mono   : Nat                 -- monopoly count
  claim  : Option Nat          -- the warp that won the slot at its last arbitration and has not issued since
  last   : Option Nat          -- the warp that held the slot last, whose clocks the monopoly count counts (R78)
  deriving DecidableEq, Repr

/-- A slot that no warp holds. -/
def Slot.idle : Slot := { holder := none, mono := 0, claim := none, last := none }

/-- A core (R10). -/
structure Core where
  l1      : List L1Line
  l1rr    : AMap Nat           -- next way of each set (R275)
  pred    : AMap Nat           -- prediction table: core number of each valid entry (R277)
  slots   : List Slot
  engine  : List MatCmd        -- the matrix queue, the command in progress first
  serving : Option Nat         -- the block whose tiles the engine holds (R209)
  -- what each physical register, latch and cache entry was left with, and by which context: register i of bank b at 512 b +
  -- i, latch k of slot n at 2048 + 4 n + k, entry k of warp place n at 4096 + 8 n + k (R97, R103)
  left    : AMap (Nat × Lanes)
  deriving DecidableEq, Repr

/-- A core with nothing in it. -/
def Core.idle : Core :=
  { l1 := [], l1rr := [], pred := [], slots := List.replicate 4 Slot.idle, engine := [],
    serving := none, left := [] }

/-- A column (R10). -/
structure Column where
  live     : Bool              -- named by the configuration record (R19)
  failed   : Nat               -- 0, or the kind of its failure (R405)
  halted   : Bool              -- by a thermal halt (R383)
  cwp      : Nat               -- scratchpad ways (R130)
  cph      : Word              -- phase register (R130)
  sit      : AMap Nat          -- entries of SIT that differ from their reset value b mod 8 (R280)
  sectors  : List Sector
  requests : AMap Nat          -- requests of this window, by bucket (R286)
  parts    : List (Nat × Nat)  -- changes of CWP waiting: way count and warp (R296)
  tlb      : List TlbEntry
  tlbNext  : Nat               -- the TLB entry replaced next
  clog     : AMap (BitVec 128) -- R401
  tlog     : AMap (BitVec 128)
  clcnt    : Word
  tlcnt    : Word
  spuse    : Word
  spmap    : Word              -- the configuration record's spare map, which SPUSE takes at boot (R379, R401)
  secnt    : Word
  retry    : List (Nat × Nat × Nat × Nat) -- transfers under retry: pseudo-channel, line, attempts, beat and direction (R400)
  trained  : AMap Nat          -- CYC at which each bus last began retraining, plus one (R403)
  due      : List Nat          -- buses whose retraining is deferred
  slotWin  : AMap Nat          -- SLOTCLK of each context in the window of 2^16 clk that runs (R375)
  spare    : BitVec 64         -- energy attributed to no context (R375)
  deriving DecidableEq, Repr

/-- A column after reset (log 4, DESIGN CHOICE). -/
def Column.reset : Column :=
  { live := true, failed := 0, halted := false, cwp := 0, cph := 0, sit := [], sectors := [], requests := [],
    parts := [], tlb := [], tlbNext := 0, clog := [], tlog := [], clcnt := 0, tlcnt := 0, spuse := 0, spmap := 0, secnt := 0,
    retry := [], trained := [], due := [], slotWin := [], spare := 0 }

/-- A host launch queue (R135). -/
structure Queue where
  qbase : Addr
  qctl  : Word
  qtail : Word
  qhead : Word
  qcmpl : Addr
  qdone : Word
  asid  : Option Nat           -- the ASID it served when it was last enabled
  n     : Nat                  -- records accepted for that context (R133)
  deriving DecidableEq, Repr

/-- A queue after reset (R135). -/
def Queue.reset : Queue :=
  { qbase := 0, qctl := 0, qtail := 0, qhead := 0, qcmpl := 0, qdone := 0, asid := none, n := 0 }

/-- A host aperture (R372). -/
structure Aperture where
  ctl : Word
  off : Addr
  len : Addr
  win : Addr
  deriving DecidableEq, Repr

/-- A staged firmware image (R382). -/
structure Image where
  index    : Nat
  bytes    : List Byte
  verified : Bool
  deriving DecidableEq, Repr

/-- A context-management command under way (R360): its number and ASID, and the arguments as they stood when it was written. -/
structure Busy where
  code : Nat
  asid : Nat
  arg0 : Addr
  arg1 : Addr
  arg2 : Addr
  deriving DecidableEq, Repr

/-- The registers of the device that the host, the management controller and firmware reach. -/
structure Dev where
  wdogd   : Word
  cmcmd   : Word
  cmarg0  : Addr
  cmarg1  : Addr
  cmarg2  : Addr
  cmstat  : Word
  cmkey   : BitVec 512
  queues  : List Queue
  aps     : List Aperture
  irqst   : Word
  irqen   : Word
  irqSent : Word               -- causes whose vector has been sent since their bit was set (R374)
  msix    : List (Addr × Word) -- address and data of each vector's table entry
  msixMask : List Bool
  msixPend : List Bool
  octbud  : List Nat
  mxthr   : List Nat
  calm    : List Nat           -- CYC of the tower's first column when its draw was last at or above 4,600 W (R222)
  fwcmd   : Word
  fwaddr  : Addr
  fwlen   : Word
  fwstat  : Word
  fwver   : Word
  staged  : List Image
  flash   : AMap (List Byte)   -- the current flash copy of each image
  bootst  : Nat
  flows   : List Nat           -- flows on the escape channel (R404)
  linkKeys : AMap Nat          -- keys agreed at training, by port (R373)
  retries : AMap Nat           -- link-level retries, by link (R404)
  halted  : Bool               -- by a thermal halt, until cold reset (R383)
  spdm    : Nat                -- signed responses given (R380)
  serial  : Nat                -- the serial number of the booted record (R379)
  -- the identity keys derived at this boot, by an identity of theirs; 0 while there are none (R379)
  identity : Nat
  measured : List (List Nat)   -- the measurement blocks 1 to 5 of this boot (R380)
  weights : Nat                -- the energy weights of the booted record, by an identity of theirs (R375, R379)
  thermLog : List Nat          -- CYC of column 0 at each thermal halt (R383)
  busy    : Option Busy        -- the context-management command under way, where one waits (R360, R362)
  deriving DecidableEq, Repr

/-- Something the device sends out: an interrupt, a completion, an answer (R374, R377, R380). -/
inductive Msg where
  | vector (v : Nat)
  | error                      -- an error completion of a host access (R372)
  | read (v : Addr) (poison : Bool) -- the data of a host read (R372, R394)
  | words (l : List Nat)       -- an answer of the management interface
  | flits (l : List Nat) (poison : Bool) -- the bytes a peer reads (R323, R394)
  -- a tile or a marker for a peer's station (R340)
  | merge (dev pasid : Nat) (m : MergeCmd) (data : List Byte) (poison rstrt : Bool)
  | mergeWait (dev pasid : Nat) (ref : Addr) (warp gang : Nat) -- a wait for a round of a peer's station (R347)
  | mergeNotice (dev gang : Nat) (retired : Bool) -- the end of a gang, for a peer's stations (R337)
  | mergeEnd (dev code cont tile : Nat) (addr : Addr) -- a peer's merge command performed (0) or refused here (R343)
  | mergeFate (dev warp fate : Nat) -- the end of a peer's wait, as a waiting warp's fate counts it
  | mergeWord (dev : Nat) (w : Word) -- the answer to a peer's MRG.STAT (R348)
  | signed (digest ed ml : Nat) -- an SPDM response with both signatures
  | snoop (line : Nat) (dirty : Bool) -- an answer to a CXL.cache snoop
  | status (code : Nat)
  deriving DecidableEq, Repr

/-- What a peer asks of a merge station of this device (R337, R340, R347, R348). -/
inductive PeerAsk where
  | none                       -- nothing: it is a read or a write
  | cmd (m : MergeCmd)         -- a tile or a marker
  | notice (gang : Nat) (retired : Bool)
  | wait (ref : Addr) (warp gang : Nat)
  | stat (ref : Addr) (sub : Nat)
  deriving DecidableEq, Repr

/-- A transfer of a peer that has reached this device (R323, R340, R373). -/
structure Inbound where
  peer  : Nat
  pasid : Nat                  -- the issuing context on the peer
  asid  : Nat                  -- the context it names here
  write : Bool
  ptr   : Addr
  data  : List Byte            -- the bytes written, or as many as are read
  ask   : PeerAsk
  rstrt : Bool                 -- the issuing gang's grid is restartable (R337)
  psn   : Bool                 -- it came as poisoned flits (R394)
  deriving DecidableEq, Repr

/-- What the world does to the machine at a moment of its own choosing: the errors of its storage (R399, R400, R409), and
what the host and peers do to what the device reads of them (R323, R371, R373) (log 8, DESIGN CHOICE). -/
inductive Upset where
  | corrected (col : Nat)                   -- an error that a code removes
  | symbol (col line sym pat : Nat)         -- a line of the array, in one symbol, or in more where `sym` is 255
  | transfer (col line beat dir : Nat)      -- the first attempt of a transfer fails
  | lane (w reg t : Nat)                    -- a lane of a V register
  | entry (w k t : Nat)                     -- a lane of a C entry
  | scalar (w n : Nat)                      -- an S register
  | disagree (w n : Nat)                    -- the second evaluation of the nth result of a run in protected mode differs (R90)
  | journal (w : Nat)                       -- a latch, NC, a predicate in flight, or the run's journal
  | l1Line (col core n : Nat)               -- the nth line an L1 holds
  | sector (col n line : Nat)               -- a line of the nth sector a column cache holds
  | scratchpad (col line : Nat)
  -- a row line of a contributor's staged tile, or, for the number past the last, of the running total
  | landing (round cont tile line : Nat)
  | tile (b z : Nat)
  | tlbEntry (col n : Nat)
  | prediction (col core n : Nat)
  | matrixQueue (col core : Nat)            -- the command the engine performs next, or performs
  | copyQueue (n : Nat)                     -- a copy or bank command in its queue
  | handle (n : Nat)                        -- the handle of a copy or bank command that is performed and not yet reported
  | mergeQueue (n : Nat)                    -- a merge command in the outbound queue
  | record (g : Nat)                        -- a scheduler's copy of a launch record
  | wakeEntry (asid n : Nat)                -- the nth record of a wake stack
  | heldPush (gang n : Nat)                 -- the record of a gang's nth held command (R391)
  | hostStore (pa : Nat) (bs : List Byte) (poison : Bool)
  | peerStore (dev asid ptr : Nat) (bs : List Byte) (poison : Bool)
  | peerPairs (dev pasid : Nat) (asid : Option Nat)
  | peerSends (i : Inbound)
  -- a peer's station has performed a merge command of this device, or refused it
  | mergeAnswer (n code cont tile : Nat) (addr : Addr)
  | mergeFate (w fate : Nat)                -- a peer's station answers a warp's wait
  | flowEmpty (flow : Nat)                  -- a flow on the escape channel holds no packet in flight (R404)
  | registerRead (addr : Nat)               -- the host reads a register of the PCIe space (R5)
  | measurement (n : Nat)                   -- the host or the management controller asks for a measurement block (R380)
  deriving DecidableEq, Repr

/-- Who takes the next step: a warp that issues, another agent, time, or the world. -/
inductive Turn where
  | issue (w : Nat)
  | event (i : Instr)
  | clocks (n : Nat)
  | upset (u : Upset)
  deriving DecidableEq, Repr

/-- Why the machine stops. -/
inductive Fault where
  /-- Raised by the meaning of an encoded instruction when no warp is issuing: exec was asked to run an instruction
  that no warp fetched. `step` never does. Safe. -/
  | noIssuingWarp
  deriving DecidableEq, Repr

/-- Why an instruction has no meaning. -/
inductive Refusal where
  /-- Raised by an arm of the dispatcher whose instruction has no meaning yet. Safe. -/
  | notModelled (mnemonic : String)
  deriving DecidableEq, Repr

/-- The machine. -/
structure State where
  -- whose turn it is (the model's own)
  agenda   : List Turn
  cur      : Option Nat        -- the issuing warp
  fresh    : Nat               -- the counter the free values are applied to
  nextId   : Nat               -- internal identities
  -- time (R18)
  cyc      : List Nat          -- CYC of each column
  -- agents
  columns  : AMap Column       -- columns that differ from their reset value
  cores    : AMap Core         -- core k of column c at 4c + k
  warps    : AMap Warp
  blocks   : AMap Block
  gangs    : AMap Gang
  grids    : AMap Grid
  contexts : AMap Context
  rounds   : AMap Round        -- rounds that hold a slot
  copies   : AMap CopyCmd      -- commands queued, in progress, or not yet reported
  merges   : AMap MergeCmd     -- the outbound merge queues, in acceptance order
  arrivals : AMap (Nat × Nat × Nat × Word) -- arrivals on barrier objects: gang, column, offset, count (R118)
  inbound  : AMap Inbound
  notices  : List (Nat × Nat × Bool) -- on their way to stations: column, gang, retired or killed (R337)
  -- device registers and keys
  dev      : Dev
  keys     : AMap (Nat × Nat)  -- key slot: ASID and the identity of its key (R360, R367)
  pairsIn  : AMap Nat          -- at peers: device * 8192 + their ASID to our ASID (R373)
  -- memories
  mem      : List Host.Cell    -- column memory: physical address pa of column c at 2^34 c + pa
  keyTag   : AMap Nat          -- the key each 32-byte line was written under
  memPsn   : List Nat          -- poisoned 32-byte lines
  -- lines whose read failed for good, which deliver poison to that read alone: whether it has been made (R400)
  readPsn  : AMap Bool
  -- what the levels below the L1s hold of a 64-byte line that stands dirty in one: bytes, key tags, poison (R276, R385)
  below    : AMap (List Byte × List (Option Nat) × List Bool)
  spad     : List Host.Cell    -- scratchpad byte o of column c at 2^24 c + o
  spadPsn  : List Nat
  host     : List Host.Cell    -- host memory
  hostPsn  : List Nat
  -- the key slot, and its context, whose data a scratchpad sector of 1,024 bytes holds: sector n of column c at 2^14 c + n (R368)
  spadTag  : AMap (Nat × Nat)
  hostCopy : AMap HostLine     -- host lines held by a column: line at 2^47 c + pa div 64
  peer     : List Host.Cell    -- peers' memory: pointer of a context of a device at 2^77 dev + 2^64 asid + ptr
  peerPsn  : List Nat
  -- 32-byte lines with errors in the array: the bad symbol and its pattern, or (255, 0) where more than one is bad (R399)
  errs     : AMap (Nat × Nat)
  blocked  : Bool              -- what was done met a row line under retry, and so does not take place (R411); the model's own
  -- code that its own grid stores into (R39)
  codePages : List CodePage
  oldWords : List OldWord
  -- whose state each record of a save area holds (R361): of a warp 32 times its block plus its number, of a block its identity;
  -- the model's own
  records  : AMap Nat
  -- what the device sent out
  msgs     : List Msg
  deriving DecidableEq, Repr

/-- The device registers after reset (R135, R145, R360, R372, R374, R382) (log 5, DESIGN CHOICE). -/
def Dev.reset : Dev :=
  { wdogd := 0x00400000, cmcmd := 0, cmarg0 := 0, cmarg1 := 0, cmarg2 := 0, cmstat := 0, cmkey := 0,
    queues := List.replicate 16 Queue.reset, aps := List.replicate 64 { ctl := 0, off := 0, len := 0, win := 0 },
    irqst := 0, irqen := 0, irqSent := 0, msix := List.replicate 8 (0, 0), msixMask := List.replicate 8 false
    msixPend := List.replicate 8 false,
    octbud := List.replicate 4 1024, mxthr := List.replicate 4 0, calm := List.replicate 4 0, fwcmd := 0, fwaddr := 0,
    fwlen := 0, fwstat := 0, fwver := 0, staged := [], flash := [], bootst := 0, flows := [], linkKeys := [],
    retries := [], halted := false, spdm := 0, serial := 0, identity := 0, measured := List.replicate 5 [], weights := 0,
    thermLog := [], busy := none }

/-- The machine after reset: no boot stage has ended (log 5, DESIGN CHOICE), no context is live. -/
def State.reset : State :=
  { agenda := [], cur := none, fresh := 0, nextId := 1, cyc := List.replicate 128 0, columns := [], cores := [],
    warps := [], blocks := [], gangs := [], grids := [], contexts := [], rounds := [], copies := [], merges := [],
    arrivals := [], inbound := [], notices := [], dev := Dev.reset, keys := [(0, (0, 0))], pairsIn := [], mem := [], keyTag := [],
    memPsn := [], readPsn := [], below := [], spad := [], spadPsn := [], spadTag := [], host := [], hostPsn := [], hostCopy := [],
    peer := [], peerPsn := [], errs := [], blocked := false, codePages := [], oldWords := [], records := [], msgs := [] }

end Sys2Proof.Machine
end

