-- ==== Sys2Proof/Machine/Map.lean ====
section
/-! DEFINITION. The operations over the model's plain containers: sparse maps, sorted sets, and memories as lists of
cells in one canonical form. -/

namespace Sys2Proof.Machine

open Sys2Proof

/-- The value a sparse map holds for a key. -/
def mapGet {α : Type} : AMap α → Nat → Option α
  | [], _ => none
  | (k, v) :: r, n => if k = n then some v else mapGet r n

/-- The value a sparse map holds for a key, or a default. -/
def mapGetD {α : Type} (m : AMap α) (n : Nat) (d : α) : α := (mapGet m n).getD d

/-- A sparse map with one key set. -/
def mapSet {α : Type} : AMap α → Nat → α → AMap α
  | [], n, x => [(n, x)]
  | (k, v) :: r, n, x =>
    if n < k then (n, x) :: (k, v) :: r else if k = n then (n, x) :: r else (k, v) :: mapSet r n x

/-- A sparse map with one key removed. -/
def mapErase {α : Type} (m : AMap α) (n : Nat) : AMap α := m.filter fun kv => kv.1 != n

/-- A sparse map with a function applied to every value. -/
def mapAll {α : Type} (m : AMap α) (f : Nat → α → α) : AMap α := m.map fun kv => (kv.1, f kv.1 kv.2)

/-- The first key whose value passes a test. -/
def mapFind {α : Type} (m : AMap α) (p : Nat → α → Bool) : Option (Nat × α) := m.find? fun kv => p kv.1 kv.2

/-- A sorted set with one member added. -/
def setIns : List Nat → Nat → List Nat
  | [], n => [n]
  | k :: r, n => if n < k then n :: k :: r else if k = n then k :: r else k :: setIns r n

/-- A sorted set with one member removed. -/
def setDel : List Nat → Nat → List Nat
  | [], _ => []
  | k :: r, n => if k = n then r else if n < k then k :: r else k :: setDel r n

/-- The byte a memory holds at an address; an unlisted address reads 0 (log 7, DESIGN CHOICE). -/
def cellGet : List Host.Cell → Nat → Byte
  | [], _ => 0
  | (a, b) :: r, k => if a = k then b else if k < a then 0 else cellGet r k

/-- A memory with one byte written: the canonical form lists no zero byte. -/
def cellSet : List Host.Cell → Nat → Byte → List Host.Cell
  | [], k, v => if v = 0 then [] else [(k, v)]
  | (a, b) :: r, k, v =>
    if k < a then (if v = 0 then (a, b) :: r else (k, v) :: (a, b) :: r)
    else if a = k then (if v = 0 then r else (k, v) :: r)
    else (a, b) :: cellSet r k v

/-- The canonical form from a lower bound on: addresses strictly rise, and no listed byte is zero. -/
def cellsFrom : Nat → List Host.Cell → Bool
  | _, [] => true
  | lo, (a, b) :: r => decide (lo ≤ a) && b != 0 && cellsFrom (a + 1) r

/-- The canonical form of a memory: strictly rising addresses, and no entry equal to what an unlisted address reads
as (log 7, DESIGN CHOICE). -/
def Memory.wf (m : List Host.Cell) : Bool := cellsFrom 0 m

/-- A run of bytes. -/
def cellsGet (m : List Host.Cell) (a n : Nat) : List Byte := (List.range n).map fun i => cellGet m (a + i)

/-- A run of bytes written. -/
def cellsSet : List Host.Cell → Nat → List Byte → List Host.Cell
  | m, _, [] => m
  | m, a, b :: r => cellsSet (cellSet m a b) (a + 1) r

/-- A little-endian number from its bytes. -/
def leNat : List Byte → Nat
  | [] => 0
  | b :: r => b.toNat + 256 * leNat r

/-- The bytes of a number, little-endian. -/
def leBytes : Nat → Nat → List Byte
  | 0, _ => []
  | n + 1, x => BitVec.ofNat 8 x :: leBytes n (x / 256)

/-- An element put into a list before the first one that it does not follow. -/
def insertBy {α : Type} (le : α → α → Bool) (x : α) : List α → List α
  | [] => [x]
  | y :: r => if le x y then x :: y :: r else y :: insertBy le x r

/-- A list in the order of a comparison; equal elements keep their order. -/
def sortBy {α : Type} (le : α → α → Bool) (l : List α) : List α := l.foldr (insertBy le) []

/-- One element of a list replaced; a place outside the list changes nothing. -/
def listSet {α : Type} (l : List α) (i : Nat) (x : α) : List α := l.set i x

/-- One bit of a mask. -/
def maskBit (t : Nat) : Mask := 1#64 <<< t

/-- The mask of the threads that pass a test. -/
def maskOf (p : Nat → Bool) : Mask :=
  (List.range 64).foldl (fun m t => if p t then m ||| maskBit t else m) 0

/-- The threads of a mask, in ascending order. -/
def threads (m : Mask) : List Nat := (List.range 64).filter fun t => bit m t

/-- The lowest-numbered thread of a mask. -/
def lowest (m : Mask) : Option Nat := (List.range 64).find? fun t => bit m t

/-- How many threads a mask holds. -/
def popCount (m : Mask) : Nat := (threads m).length

end Sys2Proof.Machine
end

