-- ==== Sys2Proof/Machine/Parts.lean ====
section
/-! DEFINITION. Reading and updating one part of the machine: a column, a core, a warp, a block, a gang, a grid, a
context; and the small facts about them that many rules use. -/

namespace Sys2Proof.Machine

open Sys2Proof

/-- A column. -/
def State.column (s : State) (c : Nat) : Column := mapGetD s.columns c Column.reset

/-- A column changed. -/
def State.modColumn (s : State) (c : Nat) (f : Column → Column) : State :=
  { s with columns := mapSet s.columns c (f (s.column c)) }

/-- Core `k` of a column. -/
def State.core (s : State) (c k : Nat) : Core := mapGetD s.cores (4 * c + k) Core.idle

/-- A core changed. -/
def State.modCore (s : State) (c k : Nat) (f : Core → Core) : State :=
  { s with cores := mapSet s.cores (4 * c + k) (f (s.core c k)) }

/-- A warp. -/
def State.warp (s : State) (w : Nat) : Option Warp := mapGet s.warps w

/-- A warp put in its place. -/
def State.setWarp (s : State) (w : Nat) (x : Warp) : State := { s with warps := mapSet s.warps w x }

/-- A warp changed; a warp that does not exist changes nothing. -/
def State.modWarp (s : State) (w : Nat) (f : Warp → Warp) : State :=
  match s.warp w with
  | some x => s.setWarp w (f x)
  | none => s

/-- A block. -/
def State.block (s : State) (b : Nat) : Option Block := mapGet s.blocks b

/-- A block changed. -/
def State.modBlock (s : State) (b : Nat) (f : Block → Block) : State :=
  match s.block b with
  | some x => { s with blocks := mapSet s.blocks b (f x) }
  | none => s

/-- A gang. -/
def State.gang (s : State) (g : Nat) : Option Gang := mapGet s.gangs g

/-- A gang changed. -/
def State.modGang (s : State) (g : Nat) (f : Gang → Gang) : State :=
  match s.gang g with
  | some x => { s with gangs := mapSet s.gangs g (f x) }
  | none => s

/-- How many blocks of a gang share a column (R143). -/
def perColumn (size : Nat) : Nat := if size ≤ 64 then 1 else if size ≤ 128 then 2 else 4

/-- The physical column of block `g` of a gang (R143). -/
def Gang.columnOf (k : Gang) (g : Nat) : Nat := k.columns.getD (g / perColumn k.size) 0

/-- A grid. -/
def State.grid (s : State) (g : Nat) : Option Grid := mapGet s.grids g

/-- A grid changed. -/
def State.modGrid (s : State) (g : Nat) (f : Grid → Grid) : State :=
  match s.grid g with
  | some x => { s with grids := mapSet s.grids g (f x) }
  | none => s

/-- A context that is not live. -/
def Context.empty : Context :=
  { live := false, map := [], roots := [], lroots := [], sched := [], save := [], priv := [], pairs := [], meters := [],
    closed := false, cir := [], sreg := [], wdogl := [], stack := [], launches := 1, copies := [], rank := [],
    created := 0, accepted := [] }

/-- A context. -/
def State.ctx (s : State) (a : Nat) : Context := mapGetD s.contexts a Context.empty

/-- A context changed. -/
def State.modCtx (s : State) (a : Nat) (f : Context → Context) : State :=
  { s with contexts := mapSet s.contexts a (f (s.ctx a)) }

/-- CYC of a column (R18). -/
def State.cycOf (s : State) (c : Nat) : Nat := s.cyc.getD c 0

/-- The block of a warp. -/
def State.blockOf (s : State) (x : Warp) : Option Block := s.block x.block

/-- The gang of a warp. -/
def State.gangOf (s : State) (x : Warp) : Option Gang := (s.blockOf x).bind fun b => s.gang b.gang

/-- The grid of a warp. -/
def State.gridOf (s : State) (x : Warp) : Option Grid := (s.gangOf x).bind fun g => s.grid g.grid

/-- The identity of a warp's grid. -/
def State.gridId (s : State) (x : Warp) : Nat := ((s.gangOf x).map Gang.grid).getD 0

/-- The ASID of a warp's context. -/
def State.asidOf (s : State) (x : Warp) : Nat := ((s.gridOf x).map Grid.asid).getD 0

/-- An empty launch record: the default of every field (R28). -/
def Record.empty : Record :=
  { bytes := List.replicate 256 0, entry := 0, gdx := 1, gdy := 1, gdz := 1, nwarp := 1, gang := 1, mode := 0,
    ftz := false, prot := false, rstrt := false, oct := 8, ways := 0, prio := 0, poolw := 0, pwords := 0, nreg := 0,
    tvec := 0, tframe := 0, const := 0, csize := 0, disp := 0, pred0 := 0, pred1 := 0, parent := 0,
    shp := List.replicate 8 0, slots := List.replicate 8 0x3F80000000000000 }

/-- The launch record of a warp's grid. -/
def State.recOf (s : State) (x : Warp) : Record := ((s.gridOf x).map Grid.rcd).getD Record.empty

/-- The logical column of a physical column in a context's map: the one mapped there first and still (R114, R408). -/
def Context.coll (c : Context) (col : Nat) : Option Nat := (c.map.find? fun lp => lp.2 == col).map Prod.fst

/-- The physical column a context's map gives a logical one (R239). -/
def Context.pcol (c : Context) (l : Nat) : Option Nat := (c.map.find? fun lp => lp.1 == l).map Prod.snd

/-- Work counted on a meter of a context at a column (R375), modulo 2^64 (log 38, DEDUCED). -/
def State.meter (s : State) (asid col n amount : Nat) : State :=
  s.modCtx asid fun c =>
    { c with meters := mapSet c.meters (16 * col + n) (mapGetD c.meters (16 * col + n) 0 + BitVec.ofNat 64 amount) }

/-- A fresh internal identity. -/
def State.takeId (s : State) : Nat × State := (s.nextId, { s with nextId := s.nextId + 1 })

/-- The free value `k` of the present step (log 6, DESIGN CHOICE). -/
def State.freeW (s : State) (k : Nat) : Word := Config.freeWord (s.fresh + k)

/-- One word of a warp's registers: of the kinds V, S, P, C, Q, latch, register `n`, thread or word `t`. -/
def Warp.pattern (x : Warp) (kind n t : Nat) : Word :=
  let r := ((x.run.map Run.work).getD x.regs)
  let lane (l : Option Lanes) : Word := match l with | some l => l.val.getD t 0 | none => 0
  match kind with
  | 0 => lane ((mapGet r.v n).map VReg.lanes)
  | 1 => (r.s.getD n SVal.zero).val
  | 2 => if t = 0 then loWord (r.p.getD n 0) else hiWord (r.p.getD n 0)
  | 3 => lane ((r.c[n]?).map Entry.lanes)
  | 4 => ((r.q[n]?).map QSlot.words).getD [] |>.getD t 0
  | _ => lane (((x.run.map Run.latch).getD [])[n]? |>.map Entry.lanes)

/-- A value that R103, R95 or R97 leaves unspecified (R91, R357, R370): zero, or a pattern that the reading warp's own
context has on its core, in the registers of its warps there (holder 0 on) or in what they left (log 6, DESIGN CHOICE). -/
def State.ownW (s : State) (x : Warp) (k : Nat) : Word :=
  match Config.freePattern (s.fresh + k) with
  | none => 0
  | some (holder, kind, n, t) =>
    if kind = 6 then
      match mapGet (s.core x.col x.core).left n with
      | some (asid, l) => if asid = s.asidOf x then l.val.getD t 0 else 0
      | none => 0
    else match s.warp holder with
      | some y => if y.col = x.col ∧ y.core = x.core ∧ s.asidOf y = s.asidOf x then y.pattern kind n t else 0
      | none => 0

/-- Lanes of unspecified values (R93, R95, R97), from a place of the step's block. -/
def State.freeLanes (s : State) (x : Warp) (k : Nat) : Lanes :=
  { val := (List.range 64).map fun t => s.ownW x (2048 + k * 64 + t), poison := 0 }

/-- How many free values one step may draw: the counter moves on by as many at each step that executes. -/
def freshStep : Nat := 4096

/-- The state after a step that may have drawn free values. -/
def State.drewFresh (s : State) : State := { s with fresh := s.fresh + freshStep }

/-- Something sent out of the device. -/
def State.send (s : State) (m : Msg) : State := { s with msgs := s.msgs ++ [m] }

/-- The vector of a cause sent, when its bit is set and enabled and it has not been sent since: a masked one waits as
pending (R374). -/
def State.trySend (s : State) (v : Nat) : State :=
  let b := 1#32 <<< v
  if s.dev.irqst &&& s.dev.irqen &&& b = 0 ∨ s.dev.irqSent &&& b ≠ 0 then s
  else if s.dev.msixMask.getD v false then { s with dev := { s.dev with msixPend := s.dev.msixPend.set v true } }
  else
    ({ s with dev := { s.dev with
        irqSent := s.dev.irqSent ||| b, msixPend := s.dev.msixPend.set v false } } : State).send (.vector v)

/-- The event of an MSI-X vector (R374): its cause bit is set, and the vector is sent where it may be. A set bit is sent
once. -/
def State.raiseVector (s : State) (v : Nat) : State :=
  ({ s with dev := { s.dev with irqst := s.dev.irqst ||| (1#32 <<< v) } } : State).trySend v

/-- The line, channel and column fields that an entry of either log has in common (R402): `line` counts 32-byte lines of the
column. -/
def logPlace (col line : Nat) : Nat := line * 2 ^ 35 + line / 8 % 8 * 2 ^ 32 + 2 ^ 7 + col

/-- An entry of a column's cell log (R401, R402); KINDs 2 and 4 raise vector 2 (R374). -/
def State.cellLog (s : State) (col line sym pat kind : Nat) : State :=
  let e := s.cycOf col * 2 ^ 64 + logPlace col line + sym * 2 ^ 24 + pat * 2 ^ 16 + kind * 2 ^ 8
  let s := s.modColumn col fun c =>
    { c with clog := mapSet c.clog (c.clcnt.toNat % 64) (BitVec.ofNat 128 e), clcnt := c.clcnt + 1 }
  if kind = 2 ∨ kind = 4 then s.raiseVector 2 else s

/-- An entry of a column's transfer log (R401, R402); KIND 3 raises vector 2 (R374). -/
def State.transferLog (s : State) (col line lane tries beat dir kind : Nat) : State :=
  let e := s.cycOf col * 2 ^ 64 + logPlace col line + lane * 2 ^ 24 + tries * 2 ^ 20 + beat * 2 ^ 18 + dir * 2 ^ 17
    + kind * 2 ^ 8
  let s := s.modColumn col fun c =>
    { c with tlog := mapSet c.tlog (c.tlcnt.toNat % 64) (BitVec.ofNat 128 e), tlcnt := c.tlcnt + 1 }
  if kind = 3 then s.raiseVector 2 else s

/-- The tower of a column (R9). -/
def tower (c : Nat) : Nat := c / 32

end Sys2Proof.Machine
end

