-- ==== Sys2Proof/Machine/Flags.lean ====
section
/-! DEFINITION. The sticky flags of CIR and how they are set, counted and cleared (R127, R128, R395), the flags of LSSTAT
(R114, R206), and the flag bits of a tile's state (R210). The part keeps no arithmetic status flags (R152). -/

namespace Sys2Proof.Machine

open Sys2Proof

/-- CIR bits set at a column (R127). -/
def State.setCir (s : State) (asid col bitNo : Nat) : State :=
  s.modCtx asid fun c => { c with cir := mapSet c.cir col (mapGetD c.cir col 0 ||| (1#64 <<< bitNo)) }

/-- CIR with a count field raised, saturating at 0xFFFF (R127): POIC at bit 32, SUPC at bit 16. -/
def cirCounted (x : Addr) (lo amount : Nat) : Addr :=
  let n := min 0xFFFF ((x.toNat / 2 ^ lo) % 65536 + amount)
  (x &&& ~~~((0xFFFF#64) <<< lo)) ||| (BitVec.ofNat 64 n <<< lo)

/-- A count field of CIR raised (R127). -/
def State.countCir (s : State) (asid col lo amount : Nat) : State :=
  s.modCtx asid fun c => { c with cir := mapSet c.cir col (cirCounted (mapGetD c.cir col 0) lo amount) }

/-- CIR after what MUPD leaves in it (R203): the updates it suppressed, and whether it met a negative second moment. -/
def cirUpdated (x : Addr) (suppressed : Nat) (negv : Bool) : Addr :=
  (if suppressed = 0 then x else cirCounted x 16 suppressed) ||| (if negv then 1#64 <<< 4 else 0)

/-- What MUPD leaves in CIR when its result comes (R203). -/
def State.lossEvents (s : State) (asid col suppressed : Nat) (negv : Bool) : State :=
  s.modCtx asid fun c => { c with cir := mapSet c.cir col (cirUpdated (mapGetD c.cir col 0) suppressed negv) }

/-- A consumption of poison by a warp (R395): POI, POIC and the block's record, at once (log 17, DEDUCED). -/
def State.consume (s : State) (x : Warp) (n : Nat) : State :=
  if n = 0 then s
  else
    let a := s.asidOf x
    ((s.setCir a x.col 0).countCir a x.col 32 n).modBlock x.block fun b => { b with poison := true }

/-- CIR of a context on a column (R127). -/
def Context.cirAt (c : Context) (col : Nat) : Addr := mapGetD c.cir col 0

/-- CIR after a clear (R127, R128): bits 4:0 one by one; a count field whenever any bit of it is written with 1. -/
def cirCleared (x mask : Addr) : Addr :=
  let bits := mask &&& 0x1F
  let supc : Addr := if mask &&& 0xFFFF0000 = 0 then 0 else 0xFFFF0000
  let poic : Addr := if mask &&& 0x0000FFFF00000000 = 0 then 0 else 0x0000FFFF00000000
  x &&& ~~~(bits ||| supc ||| poic)

/-- LSSTAT with its three bits. -/
def lsstat (flr ceil skip : Bool) : Word :=
  (if flr then 1 else 0) + (if ceil then 2 else 0) + (if skip then 4 else 0)

/-- Bits 4:0 of a tile's state: FLT, PSN, OVF and MODE (R210). -/
def Tile.flags (t : Tile) : Nat :=
  t.mode + (if t.ovf then 4 else 0) + (if t.psn then 8 else 0) + (if t.flt then 16 else 0)

end Sys2Proof.Machine
end

