-- ==== Sys2Proof/Machine/Memory.lean ====
section
/-! DEFINITION. Addresses and bytes: resolving a pointer (R239), the page walk (R363-R365), the caches' record of what
they hold (R275-R285, R363, R368), and reading and writing a byte where it lies (R252, R367, R394). -/

namespace Sys2Proof.Machine

open Sys2Proof

/-- A cause of a trap with its INFO and ADDR (R392). -/
structure Cause where
  code : Nat
  info : Word
  addr : Addr
  deriving DecidableEq, Repr

/-- Where DRAM byte `pa` of column `c` stands in the column memory. -/
def memKey (c pa : Nat) : Nat := c * 2 ^ 34 + pa

/-- Where scratchpad byte `o` of column `c` stands. -/
def spadKey (c o : Nat) : Nat := c * 2 ^ 24 + o

/-- Where a host line of a column's copies stands. -/
def hostKey (c pa : Nat) : Nat := c * 2 ^ 47 + pa / 64

/-- Where a byte of a peer's memory stands. -/
def peerKey (d asid ptr : Nat) : Nat := d * 2 ^ 77 + asid * 2 ^ 64 + ptr

/-- The identity of the key a slot holds (R360, R367). -/
def State.keyOf (s : State) (slot : Nat) : Nat := ((mapGet s.keys slot).map Prod.snd).getD 0

/-- A DRAM byte as a key slot decrypts it (R367): a line written under another key gives bytes unrelated to its plaintext,
which its two keys, its tweak of column times 2^29 plus PA div 32, and its data unit give; a line nothing has written reads as
memory's default (log 13, DESIGN CHOICE). -/
def State.dramByte (s : State) (col pa slot : Nat) : Byte :=
  let k := memKey col pa
  let b := cellGet s.mem k
  match mapGet s.keyTag (k / 32) with
  | none => b
  | some t =>
    if t = s.keyOf slot then b
    else Config.foreignByte t (s.keyOf slot) (k / 32) (leNat (cellsGet s.mem (32 * (k / 32)) 32)) (k % 32)

/-- Does a column's cache hold the sector of a DRAM byte? -/
def State.holdsSector (s : State) (col pa : Nat) : Bool :=
  (s.column col).sectors.any fun x => x.addr == pa / 1024 && !x.host

/-- Does the line of a DRAM byte stand poisoned by a read that failed for good (R400): for the read of the array that it is
delivered to, or, where that filled a sector, while the sector is held? -/
def State.readFailed (s : State) (col pa : Nat) : Bool :=
  match mapGet s.readPsn (memKey col pa / 32) with
  | some made => made == s.holdsSector col pa
  | none => false

/-- Is a DRAM line poisoned, or unreachable on a slice-failed column (R394, R400, R405)? An error in the array is met where the
cache does not hold the line (R399). -/
def State.dramPoison (s : State) (col pa : Nat) : Bool :=
  s.memPsn.contains (memKey col pa / 32) || (s.column col).failed == 2 || s.readFailed col pa
    || (((mapGet s.errs (memKey col pa / 32)).map Prod.fst) == some 255 && !s.holdsSector col pa)

/-- Does a scratchpad sector carry the key slot of a context that the slot no longer serves (R368)? It holds no byte of the
context that its window serves now. -/
def State.spadForeign (s : State) (col off : Nat) : Bool :=
  match mapGet s.spadTag (spadKey col off / 1024) with
  | some (slot, asid) => ((mapGet s.keys slot).map Prod.fst) != some asid
  | none => false

/-- A byte read by a party of a column, with its poison. Host bytes come from the column's own copy of the line where
it holds one (R252). -/
def State.readLoc (s : State) (viewer : Nat) : Loc → Byte × Bool
  | .mem col pa slot => (s.dramByte col pa slot, s.dramPoison col pa)
  | .host pa =>
    match mapGet s.hostCopy (hostKey viewer pa) with
    | some h => (h.bytes.getD (pa % 64) 0, h.psn.testBit (pa % 64 / 32))
    | none => (cellGet s.host pa, s.hostPsn.contains (pa / 32))
  | .spad col off => (if s.spadForeign col off then 0 else cellGet s.spad (spadKey col off),
    s.spadPsn.contains (spadKey col off / 32) || (s.column col).failed == 2)
  | .peer d a p => (cellGet s.peer (peerKey d a p), s.peerPsn.contains (peerKey d a p / 32))

/-- A DRAM line brought under the key it is written with: the bytes it keeps are those that key decrypts. -/
def State.rekeyLine (s : State) (col pa slot : Nat) : State :=
  let line := memKey col pa / 32
  if mapGet s.keyTag line = some (s.keyOf slot) then s
  else
    let base := pa - pa % 32
    let old := (List.range 32).map fun i => s.dramByte col (base + i) slot
    { s with mem := cellsSet s.mem (memKey col base) old, keyTag := mapSet s.keyTag line (s.keyOf slot) }

/-- The poison of the row lines of a 64-byte line of host memory, as a mask. -/
def State.hostLinePsn (s : State) (line : Nat) : Nat :=
  (if s.hostPsn.contains (2 * line) then 1 else 0) + (if s.hostPsn.contains (2 * line + 1) then 2 else 0)

/-- The host line a column holds, fetched where it holds none (R252). -/
def State.fetchHost (s : State) (col pa : Nat) : State :=
  match mapGet s.hostCopy (hostKey col pa) with
  | some _ => s
  | none =>
    let line : HostLine := { bytes := cellsGet s.host (64 * (pa / 64)) 64, dirty := 0, psn := s.hostLinePsn (pa / 64)
                             since := 0, asid := 0 }
    { s with hostCopy := mapSet s.hostCopy (hostKey col pa) line }

/-- The column memory after one byte of a column is written under a key slot. -/
def State.putDram (s : State) (col pa slot : Nat) (b : Byte) : State :=
  let s := s.rekeyLine col pa slot
  { s with mem := cellSet s.mem (memKey col pa) b }

/-- Scratchpad bytes of a column from `lo` to below `hi` made zero, without poison (R370). -/
def State.clearSpad (s : State) (col lo hi : Nat) : State :=
  let a := spadKey col lo
  let b := spadKey col hi
  { s with spad := s.spad.filter fun c => decide (c.1 < a) || decide (b ≤ c.1)
           spadTag := s.spadTag.filter fun q => decide (1024 * q.1 < a) || decide (b ≤ 1024 * q.1)
           spadPsn := s.spadPsn.filter fun l => decide (l < a / 32) || decide ((b + 31) / 32 ≤ l) }

/-- A byte written by a party of a column, without its poison. A scratchpad sector of another key slot is cleared first
(R368, R370). -/
def State.putByte (s : State) (viewer : Nat) (l : Loc) (b : Byte) : State :=
  match l with
  | .mem col pa slot => s.putDram col pa slot b
  | .host pa =>
    let s := s.fetchHost viewer pa
    match mapGet s.hostCopy (hostKey viewer pa) with
    | some h =>
      let line := { h with bytes := h.bytes.set (pa % 64) b, dirty := h.dirty ||| 2 ^ (pa % 64)
                           since := if h.dirty = 0 then s.cycOf viewer else h.since }
      { s with hostCopy := mapSet s.hostCopy (hostKey viewer pa) line }
    | none => s
  | .spad col off =>
    let s := if s.spadForeign col off then s.clearSpad col (off / 1024 * 1024) (off / 1024 * 1024 + 1024) else s
    { s with spad := cellSet s.spad (spadKey col off) b }
  | .peer d a p => { s with peer := cellSet s.peer (peerKey d a p) b }

/-- The 32-byte line of a location, in its own memory. -/
def Loc.line : Loc → Nat
  | .mem col pa _ => memKey col pa / 32
  | .host pa => pa / 32
  | .spad col off => spadKey col off / 32
  | .peer d a p => peerKey d a p / 32

/-- The poison of the line of a location set or cleared (R394) (log 9, DEDUCED). -/
def State.markLine (s : State) (viewer : Nat) (l : Loc) (psn : Bool) : State :=
  let upd (set : List Nat) : List Nat := if psn then setIns set l.line else setDel set l.line
  match l with
  | .mem _ _ _ =>
    if psn then { s with memPsn := setIns s.memPsn l.line }
    else { s with memPsn := setDel s.memPsn l.line, readPsn := mapErase s.readPsn l.line, errs := mapErase s.errs l.line }
  | .spad _ _ => { s with spadPsn := upd s.spadPsn }
  | .host pa =>
    match mapGet s.hostCopy (hostKey viewer pa) with
    | some h =>
      let half := 2 ^ (pa % 64 / 32)
      let line := { h with psn := if psn then h.psn ||| half else h.psn - (h.psn &&& half) }
      { s with hostCopy := mapSet s.hostCopy (hostKey viewer pa) line }
    | none => { s with hostPsn := upd s.hostPsn }
  | .peer _ _ _ => { s with peerPsn := upd s.peerPsn }

/-- Do the bytes cover the whole line of a location? (log 39, DEDUCED) -/
def coversLine (bs : List ByteW) (l : Loc) : Bool :=
  decide (32 ≤ (bs.filter fun b => b.loc.line == l.line).length)

/-- A run that read one of some bytes with an SO load, once another party writes them (R245). -/
def Run.struck (r : Run) (bs : List ByteW) : Run :=
  if r.soLoads.any fun l => bs.any fun b => b.loc == l then { r with soHit := true } else r

/-- The runs in flight that read some bytes with SO loads, told that these are written (R245). -/
def State.tellSo (s : State) (bs : List ByteW) : State :=
  if s.warps.all fun kv => ((kv.2.run.map Run.soLoads).getD []).isEmpty then s
  else { s with warps := mapAll s.warps fun _ x => { x with run := x.run.map fun r => r.struck bs } }

/-- One access's bytes written (R394): a poisoned byte poisons its whole line; a whole line written from data that is
not poisoned clears the line's poison (log 39, DEDUCED). -/
def State.writeBytes (s : State) (viewer : Nat) (bs : List ByteW) : State :=
  let s := bs.foldl (fun s b => s.putByte viewer b.loc b.byte) s
  let s := bs.foldl (fun s b =>
    if b.poison then s.markLine viewer b.loc true
    else if coversLine (bs.filter fun x => !x.poison) b.loc then s.markLine viewer b.loc false
    else s) s
  s.tellSo bs

/-- A leaf as a place: the location of a byte of its page. -/
def TlbEntry.loc (e : TlbEntry) (col off : Nat) : Loc :=
  let pa := e.base + off % 2 ^ e.shift
  if e.host then .host pa else .mem col pa e.slot

/-- Where OFF of a pointer lies, and its logical column (R238, R239 steps 1 and 2). -/
def State.resolve (s : State) (asid col : Nat) (ptr : Addr) : Except Cause (Nat × Nat) :=
  let l := (ptr.toNat / 2 ^ 48) % 256
  let off := ptr.toNat % 2 ^ 48
  if ptr.toNat / 2 ^ 56 ≠ 0 then .error { code := 0x21, info := 0, addr := ptr }
  else if l = 0xFF then
    match (s.ctx asid).coll col with
    | some n => .ok (n, off)
    | none => .error { code := 0x22, info := 0xFF, addr := ptr }
  else .ok (l, off)

/-- The physical column of a logical one (R239 step 3). -/
def State.mapCol (s : State) (asid l : Nat) (ptr : Addr) : Except Cause Nat :=
  match (s.ctx asid).pcol l with
  | some p => .ok p
  | none => .error { code := 0x22, info := BitVec.ofNat 32 l, addr := ptr }

/-- The page-table fault of a level and a case (R365) (log 10, DEDUCED). -/
def ptFault (level case_ : Nat) (ptr : Addr) : Cause :=
  { code := 0x25, info := BitVec.ofNat 32 (level + 16 * case_), addr := ptr }

/-- The page-table entry at a table address of a column, read under key slot 0 (R363); none when it meets poison. -/
def State.pte (s : State) (p addr : Nat) : Option Nat :=
  if (List.range 8).any fun i => s.dramPoison p (addr + i) then none
  else some (leNat ((List.range 8).map fun i => s.dramByte p (addr + i) 0))

/-- The leaf of an entry (R364, R365), or the case of the fault. -/
def leafOf (s : State) (asid l off level e : Nat) : Except Nat TlbEntry :=
  let shift := 12 + 9 * level + (if level = 0 then 4 else 0)
  let pa := e / 2 ^ 16 % 2 ^ 36 * 2 ^ 16
  let key := e / 2 ^ 52
  let host := e / 2 ^ 7 % 2 == 1
  let kind := e / 2 ^ 5 % 4
  if e / 2 ^ 8 % 256 ≠ 0 ∨ kind = 3 then .error 3
  else if pa % 2 ^ shift ≠ 0 then .error 4
  else if !host && (decide (2 ^ 34 ≤ pa) || key == 0) then .error 5
  else if host && key != 0 then .error 6
  else if !host && ((mapGet s.keys key).map Prod.fst) != some asid then .error 7
  else .ok { asid := asid, lcol := l, page := off / 2 ^ shift, shift := shift, base := pa, host := host, slot := key,
             read := e / 4 % 2 == 1, write := e / 8 % 2 == 1, exec := e / 16 % 2 == 1, kind := kind }

/-- A walk from a table of column `p`, down the levels that are left (R363). A pointer to a table outside the column's DRAM
faults as a leaf there does (log 34, DEDUCED). -/
def State.walkFrom (s : State) (asid p l off : Nat) (ptr : Addr) : List Nat → Nat → Except Cause TlbEntry
  | [], _ => .error (ptFault 0 2 ptr)
  | level :: rest, table =>
    let idx := if level = 0 then off / 2 ^ 16 % 32 else off / 2 ^ (12 + 9 * level) % 512
    match s.pte p (table + 8 * idx) with
    | none => .error (ptFault level 9 ptr)
    | some e =>
      if e % 2 = 0 then .error (ptFault level 1 ptr)
      else if e / 2 % 2 = 1 then
        if level = 3 then .error (ptFault level 2 ptr)
        else match leafOf s asid l off level e with
          | .ok t => .ok t
          | .error c => .error (ptFault level c ptr)
      else if level = 0 then .error (ptFault level 2 ptr)
      else if e / 4 % 64 ≠ 0 ∨ e / 2 ^ 52 ≠ 0 then .error (ptFault level 3 ptr)
      else
        let next := e / 2 ^ 8 % 2 ^ 44 * 2 ^ 8
        if 2 ^ 34 ≤ next then .error (ptFault level 5 ptr) else s.walkFrom asid p l off ptr rest next

/-- The table a walk for logical column `l` on column `p` starts at (R360, R363). -/
def Context.rootOf (c : Context) (p l : Nat) : Option Nat :=
  match c.lroots.find? fun r => r.1 == p && r.2.1 == l with
  | some r => some r.2.2
  | none => mapGet c.roots p

/-- The leaf of (logical column, OFF) on column `p`: held by its TLB, or walked for (R363, R366). A column with no root
for the context has no entry to meet: the walk faults with case 1 at level 3. -/
def State.leaf (s : State) (asid p l off : Nat) (ptr : Addr) : Except Cause TlbEntry :=
  match (s.column p).tlb.find? fun e => e.asid == asid && e.lcol == l && e.page == off / 2 ^ e.shift with
  | some e => .ok e
  | none =>
    match (s.ctx asid).rootOf p l with
    | none => .error (ptFault 3 1 ptr)
    | some root => s.walkFrom asid p l off ptr [3, 2, 1, 0] root

/-- The permissions an access needs. -/
structure Need where
  read  : Bool := false
  write : Bool := false
  exec  : Bool := false

/-- The permissions a translation lacks, as INFO of the permission fault counts them (R392) (log 10, DEDUCED). -/
def Need.lacks (n : Need) (r w x : Bool) : Nat :=
  (if n.read && !r then 1 else 0) + (if n.write && !w then 2 else 0) + (if n.exec && !x then 4 else 0)

/-- What a translated byte is: where it lies, the ordering kind of its page, and the leaf with its column where the
translation did not come from the L1. -/
structure Place where
  loc  : Loc
  kind : Nat
  leaf : Option (Nat × TlbEntry)
  lcol : Nat
  off  : Nat
  deriving DecidableEq, Repr

/-- Does a code page hold a location? -/
def CodePage.holds (k : CodePage) : Loc → Bool
  | .mem c pa _ => !k.host && k.col == c && decide (k.base ≤ pa) && decide (pa < k.base + k.size)
  | .host pa => k.host && decide (k.base ≤ pa) && decide (pa < k.base + k.size)
  | _ => false

/-- Has a warp's grid fetched from the page of a location (R39)? -/
def State.fetchedFrom (s : State) (x : Warp) (l : Loc) : Bool := s.codePages.any fun k => k.grid == s.gridId x && k.holds l

/-- The 32-bit word a location lies in, under whatever key. -/
def Loc.word : Loc → Loc
  | .mem c pa _ => .mem c (pa / 4 * 4) 0
  | .host pa => .host (pa / 4 * 4)
  | l => l

/-- Byte `i` of the word a location lies in. -/
def Loc.inWord : Loc → Nat → Loc
  | .mem c pa k, i => .mem c (pa / 4 * 4 + i) k
  | .host pa, i => .host (pa / 4 * 4 + i)
  | l, _ => l

/-- The L1 line of a core that an access hits (R275). -/
def State.l1Hit (s : State) (col core asid l off : Nat) : Option L1Line :=
  (s.core col core).l1.find? fun e => e.asid == asid && e.lcol == l && e.vline == off / 64

/-- A location some bytes on. -/
def Loc.plus : Loc → Nat → Loc
  | .mem c pa k, n => .mem c (pa + n) k
  | .host pa, n => .host (pa + n)
  | .spad c o, n => .spad c (o + n)
  | .peer d a p, n => .peer d a (p + n)

/-- The translation of one byte of an ordinary access (R14, R239, R275, R365), in the order of R273: the L1, then the
map, the walk, the permissions, the column crossing. -/
def State.place (s : State) (col core asid : Nat) (useL1 : Bool) (ptr : Addr) (need : Need) : Except Cause Place :=
  match s.resolve asid col ptr with
  | .error c => .error c
  | .ok (l, off) =>
    match if useL1 then s.l1Hit col core asid l off else none with
    | some e =>
      let k := need.lacks e.read e.write e.exec
      if k ≠ 0 then .error { code := 0x26, info := BitVec.ofNat 32 k, addr := ptr }
      else .ok { loc := e.ploc.plus (off % 64), kind := e.kind, leaf := none, lcol := l, off := off }
    | none =>
      match s.mapCol asid l ptr with
      | .error c => .error c
      | .ok p =>
        match s.leaf asid p l off ptr with
        | .error c => .error c
        | .ok e =>
          let k := need.lacks e.read e.write e.exec
          if k ≠ 0 then .error { code := 0x26, info := BitVec.ofNat 32 k, addr := ptr }
          else if p ≠ col ∧ !e.host then .error { code := 0x27, info := BitVec.ofNat 32 p, addr := ptr }
          else .ok { loc := e.loc p off, kind := e.kind, leaf := some (p, e), lcol := l, off := off }

/-- The translation of one byte of an engine access (R252, R321): by the map to any column, with no crossing fault. A
slice-failed column faults as an unmapped one (R405). -/
def State.enginePlace (s : State) (col asid : Nat) (ptr : Addr) (need : Need) : Except Cause Loc :=
  match s.resolve asid col ptr with
  | .error c => .error c
  | .ok (l, off) =>
    match s.mapCol asid l ptr with
    | .error c => .error c
    | .ok p =>
      if (s.column p).failed = 2 then .error { code := 0x22, info := BitVec.ofNat 32 l, addr := ptr }
      else match s.leaf asid p l off ptr with
        | .error c => .error c
        | .ok e =>
          let k := need.lacks e.read e.write e.exec
          if k ≠ 0 then .error { code := 0x26, info := BitVec.ofNat 32 k, addr := ptr } else .ok (e.loc p off)

/-- The slice of a sector (R280). -/
def Column.slice (c : Column) (sector : Nat) : Nat × Nat :=
  let bucket := (sector % 4096) ^^^ (sector / 4096 % 4096)
  (bucket, mapGetD c.sit bucket (bucket % 8))

/-- Has a sector's phase passed (R285)? -/
def Column.hasPassed (c : Column) (x : Sector) : Bool :=
  let d := (c.cph - x.phase).toNat
  x.passed || (decide (1 ≤ d) && decide (d < 2 ^ 31))

/-- The victim among the sectors of a set's ways (R285). -/
def Column.victim (c : Column) (cand : List Sector) : Option Sector :=
  let lowestWay (l : List Sector) : Option Sector :=
    l.foldl (fun b x => match b with | none => some x | some y => if x.way < y.way then some x else some y) none
  match lowestWay (cand.filter c.hasPassed) with
  | some v => some v
  | none =>
    cand.foldl (fun b x => match b with
      | none => some x
      | some y =>
        let dx := (x.phase - c.cph).toNat
        let dy := (y.phase - c.cph).toNat
        if dy < dx ∨ dx = dy ∧ x.way < y.way then some x else some y) none

/-- Is every byte of a sector zero, as a fill under a key slot sees it (R283)? Of a line that stands dirty in an L1, the
fill sees what the levels below hold. -/
def State.sectorZero (s : State) (col addr slot : Nat) (host : Bool) : Bool :=
  let mine (line : Nat) : Bool := line / 16 == memKey col (addr * 1024) / 1024
  let key (t : Option Nat) : Bool := match t with | none => true | some t => t == s.keyOf slot
  if host then s.host.all fun c => decide (c.1 / 1024 ≠ addr)
  else (s.mem.all fun c => !mine (c.1 / 64) || (mapGet s.below (c.1 / 64)).isSome)
    && (s.below.all fun kv => !mine kv.1 || (kv.2.1.all (· == 0) && kv.2.2.1.all key))
    && (List.range 32).all fun i =>
      let line := memKey col (addr * 1024) / 32 + i
      (mapGet s.below (line / 2)).isSome || key (mapGet s.keyTag line)

/-- The dirty bytes of a host line written back to the host (R252), with its poison as CXL poison (R394), and counted
(R375). Where a line is dirty in part, its poisoned row lines stay poisoned. -/
def State.cleanHost (s : State) (k : Nat) (h : HostLine) : State :=
  if h.dirty = 0 then s
  else
    let line := k % 2 ^ 47
    let s := (List.range 64).foldl (fun s i =>
      if h.dirty.testBit i then { s with host := cellSet s.host (64 * line + i) (h.bytes.getD i 0) } else s) s
    let half (s : State) (i : Nat) : State :=
      let d := h.dirty / 2 ^ (32 * i) % 2 ^ 32
      if d = 0 then s
      else if h.psn.testBit i then { s with hostPsn := setIns s.hostPsn (2 * line + i) }
      else if d = 2 ^ 32 - 1 then { s with hostPsn := setDel s.hostPsn (2 * line + i) }
      else s
    (half (half s 0) 1).meter h.asid (k / 2 ^ 47) 7 ((List.range 64).countP fun i => h.dirty.testBit i)

/-- The dirty bytes of some host lines written back; the lines stay, clean. -/
def State.cleanLines (s : State) (hit : Nat → Bool) : State :=
  let s' := s.hostCopy.foldl (fun s kv => if hit kv.1 then s.cleanHost kv.1 kv.2 else s) s
  { s' with hostCopy := mapAll s.hostCopy fun k h => if hit k then { h with dirty := 0 } else h }

/-- The key of a host line lies in a sector of a column. -/
def hostIn (col addr k : Nat) : Bool := k / 2 ^ 47 == col && k % 2 ^ 47 / 16 == addr

/-- A sector of column memory written back: what a failed read left poisoned in it is poisoned in the array too (R400). -/
def State.storePsn (s : State) (col addr : Nat) : State :=
  { s with memPsn := s.readPsn.foldl (fun l kv => if kv.1 / 32 = memKey col (1024 * addr) / 1024 then setIns l kv.1 else l) s.memPsn
           readPsn := s.readPsn.filter fun kv => kv.1 / 32 != memKey col (1024 * addr) / 1024 }

/-- A sector that a column's cache holds no longer: the reads that filled it have been made (R400). -/
def State.readsOver (s : State) (col addr : Nat) : State :=
  { s with readPsn := s.readPsn.filter fun kv => !(kv.2 && kv.1 / 32 == memKey col (1024 * addr) / 1024) }

/-- A sector dropped from a column's cache, written back first where it is dirty (R285, R375, R400). -/
def State.dropSector (s : State) (asid col : Nat) (x : Sector) : State :=
  let s := if !x.dirty then (if x.host then s else s.readsOver col x.addr)
    else if x.host then s.cleanLines (hostIn col x.addr) else (s.storePsn col x.addr).meter asid col 5 1024
  s.modColumn col fun c => { c with sectors := c.sectors.filter fun y => y != x }

/-- How an access meets the caches (R67). -/
structure Touch where
  colAx  : Bool := false
  store  : Bool := false
  stream : Bool := false
  noL1   : Bool := false
  priv   : Bool := false
  zero   : Bool := false

/-- The phase a fill takes (R284). -/
def State.fillPhase (s : State) (asid col off : Nat) : Word :=
  let entries := (List.range 16).map fun e => mapGetD (s.ctx asid).sched (16 * col + e) 0
  match entries.find? fun e =>
      decide (e.toNat % 2 ^ 48 ≤ off) && decide (off < e.toNat / 2 ^ 48 % 2 ^ 48) with
  | some e => BitVec.ofNat 32 (e.toNat / 2 ^ 96)
  | none => (s.column col).cph

/-- The pseudo-channel of a row line (R410). -/
def lineChannel (line : Nat) : Nat := line / 8 % 8

/-- Does a lane test hold a pseudo-channel's bus (R411)? -/
def Column.testing (c : Column) (pch : Nat) : Bool := c.retry.any fun t => lineChannel t.2.1 == pch && decide (4 ≤ t.2.2.1)

/-- Must a read of a row line wait (R411): the line is under retry or lane test, or a lane test holds its pseudo-channel? -/
def Column.awaits (c : Column) (line : Nat) : Bool :=
  (c.retry.any fun t => t.2.1 == line) || c.testing (lineChannel line)

/-- Does no line of a column have an error or a failed read, or stand under retry? -/
def State.calm (s : State) (col : Nat) : Bool :=
  s.errs.isEmpty && s.readPsn.isEmpty && (s.column col).retry.isEmpty

/-- The energy of a column's own maintenance traffic: failed attempts, lane tests, write-backs of corrected lines, scrubs
(R375, R412). It is attributed to no context (log 15, DESIGN CHOICE). -/
def State.upkeep (s : State) (col kind : Nat) : State :=
  s.modColumn col fun c =>
    { c with spare := c.spare + BitVec.ofNat 64 (Config.energy s.dev.weights kind col 0 (s.cycOf col) 1) }

/-- A read of some row lines that fills no sector, made: what it was delivered as poison stands for no other read (R400). -/
def State.readMade (s : State) (k : Nat) : State := { s with readPsn := mapErase s.readPsn k }

/-- The reads that fill a sector, made: what they were delivered as poison stands while the sector is held (R400). -/
def State.fillMade (s : State) (col addr : Nat) : State :=
  { s with readPsn := mapAll s.readPsn fun k made => made || k / 32 == memKey col (1024 * addr) / 1024 }

/-- A line of a column that a read of the array needs: under retry, it blocks what reads it (R411)
(log 9, DEDUCED). -/
def State.needLine (s : State) (col line : Nat) : State :=
  if (s.column col).awaits line then { s with blocked := true } else s

/-- A line of a column read from the array. An error met is corrected in one symbol, and in more poisons the line; either is
logged (R399). -/
def State.correctLine (s : State) (col line one more : Nat) : State :=
  let s := s.needLine col line
  let k := memKey col (32 * line) / 32
  match mapGet s.errs k with
  | none => s
  | some (sym, pat) =>
    let s := { s with errs := mapErase s.errs k }
    if sym = 255 then ({ s with memPsn := setIns s.memPsn k } : State).cellLog col line 255 0 more
    else (s.upkeep col 7).cellLog col line sym pat one

/-- Some row lines of a column read from the array, into no sector (R399, R400, R411). -/
def State.readLines (s : State) (col first n : Nat) : State :=
  if s.calm col then s
  else (List.range n).foldl (fun s i => (s.correctLine col (first + i) 1 2).readMade (memKey col (32 * (first + i)) / 32)) s

/-- The 32 lines of a sector read from the array (R399, R410). -/
def State.correctSector (s : State) (col addr : Nat) : State :=
  if s.calm col then s else (List.range 32).foldl (fun s i => s.correctLine col (32 * addr + i) 1 2) s

/-- A way for a sector in a set of a slice (R280, R285): the lowest free one, or that of the victim, which is dropped. -/
def State.freeWay (s : State) (asid col slice set ways : Nat) (zero : Bool) : Nat × State :=
  let held := (s.column col).sectors.filter fun x => x.slice == slice && x.set == set && x.zero == zero
  let n := if zero then 8 else ways
  match (List.range n).find? fun w => held.all fun x => x.way != w with
  | some w => (w, s)
  | none => match (s.column col).victim held with
    | some v => (v.way, s.dropSector asid col v)
    | none => (0, s)

/-- The sector of an address in a set of a slice after an access: the one that is there, noted, or one filled (R280-R285).
A store that misses on a sector of zeros has its zero tag for a moment: the fill takes one, and the store frees it. -/
def State.noteSector (s : State) (asid col addr slot off slice : Nat) (host : Bool) (t : Touch) : State :=
  let set := addr % 128
  let free (zero : Bool) (s : State) : Nat × State := s.freeWay asid col slice set (16 - (s.column col).cwp) zero
  match (s.column col).sectors.find? fun x => x.slice == slice && x.set == set && x.addr == addr && x.host == host with
  | some x =>
    if t.zero && !x.zero then
      let s := s.modColumn col fun c => { c with sectors := c.sectors.filter fun y => y != x }
      let (w, s) := free true s
      s.modColumn col fun c =>
        { c with sectors := c.sectors ++ [{ x with zero := true, way := w, dirty := true, colAx := false }] }
    else if x.zero && t.store && !t.zero then
      let s := s.modColumn col fun c => { c with sectors := c.sectors.filter fun y => y != x }
      let (w, s) := free false s
      s.modColumn col fun c =>
        { c with sectors := c.sectors ++ [{ x with zero := false, way := w, dirty := true, colAx := t.colAx }] }
    else s.modColumn col fun c =>
      { c with sectors := c.sectors.map fun y =>
          if y = x then { x with dirty := x.dirty || t.store || t.zero, colAx := if x.zero then x.colAx else t.colAx } else y }
  | none =>
    let blank := t.zero || s.sectorZero col addr slot host
    let zero := blank && !t.store
    let s := if t.zero then s else if host then s.meter asid col 7 1024
      else ((s.meter asid col 4 1024).correctSector col addr).fillMade col addr
    let s := if blank && t.store then (free true s).2 else s
    let (w, s) := free zero s
    let x : Sector := { slice := slice, set := set, way := w, zero := zero, addr := addr, host := host, slot := slot,
                        colAx := !zero && t.colAx, dirty := t.store || t.zero, phase := s.fillPhase asid col off,
                        passed := t.stream }
    s.modColumn col fun c => { c with sectors := c.sectors ++ [x] }

/-- The sector of an address held by a column's cache after an access (R280-R285, R368): a sector under another key slot is
dropped first. It changes no byte. -/
def State.touchSector (s : State) (asid col addr slot off : Nat) (host : Bool) (t : Touch) : State :=
  let c := s.column col
  let (bucket, slice) := c.slice addr
  let s := s.modColumn col fun c => { c with requests := mapSet c.requests bucket (mapGetD c.requests bucket 0 + 1) }
  let other (x : Sector) : Bool :=
    x.slice == slice && x.set == addr % 128 && x.addr == addr && x.host == host && x.slot != slot
  let s := match c.sectors.find? other with
    | some x => s.dropSector asid col x
    | none => s
  s.noteSector asid col addr slot off slice host t

/-- The addresses of the entries that a walk from a table of column `p` reads (R363). -/
def State.walkPath (s : State) (p off : Nat) : List Nat → Nat → List Nat
  | [], _ => []
  | level :: rest, table =>
    let addr := table + 8 * (if level = 0 then off / 2 ^ 16 % 32 else off / 2 ^ (12 + 9 * level) % 512)
    addr :: match s.pte p addr with
      | some e => if e % 2 = 0 ∨ e / 2 % 2 = 1 then [] else s.walkPath p off rest (e / 2 ^ 8 % 2 ^ 44 * 2 ^ 8)
      | none => []

/-- The lines that a walk reads: errors met in the array, and reads that failed for good, now made (R399, R400). -/
def State.correctWalk (s : State) (asid p l off : Nat) : State :=
  match (s.ctx asid).rootOf p l with
  | some root =>
    if s.calm p then s
    else (s.walkPath p off [3, 2, 1, 0] root).foldl (fun s a => s.readLines p (a / 32) 1) s
  | none => s

/-- A leaf held by a column's TLB of 4,096 entries (R363); the entries are replaced in turn (log 12, DESIGN CHOICE). The
walk that found it read one line for each level (R375, R399). -/
def State.fillTlb (s : State) (p : Nat) (e : TlbEntry) : State :=
  let levels := if e.shift = 16 then 4 else if e.shift = 21 then 3 else 2
  let s := if (s.column p).tlb.contains e then s
    else (s.meter e.asid p 4 (32 * levels)).correctWalk e.asid p e.lcol (e.page * 2 ^ e.shift)
  s.modColumn p fun c =>
    if c.tlb.contains e then c
    else if c.tlb.length < 4096 then { c with tlb := c.tlb ++ [e] }
    else { c with tlb := c.tlb.set (c.tlbNext % 4096) e, tlbNext := (c.tlbNext + 1) % 4096 }

/-- The walk of an access that reaches memory past the L1s, as an engine's or the device's does (R363, R375, R399, R411): the
leaf it finds is held from then on, and a walk that faults has read its lines too. -/
def State.walkPtr (s : State) (asid col : Nat) (ptr : Addr) : State :=
  match s.resolve asid col ptr with
  | .error _ => s
  | .ok (l, off) =>
    match (s.ctx asid).pcol l with
    | none => s
    | some p => match s.leaf asid p l off ptr with
      | .ok e => s.fillTlb p e
      | .error _ =>
        let lines := match (s.ctx asid).rootOf p l with
          | some root => (s.walkPath p off [3, 2, 1, 0] root).length
          | none => 0
        (s.meter asid p 4 (32 * lines)).correctWalk asid p l off

/-- The walks for `n` bytes at an engine operand, one for each page: a pool reference needs none. -/
def State.walkBytes (s : State) (asid col : Nat) (ptr : Addr) (n : Nat) : State :=
  let from_ := ptr.toNat % 65536
  if bit ptr 63 then s
  else (List.range ((from_ + n + 65535) / 65536)).foldl (fun s k =>
    s.walkPtr asid col (if k = 0 then ptr else ptr + BitVec.ofNat 64 (65536 * k - from_))) s

/-- The context a host line of a column works for (R375): the one that brought it, or last stored into it. -/
def State.ownHost (s : State) (col pa asid : Nat) (store : Bool) : State :=
  match mapGet s.hostCopy (hostKey col pa) with
  | some h =>
    if store ∨ h.asid = 0 then { s with hostCopy := mapSet s.hostCopy (hostKey col pa) { h with asid := asid } } else s
  | none => s

/-- The sector metadata of a location touched by an access at a column. -/
def State.touchLoc (s : State) (asid col : Nat) (l : Loc) (off : Nat) (t : Touch) : State :=
  match l with
  | .mem c pa slot => s.touchSector asid c (pa / 1024) slot off false t
  | .host pa => ((s.fetchHost col pa).ownHost col pa asid t.store).touchSector asid col (pa / 1024) 0 off true t
  | .spad _ _ | .peer _ _ _ => s

/-- Do two locations lie in one 64-byte line? -/
def Loc.same64 : Loc → Loc → Bool
  | .mem c pa _, .mem c' pa' _ => c == c' && pa / 64 == pa' / 64
  | .host pa, .host pa' => pa / 64 == pa' / 64
  | .spad c o, .spad c' o' => c == c' && o / 64 == o' / 64
  | _, _ => false

/-- The L1 lines of a core that hold one physical line dropped (R275 synonyms, R276 stores). -/
def Core.dropLine (c : Core) (l : Loc) : Core :=
  { c with l1 := c.l1.filter fun e => !e.ploc.same64 l }

/-- What the memories hold of the 64-byte line of a DRAM location, with key tags and poison, kept as what the levels
below the L1s hold: the line is about to become dirty in an L1 (R276, R385). -/
def State.keepBelow (s : State) (l : Loc) : State :=
  match l with
  | .mem c pa _ =>
    let k := memKey c pa / 64
    let line := (cellsGet s.mem (64 * k) 64, [mapGet s.keyTag (2 * k), mapGet s.keyTag (2 * k + 1)],
      [s.memPsn.contains (2 * k), s.memPsn.contains (2 * k + 1)])
    { s with below := mapSet s.below k line }
  | _ => s

/-- A dirty line dropped without being written back (R386): its bytes are those of the levels below. -/
def State.dropDirty (s : State) (l : Loc) : State :=
  match l with
  | .mem c pa _ =>
    let k := memKey c pa / 64
    match mapGet s.below k with
    | none => s
    | some (bs, tags, psn) =>
      let half (s : State) (i : Nat) : State :=
        { s with
          keyTag := match tags.getD i none with | some t => mapSet s.keyTag (2 * k + i) t | none => mapErase s.keyTag (2 * k + i)
          memPsn := if psn.getD i false then setIns s.memPsn (2 * k + i) else setDel s.memPsn (2 * k + i) }
      let s := half (half s 0) 1
      { s with mem := cellsSet s.mem (64 * k) bs, below := mapErase s.below k }
  | _ => s

/-- Is a 64-byte line poisoned in one of its row lines (R394)? -/
def State.linePoison (s : State) (viewer : Nat) (l : Loc) : Bool :=
  match l with
  | .mem c pa k => (s.readLoc viewer (.mem c (pa - pa % 64) k)).2 || (s.readLoc viewer (.mem c (pa - pa % 64 + 32) k)).2
  | .host pa => (s.readLoc viewer (.host (pa - pa % 64))).2 || (s.readLoc viewer (.host (pa - pa % 64 + 32))).2
  | _ => false

/-- The levels below the L1s hold a line as it stands: it is dirty in no L1 any more. -/
def State.settleBelow (s : State) (l : Loc) : State :=
  match l with
  | .mem c pa _ => { s with below := mapErase s.below (memKey c pa / 64) }
  | _ => s

/-- An L1 line written back to the column cache (R276): the sector holds its bytes, dirty, with the poison of the whole line
(R394). -/
def State.writeBack (s : State) (col : Nat) (e : L1Line) : State :=
  if e.dirty then
    let s := if e.psn then (s.markLine col e.ploc true).markLine col (e.ploc.plus 32) true else s
    (s.settleBelow e.ploc).touchLoc e.asid col e.ploc (64 * e.vline) { store := true }
  else s

/-- The line of an access with its translation, by where it begins. -/
def Place.lineBase (pl : Place) (p : Nat) (e : TlbEntry) : Loc := e.loc p (pl.off - pl.off % 64)

/-- The entry of the prediction table that a line has (R277). -/
def predIndex (vline : Nat) : Nat := vline % 256 ^^^ (vline / 256 % 256)

/-- Does the peer that a core probes first hold a line it misses (R277)? -/
def State.predicted (s : State) (col core : Nat) (pl : Place) (p : Nat) (e : TlbEntry) : Bool :=
  match mapGet (s.core col core).pred (predIndex (pl.off / 64)) with
  | some k => k != core && (s.core col k).l1.any fun x => x.ploc.same64 (pl.lineBase p e)
  | none => false

/-- An L1 line filled (R275, R277), which writes the line's entry of the prediction table: the lowest-numbered peer that holds
the line is predicted, or none where no peer does (log 100, DESIGN CHOICE). It is filled from a leaf of column `p`: its way is
the set's next one, in turn. Another copy of the line in this L1 goes, and so does the victim, written back where they are
dirty; a dirty copy in a peer's L1 moves here with its ownership. -/
def State.fillL1 (s : State) (col core asid : Nat) (pl : Place) (p : Nat) (e : TlbEntry) (t : Touch) : State :=
  let vline := pl.off / 64
  let set := vline % 256
  let base : Loc := pl.lineBase p e
  let holds (k : Nat) : Bool := (s.core col k).l1.any fun x => x.ploc.same64 base
  let owner (k : Nat) : Option L1Line := (s.core col k).l1.find? fun x => x.dirty && x.ploc.same64 base
  let others := (List.range 4).filter fun k => k != core
  let peer := others.find? holds
  let moved := others.findSome? fun k => (owner k).map fun x => (k, x)
  let s := match moved with
    | some (k, _) => s.modCore col k fun c => c.dropLine base
    | none => s
  let c := s.core col core
  let kept := (c.dropLine base).l1
  let used := kept.filter fun x => x.vline % 256 == set
  let rr := mapGetD c.l1rr set 0
  let way := ((List.range 8).find? fun w => used.all fun x => x.way != w).getD rr
  let stays (x : L1Line) : Bool := !(x.vline % 256 == set && x.way == way) && !x.ploc.same64 base
  let s := (c.l1.filter fun x => !stays x).foldl (fun s x => s.writeBack col x) s
  let line : L1Line :=
    { asid := asid, lcol := pl.lcol, vline := vline, way := way, ploc := base, read := e.read, write := e.write,
      exec := e.exec, kind := e.kind, priv := t.priv || moved.isSome, dirty := moved.isSome
      psn := match moved with | some (_, x) => x.psn | none => s.linePoison col base }
  s.modCore col core fun c =>
    { c with l1 := c.l1.filter stays ++ [line], l1rr := mapSet c.l1rr set ((way + 1) % 8)
             pred := match peer with
               | some k => mapSet c.pred (predIndex vline) k
               | none => mapErase c.pred (predIndex vline) }

/-- What the caches hold after an access to a place (R275-R277, R363): it changes no byte of memory. A miss that the probed
peer serves does not reach the slice. -/
def State.touch (s : State) (col core asid : Nat) (pl : Place) (t : Touch) : State :=
  let s := match pl.leaf with
    | some (p, e) => s.fillTlb p e
    | none => s
  let bypass := t.noL1 || t.colAx || (t.store && !t.priv)
  match pl.leaf, bypass with
  | some (p, e), false =>
    (if s.predicted col core pl p e then s else s.touchLoc asid col pl.loc pl.off t).fillL1 col core asid pl p e t
  | none, false => s
  | _, true => s.touchLoc asid col pl.loc pl.off t

/-- Places with one for each unit of a size in bytes: the 64-byte lines of an access along rows, or, along columns, the
column lines of a sector (R274). -/
def distinctUnits (colAx : Bool) (ps : List Place) : List Place :=
  let same (p q : Place) : Bool :=
    if colAx then p.lcol == q.lcol && p.off / 1024 == q.off / 1024 && p.off % 32 == q.off % 32
    else p.loc.same64 q.loc
  ps.foldl (fun acc p => if acc.any (same p) then acc else acc ++ [p]) []

/-- The copies of a line removed from every L1 of a column but one core's (R276). -/
def State.shootL1 (s : State) (col core : Nat) (l : Loc) (own : Bool) : State :=
  (List.range 4).foldl (fun s k =>
    if k = core ∧ !own then s
    else if mapGet s.cores (4 * col + k) = none then s
    else s.modCore col k fun c => c.dropLine l) s

/-- A core's own copy of a line after a store that passed through it (R276, R394): it has the line's poison. -/
def State.refreshL1 (s : State) (col core : Nat) (l : Loc) : State :=
  if (s.core col core).l1.any fun e => e.ploc.same64 l then
    s.modCore col core fun c =>
      { c with l1 := c.l1.map fun e => if e.ploc.same64 l then { e with psn := s.linePoison col l } else e }
  else s

/-- The dirty bytes of a column's host lines written back to the host (R252); the lines stay, clean. -/
def State.releaseHost (s : State) (col : Nat) : State := s.cleanLines fun k => k / 2 ^ 47 == col

/-- A host line with its dirty bytes kept and its clean ones fetched anew (R252). -/
def State.refetched (s : State) (k : Nat) (h : HostLine) : HostLine :=
  let line := k % 2 ^ 47
  let fresh := s.hostLinePsn line
  let half (i : Nat) : Nat :=
    let d := h.dirty / 2 ^ (32 * i) % 2 ^ 32
    if (d ≠ 0 ∧ h.psn.testBit i) ∨ (d ≠ 2 ^ 32 - 1 ∧ fresh.testBit i) then 2 ^ i else 0
  { h with
    bytes := (List.range 64).map fun i => if h.dirty.testBit i then h.bytes.getD i 0 else cellGet s.host (64 * line + i)
    psn := half 0 + half 1 }

/-- The clean host bytes of a column and of a core's L1 dropped (R252): of a line that is dirty in part the dirty bytes
stay. -/
def State.acquireHost (s : State) (col core : Nat) : State :=
  let kept := s.hostCopy.filter fun kv => kv.1 / 2 ^ 47 != col || kv.2.dirty != 0
  let s := { s with hostCopy := mapAll kept fun k h => if k / 2 ^ 47 = col then s.refetched k h else h }
  let s := s.modColumn col fun c => { c with sectors := c.sectors.filter fun x => !(x.host && !x.dirty) }
  s.modCore col core fun c =>
    { c with l1 := c.l1.filter fun x => match x.ploc with | .host _ => x.dirty | _ => true }

/-- A host line held exclusive by a column (R299): every copy's dirty bytes are in host memory, this column's last; no
other column holds the line, and this one holds it anew. -/
def State.takeHost (s : State) (col pa : Nat) : State :=
  let mine (k : Nat) : Bool := k == hostKey col pa
  let other (k : Nat) : Bool := k % 2 ^ 47 == pa / 64 && !mine k
  let away := (s.hostCopy.filter fun kv => other kv.1).map fun kv => kv.1 / 2 ^ 47
  let s := (s.cleanLines other).cleanLines mine
  let s := away.foldl (fun s c => s.shootL1 c 0 (.host pa) true) s
  ({ s with hostCopy := s.hostCopy.filter fun kv => kv.1 % 2 ^ 47 != pa / 64 } : State).fetchHost col pa

/-- The host lines whose bytes have been dirty for 2^16 clk of their column written back (R252). -/
def State.writeBackDue (s : State) : State :=
  s.cleanLines fun k => match mapGet s.hostCopy k with
    | some h => h.dirty != 0 && decide (h.since + 2 ^ 16 ≤ s.cycOf (k / 2 ^ 47))
    | none => false

/-- An acquire at a scope by a party of a core (R252, R255): at GANG scope or wider it drops the clean host lines. -/
def State.acquire (s : State) (col core scope : Nat) : State := if 2 ≤ scope then s.acquireHost col core else s

/-- A release at a scope by a party of a column (R252, R255): at GANG scope or wider it writes dirty host bytes back. -/
def State.release (s : State) (col scope : Nat) : State := if 2 ≤ scope then s.releaseHost col else s

/-- The bytes of a row of addresses for an access of one thread (R289): the address of byte `k`, by axis. -/
def axisOff (axis k : Nat) : Nat :=
  match axis with
  | 0 => k
  | 1 => 32 * k
  | _ => 32 * (k / 2) + k % 2

/-- The alignment fault of an access to a pointer. -/
def misaligned (ptr : Addr) : Cause := { code := 0x20, info := 0, addr := ptr }

/-- The place of a kind of fault in the order of R273 (log 40, DEDUCED). -/
def kindRank (code : Nat) : Nat :=
  if code = 0x20 then 0
  else if code = 0x24 ∨ code = 0x28 then 1
  else if code = 0x21 then 2
  else if code = 0x22 then 3
  else if code = 0x25 ∨ code = 0x26 then 4
  else 5

/-- The pieces of an access, each with the byte it begins at, or the first fault among them in the order of R273. -/
def piecesOf (go : Nat → Except Cause Place) : List Nat → Except Cause (List (Nat × Place))
  | [] => .ok []
  | k :: rest =>
    match go k, piecesOf go rest with
    | .error c, .error d => .error (if kindRank d.code < kindRank c.code then d else c)
    | .error c, .ok _ => .error c
    | .ok _, .error d => .error d
    | .ok p, .ok ps => .ok ((k, p) :: ps)

/-- The stronger of two ordering kinds (R248): SO, then RC, then UN. -/
def strongerKind (a b : Nat) : Nat := if a = 1 ∨ b = 1 then 1 else if a = 0 ∨ b = 0 then 0 else 2

/-- The places of the `n` bytes of one thread's access (R247, R248, R275, R289): each line it meets in the L1 is looked up,
and each page translated; the bytes of an access over two pages take the stronger kind. An access whose bytes run past the
end of the column's offsets is misaligned. -/
def State.places (s : State) (col core asid : Nat) (useL1 : Bool) (ptr : Addr) (n axis : Nat) (need : Need) :
    Except Cause (List Place) :=
  let last := axisOff axis (n - 1)
  match s.resolve asid col ptr with
  | .error c => .error c
  | .ok (_, off) =>
    if 2 ^ 48 ≤ off + last then .error (misaligned ptr)
    else
      let unit := if useL1 then 64 else 65536
      let starts := 0 :: ((List.range ((off % unit + last) / unit)).map fun i => (i + 1) * unit - off % unit)
      match piecesOf (fun k => s.place col core asid useL1 (ptr + BitVec.ofNat 64 k) need) starts with
      | .error c => .error c
      | .ok [] => .error (misaligned ptr)
      | .ok ((_, p) :: ps) =>
        let kind := ps.foldl (fun k q => strongerKind k q.2.kind) p.kind
        .ok ((List.range n).map fun k =>
          let o := axisOff axis k
          let q := ((ps.reverse.find? fun q => q.1 ≤ o).getD (0, p))
          { q.2 with loc := q.2.loc.plus (o - q.1), off := q.2.off + (o - q.1), kind := kind })

end Sys2Proof.Machine
end

