-- ==== Sys2Proof/Machine/Stores.lean ====
section
/-! DEFINITION. Releasing a buffered store to memory (R79 step 2, R276, R277, R394), and the lines of a sector that stand in
the L1s of its column (R293, R325). -/

namespace Sys2Proof.Machine

open Sys2Proof

/-- Some lines of every L1 of a column written back where they are dirty, and kept, clean (R276). -/
def State.cleanL1 (s : State) (col : Nat) (hit : L1Line → Bool) : State :=
  (List.range 4).foldl (fun s k =>
    let due := (s.core col k).l1.filter fun e => e.dirty && hit e
    if due.isEmpty then s
    else (due.foldl (fun s e => s.writeBack col e) s).modCore col k fun c =>
      { c with l1 := c.l1.map fun e => if e.dirty && hit e then { e with dirty := false } else e }) s

/-- A line that is about to be written past the L1s: a dirty copy of it is written back first (R276). -/
def State.flushLine (s : State) (col : Nat) (l : Loc) : State := s.cleanL1 col fun e => e.ploc.same64 l

/-- The bytes of a store with one for each 64-byte line. -/
def storeLines (bs : List ByteW) : List ByteW :=
  bs.foldl (fun acc y => if acc.any fun z => z.loc.same64 y.loc then acc else acc ++ [y]) []

/-- The bytes of a store with one for each request of it (R274): each 64-byte line, or along columns each column line. -/
def storeRequests (colAx : Bool) (bs : List ByteW) : List ByteW :=
  if colAx then
    bs.foldl (fun acc y => if acc.any fun z => z.va / 1024 == y.va / 1024 && z.va % 32 == y.va % 32 then acc else acc ++ [y]) []
  else storeLines bs

/-- The place of a byte of column memory that a run stored: its page is mapped as it was when the store issued, since a
change of the map discards the run (R362). -/
def State.storedPlace (s : State) (asid : Nat) (y : ByteW) : Option Place :=
  let l := y.va / 2 ^ 48 % 256
  let off := y.va % 2 ^ 48
  (s.ctx asid).pcol l |>.bind fun p => match s.leaf asid p l off 0 with
    | .ok e => some { loc := y.loc, kind := e.kind, leaf := some (p, e), lcol := l, off := off }
    | .error _ => none

/-- Does a core's L1 hold a line write-back (R276)? -/
def State.heldBack (s : State) (col core : Nat) (l : Loc) : Bool :=
  (s.core col core).l1.any fun e => e.ploc.same64 l && e.priv

/-- The line of an STL brought into the L1 where no line of its tag is there, and write-back from now on (R275, R276, R385). -/
def State.fillStored (s : State) (col core asid : Nat) (y : ByteW) : State :=
  match s.l1Hit col core asid (y.va / 2 ^ 48 % 256) (y.va % 2 ^ 48) with
  | some _ => s.modCore col core fun c =>
      { c with l1 := c.l1.map fun e => if e.ploc.same64 y.loc then { e with priv := true } else e }
  | none => match s.storedPlace asid y with
    | some p => s.touch col core asid p { priv := true }
    | none => s

/-- A line of a store before its bytes are written (R276, R277): in the L1 it becomes dirty, and what the levels below hold is
kept; otherwise no L1 keeps it dirty. -/
def State.beforeStore (s : State) (col core : Nat) (away : Bool) (l : Loc) : State :=
  if !away && s.heldBack col core l then
    if (s.core col core).l1.any fun e => e.ploc.same64 l && e.dirty then s else s.keepBelow l
  else s.flushLine col l

/-- A request of a store before its bytes are written (R276, R283): unless the L1 holds the line write-back, it goes through to
the column cache, whose sector is there before the store changes a byte of it. -/
def State.requestStore (s : State) (col core asid : Nat) (away : Bool) (b : BufStore) (y : ByteW) : State :=
  if !away && s.heldBack col core y.loc then s
  else s.touchLoc asid col y.loc (y.va % 2 ^ 48)
    { store := !b.zero, colAx := b.colAx, stream := b.stream, noL1 := b.noL1, zero := b.zero }

/-- A line of a store once its bytes are written (R276, R277): dirty in the L1 that holds it write-back; every other copy goes,
and the core's own is up to date. -/
def State.afterStore (s : State) (col core : Nat) (away : Bool) (y : ByteW) : State :=
  if !away && s.heldBack col core y.loc then
    ((s.shootL1 col core y.loc false).modCore col core fun c =>
      { c with l1 := c.l1.map fun e => if e.ploc.same64 y.loc then { e with dirty := true } else e }).refreshL1 col core y.loc
  else (s.shootL1 col core y.loc away).refreshL1 col core y.loc

/-- The host lines of some bytes written back by a column at once: strongly ordered stores reach host memory in their order
(R245). -/
def State.cleanStored (s : State) (col : Nat) (bs : List ByteW) : State :=
  s.cleanLines fun k => bs.any fun b => match b.loc with
    | .host pa => k == hostKey col pa
    | _ => false

/-- The words that a store of a grid's program is about to change in pages the grid fetches from, kept as they stand: a fetch
may still return them (R39). -/
def State.keepCode (s : State) (x : Warp) (bs : List ByteW) : State :=
  let hit := bs.filter fun b => s.fetchedFrom x b.loc
  let first := hit.foldl (fun acc b => if acc.any fun c => c.loc.word == b.loc.word then acc else acc ++ [b]) []
  let word (l : Loc) : List Byte := (List.range 4).map fun i => (s.readLoc x.col (l.inWord i)).1
  { s with oldWords := s.oldWords ++ first.map fun b =>
      { grid := s.gridId x, place := b.loc.word, word := BitVec.ofNat 32 (leNat (word b.loc)) } }

/-- A buffered store of a warp released to memory (R79 step 2, R245, R276, R283, R394). A pool store meets no cache. -/
def State.releaseStore (s : State) (x : Warp) (b : BufStore) : State :=
  if b.pool then s.writeBytes x.col b.bytes
  else
    let s := s.keepCode x b.bytes
    let asid := s.asidOf x
    let away := b.colAx || b.noL1 || b.zero
    let lines := storeLines b.bytes
    let s := if b.priv then lines.foldl (fun s y => s.fillStored x.col x.core asid y) s else s
    let s := lines.foldl (fun s y => s.beforeStore x.col x.core away y.loc) s
    let s := (storeRequests b.colAx b.bytes).foldl (fun s y => s.requestStore x.col x.core asid away b y) s
    let s := lines.foldl (fun s y => s.afterStore x.col x.core away y) (s.writeBytes x.col b.bytes)
    if b.so then s.cleanStored x.col b.bytes else s

/-! ### Sectors and their L1 lines -/

/-- Does a location lie in the sector of another? -/
def Loc.sameSector : Loc → Loc → Bool
  | .mem c pa _, .mem c' pa' _ => c == c' && pa / 1024 == pa' / 1024
  | .host pa, .host pa' => pa / 1024 == pa' / 1024
  | _, _ => false

/-- Does a column's sector hold a location? -/
def Sector.holds (x : Sector) : Loc → Bool
  | .mem _ pa _ => x.addr == pa / 1024 && !x.host
  | .host pa => x.addr == pa / 1024 && x.host
  | _ => false

/-- The sectors that hold a location changed by a rule; one that becomes clean is written back, to HBM or the host, and one
that goes is written back where it is dirty (R252, R293, R375). -/
def State.onSector (s : State) (asid col : Nat) (l : Loc) (g : Sector → Option Sector) : State :=
  ((s.column col).sectors.filter fun x => x.holds l).foldl (fun s x =>
    match g x with
    | none => s.dropSector asid col x
    | some y =>
      let s := if !x.dirty || y.dirty then s
        else if x.host then s.cleanLines (hostIn col x.addr) else (s.storePsn col x.addr).meter asid col 5 1024
      s.modColumn col fun c => { c with sectors := c.sectors.map fun z => if z = x then y else z }) s

/-- The clean L1 copies of a sector dropped in every core of a column. -/
def State.dropL1Sector (s : State) (col : Nat) (l : Loc) : State :=
  (List.range 4).foldl (fun s k =>
    if mapGet s.cores (4 * col + k) = none then s
    else s.modCore col k fun c => { c with l1 := c.l1.filter fun e => e.dirty || !e.ploc.sameSector l }) s

/-- A sector written to HBM or to the host, with the dirty L1 lines of it written into it first; it stays, clean (R293). -/
def State.cleanSector (s : State) (asid col : Nat) (l : Loc) : State :=
  (s.cleanL1 col fun e => e.ploc.sameSector l).onSector asid col l fun z => some { z with dirty := false }

/-- The host lines of a location's sector that a column holds clean, dropped. -/
def State.forgetHost (s : State) (col : Nat) (l : Loc) : State :=
  match l with
  | .host pa => { s with hostCopy := s.hostCopy.filter fun kv => !hostIn col (pa / 1024) kv.1 || kv.2.dirty != 0 }
  | _ => s

/-- A sector written back, then dropped with its L1 copies (R293). -/
def State.flushSector (s : State) (asid col : Nat) (l : Loc) : State :=
  (((s.cleanSector asid col l).onSector asid col l fun _ => none).dropL1Sector col l).forgetHost col l

end Sys2Proof.Machine
end

