-- ==== Sys2Proof/Machine/Kill.lean ====
section
/-! DEFINITION. How work ends: discarding a run (R81), killing a gang (R396), and the end of a grid with its completion
entry (R74, R136, R148). -/

namespace Sys2Proof.Machine

open Sys2Proof

/-- A pending result once the run in flight has committed. -/
def Pending.settled (p : Pending) : Pending :=
  { p with ofRun := false, contested := p.contested ++ p.touched, touched := [] }

/-- A warp without its run in flight, without the results that run's instructions were waiting for, and without its writes
inside the windows of others (R81, R100). -/
def Warp.discard (x : Warp) : Warp :=
  { x with run := none, pend := (x.pend.filter fun p => !p.ofRun).map fun p => { p with touched := [] } }

/-- What some registers leave in the physical registers that hold them (R97, R103). -/
def Regs.leaves (r : Regs) : List (Nat × Lanes) := r.v.map fun kv => (512 * (kv.1 % 4) + kv.2.phys, kv.2.lanes)

/-- What a run leaves on its core as it commits: in the registers it frees, and in the latches of its slot (R97, R103). -/
def Run.drops (r : Run) (slot : Nat) : List (Nat × Lanes) :=
  r.freed.map (fun b => (512 * b.1 + b.2.phys, b.2.lanes))
    ++ (r.latch.zipIdx.filter fun e => e.1.valid).map fun e => (2048 + 4 * slot + e.2, e.1.lanes)

/-- What a run leaves on its core as it is discarded: besides, in the registers it wrote (R103). -/
def Run.leaves (r : Run) (slot : Nat) : List (Nat × Lanes) := r.drops slot ++ r.work.leaves

/-- What a warp leaves on its core, besides what its run does: its registers and its operand-cache entries (R97, R103). -/
def Warp.leaves (x : Warp) : List (Nat × Lanes) :=
  x.regs.leaves ++ x.regs.c.zipIdx.map fun e => (4096 + 8 * x.wcore + e.2, e.1.lanes)

/-- What a warp's context has left on its core. -/
def State.imprint (s : State) (x : Warp) (l : List (Nat × Lanes)) : State :=
  if l.isEmpty then s
  else s.modCore x.col x.core fun c => { c with left := l.foldl (fun m e => mapSet m e.1 (s.asidOf x, e.2)) c.left }

/-- A warp's run discarded (R81): what it wrote stays where it stood, for no one but its context to meet (R103). -/
def State.discardRun (s : State) (w : Nat) : State :=
  match s.warp w with
  | some x => (match x.run with
    | some r => (s.imprint x (r.leaves x.slot)).setWarp w x.discard
    | none => s.setWarp w x.discard)
  | none => s

/-- A slot that a warp no longer holds. -/
def State.leaveSlot (s : State) (w : Nat) : State :=
  match s.warp w with
  | none => s
  | some x =>
    if ((s.core x.col x.core).slots.getD x.slot Slot.idle).holder = some w then
      s.modCore x.col x.core fun c => { c with slots := c.slots.set x.slot Slot.idle }
    else s

/-- The lines of a warp's private area dropped from every L1 of its column, without being written back (R386). -/
def State.dropPrivate (s : State) (w : Nat) : State :=
  match s.warp w with
  | none => s
  | some x =>
    let asid := s.asidOf x
    let lo := x.pbase.toNat % 2 ^ 48 / 64
    let mine (e : L1Line) : Bool :=
      e.asid == asid && some e.lcol == (s.ctx asid).coll x.col && decide (lo ≤ e.vline) && decide (e.vline < lo + 4 * x.plim)
    (List.range 4).foldl (fun s k =>
      let gone := (s.core x.col k).l1.filter mine
      if gone.isEmpty then s
      else
        let s := (gone.filter L1Line.dirty).foldl (fun s e => s.dropDirty e.ploc) s
        s.modCore x.col k fun c => { c with l1 := c.l1.filter fun e => !mine e }) s

/-- The stores of a committed run that stand behind a BFENCE or CPART released, as the warp goes: committed stores stand
(R396); the arrivals, cache operations and launches that stood there go with the gang (log 47, DEDUCED). -/
def State.releaseRest (s : State) (w : Nat) : State :=
  match s.warp w with
  | none => s
  | some x => match x.rest with
    | some k => (k.run.stbuf.filter fun b => decide (k.place ≤ b.after)).foldl (fun s b => s.releaseStore x b) s
    | none => s

/-- A warp gone: it leaves its slot and its core, and its registers are free. -/
def State.dropWarp (s : State) (w : Nat) : State :=
  let s := s.releaseRest w
  let s := match s.discardRun w, s.warp w with
    | t, some x => t.imprint x x.leaves
    | t, none => t
  let s := (if ((s.warp w).map Warp.retired).getD true then s else s.dropPrivate w).leaveSlot w
  { s with warps := mapErase s.warps w, cur := if s.cur = some w then none else s.cur }

/-- The warps of a block. -/
def State.warpsOf (s : State) (b : Nat) : List (Nat × Warp) := s.warps.filter fun kv => kv.2.block == b

/-- The blocks of a gang. -/
def State.blocksOf (s : State) (g : Nat) : List (Nat × Block) := s.blocks.filter fun kv => kv.2.gang == g

/-- The warps of a gang. -/
def State.gangWarps (s : State) (g : Nat) : List (Nat × Warp) :=
  s.warps.filter fun kv => ((s.block kv.2.block).map Block.gang) == some g

/-- The gangs of a grid. -/
def State.gangsOf (s : State) (g : Nat) : List (Nat × Gang) := s.gangs.filter fun kv => kv.2.grid == g

/-- A block gone with its warps, its queued matrix commands and its tiles. -/
def State.dropBlock (s : State) (b : Nat) : State :=
  match s.block b with
  | none => s
  | some k =>
    let s := (s.warpsOf b).foldl (fun s kv => s.dropWarp kv.1) s
    let s := if mapGet s.cores (4 * k.col + k.core) = none then s
      else s.modCore k.col k.core fun c =>
        { c with engine := c.engine.filter fun m => m.block != b
                 serving := if c.serving = some b then none else c.serving }
    { s with blocks := mapErase s.blocks b }

/-- The stations that hold contributors bound to a gang. -/
def State.stationsOf (s : State) (g : Nat) : List Nat :=
  (s.rounds.filter fun kv => kv.2.cont.any fun c => (c.2.gang.map Prod.fst) == some g).map fun kv => kv.2.col

/-- The end of a gang sent to the peers whose stations hold contributors of it (R337). -/
def State.tellPeers (s : State) (g : Nat) (retired : Bool) : State :=
  (((s.gang g).map Gang.peers).getD []).foldl (fun s d => s.send (.mergeNotice d g retired)) s

/-- A grid whose predecessors are not those of some launches that were discarded: their handles name no grid any more (R133). -/
def Grid.unnamed (x : Grid) (gone : List Nat) : Grid :=
  { x with preds := x.preds.map fun p => if p.grid.any gone.contains then { p with grid := none } else p }

/-- Everything of a gang that is running or queued removed (R396): runs, queued commands, tiles, registers, barriers,
held commands; each station is sent the notice of R337. Committed stores and the sticky bits of CIR stand. A host grid whose
PARENT named a held launch that goes with the gang keeps it for a parent, and so its own handle (log 89, DESIGN CHOICE). -/
def State.clearGang (s : State) (g : Nat) : State :=
  let held := (((s.gang g).map Gang.held).getD []).filterMap fun h => match h with | .launch n => some n | _ => none
  let s := (s.blocksOf g).foldl (fun s kv => s.dropBlock kv.1) s
  let s := s.tellPeers g false
  let s := { s with copies := s.copies.filter fun kv => kv.2.gang != g
                    merges := s.merges.filter fun kv => kv.2.gang != g
                    grids := s.grids.filterMap fun (kv : Nat × Grid) =>
                      if kv.2.state == GridState.held && held.contains kv.1 then none else some (kv.1, kv.2.unnamed held)
                    arrivals := s.arrivals.filter fun kv => kv.2.1 != g
                    notices := s.notices ++ (s.stationsOf g).map fun c => (c, g, false) }
  s.modGang g fun k => { k with gbar := [], held := [], peers := [] }

/-- The number of blocks or gangs of a grid (R131). -/
def Record.total (r : Record) : Nat := r.gdx * r.gdy * r.gdz

/-- A queue of the device. -/
def Dev.queue (d : Dev) (q : Nat) : Queue := d.queues.getD q Queue.reset

/-- The number of entries of a queue's rings (R135). -/
def Queue.size (q : Queue) : Nat := 2 ^ (q.qctl.toNat / 16 % 16 + 4)

/-- Bytes that the device writes on behalf of a context, with no issuing column (R136, R142): they are written where
the pointer's logical column leads, and host bytes go to host memory at once. A byte that cannot be translated is not
written. -/
def State.deviceWrite (s : State) (asid : Nat) (ptr : Addr) (bs : List Byte) : State :=
  let s := s.walkBytes asid 128 ptr bs.length
  (List.range bs.length).foldl (fun s i =>
    match s.enginePlace 128 asid (ptr + BitVec.ofNat 64 i) { write := true } with
    | .ok (.host pa) => { s with host := cellSet s.host pa (bs.getD i 0) }
    | .ok l => s.putByte 128 l (bs.getD i 0)
    | .error _ => s) s

/-- The completion entry of a host grid (R136): handle and status, at the place the ring has reached; then QDONE rises
and vector 0 is raised (R374). -/
def State.complete (s : State) (g : Grid) (status : Nat) : State :=
  match g.queue with
  | none => s
  | some (q, qcmpl, size) =>
    let k := s.dev.queue q
    let ptr := qcmpl + BitVec.ofNat 64 (8 * (k.qdone.toNat % size))
    let s := s.deviceWrite g.asid ptr (leBytes 4 g.handle ++ leBytes 4 status)
    let s := { s with dev := { s.dev with queues := s.dev.queues.set q { k with qdone := k.qdone + 1 } } }
    s.raiseVector 0

/-- May a grid retire (R74, R148): its gangs are all placed and retired, its children and the grids of its drain have
retired? -/
def State.gridDone (s : State) (g : Nat) (x : Grid) : Bool :=
  x.state == .pending && decide (x.rcd.total ≤ x.next)
    && (s.gangsOf g).all (fun kv => kv.2.state == .retired)
    && s.grids.all (fun kv => kv.2.parent != some g || kv.2.state == .retired)
    && x.drain.all fun d => d == g || ((s.grid d).map Grid.state).getD .retired == .retired

/-- The warps that wait in GWAIT on a grid told its status as it retires (R123). -/
def State.tellGridWaiters (s : State) (x : Grid) (status : Nat) : State :=
  { s with warps := s.warps.map fun kv => (kv.1, match kv.2.wait with
      | .gwait d h fate =>
        if fate = 0 ∧ h.toNat = x.handle ∧ s.asidOf kv.2 = x.asid then { kv.2 with wait := .gwait d h (1 + status) } else kv.2
      | _ => kv.2) }

/-- A predecessor that has retired, with its status (R138). -/
def Grid.afterRetired (x : Grid) (g status : Nat) : Grid :=
  { x with preds := x.preds.map fun p => if p.grid = some g then { p with status := some status } else p }

/-- A grid retired when it may: its stores are released at DEVICE scope, its completion entry is written, and its
parent, or the last grid of its drain, may retire in turn. -/
def State.retireGrid : Nat → State → Nat → State
  | 0, s, _ => s
  | fuel + 1, s, g =>
    match s.grid g with
    | none => s
    | some x =>
      if !s.gridDone g x then s
      else
        let bad := x.error || x.drain.any fun d => ((s.grid d).map Grid.status).getD 0 != 0
        let status := if bad then 1 else 0
        let s := (s.gangsOf g).foldl (fun s kv => kv.2.columns.foldl (fun s c => s.releaseHost c) s) s
        let s := s.modGrid g fun y => { y with state := .retired, status := status }
        let s := { s with gangs := s.gangs.filter fun kv => kv.2.grid != g
                          grids := s.grids.filterMap fun (kv : Nat × Grid) =>
                            if kv.2.parent = some g then none else some (kv.1, kv.2.afterRetired g status) }
        let s := (s.tellGridWaiters x status).complete x status
        let s := match x.parent with | some p => s.retireGrid fuel p | none => s
        match mapFind s.grids fun k y => k != g && y.drain.contains g with
        | some (k, _) => s.retireGrid fuel k
        | none => s

/-- How deep the retirement of one grid can reach: parents are nested to depth 10 (R74), and a drain adds one. -/
def retireFuel : Nat := 32

/-- The dirty host bytes of a gang's columns written back (R257). -/
def State.releaseGang (s : State) (g : Nat) : State :=
  match s.gang g with
  | some k => k.columns.foldl (fun s c => s.releaseHost c) s
  | none => s

/-- A grid ended with an error (R132, R138, R397): no further gang of it is placed, the gangs that run are killed, and
it retires with status 1 when its children have. -/
def State.endGrid (s : State) (g : Nat) : State :=
  let s := (s.gangsOf g).foldl (fun s kv =>
    if kv.2.state = .retired then s
    else ((s.clearGang kv.1).releaseGang kv.1).modGang kv.1 fun k => { k with state := .retired }) s
  let s := s.modGrid g fun x => { x with error := true, next := x.rcd.total, state := .pending }
  s.retireGrid retireFuel g

/-- A gang killed (R390, R396, R397): a restartable gang waits for its relaunch, up to four times; otherwise its grid
ends with an error. -/
def State.killGang (s : State) (g : Nat) : State :=
  match s.gang g with
  | none => s
  | some k =>
    match s.grid k.grid with
    | none => s
    | some x =>
      if x.rcd.rstrt && decide (k.relaunch < 4) then
        ((s.clearGang g).releaseGang g).modGang g fun k => { k with state := .killed }
      else s.endGrid k.grid

/-- A double trap (R124): the gang is killed and its grid ends with an error, whether or not it is restartable
(log 65, DEDUCED). -/
def State.doubleTrap (s : State) (x : Warp) : State :=
  match s.gangOf x with
  | none => s
  | some g => s.endGrid g.grid

/-- A trap with no handler (R124 step 2): the grid ends with an error that carries the cause. -/
def State.unhandled (s : State) (x : Warp) (code : Nat) : State :=
  match s.gangOf x with
  | none => s
  | some g => (s.modGrid g.grid fun k => { k with cause := some code }).endGrid g.grid

end Sys2Proof.Machine
end

