-- ==== Sys2Proof/Machine/Ops.lean ====
section
/-! DEFINITION. The operations that every instruction shares: the issuing warp and its run, taking a trap (R124) and
returning from one (R126), the physical registers (R97, R98), issuing an instruction and ending it (R55, R56, R75,
R100), and what becomes of an instruction that stops. -/

namespace Sys2Proof.Machine

open Sys2Proof

/-! ### The issuing warp -/

/-- Why an instruction does not complete. -/
inductive Stop where
  | trap (c : Cause) (mask : Mask)   -- a synchronous trap (R392)
  | pressure (bank : Nat)            -- its bank has no free register (R98)
  | arrive (n : Nat)                 -- it waits for a pending result, which arrives now (R100)
  | wait                             -- it waits for an irrevocable instruction (R82) or for its warp's last run (R326, R353)
  | endRun                           -- compatible mode ends the run before it (R56)
  | kill                             -- a poison record that kills the gang (R128)
  deriving DecidableEq, Repr

/-- An instruction as it issues: the machine, its warp, the run with the warp's registers, and the threads it acts
for. -/
structure Cx where
  s   : State
  w   : Nat
  x   : Warp
  r   : Run
  f   : Fields
  pc  : Addr                         -- the address of its first word
  nxt : Addr                         -- where the warp goes on after it
  act : Mask                         -- ACTIVE
  grd : Mask                         -- GUARD
  deriving Repr

/-- What an instruction's body answers: where it goes on, or why it stops and with what machine. -/
abbrev Step := Except (Stop × State) Cx

/-- A body that stops. -/
def Cx.stop (c : Cx) (st : Stop) : Step := .error (st, c.s)

/-- A body that raises a trap for some threads. -/
def Cx.raise (c : Cx) (code info : Nat) (addr : Addr) (mask : Mask) : Step :=
  c.stop (.trap { code := code, info := BitVec.ofNat 32 info, addr := addr } mask)

/-- A body that raises a trap whose cause is warp-wide: TMASK holds every active thread (R392). -/
def Cx.raiseAll (c : Cx) (code info : Nat) : Step := c.raise code info 0 c.act

/-- The illegal-instruction trap (R54). -/
def Cx.illegal (c : Cx) : Step := c.raiseAll 0x10 0

/-- The mode of the issuing warp's grid: 0 native, 1 native-debug, 2 compatible (R131). -/
def Cx.mode (c : Cx) : Nat := (c.s.recOf c.x).mode

/-- FTZ of the grid (R162). -/
def Cx.ftz (c : Cx) : Bool := (c.s.recOf c.x).ftz

/-- Is the grid protected (R89)? -/
def Cx.prot (c : Cx) : Bool := (c.s.recOf c.x).prot

/-- The ASID of the issuing context. -/
def Cx.asid (c : Cx) : Nat := c.s.asidOf c.x

/-- The run's registers changed. -/
def Cx.modWork (c : Cx) (g : Regs → Regs) : Cx := { c with r := { c.r with work := g c.r.work } }

/-- Has every thread exited (R74)? -/
def Regs.allExited (r : Regs) : Bool := r.nc.all fun n => n == 255

/-- The threads whose NC is zero (R84). -/
def Regs.active (r : Regs) : Mask := maskOf fun t => r.nc.getD t 255 == 0

/-- A predicate (R99): P7 always reads 1. -/
def Regs.pred (r : Regs) (n : Nat) : Mask := if n = 7 then BitVec.allOnes 64 else r.p.getD n 0

/-- Has an irrevocable instruction that a warp's last run ended in still to be performed (R82)? -/
def Warp.crossing (x : Warp) : Bool :=
  x.arrived.isSome || x.pend.any fun p => !p.ready && !p.ofRun && (match p.fx with | .load _ _ _ _ => false | _ => true)

/-- A run that has not executed anything, from the warp's registers (R75, R94). What it reads behind an acquire of its own
while its warp's last crossing is still to be performed, it reads too early (R262). -/
def Warp.newRun (x : Warp) : Run :=
  { startPc := x.regs.pc, count := 0, stores := 0, allocs := 0, work := x.regs,
    latch := List.replicate 4 { valid := false, lanes := Lanes.zero }, freed := [], dead := [], stbuf := [], cmds := [],
    irr := none, soLoads := [], soHit := false, fenced := if x.crossing then 1 else 0, late := [], lateStat := [],
    behind := false, cmp := [], lastPc := x.regs.pc, skipped := false, sAt := [], cold := false, ended := none }

/-- The run in flight, or a new one. -/
def Warp.theRun (x : Warp) : Run := x.run.getD x.newRun

/-! ### Physical registers -/

/-- The physical registers of one bank that a set of registers maps (R97). -/
def Regs.phys (r : Regs) (bank : Nat) : List Nat :=
  (r.v.filter fun kv => kv.1 % 4 == bank).map fun kv => kv.2.phys

/-- The physical registers of one bank that a run holds besides its warp's: its own mapping, and those it frees only at
its commit. -/
def Run.phys (r : Run) (bank : Nat) : List Nat :=
  r.work.phys bank ++ (r.freed.filter fun b => b.1 == bank).map fun b => b.2.phys

/-- The physical registers in use in a bank of a core (R97), with `r` as the run of warp `w`. -/
def State.physUsed (s : State) (col core bank w : Nat) (r : Option Run) : List Nat :=
  s.warps.flatMap fun kv =>
    let x := kv.2
    if x.col ≠ col ∨ x.core ≠ core ∨ x.swapped ∨ x.halted then []
    else
      let run := if kv.1 = w then r else x.run
      x.regs.phys bank ++ (match run with | some q => q.phys bank | none => [])
        ++ (x.static.filter fun b => b.1 == bank).map Prod.snd

/-- Is a warp resident and free of a W instruction and of SLEEP (R98)? -/
def Warp.awake (x : Warp) : Bool :=
  !x.swapped && !x.halted && !x.retired && (match x.wait with | .none => true | .pressure _ _ _ _ => true | _ => false)

/-- Is one warp older than another (R98)? -/
def Warp.older (x y : Warp) : Bool := decide (x.age < y.age) || (x.age == y.age && decide (x.num < y.num))

/-- The oldest of some warps. -/
def oldest (l : List (Nat × Warp)) : Option Nat :=
  (l.foldl (fun b kv => match b with
    | none => some kv
    | some y => if kv.2.older y.2 then some kv else some y) none).map Prod.fst

/-- The warps of a core. -/
def State.coreWarps (s : State) (col core : Nat) : List (Nat × Warp) :=
  s.warps.filter fun kv => kv.2.col == col && kv.2.core == core && !kv.2.retired

/-- The privileged warp of a core (R98). -/
def State.privileged (s : State) (col core : Nat) : Option Nat :=
  oldest ((s.coreWarps col core).filter fun kv => kv.2.awake)

/-- The first index of the emergency block of a bank (R97). -/
def emergencyAt : Nat := 504

/-- Does a warp older than another wait swapped out on a core (R98)? -/
def State.olderOut (s : State) (x : Warp) : Bool :=
  (s.coreWarps x.col x.core).any fun kv => kv.2.swapped && !kv.2.halted && kv.2.older x

/-- A physical register for a first or fresh write (R97, R98): the lowest free one outside the emergency block, or, for
the privileged warp, inside it. While an older warp waits swapped out, the bank counts as exhausted. -/
def Cx.alloc (c : Cx) (bank : Nat) : Except Stop Nat :=
  let used := c.s.physUsed c.x.col c.x.core bank c.w (some c.r)
  let plain := if c.s.olderOut c.x then none else (List.range emergencyAt).find? fun i => !used.contains i
  match plain with
  | some i => .ok i
  | none =>
    if c.s.privileged c.x.col c.x.core = some c.w then
      match (List.range 8).find? fun i => !used.contains (emergencyAt + i) with
      | some i => .ok (emergencyAt + i)
      | none => .error (.pressure bank)
    else .error (.pressure bank)

/-- The youngest resident warp of a core that is younger than a warp (R98). -/
def State.youngestBelow (s : State) (x : Warp) : Option Nat :=
  let l := (s.coreWarps x.col x.core).filter fun kv => !kv.2.swapped && !kv.2.halted && x.older kv.2
  (l.foldl (fun b kv => match b with
    | none => some kv
    | some y => if y.2.older kv.2 then some kv else some y) none).map Prod.fst

/-- A run discarded for register pressure (R98): no trap and no CIR bit; the warp waits until its bank frees a register of those
in use after the discard, and when it is the privileged one a younger warp is to be swapped out (log 105, DEDUCED). -/
def State.pressureDiscard (s : State) (w bank : Nat) : State :=
  match s.warp w with
  | none => s
  | some x =>
    let priv := s.privileged x.col x.core = some w
    let held := s.physUsed x.col x.core bank w none
    let s := s.setWarp w { x.discard with wait := .pressure bank held (s.olderOut x) priv }
    if priv then
      match s.youngestBelow x with
      | some v => s.modWarp v fun y => { y with swapReq := true }
      | none => s
    else s

/-! ### The save record -/

/-- Bytes written at an offset of a context's save area on a column (R361). -/
def State.saveAt (s : State) (asid col off : Nat) (bs : List Byte) : State :=
  match mapGet (s.ctx asid).save col with
  | none => s
  | some (pa, slot) =>
    let s := s.meter asid col 5 ((bs.length + 31) / 32 * 32)
    (List.range bs.length).foldl (fun s i => s.putDram col (pa + off + i) slot (bs.getD i 0)) s

/-- Bytes of a context's save area on a column read back, each with the poison of its line (R361, R394, R399); none where the
context has no save area there. -/
def State.savedAt (s : State) (asid col off n : Nat) : List (Byte × Bool) × State :=
  match mapGet (s.ctx asid).save col with
  | none => ([], s)
  | some (pa, slot) =>
    let got := (List.range n).map fun i => (s.dramByte col (pa + off + i) slot, s.dramPoison col (pa + off + i))
    (got, (s.meter asid col 4 ((n + 31) / 32 * 32)).readLines col ((pa + off) / 32) ((n + 31) / 32))

/-- Where the record of core-local warp `n` of a core lies in a save area (R361). -/
def warpRecord (core n : Nat) : Nat := 0x240000 * core + 0x12000 * n

/-- The record of a core-local warp among those of every save area; that of the block whose first warp it is stands 32 on. -/
def recordKey (asid col core n : Nat) : Nat := ((128 * asid + col) * 4 + core) * 64 + n

/-- A warp as the holder of a record. -/
def Warp.holder (x : Warp) : Nat := 32 * x.block + x.num

/-- Bytes written into the save area of a warp's context, in the record of the warp (R361). -/
def State.saveBytes (s : State) (x : Warp) (off : Nat) (bs : List Byte) : State :=
  let s := s.saveAt (s.asidOf x) x.col (warpRecord x.core x.wcore + off) bs
  { s with records := mapSet s.records (recordKey (s.asidOf x) x.col x.core x.wcore) x.holder }

/-- The bytes of a 64-thread value in a save record: thread t at 4t (R361). -/
def Lanes.image (l : Lanes) : List Byte := l.val.flatMap fun w => leBytes 4 w.toNat

/-- Bytes of a warp's save record read back; none where its context has no save area on the column, or where another warp has
written the record since (R361) (log 35, DEDUCED). -/
def State.recordRead (s : State) (x : Warp) (off n : Nat) : List (Byte × Bool) × State :=
  if mapGet s.records (recordKey (s.asidOf x) x.col x.core x.wcore) = some x.holder then
    s.savedAt (s.asidOf x) x.col (warpRecord x.core x.wcore + off) n
  else ([], s)

/-- A 64-thread value as its record gives it back: a lane is poisoned that was when it was saved, or whose line is now (R361,
R409). -/
def Lanes.restore (l : Lanes) (bs : List (Byte × Bool)) : Lanes :=
  if bs.isEmpty then l
  else
    { val := (List.range 64).map fun t => BitVec.ofNat 32 (leNat (((bs.drop (4 * t)).take 4).map Prod.fst))
      poison := l.poison ||| maskOf fun t => ((bs.drop (4 * t)).take 4).any Prod.snd }

/-- The valid bits of operand-cache entries (R361). -/
def validByte (c : List Entry) : Nat :=
  (List.range 8).foldl (fun n k => if (c.map Entry.valid).getD k false then n + 2 ^ k else n) 0

/-- Operand-cache entries in a warp's save record, with their valid bits (R361). -/
def State.saveEntries (s : State) (x : Warp) (c : List Entry) : State :=
  (s.saveBytes x 0x10000 (c.flatMap fun e => e.lanes.image)).saveBytes x 0x1098B [BitVec.ofNat 8 (validByte c)]

/-- What trap entry saves, in the warp's save record (R124, R361) (log 66, DEDUCED). -/
def State.saveTrap (s : State) (x : Warp) (v : Saved) : State :=
  let s := s.saveEntries x v.c
  let s := s.saveBytes x 0x10940 v.nc
  let s := s.saveBytes x 0x10980 (leBytes 8 v.mark.toNat)
  s.saveBytes x 0x10988 [BitVec.ofNat 8 v.depth, BitVec.ofNat 8 v.ldep]

/-- Operand-cache entries as a save record gives them back: their lanes, and their valid bits from the record's byte. -/
def restoreEntries (c : List Entry) (bs : List (Byte × Bool)) (valid : Nat) : List Entry :=
  if bs.isEmpty then c
  else c.zipIdx.map fun e => { valid := valid.testBit e.2, lanes := e.1.lanes.restore ((bs.drop (256 * e.2)).take 256) }

/-- The value of some bytes of a record. -/
def recordNat (bs : List (Byte × Bool)) (i n : Nat) : Nat := leNat (((bs.drop i).take n).map Prod.fst)

/-- What trap entry saved, read back from the warp's save record (R126, R361) (log 35, DEDUCED). -/
def State.loadTrap (s : State) (x : Warp) (v : Saved) : Saved × State :=
  let (cs, s) := s.recordRead x 0x10000 2048
  let (nc, s) := s.recordRead x 0x10940 64
  let (m, s) := s.recordRead x 0x10980 12
  if m.isEmpty then (v, s)
  else ({ v with c := restoreEntries v.c cs (recordNat m 11 1), nc := nc.map Prod.fst, mark := BitVec.ofNat 64 (recordNat m 0 8)
                 depth := recordNat m 8 1, ldep := recordNat m 9 1 }, s)

/-! ### Pending results -/

/-- Lanes with some of them replaced. -/
def Lanes.merge (l : Lanes) (mask : Mask) (new : Lanes) : Lanes :=
  { val := (List.range 64).map fun t => if bit mask t then new.val.getD t 0 else l.val.getD t 0
    poison := (l.poison &&& ~~~mask) ||| (new.poison &&& mask) }

/-- A cache entry or latch written for some threads. -/
def Entry.write (e : Entry) (mask : Mask) (new : Lanes) : Entry := { valid := true, lanes := e.lanes.merge mask new }

/-- The lane-0 value of a uniform result. -/
def Lanes.first (l : Lanes) : SVal := { val := l.val.getD 0 0, poison := bit l.poison 0 }

/-- A cache entry written by a result that arrives: lanes outside its threads are kept, or unspecified where the entry was
invalid (R95). -/
def Entry.receive (e : Entry) (free : Lanes) (mask : Mask) (new : Lanes) : Entry :=
  { valid := true, lanes := (if e.valid then e.lanes else free).merge mask new }

/-- Operand-cache entries after a pending result is written to the entry it names as its destination and to its KEEP entry.
`kept` says which of its registers it reaches, and, at 8, whether it reaches the KEEP entry; `free` gives unspecified lanes. -/
def Pending.receiveC (p : Pending) (c : List Entry) (kept : Nat → Bool) (free : Nat → Lanes) : List Entry :=
  let l0 := p.vals.getD 0 Lanes.zero
  let put (c : List Entry) (k n : Nat) : List Entry :=
    c.set k ((c.getD k { valid := false, lanes := Lanes.zero }).receive (free n) p.mask l0)
  let c := match p.dst, kept 0 with
    | .c n, true => put c n.toNat 0
    | _, _ => c
  match p.keep, kept 8 with
  | some k, true => put c k 1
  | _, _ => c

/-- Home registers of compatible mode after a pending result is written to what `kept` names (R104). -/
def Pending.receiveHome (p : Pending) (home : List Lanes) (kept : Nat → Bool) : List Lanes :=
  let put (h : List Lanes) (k : Nat) : List Lanes := h.set k ((h.getD k Lanes.zero).merge p.mask (p.vals.getD 0 Lanes.zero))
  let home := match p.dst, kept 0 with
    | .c n, true => put home (4 + n.toNat)
    | _, _ => home
  match p.keep, kept 8 with
  | some k, true => put home (4 + k)
  | _, _ => home

/-- Registers after a pending result is written to the registers of its group that `kept` names, and to its cache entries
(R100) (log 63, DEDUCED). In a handler, the cache entries of a result that was pending at the trap are those the trap
saved (R124, R126). -/
def Regs.receive (r : Regs) (p : Pending) (kept : Nat → Bool) (free : Nat → Lanes) : Regs :=
  let r := ((List.range p.count).filter kept).foldl (fun r j =>
    let l := p.vals.getD j Lanes.zero
    match p.dst with
    | .v n => match mapGet r.v (n.toNat + j) with
      | some v => { r with v := mapSet r.v (n.toNat + j) { v with lanes := v.lanes.merge p.mask l } }
      | none => r
    | .s n => { r with s := r.s.set (n.toNat + j) l.first }
    | _ => r) r
  { r with c := if p.outer then r.c else p.receiveC r.c kept free, home := p.receiveHome r.home kept }

/-- Registers after a pending result has arrived (R100): what it reaches, the home register of its latch, and the
permutation slot of a BSET. -/
def Regs.arrive (r : Regs) (p : Pending) (kept : Nat → Bool) (free : Nat → Lanes) : Regs :=
  let r := r.receive p kept free
  let r := match p.latch with
    | some k => { r with home := r.home.set k ((r.home.getD k Lanes.zero).merge p.mask (p.vals.getD 0 Lanes.zero)) }
    | none => r
  match p.fx with
  | .bset k ws psn => { r with q := r.q.set k { words := ws, poison := psn } }
  | _ => r

/-- A run after a pending result has arrived: the run's registers, and the latch its producer writes in this run, whose
lanes outside its threads are unspecified (R93). -/
def Run.arrive (r : Run) (p : Pending) (kept : Nat → Bool) (free : Nat → Lanes) : Run :=
  let r := { r with work := r.work.arrive p kept free }
  match p.latch, p.ofRun with
  | some k, true =>
    { r with latch := r.latch.set k { valid := true, lanes := (free 2).merge p.mask (p.vals.getD 0 Lanes.zero) } }
  | _, _ => r

/-- What a trap saved, after a result that was pending at the trap has arrived in the handler: its cache entry is one of those
saved (R83, R126). -/
def Saved.arrive (v : Saved) (p : Pending) (free : Nat → Lanes) : Saved :=
  if p.outer then { v with c := p.receiveC v.c (fun _ => true) free } else v

/-- The words MSTAT writes for a tile (R234), as the engine stands. -/
def State.mstatWords (s : State) (w : Nat) (x : Warp) (n : Nat) : List Word :=
  match s.blockOf x with
  | none => []
  | some b =>
    let t := b.tiles.getD n Tile.clear
    let queue := (s.core b.col b.core).engine
    let left := (queue.filter fun m => m.block == x.block && m.tile == n).length
    let done := match queue.find? fun m => m.warp == w with | some m => m.batch | none => x.batch
    [t.prod, BitVec.ofNat 32 (t.flags + 256 * min 255 left), BitVec.ofNat 32 done, BitVec.ofNat 32 (if t.flt then t.fltAt % 65536 else 0)]

/-- A pending result as it arrives: the words of an MSTAT are those of the moment. -/
def State.refreshed (s : State) (w : Nat) (x : Warp) (p : Pending) : Pending :=
  match p.fx with
  | .mstat n => { p with vals := (s.mstatWords w x n).map fun v => { val := List.replicate 64 v, poison := 0 } }
  | _ => p

/-- The permutation slot that a result is for (R313). -/
def PendFx.slot (fx : PendFx) : Option Nat :=
  match fx with
  | .bset k _ _ | .load _ (some k) _ _ => some k
  | _ => Option.none

/-- Has the window of a result closed, and has its data come? -/
def Pending.closed (p : Pending) : Bool := p.here && p.window == 0

/-- A warp without the results whose windows have closed (R100). Where the program wrote a register of the destination or
the KEEP entry inside the window, which of the two values it holds from then on is not specified (R103 code 2): `pick`
chooses for register `j` of the `i`th result pending (log 63, DEDUCED). -/
def Warp.closeWindows (x : Warp) (pick : Nat → Nat → Bool) (free : Nat → Lanes) : Warp :=
  let overs := (List.range x.pend.length).filterMap fun i => (x.pend[i]?).bind fun p => if p.closed then some (i, p) else none
  let again (names : Pending → List Nat) (r : Regs) : Regs :=
    overs.foldl (fun r q => r.receive q.2 (fun j => (names q.2).contains j && pick q.1 j) free) r
  { x with regs := again Pending.contested x.regs
           run := x.run.map fun r => { r with work := again (fun p => p.contested ++ p.touched) r.work }
           pend := x.pend.filter fun p => !p.closed }

/-- The free choices of a step for the windows that close in it. -/
def State.pickAt (s : State) (i j : Nat) : Bool := Config.freeBit (s.fresh + 1024 + 16 * i + j)

/-- A pending result written (R100, R102). A result of a committed run is written into the warp's registers, into those of
the run in flight, and, in a handler, into what the trap saved (R361); one of the run in flight into that run's alone, and its
effect on CIR waits for that run's commit (R203). What the program wrote inside the window stands until the window closes.
The window stays open for as many instructions as it has left. -/
def State.arrival (s : State) (w n : Nat) : State :=
  match s.warp w with
  | none => s
  | some x =>
    match x.pend.find? fun p => p.id == n with
    | none => s
    | some p =>
      if !p.ready || p.here then s
      else
        let p := s.refreshed w x p
        let free := s.freeLanes x
        let kept (l : List Nat) (j : Nat) : Bool := !l.contains j
        let run := x.run.map fun r =>
          let r := r.arrive p (kept (p.contested ++ p.touched)) free
          match p.fx, p.ofRun with
          | .mupd k negv, true => { r with cmds := r.cmds ++ [.mupd k negv] }
          | _, _ => r
        let x := if p.ofRun then { x with run := run }
          else { x with regs := x.regs.arrive p (kept p.contested) free, run := run
                        saved := x.saved.map fun v => v.arrive p free }
        let x := { x with pend := x.pend.map fun (q : Pending) => if q.id = n then { p with here := true } else q }
        let s := s.setWarp w (x.closeWindows s.pickAt free)
        let s := match x.saved, p.outer with
          | some v, true => s.saveEntries x v.c
          | _, _ => s
        let s := match p.fx, p.ofRun with
          | .mupd k negv, false => s.lossEvents (s.asidOf x) x.col k negv
          | _, _ => s
        s.drewFresh

/-! ### Taking a trap and returning from it -/

/-- The bytes of a trap frame (R125). -/
def frameBytes (c : Cause) (mask : Mask) (tpc rpc : Addr) (irrv bskip : Bool) (cyc depth ldep : Nat) : List Byte :=
  leBytes 2 c.code ++ leBytes 2 (c.code / 16 % 16 + (if bskip then 16 else 0) + (if irrv then 32 else 0))
    ++ leBytes 4 c.info.toNat ++ leBytes 8 tpc.toNat ++ leBytes 8 rpc.toNat ++ leBytes 8 c.addr.toNat
    ++ leBytes 8 mask.toNat ++ leBytes 8 cyc ++ leBytes 4 0 ++ leBytes 4 (depth + 256 * ldep) ++ List.replicate 72 0

/-- The self pointer to a column offset (R106, R147). -/
def selfPtr (off : Addr) : Addr := 0x00FF000000000000 ||| (off &&& 0x0000FFFFFFFFFFFF)

/-- TVEC of a warp's grid on its column (R130). -/
def State.tvecOf (s : State) (x : Warp) : Addr :=
  match s.gridOf x with
  | some g => mapGetD g.tvec x.col 0
  | none => 0

/-- TFRAME of a warp's grid on its column (R130). -/
def State.tframeOf (s : State) (x : Warp) : Addr :=
  match s.gridOf x with
  | some g => mapGetD g.tframe x.col 0
  | none => 0

/-- The place of a warp's trap frame (R124). -/
def State.framePtr (s : State) (x : Warp) : Addr :=
  selfPtr (s.tframeOf x + BitVec.ofNat 64 (128 * (32 * x.core + x.wcore)))

/-- The registers of a warp as its handler begins with them (R124 steps 5 and 6). -/
def Regs.handler (r : Regs) (tvec : Addr) : Regs :=
  { r with c := r.c.map fun e => { e with valid := false }
           nc := r.nc.map fun n => if n = 255 then 255 else 0
           mark := 0, depth := 0, ldep := 0, pc := tvec }

/-- Bytes stored into some places by a party of a core: their sectors are there before a byte of them changes, every other copy
in an L1 goes, and the core's own is up to date (R276, R283). -/
def State.storeThrough (s : State) (col core asid : Nat) (ps : List Place) (bs : List ByteW) : State :=
  let units := distinctUnits false ps
  let s := units.foldl (fun s p => (s.touch col core asid p { store := true }).shootL1 col core p.loc false) s
  units.foldl (fun s p => s.refreshL1 col core p.loc) (s.writeBytes col bs)

/-- What the caches hold after a party of a core has loaded from some places. -/
def State.loadTouch (s : State) (col core asid : Nat) (ps : List Place) : State :=
  (distinctUnits false ps).foldl (fun s p => s.touch col core asid p {}) s

/-- Taking a trap (R124), once the run is discarded or committed: the steps in the order the rule gives them. `tpc` is
the instruction that caused it and `rpc` the resume point (log 65, DEDUCED) (log 66, DEDUCED). -/
def State.takeTrap (s : State) (w : Nat) (c : Cause) (mask : Mask) (tpc rpc : Addr) (irrv bskip : Bool) : State :=
  match s.warp w with
  | none => s
  | some x =>
    if x.hmode then s.doubleTrap x
    else if s.tvecOf x = 0 then s.unhandled x c.code
    else
      let ptr := s.framePtr x
      let frame := frameBytes c mask tpc rpc irrv bskip (s.cycOf x.col) x.regs.depth x.regs.ldep
      match s.places x.col x.core (s.asidOf x) true ptr 128 0 { write := true } with
      | .error _ => s.doubleTrap x
      | .ok ps =>
        let bs := (ps.zip frame).map fun pb => { loc := pb.1.loc, va := 0, byte := pb.2, poison := false : ByteW }
        let v : Saved := { c := x.regs.c, nc := x.regs.nc, depth := x.regs.depth, ldep := x.regs.ldep, mark := x.regs.mark
                           tpc := tpc, frame := ptr }
        let s := (s.storeThrough x.col x.core (s.asidOf x) ps bs).saveTrap x v
        s.setWarp w { x with
          regs := x.regs.handler (s.tvecOf x)
          saved := some v
          pend := x.pend.map fun p => { p with outer := true }
          hmode := true, bskip := none, wait := .none }

/-- Returning from a trap (R126 steps 2 and 3), once the run that holds TRET has committed: RPC and BSKIP are read, as a
load by the warp, from the frame that the entry wrote, the state saved at entry is restored from the save area (R361), and
HMODE is cleared. A frame
that can no longer be read is a fault of that load; bytes of it that are poisoned are taken as they stand
(log 75, DESIGN CHOICE). -/
def State.returnTrap (s : State) (w : Nat) : Except (Cause × State) State :=
  match s.warp w with
  | none => .ok s
  | some x =>
    let ptr := (x.saved.map Saved.frame).getD (s.framePtr x)
    match s.places x.col x.core (s.asidOf x) true ptr 128 0 { read := true } with
    | .error c => .error (c, s)
    | .ok ps =>
      let rd := fun (i n : Nat) => leNat (((ps.drop i).take n).map fun p => (s.readLoc x.col p.loc).1)
      let rpc := BitVec.ofNat 64 (rd 16 8)
      let skip := (rd 2 1).testBit 4
      let s := s.loadTouch x.col x.core (s.asidOf x) ps
      let (regs, s) := match x.saved with
        | some v =>
          let (v, s) := s.loadTrap x v
          ({ x.regs with c := v.c, nc := v.nc, depth := v.depth, ldep := v.ldep, mark := v.mark, pc := rpc }, s)
        | none => ({ x.regs with pc := rpc }, s)
      .ok (s.setWarp w
        { x with regs := regs, saved := none, hmode := false, bskip := if skip then x.saved.map Saved.tpc else none
                 pend := x.pend.map fun p => { p with outer := false } })

/-! ### Issue and its end -/

/-- Does a selector of `n` registers name a register that a pending result covers (R100)? -/
def Pending.covers (p : Pending) (sel : Sel) (n : Nat) : Bool :=
  let overlap (a an b bn : Nat) : Bool := decide (a < b + bn) && decide (b < a + an)
  (match p.dst, sel with
    | .v a, .v b => overlap a.toNat p.count b.toNat n
    | .s a, .s b => overlap a.toNat p.count b.toNat n
    | .c a, .c b => a == b
    | _, _ => false)
  || (match p.keep, sel with | some k, .c b => k == b.toNat | _, _ => false)

/-- Which of the registers that a pending result will write a selector of `n` registers names: places in its group, and 8
for its KEEP entry. -/
def Pending.hits (p : Pending) (sel : Sel) (n : Nat) : List Nat :=
  (List.range p.count).filter (fun j => match p.dst, sel with
    | .v a, .v b => decide (b.toNat ≤ a.toNat + j) && decide (a.toNat + j < b.toNat + n)
    | .s a, .s b => decide (b.toNat ≤ a.toNat + j) && decide (a.toNat + j < b.toNat + n)
    | .c a, .c b => a == b
    | _, _ => false)
  ++ (match p.keep, sel with | some k, .c b => if k = b.toNat then [8] else [] | _, _ => [])

/-- Does a read name what a pending result covers: its destination, its KEEP entry, or its latch? The latch is covered to
the end of the window, also in the runs that follow the one that opened it (log 73, DEDUCED). -/
def Pending.coversRead (p : Pending) (sel : Sel) (n : Nat) : Bool :=
  p.covers sel n || (match p.latch, sel with | some k, .l b => k == b.toNat | _, _ => false)

/-- The register sources of an instruction, with their widths: A, B, C, and D where it is read. Registers of a group that it
only writes or ignores are none (R201). -/
def sources (o : OpSpec) (f : Fields) (readsD : Bool) : List (Sel × Nat) :=
  [(f.a, f.aw.count), (f.b, o.bReads.getD f.bw.count), (f.c, f.cw.count)]
    ++ (if readsD || !o.d.dest then [(f.d, o.dReads.getD f.dw.count)] else [])

/-- The first hazard of a source (R103): its code, lowest first. -/
def Cx.readHazard (c : Cx) (sel : Sel) (n : Nat) : Option Nat :=
  if c.x.pend.any fun p => p.coversRead sel n then some 1
  else match sel with
    | .l k => if (c.r.latch.getD k.toNat { valid := false, lanes := Lanes.zero }).valid then none else some 3
    | .c k => if (c.r.work.c.getD k.toNat { valid := false, lanes := Lanes.zero }).valid then none else some 4
    | .v k => if (List.range n).all fun j => (mapGet c.r.work.v (k.toNat + j)).isSome then none else some 5
    | _ => none

/-- Does an instruction write, inside a window, the destination group or the KEEP entry of a pending result (R103 code
2)? -/
def Cx.writeHit (c : Cx) (o : OpSpec) (p : Pending) : Bool :=
  (o.d.dest && p.covers c.f.d c.f.dw.count) || (c.f.keep && p.covers (.c c.f.kc) 1)

/-- The registers of a pending result that an instruction writes inside its window. -/
def Cx.overwrites (c : Cx) (o : OpSpec) (p : Pending) : List Nat :=
  (if o.d.dest then p.hits c.f.d c.f.dw.count else []) ++ (if c.f.keep then p.hits (.c c.f.kc) 1 else [])

/-- The hazard an instruction meets, the lowest code of all (R103). -/
def Cx.hazard (c : Cx) (o : OpSpec) (readsD : Bool) : Option Nat :=
  let rs := (sources o c.f readsD).filterMap fun p => c.readHazard p.1 p.2
  let ws := if c.x.pend.any (c.writeHit o) then [2] else []
  (rs ++ ws).foldl (fun b k => match b with | none => some k | some j => some (min j k)) none

/-- A pending result that stands in the way of an instruction in compatible mode (R103) until it arrives: a read of what it
covers, or a write of its destination. -/
def Cx.stalls (c : Cx) (o : OpSpec) (readsD : Bool) : Option Pending :=
  c.x.pend.find? fun p => !p.here && (c.writeHit o p || (sources o c.f readsD).any fun q => p.coversRead q.1 q.2)

/-- The registers of a group that a dead bit ends (R97): their physical registers are freed at commit. -/
def Run.deadRead (r : Run) (dead : Bool) (sel : Sel) (n : Nat) : Run :=
  if !dead then r
  else match sel with
    | .v k =>
      (List.range n).foldl (fun r j =>
        let v := k.toNat + j
        match mapGet r.work.v v with
        | none => r
        | some g =>
          if r.dead.contains v then r else { r with dead := v :: r.dead, freed := (v % 4, g) :: r.freed }) r
    | _ => r

/-- How an opcode meets the run rules (R61): whether it counts as a store, whether it ends its run, whether that is a
voluntary descheduling (class W), whether it reads the group in D that it also writes, and whether it accesses memory as it
issues. -/
structure OpClass where
  store  : Bool := false
  ends   : Bool := false
  waits  : Bool := false
  readsD : Bool := false
  access : Bool := false

/-- The classes of an opcode (R61). -/
def opClass : Opcode → OpClass
  | .st | .stl | .pst => { store := true, access := true }
  | .ld | .ldl | .ldk | .pld | .pref | .cctl | .fence | .arrv | .bset | .mrgStat => { access := true }
  | .red => { ends := true, access := true }
  | .endloop | .jmp | .call | .ret | .xch | .xred | .trap | .tret => { ends := true }
  | .yield | .sleep | .bar | .gbar | .cwait | .mwait | .mrgWait | .gwait => { ends := true, waits := true }
  | .waitb => { ends := true, waits := true, access := true }
  | .atom | .acas | .afadd | .patom => { ends := true, readsD := true, access := true }
  | .mupd => { readsD := true }
  | _ => {}

/-- The context of an instruction as it issues for a warp. -/
def State.cx (s : State) (w : Nat) (x : Warp) (f : Fields) : Cx :=
  let r := x.theRun
  let act := r.work.active
  { s := s, w := w, x := x, r := r, f := f, pc := r.work.pc, nxt := r.work.pc + BitVec.ofNat 64 f.bytes, act := act,
    grd := act &&& r.work.pred f.gp.toNat }

/-- What an instruction does that needs a result which has not come (R100): it waits for it. A load that stands behind a BFENCE
of its own run comes only once that run has committed, which therefore ends here (log 86, DESIGN CHOICE). -/
def Pending.awaiting (p : Pending) : Stop :=
  if p.ready then .arrive p.id
  else match p.fx, p.ofRun with
    | .load _ _ _ _, true => .endRun
    | _, _ => .wait

/-- Does the end of a run wait for the accesses before it (R326, R353)? Those of the W instructions that wait for no access of
their own are entered at the commit. -/
def Run.endsLate (r : Run) : Bool :=
  r.work.allExited || (match r.ended with
    | some (.bar _) | some (.gbar _) | some (.waitb _ _ _ _) | some (.trap _) | some .tret | some .irr => true
    | _ => false)

/-- Has the part of a run that stands behind a BFENCE or CPART a register of its warp still to write? -/
def Rest.writes (k : Rest) : Bool :=
  (k.run.cmds.drop k.place).any fun q => match q with
    | .launch _ _ _ | .tape _ _ _ _ => true
    | _ => false

/-- Does the part of a run that stands behind a BFENCE or CPART hold a store that precedes a command which its commit has
queued? -/
def Rest.before (k : Rest) (is : QCmd → Bool) : Bool :=
  k.run.cmds.zipIdx.any fun q => is q.1 && k.run.stbuf.any fun b => decide (k.place ≤ b.after) && decide (b.after ≤ q.2)

/-- Does a queued command of a warp wait for a store that precedes it in its run, behind a BFENCE or CPART (R268, R269)? -/
def State.restBefore (s : State) (w : Nat) (is : QCmd → Bool) : Bool :=
  match (s.warp w).bind Warp.rest with
  | some k => k.before is
  | none => false

/-- Does an instruction wait for what its warp's last run has still to perform behind a BFENCE or CPART: an access, which comes
after it in program order (R326, R353), or whatever reads a register that it writes (log 47, DEDUCED)? -/
def Cx.behindRest (c : Cx) (k : OpClass) : Bool :=
  match c.x.rest with
  | some q => k.access || q.writes || q.run.endsLate
  | none => false

/-- The gate every instruction passes as it issues: results that must have arrived (R100), what its warp's last run has still to
perform (R326, R353), the run rules (R56), and, where some thread is active, the operand rules (R92, R103) and its dead reads
(R97). An instruction that breaks both a limit of R56 and an operand rule reports the limit: the specification orders only R54
before R56, and the hazards among themselves (log 90, DESIGN CHOICE). -/
def Cx.gate (c : Cx) (op : Opcode) : Step :=
  let o := op.spec c.f
  let k := opClass op
  match c.x.pend.find? fun p => p.window == 0 && !p.here with
  | some p => c.stop p.awaiting
  | none =>
    if c.behindRest k then c.stop .wait
    else if 24 ≤ c.r.count then (if c.mode = 2 then c.stop .endRun else c.raiseAll 0x11 1)
    else if k.store ∧ 4 ≤ c.r.stores then (if c.mode = 2 then c.stop .endRun else c.raiseAll 0x11 2)
    else if c.act = 0 then .ok c
    else
      match (if c.mode = 2 then c.stalls o k.readsD else none) with
      | some p => c.stop p.awaiting
      | none =>
        match (if c.mode = 1 then c.hazard o k.readsD else none) with
        | some code => c.raiseAll 0x12 code
        | none =>
          let x := if c.mode = 2 then c.x
            else { c.x with pend := c.x.pend.map fun p => { p with touched := p.touched ++ c.overwrites o p } }
          let r := if c.mode = 2 then c.r
            else ((c.r.deadRead c.f.da c.f.a c.f.aw.count).deadRead c.f.db c.f.b c.f.bw.count).deadRead c.f.dc c.f.c
              c.f.cw.count
          .ok { c with x := x, r := r }

/-- The words of a queued command, as R90 compares them. -/
def QCmd.words : QCmd → List Addr
  | .mat m => [BitVec.ofNat 64 m.tile, BitVec.ofNat 64 (m.slotA + 16 * m.slotB)]
      ++ m.descA.map (BitVec.setWidth 64) ++ m.descB.map (BitVec.setWidth 64)
  | .mfence d => [BitVec.ofNat 64 d]
  | .copy k => [k.dst, k.src, BitVec.ofNat 64 k.len, BitVec.ofNat 64 k.row, BitVec.ofNat 64 k.dstride, BitVec.ofNat 64 k.sstride,
      k.barrier.setWidth 64, k.link.setWidth 64]
  | .merge m => [m.ref, m.src, m.w0.setWidth 64, m.w1.setWidth 64]
  | .phase _ v => [v.setWidth 64]
  | .cpart v => [BitVec.ofNat 64 v]
  | .arrv col off n _ => [BitVec.ofNat 64 col, BitVec.ofNat 64 off, n.setWidth 64]
  | .launch _ ptr _ => [ptr]
  | .tape _ _ _ ptr => [ptr]
  | .cctl _ locs => locs.map fun q => BitVec.ofNat 64 (q.1 * 2 ^ 48 + q.2.1)
  | .fence kind scope => [BitVec.ofNat 64 kind, BitVec.ofNat 64 scope]
  | .chkerr _ mask => [mask]
  | .sreg n v => [BitVec.ofNat 64 n, v.setWidth 64]
  | .lsupd _ flag => [if flag then 1 else 0]
  | .mupd k flag => [BitVec.ofNat 64 k, if flag then 1 else 0]
  | .sysreg n v => [BitVec.ofNat 64 n, v]
  | .trn => []
  | .poisoned d n => [BitVec.ofNat 64 d, BitVec.ofNat 64 n]

/-- What an instruction of a protected grid leaves to be compared (R89, R90): of a uniform one its result as each of its two
evaluations gives it, in S registers, in a predicate, or still on its way (`old` names the results pending before it); and the
words of a command it queues. Both evaluations compute one function of the same operands; they differ where an error of the
machine makes them (log 74, DEDUCED). -/
def Cx.twice (c : Cx) (old : List Nat) : List (Addr × Addr) :=
  if !c.prot then []
  else
    let direct : List Addr := match c.f.d with
      | .s n => (List.range c.f.dw.count).map fun j => (c.r.work.s.getD (n.toNat + j) SVal.zero).val.setWidth 64
      | .p n => [c.r.work.pred n.toNat]
      | _ => []
    let coming : List Addr := (c.x.pend.filter fun p => !old.contains p.id).flatMap fun p =>
      p.vals.map fun l => (l.val.getD 0 0).setWidth 64
    let queued : List Addr := (c.r.cmds.drop c.x.theRun.cmds.length).flatMap QCmd.words
    ((if c.f.uni then direct ++ coming else []) ++ queued).map fun v => (v, v)

/-- The end of an instruction that has executed: it is counted, the windows open before it shrink, and those that end
close (R100), the pc moves on, and the run ends where R75 says. `old` names the results pending before it. A YIELD or W
instruction that takes no effect, with no active thread, leaves the operand cache invalid all the same: R96 invalidates it at
each run that ends in one (log 91, DESIGN CHOICE). -/
def Cx.finish (c : Cx) (op : Opcode) (old : List Nat) : State :=
  let k := opClass op
  let work := { c.r.work with pc := c.nxt }
  let count := c.r.count + 1
  let full := c.mode == 2 && count == 24
  let ended := match c.r.ended with
    | some e => some e
    | none => if c.f.rb || k.ends || work.allExited || full then some .plain else none
  let pend := c.x.pend.map fun p => if old.contains p.id then { p with window := p.window - 1 } else p
  let r := { c.r with work := work, count := count, stores := if k.store then c.r.stores + 1 else c.r.stores,
                      cmp := c.r.cmp ++ c.twice old, lastPc := c.pc, cold := k.waits, ended := ended }
  (c.s.setWarp c.w (({ c.x with run := some r, pend := pend } : Warp).closeWindows c.s.pickAt (c.s.freeLanes c.x))).drewFresh

/-- The lines that a faulting walk of a warp read: counted, and the array errors in them met (R375, R399). -/
def State.walked (s : State) (w : Nat) (c : Cause) : State :=
  let code := c.code == 0x2A && c.info.toNat % 2 ^ 16 == 0x25
  if c.code ≠ 0x25 ∧ !code then s
  else match s.warp w with
    | some x => s.walkPtr (s.asidOf x) x.col (if code then selfPtr c.addr else c.addr)
    | none => s

/-- What becomes of an instruction that stopped: a synchronous trap discards the run and is taken at once, with RPC the
run's first instruction (R81, R124); a breakpoint sets BSKIP (R111). -/
def State.stopped (s : State) (w : Nat) (pc : Addr) (st : Stop) : State :=
  match st with
  | .trap c mask =>
    let rpc := ((s.warp w).map fun x => x.theRun.startPc).getD 0
    ((s.walked w c).discardRun w).takeTrap w c mask pc rpc false (c.code == 2)
  | .pressure bank => s.pressureDiscard w bank
  | .arrive n => s.arrival w n
  | .wait => s
  | .kill =>
    match (s.warp w).bind s.blockOf with
    | some b => (s.discardRun w).killGang b.gang
    | none => s
  | .endRun => s.modWarp w fun x => { x with run := some { x.theRun with ended := some .plain } }

/-- One encoded instruction of the issuing warp: the gate, then its body where it takes effect, then its end. `always`
marks the structural instructions, which act with no thread active. `pre` holds where the encoding is legal as the
machine stands (R54, R192): an illegal instruction is reported before any other trap of it (R57). -/
def State.issue (s : State) (op : Opcode) (f : Fields) (always : Bool) (pre : Cx → Bool) (body : Cx → Step) :
    Host.Outcome State Fault Refusal :=
  match s.cur with
  | none => .fault .noIssuingWarp
  | some w =>
    match s.warp w with
    | none => .fault .noIssuingWarp
    | some x =>
      let c := s.cx w x f
      let go : Step :=
        if !pre c then c.illegal
        else match c.gate op with
          | .error e => .error e
          | .ok c => if c.act = 0 ∧ !always then .ok c else body c
      .next (match go with
        | .ok c => c.finish op (x.pend.map Pending.id)
        | .error (st, t) => t.stopped w c.pc st)

/-- Nothing more to check of an encoding. -/
def noPre (_ : Cx) : Bool := true

end Sys2Proof.Machine
end

