-- ==== Sys2Proof/Machine/Operands.lean ====
section
/-! DEFINITION. Every operand form: what a source selector reads in each thread (R46-R53, R91-R104), and how a result
reaches its destination (R47, R50, R93-R97, R100). -/

namespace Sys2Proof.Machine

open Sys2Proof

/-- A pattern of `w` bits in every element of a 32-bit register (R53). -/
def splat (w : Nat) (x : Nat) : Word :=
  if w = 8 then BitVec.ofNat 32 (x % 256 * 0x01010101)
  else if w = 16 then BitVec.ofNat 32 (x % 65536 * 0x00010001)
  else BitVec.ofNat 32 x

/-- A small integer as a 64-bit pattern, sign-extended. -/
def small64 (k : BitVec 5) : Addr := BitVec.ofInt 64 (smallInt k)

/-- Register `j` of an immediate, in the row of its type (R53) (log 19, DEDUCED). -/
def immWord (ty : Ty) (lit : Addr) (sel : Sel) (j : Nat) : Word :=
  let half (x : Addr) : Word := if j = 0 then loWord x else if j = 1 then hiWord x else 0
  match sel with
  | .imm k =>
    if ty.is64 then half (small64 k)
    else if ty.isFloat then splat ty.elemBits ((fmtOf ty).ofInt .rne false (smallInt k))
    else splat ty.elemBits (small64 k).toNat
  | .lit => if ty.is64 then half lit else splat ty.elemBits (loWord lit).toNat
  | .litHi => splat ty.elemBits (hiWord lit).toNat
  | _ => 0

/-- Word `j` of the operand in field `k` (0 to 3 for A, B, C, D) in thread `t`, with its poison. A read that breaks an
operand rule gives what R103 says: in native mode an unspecified value, in compatible mode a home register (R104), or
zero at or above the register count. A predicate selector reads the thread's bit; in a uniform instruction the thread
it reads is not stated, and where the active threads differ the bit is a free value (log 16, DEDUCED). -/
def Cx.rd (c : Cx) (k : Nat) (sel : Sel) (ty : Ty) (t j : Nat) : Word × Bool :=
  let free : Word × Bool := (c.s.ownW c.x (k * 512 + j * 64 + t), false)
  let at_ (l : Lanes) : Word × Bool := (l.val.getD t 0, bit l.poison t)
  let pending := c.mode != 2 && c.x.pend.any fun p => p.coversRead sel (j + 1)
  match sel with
  | .v n =>
    if pending && c.x.pend.any (fun p => p.covers (.v (n + BitVec.ofNat 8 j)) 1) then free
    else match mapGet c.r.work.v (n.toNat + j) with
      | some g => at_ g.lanes
      | none => if c.mode = 2 then (0, false) else free
  | .s n =>
    if pending && c.x.pend.any (fun p => p.covers (.s (n + BitVec.ofNat 6 j)) 1) then free
    else
      let v := c.r.work.s.getD (n.toNat + j) { val := 0, poison := false }
      (v.val, v.poison)
  | .c n =>
    let e := c.r.work.c.getD n.toNat { valid := false, lanes := Lanes.zero }
    if pending then free
    else if e.valid then at_ e.lanes
    else if c.mode = 2 then at_ (c.r.work.home.getD (4 + n.toNat) Lanes.zero)
    else free
  | .l n =>
    let e := c.r.latch.getD n.toNat { valid := false, lanes := Lanes.zero }
    if pending then free
    else if e.valid then at_ e.lanes
    else if c.mode = 2 then at_ (c.r.work.home.getD n.toNat Lanes.zero)
    else free
  | .zero => (0, false)
  | .p n =>
    if j ≠ 0 then (0, false)
    else if c.f.uni then
      let m := c.r.work.pred n.toNat &&& c.act
      (if m = c.act then 1 else if m = 0 then 0 else c.s.freeW (k * 512 + t) &&& 1, false)
    else (if bit (c.r.work.pred n.toNat) t then 1 else 0, false)
  | .imm _ | .lit | .litHi => (immWord ty (c.f.lit.getD 0) sel j, false)

/-- An operand of an instruction: its field, its selector, how many registers it has, and the type an immediate in it
is read in (R170). -/
structure Arg where
  k   : Nat
  sel : Sel
  n   : Nat
  ty  : Ty

/-- The A operand in a type. -/
def Cx.argA (c : Cx) (n : Nat) (ty : Ty) : Arg := { k := 0, sel := c.f.a, n := n, ty := ty }
/-- The B operand in a type. -/
def Cx.argB (c : Cx) (n : Nat) (ty : Ty) : Arg := { k := 1, sel := c.f.b, n := n, ty := ty }
/-- The C operand in a type. -/
def Cx.argC (c : Cx) (n : Nat) (ty : Ty) : Arg := { k := 2, sel := c.f.c, n := n, ty := ty }
/-- The D operand, read. -/
def Cx.argD (c : Cx) (n : Nat) (ty : Ty) : Arg := { k := 3, sel := c.f.d, n := n, ty := ty }

/-- Word `j` of an operand in a thread. -/
def Cx.word (c : Cx) (a : Arg) (t j : Nat) : Word := (c.rd a.k a.sel a.ty t j).1

/-- A pair operand as 64 bits. -/
def Cx.word64 (c : Cx) (a : Arg) (t : Nat) : Addr := pair (c.word a t 0) (c.word a t 1)

/-- Is some word of an operand poisoned in a thread? -/
def Cx.poisonAt (c : Cx) (a : Arg) (t : Nat) : Bool := (List.range a.n).any fun j => (c.rd a.k a.sel a.ty t j).2

/-- The threads an instruction acts for; a uniform instruction acts once, and is written here as thread 0. -/
def Cx.lanes (c : Cx) : Mask := if c.f.uni then (if c.grd = 0 then 0 else 1) else c.grd

/-- The threads in which a poisoned operand is consumed (R395). -/
def Cx.poisoned (c : Cx) (as : List Arg) : Mask :=
  maskOf fun t => bit c.lanes t && as.any fun a => c.poisonAt a t

/-- The consumption of poison by an instruction in some threads counted: once for the instruction (R395, log 17, DEDUCED). -/
def Cx.consume (c : Cx) (m : Mask) : Cx := { c with s := c.s.consume c.x (if m = 0 then 0 else 1) }

/-! ### Results -/

/-- Lanes of unspecified values in the step of an instruction (R93, R95, R97). -/
def Cx.freeLanes (c : Cx) (k : Nat) : Lanes := c.s.freeLanes c.x k

/-- A V register written for some threads (R97): a fresh physical register, with the old lanes carried over, or
unspecified lanes where it was not live. In compatible mode no register is allocated, and one at or above the register
count discards the write (R104). -/
def Cx.writeV (c : Cx) (v j : Nat) (mask : Mask) (new : Lanes) : Step :=
  let old := mapGet c.r.work.v v
  if c.mode = 2 then
    match old with
    | some g => .ok (c.modWork fun r => { r with v := mapSet r.v v { g with lanes := g.lanes.merge mask new } })
    | none => .ok c
  else if 32 ≤ c.r.allocs then c.raiseAll 0x11 3
  else match c.alloc (v % 4) with
    | .error st => c.stop st
    | .ok ph =>
      let base := match old with | some g => g.lanes | none => c.freeLanes j
      let r := match old with
        | none => c.r
        | some g =>
          if c.r.dead.contains v then { c.r with dead := c.r.dead.filter fun d => d != v }
          else { c.r with freed := (v % 4, g) :: c.r.freed }
      let work := { r.work with v := mapSet r.work.v v { phys := ph, lanes := base.merge mask new } }
      .ok { c with r := { r with allocs := r.allocs + 1, work := work } }

/-- A group of V registers written, in ascending order. -/
def Cx.writeVs (c : Cx) (v : Nat) (mask : Mask) : List Lanes → Nat → Step
  | [], _ => .ok c
  | l :: rest, j =>
    match c.writeV (v + j) j mask l with
    | .ok c => c.writeVs v mask rest (j + 1)
    | .error e => .error e

/-- A group of S registers written (R99). -/
def Cx.writeS (c : Cx) (n : Nat) (vs : List SVal) : Cx :=
  let at_ := (List.range vs.length).foldl (fun m j => mapSet m (n + j) c.r.cmds.length) c.r.sAt
  let c := { c with r := { c.r with sAt := at_ } }
  c.modWork fun r =>
    { r with s := (List.range vs.length).foldl (fun s j => s.set (n + j) (vs.getD j SVal.zero)) r.s }

/-- An operand-cache entry written for some threads (R95), with its home register (R104). The lanes of an entry that
was invalid are unspecified where the write took no effect. -/
def Cx.writeC (c : Cx) (k : Nat) (mask : Mask) (new : Lanes) : Cx :=
  let e := c.r.work.c.getD k { valid := false, lanes := Lanes.zero }
  let base := if e.valid then e.lanes else c.freeLanes 8
  c.modWork fun r => { r with
    c := r.c.set k { valid := true, lanes := base.merge mask new }
    home := r.home.set (4 + k) ((r.home.getD (4 + k) Lanes.zero).merge mask new) }

/-- A latch written by a vector instruction (R93), with its home register (R104). -/
def Cx.writeL (c : Cx) (k : Nat) (mask : Mask) (new : Lanes) : Cx :=
  let c := { c with r := { c.r with latch := c.r.latch.set k { valid := true, lanes := (c.freeLanes 9).merge mask new } } }
  c.modWork fun r => { r with home := r.home.set k ((r.home.getD k Lanes.zero).merge mask new) }

/-- A result written to a destination (R97, R99). -/
def Cx.writeDest (c : Cx) (mask : Mask) (vals : List Lanes) : Step :=
  match c.f.d with
  | .v n => c.writeVs n.toNat mask vals 0
  | .s n => .ok (if mask = 0 then c else c.writeS n.toNat (vals.map Lanes.first))
  | .c n => .ok (c.writeC n.toNat mask (vals.getD 0 Lanes.zero))
  | _ => .ok c

/-- A short-latency result written to its destination, its KEEP entry and its latch (R50, R93, R95, R97). -/
def Cx.writeResult (c : Cx) (latch : Option Nat) (mask : Mask) (vals : List Lanes) : Step :=
  let l0 := vals.getD 0 Lanes.zero
  match c.writeDest mask vals with
  | .error e => .error e
  | .ok c =>
    let c := if c.f.keep then c.writeC c.f.kc.toNat mask l0 else c
    match latch with
    | some k => .ok (if c.f.uni then c else c.writeL k mask l0)
    | none => .ok c

/-- A predicate written (R99): in the guarded threads, or, by a uniform instruction, in every active thread. -/
def Cx.writeP (c : Cx) (mask bits : Mask) : Cx :=
  match c.f.d with
  | .p n =>
    if n = 7 then c
    else c.modWork fun r =>
      { r with p := r.p.set n.toNat ((r.p.getD n.toNat 0 &&& ~~~mask) ||| (bits &&& mask)) }
  | _ => c

/-- The rows of a result: for each thread it acts for, its words. -/
def Cx.rows (c : Cx) (n : Nat) (psn : Mask) (g : Nat → List Word) : List Lanes :=
  let m := c.lanes
  let rows := (List.range 64).map fun t => if bit m t then g t else []
  (List.range n).map fun j => { val := rows.map fun r => r.getD j 0, poison := psn }

/-- An instruction that computes `n` registers from its operands in each thread (R169, R395). -/
def Cx.alu (c : Cx) (latch : Option Nat) (n : Nat) (as : List Arg) (g : Nat → List Word) : Step :=
  let psn := c.poisoned as
  let c := c.consume psn
  c.writeResult latch c.lanes (c.rows n psn g)

/-- An instruction that computes a predicate in each thread (R177, R395): a poisoned thread's result reads 0. -/
def Cx.aluP (c : Cx) (as : List Arg) (g : Nat → Bool) : Step :=
  let psn := c.poisoned as
  let c := c.consume psn
  if c.f.uni then
    if c.grd = 0 then .ok c
    else .ok (c.writeP c.act (if psn = 0 ∧ g 0 then BitVec.allOnes 64 else 0))
  else .ok (c.writeP c.grd (maskOf fun t => bit c.grd t && !bit psn t && g t))

/-- The destination registers of a result that comes later, taken without a write (R97, R100). -/
def Cx.takeDest (c : Cx) (n : Nat) : Step :=
  match c.f.d with
  | .v d => c.writeVs d.toNat 0 (List.replicate n Lanes.zero) 0
  | _ => .ok c

/-- A long-latency result (R100): its destination registers are allocated now, its values are written when it arrives,
and its window is the instruction's lookahead. -/
def Cx.later (c : Cx) (latch : Option Nat) (mask : Mask) (vals : List Lanes) (fx : PendFx) (ready : Bool) : Step :=
  match c.takeDest vals.length with
  | .error e => .error e
  | .ok c =>
    let (id, s) := c.s.takeId
    let p : Pending :=
      { id := id, dst := c.f.d, count := vals.length, vals := vals, mask := mask, uni := c.f.uni,
        latch := if c.f.uni then none else latch, keep := if c.f.keep then some c.f.kc.toNat else none,
        window := c.f.la.toNat, ready := ready, here := false, ofRun := true, outer := false, contested := [], touched := []
        fx := fx, pc := c.pc }
    let covered := match c.f.d with | .v _ | .s _ | .c _ => true | _ => false
    let keepIt := (mask != 0 && covered) || p.keep.isSome || p.latch.isSome || fx != .none || !ready
    .ok { c with s := s, x := if keepIt then { c.x with pend := c.x.pend ++ [p] } else c.x }

/-- A long-latency instruction that computes from its operands in each thread. -/
def Cx.aluLater (c : Cx) (latch : Option Nat) (n : Nat) (as : List Arg) (g : Nat → List Word) : Step :=
  let psn := c.poisoned as
  let c := c.consume psn
  c.later latch c.lanes (c.rows n psn g) .none true

/-- Element `i` of a word of elements of `w` bits, unsigned. -/
def elem (w : Nat) (x : Word) (i : Nat) : Nat := x.toNat / 2 ^ (w * i) % 2 ^ w

/-- A word from its elements of `w` bits, element 0 lowest. -/
def fromElems (w : Nat) (es : List Nat) : Word :=
  BitVec.ofNat 32 (es.foldr (fun e acc => acc * 2 ^ w + e % 2 ^ w) 0)

/-- A `w`-bit pattern read as signed. -/
def asSigned (w x : Nat) : Int :=
  let x := x % 2 ^ w
  if 2 ^ (w - 1) ≤ x then (x : Int) - 2 ^ w else (x : Int)

/-- A `w`-bit pattern read in a signedness. -/
def readInt (signed : Bool) (w x : Nat) : Int := if signed then asSigned w x else ((x % 2 ^ w : Nat) : Int)

/-- The `w`-bit pattern of an integer, wrapping. -/
def wrapInt (w : Nat) (x : Int) : Nat := (x % (2 ^ w : Int)).toNat

/-- The range of an integer type. -/
def intRange (signed : Bool) (w : Nat) : Int × Int :=
  if signed then (-(2 ^ (w - 1) : Int), 2 ^ (w - 1) - 1) else (0, 2 ^ w - 1)

/-- An exact integer narrowed to a type: clamped under SAT, and otherwise wrapped (R174). -/
def narrow (signed sat : Bool) (w : Nat) (x : Int) : Nat :=
  if sat then
    let (lo, hi) := intRange signed w
    wrapInt w (max lo (min hi x))
  else wrapInt w x

/-- A word sign-extended or zero-extended from a pattern, as an integer of a type of one element. -/
def Ty.signed : Ty → Bool
  | .s32 | .s16x2 | .s8x4 | .s64 => true
  | _ => false

end Sys2Proof.Machine
end

