-- ==== Sys2Proof/Machine/Elements.lean ====
section
/-! DEFINITION. Operands as elements: the elements of a register group in a type (R156, R169), a group from its
elements, and the element-wise instruction (R156, R169, R395). -/

namespace Sys2Proof.Machine

open Sys2Proof

/-- The words of a group from its elements of `w` bits: a 64-bit element fills a pair, narrower ones are packed from
the low bits of each register upward. `n` is the number of registers. -/
def groupWords (w n : Nat) (es : List Nat) : List Word :=
  if w = 64 then es.flatMap fun e => [BitVec.ofNat 32 e, BitVec.ofNat 32 (e / 2 ^ 32)]
  else (List.range n).map fun j => fromElems w ((es.drop (j * (32 / w))).take (32 / w))

/-- The elements of a group of words. -/
def groupElems (w : Nat) : List Word → List Nat
  | lo :: hi :: rest => if w = 64 then (pair lo hi).toNat :: groupElems w rest
      else (List.range (32 / w)).map (elem w lo) ++ groupElems w (hi :: rest)
  | [x] => if w = 64 then [x.toNat] else (List.range (32 / w)).map (elem w x)
  | [] => []

/-- The words of an operand in a thread. -/
def Cx.words (c : Cx) (a : Arg) (t : Nat) : List Word := (List.range a.n).map (c.word a t)

/-- The elements of an operand in a thread, in the operand's own type. -/
def Cx.elems (c : Cx) (a : Arg) (t : Nat) : List Nat := groupElems a.ty.elemBits (c.words a t)

/-- A sign modifier on an integer element (R50): a two's-complement negation that wraps. -/
def negInt (neg : Bool) (w x : Nat) : Nat := if neg then wrapInt w (-(x : Int)) else x

/-- The A elements of an integer instruction after NA, read in the type. -/
def Cx.intA (c : Cx) (t : Nat) : List Int :=
  (c.elems (c.argA c.f.ty.regs c.f.ty) t).map fun x =>
    readInt c.f.ty.isSigned c.f.ty.elemBits (negInt c.f.na c.f.ty.elemBits x)

/-- The B elements of an integer instruction after NB, read in the type. -/
def Cx.intB (c : Cx) (t : Nat) : List Int :=
  (c.elems (c.argB c.f.ty.regs c.f.ty) t).map fun x =>
    readInt c.f.ty.isSigned c.f.ty.elemBits (negInt c.f.nb c.f.ty.elemBits x)

/-- An integer instruction of two operands: each exact element narrowed to the type (R174). -/
def Cx.int2 (c : Cx) (g : Int → Int → Int) : Step :=
  let w := c.f.ty.elemBits
  let n := c.f.ty.regs
  c.alu (some 0) n [c.argA n c.f.ty, c.argB n c.f.ty] fun t =>
    groupWords w n ((List.zipWith g (c.intA t) (c.intB t)).map (narrow c.f.ty.isSigned c.f.sat w))

/-- An integer instruction of one operand. -/
def Cx.int1 (c : Cx) (g : Int → Int) : Step :=
  let w := c.f.ty.elemBits
  let n := c.f.ty.regs
  c.alu (some 0) n [c.argA n c.f.ty] fun t =>
    groupWords w n (((c.intA t).map g).map (narrow c.f.ty.isSigned c.f.sat w))

/-- A bitwise instruction of two operands over the type's width. -/
def Cx.bits2 (c : Cx) (g : Word → Word → Word) : Step :=
  let n := c.f.ty.regs
  let a := c.argA n c.f.ty
  let b := c.argB n c.f.ty
  c.alu (some 0) n [a, b] fun t => List.zipWith g (c.words a t) (c.words b t)

/-- The comparisons of R62 on an order of -1, 0 or 1. -/
def compareCode (code : Nat) (o : Int) : Bool :=
  match code with
  | 0 => o == 0
  | 1 => o != 0
  | 2 => o < 0
  | 3 => o ≤ 0
  | 4 => 0 < o
  | _ => 0 ≤ o

/-- A result whose lanes carry their own poison. -/
def Cx.rowsPsn (c : Cx) (n : Nat) (g : Nat → List (Word × Bool)) : List Lanes :=
  let rows := (List.range 64).map fun t => if bit c.lanes t then g t else []
  (List.range n).map fun j =>
    { val := rows.map fun r => (r.getD j (0, false)).1
      poison := maskOf fun t => ((rows.getD t []).getD j (0, false)).2 }

/-- The words of an operand in a thread, with their poison: what a move passes (R394). -/
def Cx.wordsPsn (c : Cx) (a : Arg) (t : Nat) : List (Word × Bool) := (List.range a.n).map (c.rd a.k a.sel a.ty t)

/-- The index of a thread among those the program sees (R89, R112): primary 2j and its shadow have the index j. -/
def Cx.index (c : Cx) (t : Nat) : Nat := if c.prot then t / 2 else t

end Sys2Proof.Machine
end

