-- ==== Sys2Proof/Machine/Integer.lean ====
section
/-! DEFINITION. The integer arithmetic instructions (R173-R177). -/

namespace Sys2Proof.Machine

open Sys2Proof

/-- IADD (R174): the exact sum of each element, narrowed once. -/
def bodyIadd (c : Cx) : Step := c.int2 (· + ·)
/-- ISUB (R174). -/
def bodyIsub (c : Cx) : Step := c.int2 (· - ·)
/-- IMUL (R174). -/
def bodyImul (c : Cx) : Step := c.int2 (· * ·)
/-- IMULH (R174): bits 63:32 of the exact product. -/
def bodyImulh (c : Cx) : Step := c.int2 fun a b => (a * b) / 2 ^ 32
/-- IMIN (R174). -/
def bodyImin (c : Cx) : Step := c.int2 fun a b => if b < a then b else a
/-- IMAX (R174). -/
def bodyImax (c : Cx) : Step := c.int2 fun a b => if a < b then b else a
/-- IABS (R174). -/
def bodyIabs (c : Cx) : Step := c.int1 fun a => (a.natAbs : Int)
/-- INEG (R174). -/
def bodyIneg (c : Cx) : Step := c.int1 fun a => -a

/-- The signed or natural 32-bit type of a C operand beside a type (R173). -/
def wideOf (t : Ty) : Ty := if t.isSigned then .s32 else .n32

/-- The C operand of a dot product or a multiply-add, as an integer. -/
def Cx.intC (c : Cx) (t : Nat) : Int :=
  readInt c.f.ty.isSigned 32 (c.word (c.argC 1 (wideOf c.f.ty)) t 0).toNat

/-- An instruction that adds to C one exact total over the elements of A and B, and narrows it once to 32 bits (R174,
R176). -/
def Cx.intSum (c : Cx) (g : Int → Int → Int) : Step :=
  c.alu (some 0) 1 [c.argA 1 c.f.ty, c.argB 1 c.f.ty, c.argC 1 (wideOf c.f.ty)] fun t =>
    let total := (List.zipWith g (c.intA t) (c.intB t)).foldl (· + ·) (c.intC t)
    [BitVec.ofNat 32 (narrow c.f.ty.isSigned c.f.sat 32 total)]

/-- IMAD, DP4 and DP2 (R174, R176): C plus the exact products. -/
def bodyDot (c : Cx) : Step := c.intSum (· * ·)
/-- ISAD (R176): C plus the exact absolute differences. -/
def bodyIsad (c : Cx) : Step := c.intSum fun a b => ((a - b).natAbs : Int)

/-- LEA (R175). -/
def bodyLea (c : Cx) : Step :=
  let a := c.argA 2 .n64
  let b := c.argB 1 c.f.ty
  let n := c.argC 1 .n32
  c.alu (some 0) 2 [a, b, n] fun t =>
    let off := readInt c.f.ty.isSigned 32 (c.word b t 0).toNat
    let sum : Addr := c.word64 a t + BitVec.ofInt 64 (off * 2 ^ ((c.word n t 0).toNat % 32))
    [loWord sum, hiWord sum]

/-- IADDX (R175): a 32-bit sum with a carry in, its carry out in the second register. -/
def bodyIaddx (c : Cx) : Step :=
  let a := c.argA 1 .n32
  let b := c.argB 1 .n32
  let k := c.argC 1 .n32
  c.alu (some 0) 2 [a, b, k] fun t =>
    let sum := (c.word a t 0).toNat + (c.word b t 0).toNat + (c.word k t 0).toNat % 2
    [BitVec.ofNat 32 sum, BitVec.ofNat 32 (sum / 2 ^ 32)]

/-- ICMP (R177). -/
def bodyIcmp (c : Cx) : Step :=
  let n := c.f.ty.regs
  c.aluP [c.argA n c.f.ty, c.argB n c.f.ty] fun t =>
    let a := (c.intA t).getD 0 0
    let b := (c.intB t).getD 0 0
    compareCode c.f.sub.toNat (if a < b then -1 else if a = b then 0 else 1)

/-- The meaning of IADD. -/
def execIadd (f : Fields) (s : State) : Host.Outcome State Fault Refusal := s.issue .iadd f false noPre bodyIadd
/-- The meaning of IADD in its short form. -/
def execIaddShort (f : Fields) (s : State) : Host.Outcome State Fault Refusal := s.issue .iadd f false noPre bodyIadd
/-- The meaning of ISUB. -/
def execIsub (f : Fields) (s : State) : Host.Outcome State Fault Refusal := s.issue .isub f false noPre bodyIsub
/-- The meaning of ISUB in its short form. -/
def execIsubShort (f : Fields) (s : State) : Host.Outcome State Fault Refusal := s.issue .isub f false noPre bodyIsub
/-- The meaning of IMUL. -/
def execImul (f : Fields) (s : State) : Host.Outcome State Fault Refusal := s.issue .imul f false noPre bodyImul
/-- The meaning of IMUL in its short form. -/
def execImulShort (f : Fields) (s : State) : Host.Outcome State Fault Refusal := s.issue .imul f false noPre bodyImul
/-- The meaning of IMULH. -/
def execImulh (f : Fields) (s : State) : Host.Outcome State Fault Refusal := s.issue .imulh f false noPre bodyImulh
/-- The meaning of IMULH in its short form. -/
def execImulhShort (f : Fields) (s : State) : Host.Outcome State Fault Refusal := s.issue .imulh f false noPre bodyImulh
/-- The meaning of IMAD. -/
def execImad (f : Fields) (s : State) : Host.Outcome State Fault Refusal := s.issue .imad f false noPre bodyDot
/-- The meaning of IMIN. -/
def execImin (f : Fields) (s : State) : Host.Outcome State Fault Refusal := s.issue .imin f false noPre bodyImin
/-- The meaning of IMIN in its short form. -/
def execIminShort (f : Fields) (s : State) : Host.Outcome State Fault Refusal := s.issue .imin f false noPre bodyImin
/-- The meaning of IMAX. -/
def execImax (f : Fields) (s : State) : Host.Outcome State Fault Refusal := s.issue .imax f false noPre bodyImax
/-- The meaning of IMAX in its short form. -/
def execImaxShort (f : Fields) (s : State) : Host.Outcome State Fault Refusal := s.issue .imax f false noPre bodyImax
/-- The meaning of IABS. -/
def execIabs (f : Fields) (s : State) : Host.Outcome State Fault Refusal := s.issue .iabs f false noPre bodyIabs
/-- The meaning of IABS in its short form. -/
def execIabsShort (f : Fields) (s : State) : Host.Outcome State Fault Refusal := s.issue .iabs f false noPre bodyIabs
/-- The meaning of INEG. -/
def execIneg (f : Fields) (s : State) : Host.Outcome State Fault Refusal := s.issue .ineg f false noPre bodyIneg
/-- The meaning of INEG in its short form. -/
def execInegShort (f : Fields) (s : State) : Host.Outcome State Fault Refusal := s.issue .ineg f false noPre bodyIneg
/-- The meaning of LEA. -/
def execLea (f : Fields) (s : State) : Host.Outcome State Fault Refusal := s.issue .lea f false noPre bodyLea
/-- The meaning of ISAD. -/
def execIsad (f : Fields) (s : State) : Host.Outcome State Fault Refusal := s.issue .isad f false noPre bodyIsad
/-- The meaning of DP4. -/
def execDp4 (f : Fields) (s : State) : Host.Outcome State Fault Refusal := s.issue .dp4 f false noPre bodyDot
/-- The meaning of DP2. -/
def execDp2 (f : Fields) (s : State) : Host.Outcome State Fault Refusal := s.issue .dp2 f false noPre bodyDot
/-- The meaning of ICMP. -/
def execIcmp (f : Fields) (s : State) : Host.Outcome State Fault Refusal := s.issue .icmp f false noPre bodyIcmp
/-- The meaning of IADDX. -/
def execIaddx (f : Fields) (s : State) : Host.Outcome State Fault Refusal := s.issue .iaddx f false noPre bodyIaddx

end Sys2Proof.Machine
end

