-- ==== Sys2Proof/Machine/Logic.lean ====
section
/-! DEFINITION. The logic, shift, bit-field, selection and packing instructions (R178-R181, R183) and the predicate
instructions (R112, R182). -/

namespace Sys2Proof.Machine

open Sys2Proof

/-- AND (R179). -/
def bodyAnd (c : Cx) : Step := c.bits2 (· &&& ·)
/-- OR (R179). -/
def bodyOr (c : Cx) : Step := c.bits2 (· ||| ·)
/-- XOR (R179). -/
def bodyXor (c : Cx) : Step := c.bits2 (· ^^^ ·)
/-- ANDN (R179): A AND NOT B. -/
def bodyAndn (c : Cx) : Step := c.bits2 fun a b => a &&& ~~~b

/-- NOT (R179). -/
def bodyNot (c : Cx) : Step :=
  let a := c.argA c.f.ty.regs c.f.ty
  c.alu (some 0) c.f.ty.regs [a] fun t => (c.words a t).map fun x => ~~~x

/-- The bits of a pattern of `w` bits in reverse order. -/
def reverseBits (w x : Nat) : Nat :=
  (List.range w).foldl (fun acc i => 2 * acc + (x / 2 ^ i) % 2) 0

/-- BREV (R179). -/
def bodyBrev (c : Cx) : Step :=
  let n := c.f.ty.regs
  let w := c.f.ty.elemBits
  let a := c.argA n c.f.ty
  c.alu (some 0) n [a] fun t => groupWords w n ((c.elems a t).map (reverseBits w))

/-- The result of one shift of a pattern of `w` bits (R179). -/
def shiftLeft (w a n : Nat) : Nat := if w ≤ n then 0 else a * 2 ^ n % 2 ^ w

/-- The result of a logical right shift (R179). -/
def shiftRight (w a n : Nat) : Nat := if w ≤ n then 0 else a / 2 ^ n

/-- The result of an arithmetic right shift (R179): floor division of the signed value. -/
def shiftArith (w a n : Nat) : Nat :=
  let x := asSigned w a
  wrapInt w (if w ≤ n then (if x < 0 then -1 else 0) else x / 2 ^ n)

/-- A shift (R179): an amount for each element, reduced modulo the width under .WRAP. -/
def Cx.shift (c : Cx) (g : Nat → Nat → Nat → Nat) : Step :=
  let n := c.f.ty.regs
  let w := c.f.ty.elemBits
  let a := c.argA n c.f.ty
  let packed := w < 32
  let b := c.argB 1 (if packed then c.f.ty else .n32)
  let wrap (k : Nat) : Nat := if c.f.x = 1 then k % w else k
  c.alu (some 0) n [a, b] fun t =>
    let amounts := if packed then c.elems b t else [(c.word b t 0).toNat]
    groupWords w n (List.zipWith (fun x k => g w x (wrap k)) (c.elems a t) amounts)

/-- SHL (R179). -/
def bodyShl (c : Cx) : Step := c.shift shiftLeft
/-- SHR (R179). -/
def bodyShr (c : Cx) : Step := c.shift shiftRight
/-- SAR (R179). -/
def bodySar (c : Cx) : Step := c.shift shiftArith

/-- A rotation to the left (R179). -/
def rotateLeft (w a n : Nat) : Nat := (a * 2 ^ (n % w) + a / 2 ^ (w - n % w)) % 2 ^ w

/-- ROTL (R179). -/
def bodyRotl (c : Cx) : Step := c.shift rotateLeft

/-- The number of 1 bits of a pattern. -/
def countOnes (w x : Nat) : Nat := (List.range w).foldl (fun k i => k + x / 2 ^ i % 2) 0

/-- The leading zeros of a pattern of `w` bits (R180). -/
def leadingZeros (w x : Nat) : Nat := if x = 0 then w else w - 1 - Nat.log2 x

/-- POPC and CLZ (R180): one register from each operand. -/
def Cx.countBits (c : Cx) (g : Nat → Nat → Nat) : Step :=
  let a := c.argA c.f.ty.regs c.f.ty
  c.alu (some 0) 1 [a] fun t => [BitVec.ofNat 32 (g c.f.ty.elemBits ((c.elems a t).getD 0 0))]

/-- POPC (R180). -/
def bodyPopc (c : Cx) : Step := c.countBits countOnes
/-- CLZ (R180). -/
def bodyClz (c : Cx) : Step := c.countBits leadingZeros

/-- A bit field (R180): `len` bits of `a` from bit `p`; bits at or above 32 read 0, or the sign bit. -/
def extractField (signed : Bool) (a : Word) (p len : Nat) : Word :=
  let fill := signed && bit a 31
  let field := (List.range len).foldr (fun i acc =>
    2 * acc + (if i + p < 32 then a.toNat / 2 ^ (i + p) % 2 else if fill then 1 else 0)) 0
  if len = 0 then 0 else BitVec.ofInt 32 (readInt signed len field)

/-- BFE (R180). -/
def bodyBfe (c : Cx) : Step :=
  let a := c.argA 1 c.f.ty
  let b := c.argB 1 c.f.ty
  let l := c.argC 1 c.f.ty
  c.alu (some 0) 1 [a, b, l] fun t =>
    [extractField c.f.ty.isSigned (c.word a t 0) ((c.word b t 0).toNat % 256) (min ((c.word l t 0).toNat % 256) 32)]

/-- A bit field inserted (R180). -/
def insertField (a b ctl : Word) : Word :=
  let p := ctl.toNat % 256
  let l := ctl.toNat / 256 % 256
  let m : Word := BitVec.ofNat 32 ((2 ^ l - 1) * 2 ^ p)
  (b &&& ~~~m) ||| (BitVec.ofNat 32 (a.toNat * 2 ^ p) &&& m)

/-- BFI (R180). -/
def bodyBfi (c : Cx) : Step :=
  let a := c.argA 1 .b32
  let b := c.argB 1 .b32
  let k := c.argC 1 .b32
  c.alu (some 0) 1 [a, b, k] fun t => [insertField (c.word a t 0) (c.word b t 0) (c.word k t 0)]

/-- SEL (R181): the condition is consumed; the operand it chooses is passed, with its poison (R395). -/
def bodySel (c : Cx) : Step :=
  let n := c.f.ty.regs
  let a := c.argA n c.f.ty
  let b := c.argB n c.f.ty
  let k := c.argC 1 .b32
  let psn := c.poisoned [k]
  let rows := c.rowsPsn n fun t =>
    (if c.word k t 0 = 0 then c.wordsPsn b t else c.wordsPsn a t).map fun p => (p.1, p.2 || bit psn t)
  (c.consume psn).writeResult (some 0) c.lanes rows

/-- MOV (R181). A uniform MOV of a V register takes the value of the lowest guarded thread. -/
def bodyMov (c : Cx) : Step :=
  let n := c.f.ty.regs
  let a := c.argA n c.f.ty
  let from_ (t : Nat) : Nat := if c.f.uni then (lowest c.grd).getD 0 else t
  c.writeResult (some 0) c.lanes (c.rowsPsn n fun t => c.wordsPsn a (from_ t))

/-! ### Predicates -/

/-- The operations of PLOP (R62, R182). -/
def plopOp (code : Nat) (a b : Bool) : Bool :=
  match code with
  | 0 => a && b
  | 1 => a || b
  | 2 => a != b
  | 3 => a && !b
  | 4 => a || !b
  | 5 => !(a && b)
  | 6 => !(a || b)
  | _ => a == b

/-- PLOP (R182): predicates in a vector form; S registers or immediates, read as 1 when nonzero, in a uniform one. -/
def bodyPlop (c : Cx) : Step :=
  let a := c.argA 1 .s32
  let b := c.argB 1 .s32
  c.aluP [a, b] fun t => plopOp c.f.sub.toNat (c.word a t 0 != 0) (c.word b t 0 != 0)

/-- PMOV (R182). -/
def bodyPmov (c : Cx) : Step :=
  let a := c.argA c.f.ty.regs c.f.ty
  if !c.f.ty.is64 then c.aluP [a] fun t => c.word a t 0 != 0
  else
    let psn := c.poisoned [a]
    let at_ (t : Nat) : Nat := if c.f.uni then 0 else t
    let ok (t : Nat) : Bool := if c.f.uni then psn == 0 else !bit psn t
    let bits := maskOf fun t => ok t && bit (c.word64 a (at_ t)) (c.index t)
    let c := c.consume psn
    .ok (if c.f.uni then (if c.grd = 0 then c else c.writeP c.act bits) else c.writeP c.grd bits)

/-- VOTE (R112). In protected mode the primaries vote, and a shadow takes the outcome its primary takes (R89)
(log 32, DEDUCED). -/
def bodyVote (c : Cx) : Step :=
  let k : Mask := match c.f.a with | .p n => c.r.work.pred n.toNat | _ => 0
  let g : Mask := if c.prot then maskOf fun t => t % 2 == 0 && bit c.grd t else c.grd
  let yes := g &&& k
  let n := popCount yes
  let pred (v : Bool) : Step := .ok (c.writeP c.grd (if v then BitVec.allOnes 64 else 0))
  let scalar (ws : List Word) : Step :=
    c.writeResult none 1 (ws.map fun w => { val := List.replicate 64 w, poison := 0 })
  match c.f.sub.toNat with
  | 0 => pred (yes == g)
  | 1 => pred (n == 0)
  | 2 =>
    let m : Addr := (threads yes).foldl (fun m t => m ||| maskBit (c.index t)) 0
    scalar [loWord m, hiWord m]
  | 3 => pred (n == 0 || yes == g)
  | 4 => scalar [BitVec.ofNat 32 n]
  | _ => scalar [match lowest yes with | some t => BitVec.ofNat 32 (c.index t) | none => 0xFFFFFFFF]

/-! ### Moving elements -/

/-- PACK (R183): the elements of A, then those of B, narrowed (log 19, DEDUCED). -/
def bodyPack (c : Cx) : Step :=
  let ty := if c.f.ty = .b32 then .n16x2 else c.f.ty
  let w := ty.elemBits
  let src : Ty := if ty.isSigned then (if w = 8 then .s16x2 else .s32) else (if w = 8 then .n16x2 else .n32)
  let a := c.argA 1 src
  let b := c.argB 1 src
  c.alu (some 0) 1 [a, b] fun t =>
    [fromElems w ((c.elems a t ++ c.elems b t).map fun x => narrow ty.isSigned c.f.sat w (readInt ty.isSigned (2 * w) x))]

/-- UNPK (R183): one element of A, extended to 32 bits. -/
def bodyUnpk (c : Cx) : Step :=
  let ty := if c.f.ty = .b32 then .n16x2 else c.f.ty
  let w := ty.elemBits
  let a := c.argA 1 ty
  let b := c.argB 1 .n32
  c.alu (some 0) 1 [a, b] fun t =>
    [BitVec.ofInt 32 (readInt ty.isSigned w (elem w (c.word a t 0) ((c.word b t 0).toNat % (32 / w))))]

/-- The bytes of a PRMT result, from byte `i` on, below which `prev` was placed (R183). -/
def permuteFrom (a b ctl : Word) : Nat → Nat → Nat → List Nat
  | 0, _, _ => []
  | k + 1, i, prev =>
    let s := elem 8 ctl i % 16
    let x := if s < 4 then elem 8 a s
      else if s < 8 then elem 8 b (s - 4)
      else if s = 9 then 0xFF
      else if s = 10 then (if i ≠ 0 ∧ 128 ≤ prev then 0xFF else 0)
      else if s = 11 then (if i ≠ 0 then prev else 0)
      else 0
    x :: permuteFrom a b ctl k (i + 1) x

/-- PRMT (R183). -/
def bodyPrmt (c : Cx) : Step :=
  let a := c.argA 1 .b32
  let b := c.argB 1 .b32
  let k := c.argC 1 .b32
  c.alu (some 0) 1 [a, b, k] fun t => [fromElems 8 (permuteFrom (c.word a t 0) (c.word b t 0) (c.word k t 0) 4 0 0)]

/-- The meaning of AND. -/
def execAnd (f : Fields) (s : State) : Host.Outcome State Fault Refusal := s.issue .and f false noPre bodyAnd
/-- The meaning of AND in its short form. -/
def execAndShort (f : Fields) (s : State) : Host.Outcome State Fault Refusal := s.issue .and f false noPre bodyAnd
/-- The meaning of OR. -/
def execOr (f : Fields) (s : State) : Host.Outcome State Fault Refusal := s.issue .or f false noPre bodyOr
/-- The meaning of OR in its short form. -/
def execOrShort (f : Fields) (s : State) : Host.Outcome State Fault Refusal := s.issue .or f false noPre bodyOr
/-- The meaning of XOR. -/
def execXor (f : Fields) (s : State) : Host.Outcome State Fault Refusal := s.issue .xor f false noPre bodyXor
/-- The meaning of XOR in its short form. -/
def execXorShort (f : Fields) (s : State) : Host.Outcome State Fault Refusal := s.issue .xor f false noPre bodyXor
/-- The meaning of ANDN. -/
def execAndn (f : Fields) (s : State) : Host.Outcome State Fault Refusal := s.issue .andn f false noPre bodyAndn
/-- The meaning of ANDN in its short form. -/
def execAndnShort (f : Fields) (s : State) : Host.Outcome State Fault Refusal := s.issue .andn f false noPre bodyAndn
/-- The meaning of NOT. -/
def execNot (f : Fields) (s : State) : Host.Outcome State Fault Refusal := s.issue .not f false noPre bodyNot
/-- The meaning of NOT in its short form. -/
def execNotShort (f : Fields) (s : State) : Host.Outcome State Fault Refusal := s.issue .not f false noPre bodyNot
/-- The meaning of BREV. -/
def execBrev (f : Fields) (s : State) : Host.Outcome State Fault Refusal := s.issue .brev f false noPre bodyBrev
/-- The meaning of BREV in its short form. -/
def execBrevShort (f : Fields) (s : State) : Host.Outcome State Fault Refusal := s.issue .brev f false noPre bodyBrev
/-- The meaning of SHL. -/
def execShl (f : Fields) (s : State) : Host.Outcome State Fault Refusal := s.issue .shl f false noPre bodyShl
/-- The meaning of SHL in its short form. -/
def execShlShort (f : Fields) (s : State) : Host.Outcome State Fault Refusal := s.issue .shl f false noPre bodyShl
/-- The meaning of SHR. -/
def execShr (f : Fields) (s : State) : Host.Outcome State Fault Refusal := s.issue .shr f false noPre bodyShr
/-- The meaning of SHR in its short form. -/
def execShrShort (f : Fields) (s : State) : Host.Outcome State Fault Refusal := s.issue .shr f false noPre bodyShr
/-- The meaning of SAR. -/
def execSar (f : Fields) (s : State) : Host.Outcome State Fault Refusal := s.issue .sar f false noPre bodySar
/-- The meaning of SAR in its short form. -/
def execSarShort (f : Fields) (s : State) : Host.Outcome State Fault Refusal := s.issue .sar f false noPre bodySar
/-- The meaning of ROTL. -/
def execRotl (f : Fields) (s : State) : Host.Outcome State Fault Refusal := s.issue .rotl f false noPre bodyRotl
/-- The meaning of ROTL in its short form. -/
def execRotlShort (f : Fields) (s : State) : Host.Outcome State Fault Refusal := s.issue .rotl f false noPre bodyRotl
/-- The meaning of POPC. -/
def execPopc (f : Fields) (s : State) : Host.Outcome State Fault Refusal := s.issue .popc f false noPre bodyPopc
/-- The meaning of POPC in its short form. -/
def execPopcShort (f : Fields) (s : State) : Host.Outcome State Fault Refusal := s.issue .popc f false noPre bodyPopc
/-- The meaning of CLZ. -/
def execClz (f : Fields) (s : State) : Host.Outcome State Fault Refusal := s.issue .clz f false noPre bodyClz
/-- The meaning of CLZ in its short form. -/
def execClzShort (f : Fields) (s : State) : Host.Outcome State Fault Refusal := s.issue .clz f false noPre bodyClz
/-- The meaning of BFE. -/
def execBfe (f : Fields) (s : State) : Host.Outcome State Fault Refusal := s.issue .bfe f false noPre bodyBfe
/-- The meaning of BFI. -/
def execBfi (f : Fields) (s : State) : Host.Outcome State Fault Refusal := s.issue .bfi f false noPre bodyBfi
/-- The meaning of SEL. -/
def execSel (f : Fields) (s : State) : Host.Outcome State Fault Refusal := s.issue .sel f false noPre bodySel
/-- The meaning of MOV. -/
def execMov (f : Fields) (s : State) : Host.Outcome State Fault Refusal := s.issue .mov f false noPre bodyMov
/-- The meaning of MOV in its short form. -/
def execMovShort (f : Fields) (s : State) : Host.Outcome State Fault Refusal := s.issue .mov f false noPre bodyMov
/-- The meaning of PLOP. -/
def execPlop (f : Fields) (s : State) : Host.Outcome State Fault Refusal := s.issue .plop f false noPre bodyPlop
/-- The meaning of PMOV. -/
def execPmov (f : Fields) (s : State) : Host.Outcome State Fault Refusal := s.issue .pmov f false noPre bodyPmov
/-- The meaning of VOTE. -/
def execVote (f : Fields) (s : State) : Host.Outcome State Fault Refusal := s.issue .vote f false noPre bodyVote
/-- The meaning of PACK. -/
def execPack (f : Fields) (s : State) : Host.Outcome State Fault Refusal := s.issue .pack f false noPre bodyPack
/-- The meaning of PACK in its short form. -/
def execPackShort (f : Fields) (s : State) : Host.Outcome State Fault Refusal := s.issue .pack f false noPre bodyPack
/-- The meaning of UNPK. -/
def execUnpk (f : Fields) (s : State) : Host.Outcome State Fault Refusal := s.issue .unpk f false noPre bodyUnpk
/-- The meaning of UNPK in its short form. -/
def execUnpkShort (f : Fields) (s : State) : Host.Outcome State Fault Refusal := s.issue .unpk f false noPre bodyUnpk
/-- The meaning of PRMT. -/
def execPrmt (f : Fields) (s : State) : Host.Outcome State Fault Refusal := s.issue .prmt f false noPre bodyPrmt

end Sys2Proof.Machine
end

