-- ==== Sys2Proof/Machine/Floating.lean ====
section
/-! DEFINITION. The floating-point instructions and the conversions (R184-R193, R163-R168). -/

namespace Sys2Proof.Machine

open Sys2Proof

/-- The sign modifiers on a floating element (R50): ABSA before NA, on the sign bit alone. -/
def Fmt.modify (f : Fmt) (abs neg : Bool) (x : Nat) : Nat :=
  let x := if abs then x % 2 ^ (f.width - 1) else x
  if neg then x ^^^ 2 ^ (f.width - 1) else x

/-- The elements of a floating source: flushed under FTZ, then its sign modifiers (R185). -/
def Cx.fl (c : Cx) (a : Arg) (abs neg : Bool) (t : Nat) : List Nat :=
  let f := fmtOf a.ty
  (c.elems a t).map fun x => f.modify abs neg (f.flush c.ftz x)

/-- The A elements of a floating instruction. -/
def Cx.flA (c : Cx) (t : Nat) : List Nat := c.fl (c.argA 1 c.f.ty) c.f.absa c.f.na t
/-- The B elements of a floating instruction. -/
def Cx.flB (c : Cx) (t : Nat) : List Nat := c.fl (c.argB 1 c.f.ty) false c.f.nb t

/-- The word of a floating result: each element flushed under FTZ (R162), then packed. -/
def Cx.flWord (c : Cx) (ty : Ty) (es : List Nat) : Word :=
  fromElems ty.elemBits (es.map ((fmtOf ty).flush c.ftz))

/-- A floating instruction of two operands. -/
def Cx.float2 (c : Cx) (g : Fmt → Nat → Nat → Nat) : Step :=
  c.alu (some 0) 1 [c.argA 1 c.f.ty, c.argB 1 c.f.ty] fun t =>
    [c.flWord c.f.ty (List.zipWith (g (fmtOf c.f.ty)) (c.flA t) (c.flB t))]

/-- FADD (R185). -/
def bodyFadd (c : Cx) : Step := c.float2 fun f a b => f.add c.f.rnd c.f.sat a b
/-- FSUB (R185): the sum with the sign of b flipped; a NaN stays a NaN. -/
def bodyFsub (c : Cx) : Step := c.float2 fun f a b => f.add c.f.rnd c.f.sat a (f.modify false true b)
/-- FMUL (R185). -/
def bodyFmul (c : Cx) : Step := c.float2 fun f a b => f.mul c.f.rnd c.f.sat a b

/-- FFMA (R185): one rounding of the exact product and sum. -/
def bodyFfma (c : Cx) : Step :=
  let k := c.argC 1 c.f.ty
  let f := fmtOf c.f.ty
  c.alu (some 0) 1 [c.argA 1 c.f.ty, c.argB 1 c.f.ty, k] fun t =>
    let ab := (c.flA t).zip (c.flB t)
    [c.flWord c.f.ty (List.zipWith (fun p x => sumProducts f f c.f.rnd c.f.sat [p] x) ab (c.fl k false false t))]

/-- FMIN and FMAX (R186): one operand, unchanged; the canonical NaN when both are NaNs. -/
def bodyFmin (c : Cx) : Step := c.float2 fun f a b => f.minMax false a b
/-- FMAX (R186). -/
def bodyFmax (c : Cx) : Step := c.float2 fun f a b => f.minMax true a b

/-- FNEG and FABS (R187): the sign bit of each element alone; nothing is flushed. -/
def Cx.signOnly (c : Cx) (abs : Bool) : Step :=
  let a := c.argA 1 c.f.ty
  let f := fmtOf c.f.ty
  c.alu (some 0) 1 [a] fun t => [fromElems f.width ((c.elems a t).map (f.modify abs (!abs)))]

/-- FNEG (R187). -/
def bodyFneg (c : Cx) : Step := c.signOnly false
/-- FABS (R187). -/
def bodyFabs (c : Cx) : Step := c.signOnly true

/-- The comparisons of FCMP (R62): unordered operands make the first six false and the last six true. -/
def floatCompare (code : Nat) (o : Option Int) : Bool :=
  match o with
  | none => decide (7 ≤ code)
  | some k => if code = 6 then true else if code = 7 then false else compareCode (code % 8) k

/-- FCMP (R187). -/
def bodyFcmp (c : Cx) : Step :=
  c.aluP [c.argA 1 c.f.ty, c.argB 1 c.f.ty] fun t =>
    floatCompare c.f.sub.toNat ((fp32.val ((c.flA t).getD 0 0)).cmp (fp32.val ((c.flB t).getD 0 0)))

/-- FCLASS (R187): nothing is flushed. -/
def bodyFclass (c : Cx) : Step :=
  let a := c.argA 1 .f32
  let b := c.argB 1 .s32
  c.aluP [a, b] fun t => bit (c.word b t 0) (fp32.classBit (c.word a t 0).toNat)

/-- FRND (R188). -/
def bodyFrnd (c : Cx) : Step :=
  c.alu (some 0) 1 [c.argA 1 c.f.ty] fun t =>
    [c.flWord c.f.ty ((c.flA t).map ((fmtOf c.f.ty).toIntegral c.f.rnd))]

/-- FDIV (R189). -/
def bodyFdiv (c : Cx) : Step :=
  c.aluLater (some 1) 1 [c.argA 1 c.f.ty, c.argB 1 c.f.ty] fun t =>
    [c.flWord c.f.ty (List.zipWith (fp32.div c.f.rnd c.f.sat) (c.flA t) (c.flB t))]

/-- FSQRT (R189). -/
def bodyFsqrt (c : Cx) : Step :=
  c.aluLater (some 1) 1 [c.argA 1 c.f.ty] fun t =>
    [c.flWord c.f.ty ((c.flA t).map (fp32.sqrt c.f.rnd c.f.sat))]

/-- FSCL (R185): the B operand is .s32. -/
def bodyFscl (c : Cx) : Step :=
  let b := c.argB 1 .s32
  c.alu (some 0) 1 [c.argA 1 c.f.ty, b] fun t =>
    let n := (c.word b t 0).toInt
    [c.flWord c.f.ty ((c.flA t).map fun x => (fmtOf c.f.ty).scale c.f.rnd c.f.sat x n)]

/-- FDOT2 (R185): two exact products and an FP32 addend, rounded once into FP32. -/
def bodyFdot2 (c : Cx) : Step :=
  let k := c.argC 1 .f32
  c.alu (some 0) 1 [c.argA 1 c.f.ty, c.argB 1 c.f.ty, k] fun t =>
    let x := (c.fl k false false t).getD 0 0
    [c.flWord .f32 [sumProducts (fmtOf c.f.ty) fp32 c.f.rnd c.f.sat ((c.flA t).zip (c.flB t)) x]]

/-! ### Conversions -/

/-- One element converted from one type to another (R161, R191): SAT turns an infinity into the largest finite value there too
where both types are one, though R191 has that copied (R159) (log 28, DEDUCED). -/
def convertElem (ftz sat : Bool) (r : Rnd) (src dst : Ty) (x : Nat) : Nat :=
  let f := fmtOf src
  let g := fmtOf dst
  match src.isFloat, dst.isFloat with
  | true, true =>
    let x := f.flush ftz x
    if src = dst then
      match f.val x with
      | .nan => f.nan
      | .inf _ => if sat then f.convert g r sat x else x
      | .fin _ _ _ => x
    else g.flush ftz (f.convert g r sat x)
  | false, true => g.flush ftz (g.ofInt r sat (readInt src.isSigned src.elemBits x))
  | true, false =>
    let (lo, hi) := intRange dst.isSigned dst.elemBits
    wrapInt dst.elemBits ((f.val (f.flush ftz x)).toInt r lo hi 0)
  | false, false => narrow dst.isSigned sat dst.elemBits (readInt src.isSigned src.elemBits x)

/-- CVT (R190, R191). -/
def bodyCvt (c : Cx) : Step :=
  match cvtSource c.f.sub with
  | none => c.illegal
  | some src =>
    let dst := c.f.ty
    let n := cvtCount dst src
    let a := c.argA (n * src.elemBits / 32) src
    let regs := n * dst.elemBits / 32
    c.alu (some 0) regs [a] fun t =>
      groupWords dst.elemBits regs ((c.elems a t).map (convertElem c.ftz c.f.sat c.f.rnd src dst))

/-- A format slot (R163). -/
structure Slot64 where
  fmt   : Nat
  zpb   : Nat       -- 0 to 3: blocks of 16, 32, 64 or 128
  sat   : Bool
  rnd   : Rnd
  scale : Nat       -- an FP32 pattern
  deriving DecidableEq, Repr

/-- The fields of a format slot (R163). -/
def slotOf (x : BitVec 64) : Slot64 :=
  { fmt := x.toNat % 16, zpb := x.toNat / 16 % 4, sat := bit x 6, rnd := rndOf ((x >>> 8).setWidth 2),
    scale := x.toNat / 2 ^ 32 }

/-- Format slot `k` of a launch record (R163). -/
def Record.slot (r : Record) (k : Nat) : Slot64 := slotOf (r.slots.getD k 0)

/-- The floating format of a slot's FMT code, FP32 for any other. -/
def fmtCode (k : Nat) : Fmt :=
  match k with
  | 1 => bf16 | 2 => fp16 | 3 => e4m3 | 4 => e5m2 | _ => fp32

/-- The width in bits of an element of a slot's format (R153, R155). -/
def slotBits (k : Nat) : Nat :=
  match k with
  | 0 => 32 | 1 => 16 | 2 => 16 | 3 => 8 | 4 => 8 | 5 => 8 | 6 => 8 | 7 => 4 | _ => 2

/-- The exact value of an element of a slot's format (R153, R155), `z` the zero point. The reserved TRN2 code is 0. -/
def slotVal (k x z : Nat) : FVal :=
  let int (i : Int) : FVal := .fin (decide (i < 0)) i.natAbs 0
  match k with
  | 5 => int (asSigned 8 x)
  | 6 | 7 => int ((x : Int) - z)
  | 8 => int (if x = 1 then 1 else if x = 3 then -1 else 0)
  | _ => (fmtCode k).val x

/-- An exact value times a positive normal scale, rounded into FP32 (R165). -/
def scaledUp (s : Slot64) (v : FVal) : Nat :=
  match v, fp32.val s.scale with
  | .fin n m e, .fin _ ms es => fp32.round s.rnd s.sat n (m * ms) (e + es) false
  | .inf n, _ => fp32.infinite s.sat n
  | _, _ => fp32.nan

/-- The exact quotient of an FP32 pattern by a positive normal scale: magnitude bits, exponent, and whether something
is left over (R166). -/
def scaledDown (s : Slot64) (m : Nat) (e : Int) : Nat × Int × Bool :=
  match fp32.val s.scale with
  | .fin _ ms es => if m = 0 then (0, 0, false) else
      let (q, k, st) := divBits m ms
      (q, e - es + k, st)
  | _ => (0, 0, false)

/-- The integer that a quotient rounds to in a mode. -/
def roundQuot (r : Rnd) (neg : Bool) (q : Nat) (k : Int) (st : Bool) : Int :=
  let mag : Nat :=
    if 0 ≤ k then q * 2 ^ k.toNat
    else
      let sh := (-k).toNat
      let i := q / 2 ^ sh
      if roundsUp r neg (i % 2 == 1) (q % 2 ^ sh) (2 ^ sh) st then i + 1 else i
  if neg then -(mag : Int) else (mag : Int)

/-- A value encoded into a slot's format (R161, R166), `z` the zero point. -/
def encodeVal (s : Slot64) (z : Nat) (x : FVal) : Nat :=
  let range (lo hi : Int) (shift : Int) (nan : Int) : Int :=
    match x with
    | .nan => nan
    | .inf n => if n then lo else hi
    | .fin n m e =>
      let (q, k, st) := scaledDown s m e
      max lo (min hi (roundQuot s.rnd n q k st + shift))
  match s.fmt with
  | 5 => wrapInt 8 (range (-128) 127 0 0)
  | 6 => (range 0 255 z z).toNat
  | 7 => (range 0 15 z z).toNat
  | 8 => match range (-1) 1 0 0 with
      | 0 => 0
      | 1 => 1
      | _ => 3
  | k =>
    let g := fmtCode k
    match x with
    | .nan => g.nan
    | .inf n => g.infinite s.sat n
    | .fin n m e =>
      let (q, e, st) := scaledDown s m e
      g.round s.rnd s.sat n q e st

/-- An FP32 pattern encoded into a slot's format. -/
def encodeSlot (s : Slot64) (z : Nat) (x : Nat) : Nat := encodeVal s z (fp32.val x)

/-- The format slot an instruction names in X bits 2:0. -/
def Cx.slot (c : Cx) : Slot64 := (c.s.recOf c.x).slot (c.f.x.toNat % 8)

/-- What CVTS asks of its slot and of the widths it fixes (R192). -/
def preCvts (c : Cx) : Bool :=
  let n := 32 / slotBits c.slot.fmt
  decide (c.slot.fmt ≤ 5)
    && (if c.f.sub = 0 then (c.f.d == .zero || c.f.dw.count == n) && c.f.aw == .w1
        else c.f.aw.count == n && c.f.dw == .w1)

/-- CVTS (R192). -/
def bodyCvts (c : Cx) : Step :=
  let s := c.slot
  let w := slotBits s.fmt
  let n := 32 / w
  let g := fmtCode s.fmt
  if c.f.sub = 0 then
    let a := c.argA 1 .b32
    c.alu (some 0) n [a] fun t =>
      ((List.range n).map fun i =>
        let x := elem w (c.word a t 0) i
        let x := if s.fmt = 5 then x else g.flush c.ftz x
        BitVec.ofNat 32 (fp32.flush c.ftz (scaledUp s (slotVal s.fmt x 0))))
  else
    let a := c.argA n .f32
    c.alu (some 0) 1 [a] fun t =>
      [fromElems w ((c.words a t).map fun x =>
        let y := encodeSlot s 0 (fp32.flush c.ftz x.toNat)
        if s.fmt = 5 then y else g.flush c.ftz y)]

/-- The number of elements of a register of a slot of OB8, OB4 or TRN2 (R193). -/
def quantCount (fmt : Nat) : Nat := if fmt = 6 then 4 else 8

/-- What QPK and QUPK ask of their slot and of the widths it fixes (R193). -/
def preQuant (wide : Cx → Nat) (c : Cx) : Bool :=
  let k := c.slot.fmt
  decide (6 ≤ k) && decide (k ≤ 8) && (k != 8 || c.f.b == .zero) && wide c == quantCount k

/-- The zero point an instruction supplies (R193). -/
def zeroPoint (fmt : Nat) (b : Word) : Nat := if fmt = 6 then b.toNat % 256 else if fmt = 7 then b.toNat % 16 else 0

/-- QPK (R193). -/
def bodyQpk (c : Cx) : Step :=
  let s := c.slot
  let a := c.argA (quantCount s.fmt) .f32
  let b := c.argB 1 .s32
  c.alu (some 0) 1 [a, b] fun t =>
    let z := zeroPoint s.fmt (c.word b t 0)
    [fromElems (slotBits s.fmt) ((c.words a t).map fun x => encodeSlot s z (fp32.flush c.ftz x.toNat))]

/-- QUPK (R193): the reserved code of TRN2 decodes 0, and its run sets TRN at its commit (R155). -/
def bodyQupk (c : Cx) : Step :=
  let s := c.slot
  let n := quantCount s.fmt
  let w := slotBits s.fmt
  let a := c.argA 1 .b32
  let b := c.argB 1 .s32
  let reserved := s.fmt == 8 && (threads c.lanes).any fun t => (List.range n).any fun i => elem 2 (c.word a t 0) i == 2
  let c := if reserved then { c with r := { c.r with cmds := c.r.cmds ++ [.trn] } } else c
  c.alu (some 0) n [a, b] fun t =>
    let z := zeroPoint s.fmt (c.word b t 0)
    (List.range n).map fun i =>
      BitVec.ofNat 32 (fp32.flush c.ftz (scaledUp s (slotVal s.fmt (elem w (c.word a t 0) i) z)))

/-- The meaning of FADD. -/
def execFadd (f : Fields) (s : State) : Host.Outcome State Fault Refusal := s.issue .fadd f false noPre bodyFadd
/-- The meaning of FADD in its short form. -/
def execFaddShort (f : Fields) (s : State) : Host.Outcome State Fault Refusal := s.issue .fadd f false noPre bodyFadd
/-- The meaning of FSUB. -/
def execFsub (f : Fields) (s : State) : Host.Outcome State Fault Refusal := s.issue .fsub f false noPre bodyFsub
/-- The meaning of FSUB in its short form. -/
def execFsubShort (f : Fields) (s : State) : Host.Outcome State Fault Refusal := s.issue .fsub f false noPre bodyFsub
/-- The meaning of FMUL. -/
def execFmul (f : Fields) (s : State) : Host.Outcome State Fault Refusal := s.issue .fmul f false noPre bodyFmul
/-- The meaning of FMUL in its short form. -/
def execFmulShort (f : Fields) (s : State) : Host.Outcome State Fault Refusal := s.issue .fmul f false noPre bodyFmul
/-- The meaning of FFMA. -/
def execFfma (f : Fields) (s : State) : Host.Outcome State Fault Refusal := s.issue .ffma f false noPre bodyFfma
/-- The meaning of FMIN. -/
def execFmin (f : Fields) (s : State) : Host.Outcome State Fault Refusal := s.issue .fmin f false noPre bodyFmin
/-- The meaning of FMIN in its short form. -/
def execFminShort (f : Fields) (s : State) : Host.Outcome State Fault Refusal := s.issue .fmin f false noPre bodyFmin
/-- The meaning of FMAX. -/
def execFmax (f : Fields) (s : State) : Host.Outcome State Fault Refusal := s.issue .fmax f false noPre bodyFmax
/-- The meaning of FMAX in its short form. -/
def execFmaxShort (f : Fields) (s : State) : Host.Outcome State Fault Refusal := s.issue .fmax f false noPre bodyFmax
/-- The meaning of FNEG. -/
def execFneg (f : Fields) (s : State) : Host.Outcome State Fault Refusal := s.issue .fneg f false noPre bodyFneg
/-- The meaning of FNEG in its short form. -/
def execFnegShort (f : Fields) (s : State) : Host.Outcome State Fault Refusal := s.issue .fneg f false noPre bodyFneg
/-- The meaning of FABS. -/
def execFabs (f : Fields) (s : State) : Host.Outcome State Fault Refusal := s.issue .fabs f false noPre bodyFabs
/-- The meaning of FABS in its short form. -/
def execFabsShort (f : Fields) (s : State) : Host.Outcome State Fault Refusal := s.issue .fabs f false noPre bodyFabs
/-- The meaning of FCMP. -/
def execFcmp (f : Fields) (s : State) : Host.Outcome State Fault Refusal := s.issue .fcmp f false noPre bodyFcmp
/-- The meaning of FCLASS. -/
def execFclass (f : Fields) (s : State) : Host.Outcome State Fault Refusal := s.issue .fclass f false noPre bodyFclass
/-- The meaning of FRND. -/
def execFrnd (f : Fields) (s : State) : Host.Outcome State Fault Refusal := s.issue .frnd f false noPre bodyFrnd
/-- The meaning of FRND in its short form. -/
def execFrndShort (f : Fields) (s : State) : Host.Outcome State Fault Refusal := s.issue .frnd f false noPre bodyFrnd
/-- The meaning of FDIV. -/
def execFdiv (f : Fields) (s : State) : Host.Outcome State Fault Refusal := s.issue .fdiv f false noPre bodyFdiv
/-- The meaning of FDIV in its short form. -/
def execFdivShort (f : Fields) (s : State) : Host.Outcome State Fault Refusal := s.issue .fdiv f false noPre bodyFdiv
/-- The meaning of FSQRT. -/
def execFsqrt (f : Fields) (s : State) : Host.Outcome State Fault Refusal := s.issue .fsqrt f false noPre bodyFsqrt
/-- The meaning of FSQRT in its short form. -/
def execFsqrtShort (f : Fields) (s : State) : Host.Outcome State Fault Refusal := s.issue .fsqrt f false noPre bodyFsqrt
/-- The meaning of FSCL. -/
def execFscl (f : Fields) (s : State) : Host.Outcome State Fault Refusal := s.issue .fscl f false noPre bodyFscl
/-- The meaning of FSCL in its short form. -/
def execFsclShort (f : Fields) (s : State) : Host.Outcome State Fault Refusal := s.issue .fscl f false noPre bodyFscl
/-- The meaning of FDOT2. -/
def execFdot2 (f : Fields) (s : State) : Host.Outcome State Fault Refusal := s.issue .fdot2 f false noPre bodyFdot2
/-- The meaning of CVT. -/
def execCvt (f : Fields) (s : State) : Host.Outcome State Fault Refusal := s.issue .cvt f false noPre bodyCvt
/-- The meaning of CVTS. -/
def execCvts (f : Fields) (s : State) : Host.Outcome State Fault Refusal := s.issue .cvts f false preCvts bodyCvts
/-- The meaning of QPK. -/
def execQpk (f : Fields) (s : State) : Host.Outcome State Fault Refusal :=
  s.issue .qpk f false (preQuant fun c => c.f.aw.count) bodyQpk
/-- The meaning of QUPK. -/
def execQupk (f : Fields) (s : State) : Host.Outcome State Fault Refusal :=
  s.issue .qupk f false (preQuant fun c => if c.f.d = .zero then quantCount c.slot.fmt else c.f.dw.count) bodyQupk

end Sys2Proof.Machine
end

