-- ==== Sys2Proof/Machine/Special.lean ====
section
/-! DEFINITION. The special functions (R194-R199): the tables of R196 are formed from the real functions R197 names, in
integers of `sfuBits` fraction bits (log 20, DESIGN CHOICE), and evaluated as R196 gives. -/

namespace Sys2Proof.Machine

open Sys2Proof

/-- The fraction bits the functions are evaluated with before a table value is rounded (log 20, DESIGN CHOICE). -/
def sfuBits : Nat := 512

/-- 1 in that scale. -/
def one512 : Int := 2 ^ sfuBits

/-- A product in that scale. -/
def fxMul (a b : Int) : Int := a * b / one512

/-- A quotient in that scale. -/
def fxDiv (a b : Int) : Int := a * one512 / b

/-- The sum x + x^3/3 + x^5/5 + ... from the term `x^k`, with `x2` the square of x: the inverse hyperbolic tangent. -/
def atanhFrom : Nat → Int → Int → Nat → Int
  | 0, _, _, _ => 0
  | n + 1, pow, x2, k => pow / k + atanhFrom n (fxMul pow x2) x2 (k + 2)

/-- The sum x - x^3/3 + x^5/5 - ... for x = 1/d: the inverse tangent. -/
def atanFrom : Nat → Int → Int → Nat → Int
  | 0, _, _, _ => 0
  | n + 1, pow, d2, k => pow / k - atanFrom n (pow / d2) d2 (k + 2)

/-- The natural logarithm of 2. -/
def ln2 : Int := 2 * atanhFrom 170 (one512 / 3) (one512 / 9) 1

/-- The number pi, by 16 atan(1/5) - 4 atan(1/239). -/
def piFx : Int := 16 * atanFrom 120 (one512 / 5) 25 1 - 4 * atanFrom 40 (one512 / 239) 57121 1

/-- The series 1 + x/k + x^2/(k(k+1)) + ... from the term `t`. -/
def expFrom : Nat → Int → Int → Nat → Int
  | 0, t, _, _ => t
  | n + 1, t, x, k => t + expFrom n (fxMul t x / k) x (k + 1)

/-- A value squared `n` times. -/
def squareTimes : Nat → Int → Int
  | 0, x => x
  | n + 1, x => squareTimes n (fxMul x x)

/-- The exponential of a value from 0 to 256. -/
def expFx (x : Int) : Int := squareTimes 8 (expFrom 90 one512 (x / 256) 1)

/-- The series t - t x2/(k(k+1)) + ... of the sine and the cosine. -/
def sineFrom : Nat → Int → Int → Nat → Int
  | 0, _, _, _ => 0
  | n + 1, t, x2, k => t - sineFrom n (fxMul t x2 / (k * (k + 1))) x2 (k + 2)

/-- The sum 1 + y/3 + y^2/(3*5) + ... from the term `t`. -/
def erfFrom : Nat → Int → Int → Nat → Int
  | 0, _, _, _ => 0
  | n + 1, t, y, k => t + erfFrom n (fxMul t y / k) y (k + 2)

/-- A point p = k * 2^e in the working scale. -/
def pointFx (k : Nat) (e : Int) : Int :=
  if 0 ≤ e then (k * 2 ^ e.toNat : Nat) * one512 else (k : Int) * one512 / 2 ^ (-e).toNat

/-- The error function of z, from y = 2 z^2: 2 z e^(-z^2) / sqrt(pi) times the series. -/
def erfFx (z y : Int) : Int :=
  let root := (isqrt ((piFx * one512).toNat) : Int)
  fxDiv (fxDiv (2 * fxMul z (erfFrom 900 one512 y 3)) root) (expFx (y / 2))

/-- The functions of R197. -/
inductive Sfu where
  | rcp | rsq | sqrt | exp2 | log2 | sin | cos | tanh | sigm | erf | gelu
  deriving DecidableEq, Repr

/-- The function a table is made of (R197). -/
inductive Curve where
  | recip | root | rroot | pow2 | log2 | sine | cosine | tanh | erf
  | sigm (neg : Bool)
  | gelu (neg : Bool)
  deriving DecidableEq, Repr

/-- The value of a curve at the point k * 2^e, in the working scale. Where the value is a power of two or zero it is
exact. -/
def Curve.at (c : Curve) (k : Nat) (e : Int) : Int :=
  let p := pointFx k e
  match c with
  | .recip => fxDiv one512 p
  | .root => (isqrt ((p * one512).toNat) : Int)
  | .rroot => (isqrt ((one512 * one512 * one512 / p).toNat) : Int)
  | .pow2 => if p = one512 then 2 * one512 else expFrom 110 one512 (fxMul p ln2) 1
  | .log2 =>
    if p = 2 * one512 then one512
    else
      let x := fxDiv (p - one512) (p + one512)
      fxDiv (2 * atanhFrom 170 x (fxMul x x) 1) ln2
  | .sine =>
    let x := fxMul p piFx / 2
    if p = one512 then one512 else sineFrom 70 x (fxMul x x) 2
  | .cosine =>
    let x := fxMul p piFx / 2
    if p = one512 then 0 else sineFrom 70 one512 (fxMul x x) 1
  | .tanh =>
    let q := fxDiv one512 (expFx (2 * p))
    fxDiv (one512 - q) (one512 + q)
  | .erf => erfFx p (2 * fxMul p p)
  | .sigm neg =>
    let q := fxDiv one512 (expFx p)
    if neg then fxDiv q (one512 + q) else fxDiv one512 (one512 + q)
  | .gelu neg =>
    let z := fxMul p (isqrt ((one512 * one512 / 2).toNat) : Int)
    let g := erfFx z (fxMul p p)
    if neg then -(fxMul p (one512 - g) / 2) else fxMul p (one512 + g) / 2

/-- The integer nearest a / b, for b > 0, with ties to even: NI of R196. -/
def nearest (a : Int) (b : Nat) : Int :=
  let q := a / b
  let r := 2 * (a - q * b)
  if (b : Int) < r ∨ r = b ∧ q % 2 ≠ 0 then q + 1 else q

/-- The segment's value (R196): P, and the exponent it is scaled by. -/
def segment (y0 ym y1 : Int) (t : Nat) : Int × Int :=
  let big := max y0.natAbs (max ym.natAbs y1.natAbs)
  let eo : Int := 1 + ((Nat.log2 big : Int) - sfuBits)
  let down := 2 ^ ((sfuBits : Int) - 30 + eo).toNat
  let w0 := nearest y0 down
  let m := nearest ym down
  let z := nearest y1 down
  let w2 := 16 * nearest (2 * (w0 - 2 * m + z)) 16
  let w1 := 4 * nearest (z - w0 - w2) 4
  (w0 + w1 * t / 2 ^ 16 + w2 * ((t * t / 2 ^ 16 : Nat) : Int) / 2 ^ 16, eo - 30)

/-- A segment of a binade [2^b, 2^(b+1)) (R196), from the 23 bits below the leading bit. -/
def binade (c : Curve) (b : Int) (frac : Nat) : Int × Int :=
  let j := frac / 2 ^ 16
  segment (c.at (128 + j) (b - 7)) (c.at (256 + 2 * j + 1) (b - 8)) (c.at (128 + j + 1) (b - 7)) (frac % 2 ^ 16)

/-- A segment of the unit interval (R196), from a 23-bit fraction. -/
def unitInterval (c : Curve) (frac : Nat) : Int × Int :=
  let j := frac / 2 ^ 16
  segment (c.at j (-7)) (c.at (2 * j + 1) (-8)) (c.at (j + 1) (-7)) (frac % 2 ^ 16)

/-- A table value times 2^k, with a sign, rounded once into FP32. -/
def assemble (sat neg : Bool) (v : Int × Int) (k : Int) : Nat :=
  if v.1 = 0 then 0 else fp32.round .rne sat (neg != decide (v.1 < 0)) v.1.natAbs (v.2 + k) false

/-- The floor of the number of half-turn quarters: F of R197. -/
def quadrants (m : Nat) (e : Int) : Nat :=
  let prod := m * 0x28BE60DB9391054A
  let sh := 64 - e
  if sh ≤ 0 then 0 else prod % 2 ^ sh.toNat * 2 ^ 25 / 2 ^ sh.toNat

/-- A special function of a finite nonzero argument that no fixed case covers: `neg`, the exponent `b` of its leading
bit, the 23 bits below it, and the argument as m * 2^e (R197) (log 20, DESIGN CHOICE). -/
def Sfu.table (g : Sfu) (sat neg : Bool) (b : Int) (frac m : Nat) (e : Int) : Nat :=
  let wave (swap flip : Bool) (f : Nat) : Int × Int :=
    let v := unitInterval (if swap then .cosine else .sine) f
    (if flip then -v.1 else v.1, v.2)
  match g with
  | .rcp => assemble sat neg (binade .recip 0 frac) (-b)
  | .rsq => assemble sat false (binade .rroot (b % 2) frac) (-(b / 2))
  | .sqrt => assemble sat false (binade .root (b % 2) frac) (b / 2)
  | .exp2 =>
    let v : Int := (if neg then -(m : Int) else m)
    let n := if 0 ≤ e then v * 2 ^ e.toNat else v / 2 ^ (-e).toNat
    let r := if 0 ≤ e then 0 else (v - n * 2 ^ (-e).toNat) * 2 ^ 23 / 2 ^ (-e).toNat
    assemble sat false (unitInterval .pow2 r.toNat) n
  | .log2 =>
    let v := binade .log2 0 frac
    assemble sat false (v.1 + b * 2 ^ (-v.2).toNat, v.2) 0
  | .sin =>
    let f := quadrants m e
    let q := f / 2 ^ 23
    let v := wave (q % 2 == 1) (decide (2 ≤ q)) (f % 2 ^ 23)
    if v.1 = 0 then fp32.zero neg else assemble sat neg v 0
  | .cos =>
    let f := quadrants m e
    let q := f / 2 ^ 23
    assemble sat false (wave (q % 2 == 0) (q == 1 || q == 2) (f % 2 ^ 23)) 0
  | .tanh => assemble sat neg (binade .tanh b frac) 0
  | .erf => assemble sat neg (binade .erf b frac) 0
  | .sigm => assemble sat false (binade (.sigm neg) b frac) 0
  | .gelu => assemble sat false (binade (.gelu neg) b frac) 0

/-- The fixed cases of R198, for an argument that is no NaN; none where the table applies. -/
def Sfu.fixed (g : Sfu) (sat : Bool) (x : Nat) : Option Nat :=
  let v := fp32.val x
  let neg := fp32.neg x
  let zero := x % 2 ^ 31 == 0
  let inf := v == .inf neg
  let ge (k : Nat) (e : Int) : Bool := (v.cmp (.fin false k e)).getD 0 ≥ 0
  let le (k : Nat) (e : Int) : Bool := (v.cmp (.fin true k e)).getD 0 ≤ 0
  let small (e : Int) : Bool := ((fp32.val (x % 2 ^ 31)).cmp (.fin false 1 e)).getD 0 < 0
  let large (k : Nat) : Bool := ((fp32.val (x % 2 ^ 31)).cmp (.fin false k 0)).getD 0 ≥ 0
  let one := 0x3F800000
  match g with
  | .rcp => if zero then some (fp32.infinite sat neg) else if inf then some (fp32.zero neg) else none
  | .rsq =>
    if zero then some (fp32.infinite sat neg) else if neg then some fp32.nan else if inf then some 0 else none
  | .sqrt =>
    if zero then some x else if neg then some fp32.nan
    else if inf then some (fp32.infinite sat false) else none
  | .exp2 =>
    if ge 128 0 then some (fp32.infinite sat false)
    else if (v.cmp (.fin true 151 0)).getD 0 < 0 then some 0 else none
  | .log2 =>
    if zero then some (fp32.infinite sat true) else if neg then some fp32.nan
    else if inf then some (fp32.infinite sat false) else none
  | .sin => if inf then some fp32.nan else if small (-12) then some x else none
  | .cos => if inf then some fp32.nan else if small (-12) then some one else none
  | .tanh => if small (-12) then some x else if large 10 then some (fp32.signed neg one) else none
  | .sigm =>
    if small (-24) then some 0x3F000000 else if ge 18 0 then some one else if le 104 0 then some 0 else none
  | .erf =>
    if small (-12) then some (mul32 x 0x3F906EBB) else if large 4 then some (fp32.signed neg one) else none
  | .gelu =>
    if small (-24) then some (mul32 x 0x3F000000)
    else if ge 6 0 then some (if inf then fp32.infinite sat false else x)
    else if le 15 0 then some (fp32.zero true) else none

/-- A special function of an FP32 pattern (R196-R198). -/
def Sfu.eval (g : Sfu) (sat : Bool) (x : Nat) : Nat :=
  if fp32.isNan x then fp32.nan
  else match g.fixed sat x with
    | some r => r
    | none =>
      match fp32.val x with
      | .fin neg m e =>
        let top := Nat.log2 m
        if m = 0 then g.table sat neg 0 0 0 e
        else g.table sat neg ((top : Int) + e) (m * 2 ^ (23 - top) % 2 ^ 23) m e
      | _ => fp32.nan

/-- A special-function instruction (R194): its source flushed under FTZ, then its sign modifiers; its result flushed. -/
def Cx.special (c : Cx) (g : Sfu) : Step :=
  c.aluLater (some 1) 1 [c.argA 1 .f32] fun t => [c.flWord .f32 ((c.flA t).map (g.eval c.f.sat))]

/-- RCP (R197). -/
def bodyRcp (c : Cx) : Step := c.special .rcp
/-- RSQ (R197). -/
def bodyRsq (c : Cx) : Step := c.special .rsq
/-- SQRT (R197). -/
def bodySqrt (c : Cx) : Step := c.special .sqrt
/-- EXP2 (R197). -/
def bodyExp2 (c : Cx) : Step := c.special .exp2
/-- LOG2 (R197). -/
def bodyLog2 (c : Cx) : Step := c.special .log2
/-- SIN (R197). -/
def bodySin (c : Cx) : Step := c.special .sin
/-- COS (R197). -/
def bodyCos (c : Cx) : Step := c.special .cos
/-- TANH (R197). -/
def bodyTanh (c : Cx) : Step := c.special .tanh
/-- SIGM (R197). -/
def bodySigm (c : Cx) : Step := c.special .sigm
/-- ERF (R197). -/
def bodyErf (c : Cx) : Step := c.special .erf
/-- GELU (R197). -/
def bodyGelu (c : Cx) : Step := c.special .gelu

/-- The meaning of RCP. -/
def execRcp (f : Fields) (s : State) : Host.Outcome State Fault Refusal := s.issue .rcp f false noPre bodyRcp
/-- The meaning of RCP in its short form. -/
def execRcpShort (f : Fields) (s : State) : Host.Outcome State Fault Refusal := s.issue .rcp f false noPre bodyRcp
/-- The meaning of RSQ. -/
def execRsq (f : Fields) (s : State) : Host.Outcome State Fault Refusal := s.issue .rsq f false noPre bodyRsq
/-- The meaning of RSQ in its short form. -/
def execRsqShort (f : Fields) (s : State) : Host.Outcome State Fault Refusal := s.issue .rsq f false noPre bodyRsq
/-- The meaning of SQRT. -/
def execSqrt (f : Fields) (s : State) : Host.Outcome State Fault Refusal := s.issue .sqrt f false noPre bodySqrt
/-- The meaning of SQRT in its short form. -/
def execSqrtShort (f : Fields) (s : State) : Host.Outcome State Fault Refusal := s.issue .sqrt f false noPre bodySqrt
/-- The meaning of EXP2. -/
def execExp2 (f : Fields) (s : State) : Host.Outcome State Fault Refusal := s.issue .exp2 f false noPre bodyExp2
/-- The meaning of EXP2 in its short form. -/
def execExp2Short (f : Fields) (s : State) : Host.Outcome State Fault Refusal := s.issue .exp2 f false noPre bodyExp2
/-- The meaning of LOG2. -/
def execLog2 (f : Fields) (s : State) : Host.Outcome State Fault Refusal := s.issue .log2 f false noPre bodyLog2
/-- The meaning of LOG2 in its short form. -/
def execLog2Short (f : Fields) (s : State) : Host.Outcome State Fault Refusal := s.issue .log2 f false noPre bodyLog2
/-- The meaning of SIN. -/
def execSin (f : Fields) (s : State) : Host.Outcome State Fault Refusal := s.issue .sin f false noPre bodySin
/-- The meaning of SIN in its short form. -/
def execSinShort (f : Fields) (s : State) : Host.Outcome State Fault Refusal := s.issue .sin f false noPre bodySin
/-- The meaning of COS. -/
def execCos (f : Fields) (s : State) : Host.Outcome State Fault Refusal := s.issue .cos f false noPre bodyCos
/-- The meaning of COS in its short form. -/
def execCosShort (f : Fields) (s : State) : Host.Outcome State Fault Refusal := s.issue .cos f false noPre bodyCos
/-- The meaning of TANH. -/
def execTanh (f : Fields) (s : State) : Host.Outcome State Fault Refusal := s.issue .tanh f false noPre bodyTanh
/-- The meaning of TANH in its short form. -/
def execTanhShort (f : Fields) (s : State) : Host.Outcome State Fault Refusal := s.issue .tanh f false noPre bodyTanh
/-- The meaning of SIGM. -/
def execSigm (f : Fields) (s : State) : Host.Outcome State Fault Refusal := s.issue .sigm f false noPre bodySigm
/-- The meaning of SIGM in its short form. -/
def execSigmShort (f : Fields) (s : State) : Host.Outcome State Fault Refusal := s.issue .sigm f false noPre bodySigm
/-- The meaning of ERF. -/
def execErf (f : Fields) (s : State) : Host.Outcome State Fault Refusal := s.issue .erf f false noPre bodyErf
/-- The meaning of ERF in its short form. -/
def execErfShort (f : Fields) (s : State) : Host.Outcome State Fault Refusal := s.issue .erf f false noPre bodyErf
/-- The meaning of GELU. -/
def execGelu (f : Fields) (s : State) : Host.Outcome State Fault Refusal := s.issue .gelu f false noPre bodyGelu
/-- The meaning of GELU in its short form. -/
def execGeluShort (f : Fields) (s : State) : Host.Outcome State Fault Refusal := s.issue .gelu f false noPre bodyGelu

end Sys2Proof.Machine
end

