-- ==== Sys2Proof/Machine/Fetch.lean ====
section
/-! DEFINITION. Fetching an instruction's words (R37-R39, R105, R106), the trap of an unassigned opcode (R59), and whether
the next instruction of a warp can issue at once (R76). -/

namespace Sys2Proof.Machine

open Sys2Proof

/-- The word that a fetch returns of a place where the grid has stored since it fetched from that page (R39): the new one or
one that stood there before, chosen for each word anew (log 76, DEDUCED). -/
def State.mixed (s : State) (x : Warp) (a : Addr) (l : Loc) (new : Word) : Word :=
  let olds := s.oldWords.filter fun o => o.grid == s.gridId x && o.place == l.word
  if olds.isEmpty then new
  else (olds.map OldWord.word).getD ((Config.freeWord (s.fresh + 2 ^ 64 * (a.toNat / 4 + 1))).toNat % (olds.length + 1)) new

/-- One word of code at a code address, as a warp's core fetches it, or the cause the fetch fault carries (R106). A bit of
63:48 that is set carries the cause of an invalid pointer (log 77, DESIGN CHOICE). -/
def State.fetchWord (s : State) (x : Warp) (a : Addr) : Except Cause (Word × Place) :=
  if a.toNat / 2 ^ 48 ≠ 0 then .error { code := 0x21, info := 0, addr := a }
  else match s.places x.col x.core (s.asidOf x) true (selfPtr a) 4 0 { exec := true } with
    | .error c => .error c
    | .ok ps => match ps with
      | [] => .error (misaligned a)
      | p :: _ => .ok (s.mixed x a p.loc (BitVec.ofNat 32 (leNat (ps.map fun q => (s.readLoc x.col q.loc).1))), p)

/-- The instruction-fetch fault of a code address (R105, R392). -/
def fetchFault (c : Cause) (a : Addr) : Cause :=
  { code := 0x2A, info := BitVec.ofNat 32 (c.code % 2 ^ 16 + c.info.toNat % 2 ^ 16 * 2 ^ 16), addr := a }

/-- The words of the instruction at a code address, and where they lie: as many as its first word says (R37), or the first
fetch fault. -/
def State.fetchWords (s : State) (x : Warp) (a : Addr) : Except Cause (List (Word × Place)) :=
  match s.fetchWord x a with
  | .error c => .error (fetchFault c a)
  | .ok w =>
    let rec rest : Nat → Nat → Except Cause (List (Word × Place))
      | 0, _ => .ok []
      | n + 1, k =>
        let b := a + BitVec.ofNat 64 (4 * k)
        match s.fetchWord x b with
        | .error c => .error (fetchFault c b)
        | .ok v => match rest n (k + 1) with
          | .error c => .error c
          | .ok l => .ok (v :: l)
    match rest (lenWords w.1 - 1) 1 with
    | .error c => .error c
    | .ok l => .ok (w :: l)

/-- What a fetch found at a warp's next instruction. -/
inductive Fetched where
  | word (i : Instr)                 -- a legal instruction
  | bad                              -- an illegal one, or a misaligned pc (R38, R54)
  | fault (c : Cause)                -- none could be fetched (R105)
  deriving DecidableEq, Repr

/-- The instruction a warp executes next. An unassigned opcode is an event of its own (R59). -/
def State.nextInstr (s : State) (x : Warp) : Fetched :=
  let pc := x.theRun.work.pc
  if pc.toNat % 4 ≠ 0 then .bad
  else match s.fetchWords x pc with
    | .error c => .fault c
    | .ok ws => match decode (ws.map Prod.fst) with
      | .ok i => .word i
      | .error .unassignedOpcode => .word (.unassignedOpcode ((ws.map Prod.fst).headD 0))
      | .error _ => .bad

/-- The page of a fetched word, as one that the warp's grid fetches from (R39). -/
def State.noteCode (s : State) (x : Warp) (p : Place) : State :=
  if s.fetchedFrom x p.loc then s
  else match (s.ctx (s.asidOf x)).pcol p.lcol with
    | none => s
    | some q => match s.leaf (s.asidOf x) q p.lcol p.off 0 with
      | .ok e => { s with codePages := s.codePages ++
          [{ grid := s.gridId x, col := q, host := e.host, base := e.base, size := 2 ^ e.shift }] }
      | .error _ => s

/-- The machine after a core has fetched an instruction: its code lines are read-only lines of the L1 (R106), and its pages are
ones that the grid fetches from (R39). -/
def State.touchCode (s : State) (x : Warp) : State :=
  match s.fetchWords x x.theRun.work.pc with
  | .error _ => s
  | .ok ws =>
    ws.foldl (fun s w => (s.touch x.col x.core (s.asidOf x) w.2 {}).noteCode x w.2)
      (if s.oldWords.isEmpty then s else s.drewFresh)

/-- A trap that the next instruction of a warp raises before it executes: every active thread is named (R392). -/
def State.trapAtPc (s : State) (w : Nat) (c : Cause) : State :=
  match s.warp w with
  | none => s
  | some x => s.stopped w x.theRun.work.pc (.trap c x.theRun.work.active)

/-- The meaning of UNASSIGNED_OPCODE (R59): the illegal-instruction trap, in every mode and with no thread active. -/
def execUnassignedOpcode (_w : Word) (s : State) : Host.Outcome State Fault Refusal :=
  match s.cur with
  | none => .fault .noIssuingWarp
  | some w => .next (s.trapAtPc w { code := 0x10, info := 0, addr := 0 })

/-- Does the first instruction of a warp's next run wait for a result (R76)? The window of one is over and its data has not
come (R100); or it is one that stalls in compatible mode (R103), or a BPERM that waits for its slot (R314). -/
def State.dependsOn (s : State) (w : Nat) (x : Warp) : Bool :=
  x.run.isNone && x.pend.any (fun p => !p.here)
    && (x.pend.any (fun p => p.window == 0 && !p.here) || (match s.nextInstr x with
      | .word i => (match i.encoded with
        | some (op, f) =>
          let c := s.cx w x f
          (c.mode == 2 && c.act != 0 && (c.stalls (op.spec f) (opClass op).readsD).isSome)
            || (op == .bperm && c.act != 0 && x.pend.any fun p => !p.here && p.fx.slot == some (f.x.toNat % 4))
        | none => false)
      | _ => false))

end Sys2Proof.Machine
end

