-- ==== Sys2Proof/Machine/Control.lean ====
section
/-! DEFINITION. The structural instructions (R84-R88, R107), jumps (R105, R108), NOP, YIELD and SLEEP (R109), BKPT (R111),
the barriers (R115) and the software trap with its return (R124, R126). -/

namespace Sys2Proof.Machine

open Sys2Proof

/-- The counter of a thread. -/
def Regs.ncOf (r : Regs) (t : Nat) : Nat := (r.nc.getD t 255).toNat

/-- Counters changed thread by thread. -/
def Regs.mapNc (r : Regs) (g : Nat → Nat → Nat) : Regs :=
  { r with nc := (List.range 64).map fun t => BitVec.ofNat 8 (g t (r.ncOf t)) }

/-- INC of R85, on a counter that does not overflow. -/
def incNc (n : Nat) : Nat := if n = 255 then 255 else n + 1

/-- The threads whose counter INC cannot raise (R88). -/
def Regs.full (r : Regs) : Mask := maskOf fun t => r.ncOf t == 127 || r.ncOf t == 254

/-- APPLYEXIT of R85. -/
def Regs.applyExit (r : Regs) : Regs :=
  { r.mapNc (fun t n => if bit r.mark t then 255 else n) with mark := 0 }

/-- The code address a jump goes to (R105): the signed offset from the first word of the instruction. -/
def Cx.target (c : Cx) : Addr :=
  match c.f.a with
  | .lit => c.pc + (loWord (c.f.lit.getD 0)).signExtend 64
  | .imm k => c.pc + small64 k
  | _ => c.pc

/-- A jump. -/
def Cx.jump (c : Cx) (target : Addr) : Cx := { c with nxt := target }

/-- A jump taken when no thread is active. -/
def Cx.jumpIfEmpty (c : Cx) : Cx := if c.r.work.active = 0 then c.jump c.target else c

/-- The predicate a structural instruction names in B. -/
def Cx.structPred (c : Cx) : Mask := match c.f.b with | .p n => c.r.work.pred n.toNat | _ => 0

/-- The nesting-overflow trap (R88, R392): of the level counter for the warp, of counters for their threads
(log 30, DEDUCED). -/
def Cx.nestCheck (c : Cx) (g : Cx → Step) : Step :=
  let r := c.r.work
  if r.depth = 127 then c.raiseAll 0x13 r.depth
  else if r.full ≠ 0 then c.raise 0x13 r.depth 0 r.full
  else g c

/-- IF (R85). -/
def bodyIf (c : Cx) : Step :=
  let p := c.structPred
  c.nestCheck fun c =>
    let c := c.modWork fun r =>
      { r.mapNc (fun t n => if n = 0 then (if bit p t then 0 else 1) else incNc n) with depth := r.depth + 1 }
    .ok c.jumpIfEmpty

/-- The illegal-convergence trap of a structure closed at depth 0 (R86). -/
def Cx.needDepth (c : Cx) (g : Cx → Step) : Step := if c.r.work.depth = 0 then c.raiseAll 0x14 1 else g c

/-- ELSE (R85). -/
def bodyElse (c : Cx) : Step :=
  c.needDepth fun c =>
    .ok (c.modWork fun r => r.applyExit.mapNc fun _ n => if n = 0 then 1 else if n = 1 then 0 else n).jumpIfEmpty

/-- ENDIF (R85). -/
def bodyEndif (c : Cx) : Step :=
  c.needDepth fun c =>
    .ok (c.modWork fun r =>
      { r.applyExit.mapNc (fun _ n => if 1 ≤ n ∧ n ≤ 254 then n - 1 else n) with depth := r.depth - 1 })

/-- LOOP (R85). -/
def bodyLoop (c : Cx) : Step :=
  c.nestCheck fun c =>
    .ok (c.modWork fun r =>
      { r.mapNc (fun _ n => if n = 0 then 0 else incNc n) with depth := r.depth + 1, ldep := r.ldep + 1 })

/-- BRK and CONT (R85): the active threads whose predicate is 1 take a counter value. -/
def Cx.leave (c : Cx) (value : Nat) : Step :=
  let p := c.structPred
  if c.r.work.ldep = 0 then c.raiseAll 0x14 2
  else .ok (c.modWork fun r => r.mapNc fun t n => if n = 0 && bit p t then value else n)

/-- BRK (R85). -/
def bodyBrk (c : Cx) : Step := c.leave (128 + c.f.x.toNat)
/-- CONT (R85). -/
def bodyCont (c : Cx) : Step := c.leave (c.f.x.toNat + 1)

/-- ENDLOOP (R85). A loop depth that a breach of R86 has left at 0 has no stated predecessor: it becomes a free value
(log 18, DESIGN CHOICE). -/
def bodyEndloop (c : Cx) : Step :=
  c.needDepth fun c =>
    let c := c.modWork fun r => r.applyExit.mapNc fun _ n => if n = 1 then 0 else n
    if c.r.work.active ≠ 0 then .ok (c.jump c.target)
    else
      let below := if c.r.work.ldep = 0 then (c.s.freeW 0).toNat % 256 else c.r.work.ldep - 1
      .ok (c.modWork fun r =>
        { r.mapNc (fun _ n => if n = 128 then 0 else if 2 ≤ n ∧ n ≤ 254 then n - 1 else n) with
          depth := r.depth - 1, ldep := below })

/-- EXIT (R85). -/
def bodyExit (c : Cx) : Step :=
  .ok (c.modWork fun r =>
    if r.depth = 0 then r.mapNc fun _ n => if n = 0 then 255 else n
    else { r with mark := r.mark ||| r.active })

/-- NOP (R109). -/
def bodyNop (c : Cx) : Step := .ok c

/-- JMP (R108). -/
def bodyJmp (c : Cx) : Step := .ok (if c.grd = 0 then c else c.jump c.target)

/-- CALL (R108). -/
def bodyCall (c : Cx) : Step :=
  if c.grd = 0 then .ok c
  else match c.f.d with
    | .s d =>
      let back : List SVal := [{ val := loWord c.nxt, poison := false }, { val := hiWord c.nxt, poison := false }]
      .ok ((c.writeS d.toNat back).jump c.target)
    | _ => .ok c

/-- RET (R108). A poisoned pair is consumed, and no jump is made (R395) (log 29, DEDUCED). -/
def bodyRet (c : Cx) : Step :=
  let a := c.argA 2 .b64
  if c.grd = 0 then .ok c
  else
    let psn := c.poisoned [a]
    .ok (if psn = 0 then c.jump (c.word64 a 0) else c.consume psn)

/-- An instruction that ends its run in some way when it takes effect. -/
def Cx.endIn (c : Cx) (e : RunEnd) : Cx := { c with r := { c.r with ended := some e } }

/-- YIELD (R109). -/
def bodyYield (c : Cx) : Step := .ok (if c.grd = 0 then c else c.endIn .yield)

/-- SLEEP (R109) (log 29, DEDUCED). -/
def bodySleep (c : Cx) : Step :=
  let a := c.argA 2 .b64
  if c.grd = 0 then .ok c
  else
    let psn := c.poisoned [a]
    .ok (if psn = 0 then c.endIn (.sleep (some (c.word64 a 0).toNat)) else c.consume psn)

/-- BKPT (R111): the first one at the address BSKIP armed acts as a NOP in the resumed run. -/
def bodyBkpt (c : Cx) : Step :=
  if c.x.bskip = some c.pc ∧ !c.r.skipped then .ok { c with r := { c.r with skipped := true } }
  else if c.grd = 0 then .ok c
  else c.raise 0x02 0 0 (if c.f.uni then c.act else c.grd)

/-- BAR and GBAR (R115): exits are applied first; a warp with an active thread left arrives when its run commits. -/
def Cx.barrier (c : Cx) (e : RunEnd) : Step :=
  if c.grd = 0 then .ok c
  else
    let c := c.modWork Regs.applyExit
    .ok (if c.r.work.active = 0 then c else c.endIn e)

/-- BAR (R115). -/
def bodyBar (c : Cx) : Step := c.barrier (.bar (c.f.x.toNat % 16))
/-- GBAR (R115). -/
def bodyGbar (c : Cx) : Step := c.barrier (.gbar (c.f.x.toNat % 16))

/-- TRAP (R124): its run commits first. -/
def bodyTrap (c : Cx) : Step := .ok (if c.grd = 0 then c else c.endIn (.trap (c.f.x.toNat % 256)))

/-- TRET (R126): illegal outside a handler. -/
def bodyTret (c : Cx) : Step := if c.grd = 0 then .ok c else if c.x.hmode then .ok (c.endIn .tret) else c.illegal

/-- The meaning of NOP. -/
def execNop (f : Fields) (s : State) : Host.Outcome State Fault Refusal := s.issue .nop f false noPre bodyNop
/-- The meaning of NOP in its short form. -/
def execNopShort (f : Fields) (s : State) : Host.Outcome State Fault Refusal := s.issue .nop f false noPre bodyNop
/-- The meaning of IF. -/
def execIf (f : Fields) (s : State) : Host.Outcome State Fault Refusal := s.issue .ifBlock f true noPre bodyIf
/-- The meaning of ELSE. -/
def execElse (f : Fields) (s : State) : Host.Outcome State Fault Refusal := s.issue .elseBlock f true noPre bodyElse
/-- The meaning of ENDIF. -/
def execEndif (f : Fields) (s : State) : Host.Outcome State Fault Refusal := s.issue .endif f true noPre bodyEndif
/-- The meaning of ENDIF in its short form. -/
def execEndifShort (f : Fields) (s : State) : Host.Outcome State Fault Refusal := s.issue .endif f true noPre bodyEndif
/-- The meaning of LOOP. -/
def execLoop (f : Fields) (s : State) : Host.Outcome State Fault Refusal := s.issue .loop f true noPre bodyLoop
/-- The meaning of LOOP in its short form. -/
def execLoopShort (f : Fields) (s : State) : Host.Outcome State Fault Refusal := s.issue .loop f true noPre bodyLoop
/-- The meaning of ENDLOOP. -/
def execEndloop (f : Fields) (s : State) : Host.Outcome State Fault Refusal := s.issue .endloop f true noPre bodyEndloop
/-- The meaning of BRK. -/
def execBrk (f : Fields) (s : State) : Host.Outcome State Fault Refusal := s.issue .brk f true noPre bodyBrk
/-- The meaning of CONT. -/
def execCont (f : Fields) (s : State) : Host.Outcome State Fault Refusal := s.issue .cont f true noPre bodyCont
/-- The meaning of EXIT. -/
def execExit (f : Fields) (s : State) : Host.Outcome State Fault Refusal := s.issue .exit f true noPre bodyExit
/-- The meaning of EXIT in its short form. -/
def execExitShort (f : Fields) (s : State) : Host.Outcome State Fault Refusal := s.issue .exit f true noPre bodyExit
/-- The meaning of JMP. -/
def execJmp (f : Fields) (s : State) : Host.Outcome State Fault Refusal := s.issue .jmp f false noPre bodyJmp
/-- The meaning of CALL. -/
def execCall (f : Fields) (s : State) : Host.Outcome State Fault Refusal := s.issue .call f false noPre bodyCall
/-- The meaning of RET. -/
def execRet (f : Fields) (s : State) : Host.Outcome State Fault Refusal := s.issue .ret f false noPre bodyRet
/-- The meaning of YIELD. -/
def execYield (f : Fields) (s : State) : Host.Outcome State Fault Refusal := s.issue .yield f false noPre bodyYield
/-- The meaning of YIELD in its short form. -/
def execYieldShort (f : Fields) (s : State) : Host.Outcome State Fault Refusal := s.issue .yield f false noPre bodyYield
/-- The meaning of SLEEP. -/
def execSleep (f : Fields) (s : State) : Host.Outcome State Fault Refusal := s.issue .sleep f false noPre bodySleep
/-- The meaning of BKPT. -/
def execBkpt (f : Fields) (s : State) : Host.Outcome State Fault Refusal := s.issue .bkpt f true noPre bodyBkpt
/-- The meaning of BKPT in its short form. -/
def execBkptShort (f : Fields) (s : State) : Host.Outcome State Fault Refusal := s.issue .bkpt f true noPre bodyBkpt
/-- The meaning of BAR. -/
def execBar (f : Fields) (s : State) : Host.Outcome State Fault Refusal := s.issue .bar f false noPre bodyBar
/-- The meaning of GBAR. -/
def execGbar (f : Fields) (s : State) : Host.Outcome State Fault Refusal := s.issue .gbar f false noPre bodyGbar
/-- The meaning of TRAP. -/
def execTrap (f : Fields) (s : State) : Host.Outcome State Fault Refusal := s.issue .trap f false noPre bodyTrap
/-- The meaning of TRET. -/
def execTret (f : Fields) (s : State) : Host.Outcome State Fault Refusal := s.issue .tret f false noPre bodyTret

end Sys2Proof.Machine
end

