-- ==== Sys2Proof/Machine/Access.lean ====
section
/-! DEFINITION. What the memory instructions share: the address each thread forms (R25, R278, R289, R308), the order in
which faults are reported (R273, R308), and reading and buffering bytes (R80, R289, R394). -/

namespace Sys2Proof.Machine

open Sys2Proof

/-- The fault an instruction reports among those its threads met (R273): the first kind, the cause of its lowest thread,
and every thread that met the kind. -/
def worst (fs : List (Nat × Cause)) : Option (Cause × Mask) :=
  match fs with
  | [] => none
  | f :: rest =>
    let k := rest.foldl (fun k p => min k (kindRank p.2.code)) (kindRank f.2.code)
    let same := fs.filter fun p => kindRank p.2.code == k
    match same with
    | [] => none
    | p :: _ => some (p.2, maskOf fun t => same.any fun q => q.1 == t)

/-- The faults of an instruction reported, or its continuation. A uniform access names every active thread. -/
def Cx.faults (c : Cx) (fs : List (Nat × Cause)) (g : Cx → Step) : Step :=
  match worst fs with
  | none => g c
  | some (k, m) => c.stop (.trap k (if c.f.uni then c.act else m))

/-- The thread that performs a thread's access: in protected mode a primary performs it for its shadow (R89). -/
def Cx.lead (c : Cx) (t : Nat) : Nat := if c.prot && bit c.lanes (2 * (t / 2)) then 2 * (t / 2) else t

/-- The displacement in C, sign-extended (R25). -/
def Cx.disp (c : Cx) : Addr :=
  match c.f.c with
  | .imm k => small64 k
  | .lit => (loWord (c.f.lit.getD 0)).signExtend 64
  | _ => 0

/-- The column-memory address of a thread (R289). -/
def Cx.memAddr (c : Cx) (t : Nat) : Addr :=
  c.word64 (c.argA 2 .b64) t + (c.word (c.argB 1 .n32) t 0).setWidth 64 + c.disp

/-- The 32-bit offset or word index of a thread (R279, R291, R308). -/
def Cx.offset (c : Cx) (t : Nat) : Nat := (c.word (c.argB 1 .n32) t 0 + loWord c.disp).toNat

/-- The operands an address is formed from. -/
def Cx.addrArgs (c : Cx) : List Arg := [c.argA 2 .b64, c.argB 1 .n32]

/-- The places of one access, each fault with the access's own address. -/
def Cx.placesOf (c : Cx) (useL1 : Bool) (a : Addr) (n axis : Nat) (need : Need) : Except Cause (List Place) :=
  match c.s.places c.x.col c.x.core c.asid useL1 a n axis need with
  | .ok ps => .ok ps
  | .error e => .error { e with addr := a }

/-- Does an access break its alignment bound (R239, R272)? -/
def badAlign (a : Addr) (n axis align : Nat) : Bool :=
  a.toNat % align != 0
    || (axis == 1 && decide (32 < a.toNat % 1024 / 32 + n))
    || (axis == 2 && decide (32 < a.toNat % 1024 / 32 + n / 2))
    || decide (2 ^ 48 ≤ a.toNat % 2 ^ 48 + axisOff axis (n - 1))

/-- An access of a thread that has passed its checks: its address and its places. -/
structure Access where
  t  : Nat
  a  : Addr
  ps : List Place

/-- The accesses of some threads, or the faults they met. -/
def Cx.accesses (c : Cx) (ts : List Nat) (addr : Nat → Addr) (useL1 : Bool) (n axis align : Nat) (need : Need) :
    List Access × List (Nat × Cause) :=
  ts.foldl (fun acc t =>
    let a := addr t
    if badAlign a n axis align then (acc.1, acc.2 ++ [(t, misaligned a)])
    else match c.placesOf useL1 a n axis need with
      | .ok ps => (acc.1 ++ [{ t := t, a := a, ps := ps }], acc.2)
      | .error e => (acc.1, acc.2 ++ [(t, e)])) ([], [])

/-- The key of an address in column memory (R80): its logical column and its offset. -/
def Place.va (p : Place) : Nat := p.lcol * 2 ^ 48 + p.off

/-- The key of an address in private memory. -/
def privKey (va : Nat) : Nat := 2 ^ 60 + va

/-- The key of an address in a pool window: the gang's column and the offset. -/
def poolKey (gcol off : Nat) : Nat := 2 ^ 61 + gcol * 2 ^ 32 + off

/-- The commands of a run up to its last full fence at COLUMN scope or wider (R255). -/
def Run.fenceAt (r : Run) : Nat :=
  r.cmds.zipIdx.foldl (fun n q => match q.1 with | .fence 0 s => if s = 0 then n else q.2 + 1 | _ => n) 0

/-- The latest buffered store of a run that wrote a byte, with its place among the run's commands: at the same address
(R80), or, before a full fence, at any address of the same physical byte (R241). -/
def Run.stored (r : Run) (va : Nat) (l : Loc) : Option (BufStore × ByteW) :=
  let n := r.fenceAt
  r.stbuf.reverse.findSome? fun b =>
    (b.bytes.reverse.find? fun w => w.va == va || (decide (b.after < n) && w.loc == l)).map fun w => (b, w)

/-- A byte as a load of the run sees it (R80): from the latest buffered store that wrote it, or memory; its poison, and
whether a store gave it. -/
def Cx.loadByte (c : Cx) (va : Nat) (l : Loc) : Byte × Bool × Bool :=
  match c.r.stored va l with
  | some (_, w) => (w.byte, w.poison, true)
  | none =>
    let (b, p) := c.s.readLoc c.x.col l
    (b, p, false)

/-- Is the 64-byte line of a byte poisoned as a core's L1 holds it (R394)? (log 39, DEDUCED) -/
def State.l1Poison (s : State) (col core : Nat) (l : Loc) : Bool :=
  match (s.core col core).l1.find? fun e => e.ploc.same64 l with
  | some e => e.psn
  | none => s.linePoison col l

/-- The sixteen bytes of a barrier object after an arrival of count `n` (R118). -/
def arriveBytes (bs : List Byte) (n : Word) : List Byte :=
  let word (i : Nat) : Word := BitVec.ofNat 32 (leNat ((bs.drop i).take 4))
  let arrived := word 4 + n
  let full := decide (word 0 ≤ arrived)
  bs.take 4 ++ leBytes 4 (if full then 0 else arrived.toNat) ++ leBytes 4 (if full then word 8 + 1 else word 8).toNat
    ++ (bs.drop 12).take 4

/-- Does a run arrive at a barrier object? -/
def Run.arrives (r : Run) (col obj : Nat) : Bool :=
  r.cmds.any fun (q : QCmd) => match q with
    | .arrv c o _ _ => c == col && o == obj
    | _ => false

/-- The bytes of a barrier object after a store. -/
def BufStore.onObject (b : BufStore) (col obj : Nat) (o : List Byte) : List Byte :=
  b.bytes.foldl (fun o y => match y.loc with
    | .spad c p => if c = col ∧ obj ≤ p ∧ p < obj + 16 then o.set (p - obj) y.byte else o
    | _ => o) o

/-- The bytes of a barrier object as the stores and the arrivals of a run leave them, in program order (R243). -/
def Run.object (r : Run) (col obj : Nat) (o : List Byte) : List Byte :=
  (List.range (r.cmds.length + 1)).foldl (fun o i =>
    let o := (r.stbuf.filter fun b => b.after == i).foldl (fun o (b : BufStore) => b.onObject col obj o) o
    match r.cmds[i]? with
    | some (QCmd.arrv c k n _) => if c = col ∧ k = obj then arriveBytes o n else o
    | _ => o) o

/-- A byte as a load of the run sees it, and the bytes of memory that must still stand when the run commits: those a load
reads behind a full fence, or behind an acquire that follows a release (R255), each with whether that order reaches beyond the
column. A byte of a barrier object at which the run arrives is read as its stores and arrivals will leave it (R243), and rests
on the object. -/
def Cx.seenByte (c : Cx) (key : Place → Nat) (p : Place) : (Byte × Bool × Bool) × List (Loc × Byte × Bool) :=
  let plain := c.loadByte (key p) p.loc
  let rest (l : Loc) : List (Loc × Byte × Bool) :=
    if 2 ≤ c.r.fenced ∧ !plain.2.2 then [(l, plain.1, c.r.fenced == 3)] else []
  match p.loc with
  | .spad col o =>
    let obj := o - o % 16
    if !c.r.arrives col obj then (plain, rest p.loc)
    else
      let stand := (List.range 16).map fun i => (Loc.spad col (obj + i), (c.s.readLoc c.x.col (.spad col (obj + i))).1)
      (((c.r.object col obj (stand.map Prod.snd)).getD (o % 16) 0, plain.2.1, plain.2.2), stand.map fun b => (b.1, b.2, false))
  | l => (plain, rest l)

/-- Words from bytes, with their poison. -/
def wordsOf (n : Nat) (bs : List (Byte × Bool)) : List (Word × Bool) :=
  (List.range n).map fun j =>
    let four := (bs.drop (4 * j)).take 4
    (BitVec.ofNat 32 (leNat (four.map Prod.fst)), four.any Prod.snd)

/-- What the caches hold after some accesses. -/
def Cx.touchAll (c : Cx) (ps : List Place) (t : Touch) : Cx :=
  { c with s := (distinctUnits t.colAx ps).foldl (fun s p => s.touch c.x.col c.x.core c.asid p t) c.s }

/-- What some loads find: the bytes of each thread, the bytes that came from strongly ordered pages, and the bytes of memory
they rest on. -/
structure Found where
  got  : List (Nat × List (Byte × Bool))
  so   : List Loc
  rest : List (Loc × Byte × Bool)

/-- The loads of some accesses. Through the L1, a byte has the poison of its 64-byte line (R394). -/
def Cx.loadAll (c : Cx) (key : Place → Nat) (as : List Access) (t : Touch) : Found :=
  let l1 := !t.noL1 && !t.colAx
  let one (p : Place) : Place × (Byte × Bool × Bool) × List (Loc × Byte × Bool) := (p, c.seenByte key p)
  let got := as.map fun a => (a.t, a.ps.map one)
  let bad (b : Place × (Byte × Bool × Bool) × List (Loc × Byte × Bool)) : Bool :=
    b.2.1.2.1 || (l1 && !b.2.1.2.2 && (match b.1.loc with | .mem _ _ _ | .host _ => true | _ => false)
      && c.s.l1Poison c.x.col c.x.core b.1.loc)
  { got := got.map fun g => (g.1, g.2.map fun b => (b.2.1.1, bad b))
    so := got.flatMap fun g => g.2.filterMap fun b => if b.1.kind = 1 ∧ !b.2.1.2.2 then some b.1.loc else none
    rest := got.flatMap fun g => g.2.flatMap fun b => b.2.2 }

/-- A long-latency load's result: each thread's words, poisoned where its address was. -/
def Cx.loadResult (c : Cx) (n : Nat) (psn : Mask) (got : List (Nat × List (Byte × Bool))) : Step :=
  let rows := c.rowsPsn n fun t =>
    if bit psn t then List.replicate n (0, true)
    else match got.find? fun g => g.1 == c.lead t with
      | some g => wordsOf n g.2
      | none => []
  c.later (some 2) c.lanes rows .none true

/-- An instruction after it has read some accesses: the lines it met noted, what it read of strongly ordered pages (R245),
and what its place behind a fence makes it rest on (R255). -/
def Cx.readNoted (c : Cx) (key : Place → Nat) (as : List Access) (t : Touch) : Cx :=
  let d := c.touchAll (as.flatMap Access.ps) t
  let f := c.loadAll key as t
  { d with r := { d.r with soLoads := d.r.soLoads ++ f.so, late := d.r.late ++ f.rest } }

/-- Is a command a BFENCE? -/
def QCmd.isBfence : QCmd → Bool
  | .copy c => c.op == .bfence
  | _ => false

/-- The place past the last BFENCE of a run among its commands; 0 where it has none. -/
def Run.bfenceAt (r : Run) : Nat := r.cmds.zipIdx.foldl (fun n q => if q.1.isBfence then q.2 + 1 else n) 0

/-- Does a bank command stand to be performed that a BFENCE of the run follows (R326), or does the run acquire behind a load
that waits for one (R268)? -/
def Cx.fencedBank (c : Cx) : Bool :=
  let bank (k : CopyCmd) : Bool := k.bank && k.op != .bfence
  c.r.behind || ((c.r.cmds.take c.r.bfenceAt).any fun q => match q with | .copy k => bank k | _ => false)
    || (c.r.bfenceAt != 0 && c.s.copies.any fun kv => kv.2.warp == c.w && kv.2.stage != 2 && bank kv.2)

/-- The bytes a load behind a BFENCE will read, and those that a store of its run gives it. -/
def Cx.loadBehind (c : Cx) (key : Place → Nat) (as : List Access) : List (Nat × List (Loc × Option (Byte × Bool))) :=
  as.map fun a => (a.t, a.ps.map fun p => (p.loc, (c.r.stored (key p) p.loc).map fun b => (b.2.byte, b.2.poison)))

/-- A load that is performed once its run has committed and the bank commands that a BFENCE holds back are performed (R326)
(log 47, DEDUCED). -/
def Cx.loadBehindFence (c : Cx) (key : Place → Nat) (as : List Access) (psn : Mask) : Step :=
  c.later (some 2) c.lanes (List.replicate c.f.dw.count Lanes.zero) (.load c.r.bfenceAt none psn (c.loadBehind key as)) false

/-- A load of some accesses that have passed their checks (log 3, DEDUCED). -/
def Cx.loadFrom (c : Cx) (key : Place → Nat) (as : List Access) (t : Touch) (psn : Mask) : Step :=
  if c.fencedBank then (c.touchAll (as.flatMap Access.ps) t).loadBehindFence key as psn
  else (c.readNoted key as t).loadResult c.f.dw.count psn (c.loadAll key as t).got

/-- The bytes of a data group in a thread, with their poison. -/
def Cx.dataBytes (c : Cx) (a : Arg) (t : Nat) : List (Byte × Bool) :=
  (c.wordsPsn a t).flatMap fun w => (leBytes 4 w.1.toNat).map fun b => (b, w.2)

/-- The bytes some accesses write, in ascending thread order. -/
def Cx.storeBytes (c : Cx) (d : Arg) (key : Place → Nat) (as : List Access) : List ByteW :=
  as.flatMap fun a => (a.ps.zip (c.dataBytes d a.t)).map fun pb =>
    { loc := pb.1.loc, va := key pb.1, byte := pb.2.1, poison := pb.2.2 }

/-- What protected mode compares of a store or an irrevocable instruction at commit (R89, R90): the address and the data of
each primary and its shadow, or, of a uniform one, of its two evaluations. -/
def Cx.compared (c : Cx) (m : Mask) (addr : Nat → Addr) (data : Nat → List Word) : List (Addr × Addr) :=
  if !c.prot then []
  else if c.f.uni then (addr 0, addr 0) :: (data 0).map fun x => (x.setWidth 64, x.setWidth 64)
  else (List.range 32).flatMap fun i =>
    let p := 2 * i
    let q := 2 * i + 1
    match bit m p, bit m q with
    | true, true => (addr p, addr q) :: List.zipWith (fun x y => (x.setWidth 64, y.setWidth 64)) (data p) (data q)
    | false, false => []
    | _, _ => [(0, 1)]

/-- A store added to the run (log 3, DEDUCED). -/
def Cx.buffer (c : Cx) (b : BufStore) (cmp : List (Addr × Addr)) : Cx :=
  { c with r := { c.r with stbuf := c.r.stbuf ++ [b], cmp := c.r.cmp ++ cmp } }

/-- The threads that perform an access: the lanes whose address is not poisoned, or, in protected mode, those that lead
them. -/
def Cx.actors (c : Cx) (psn : Mask) : List Nat := (threads (c.lanes &&& ~~~psn)).filter fun t => c.lead t == t

/-! ### The pool -/

/-- The scratchpad ways a column has for the issuing run: what a CPART of its own run will leave, on its own column. -/
def Cx.waysAt (c : Cx) (col : Nat) : Nat :=
  let cur := (c.s.column col).cwp
  if col ≠ c.x.col then cur
  else c.r.cmds.foldl (fun k q => match q with | .cpart v => v | _ => k) cur

/-- The pool-window fault (R392): the number of the check of R308 that failed (log 40, DEDUCED). -/
def poolFault (check g o : Nat) : Cause :=
  { code := 0x23, info := BitVec.ofNat 32 (check + 256 * (g % 2 ^ 24)), addr := BitVec.ofNat 64 o }

/-- The place of a pool operand (R308): the gang column, and the scratchpad location of its first byte, after the
checks in their order. -/
def Cx.poolPlace (c : Cx) (g o n align : Nat) : Except Cause (Nat × Loc) :=
  let r := c.s.recOf c.x
  match c.s.gangOf c.x with
  | none => .error (poolFault 2 g o)
  | some k =>
    if o % align ≠ 0 then .error { code := 0x20, info := 0, addr := BitVec.ofNat 64 o }
    else if k.size ≤ g then .error (poolFault 2 g o)
    else if r.poolw * 1024 < o + n then .error (poolFault 3 g o)
    else
      let gcol := g / perColumn k.size
      let col := k.columnOf g
      let base := mapGetD k.pool col 0
      if c.waysAt col * 2 ^ 20 < base + o + n then .error (poolFault 4 g o)
      else .ok (gcol, .spad col (base + o))

/-- The operands a pool address is formed from. -/
def Cx.poolArgs (c : Cx) : List Arg := [c.argA 1 .n32, c.argB 1 .n32]

/-- The pool accesses of some threads, or the faults they met (log 38, DEDUCED). -/
def Cx.poolAccesses (c : Cx) (ts : List Nat) (n align : Nat) : List Access × List (Nat × Cause) :=
  ts.foldl (fun acc t =>
    let g := (c.word (c.argA 1 .n32) t 0).toNat
    let o := c.offset t
    match c.poolPlace g o n align with
    | .error e => (acc.1, acc.2 ++ [(t, e)])
    | .ok (gcol, l) =>
      let ps := (List.range n).map fun i => { loc := l.plus i, kind := 0, leaf := none, lcol := gcol, off := o + i : Place }
      (acc.1 ++ [{ t := t, a := BitVec.ofNat 64 o, ps := ps }], acc.2)) ([], [])

/-- The key of a pool place. -/
def Place.pool (p : Place) : Nat := poolKey p.lcol p.off

end Sys2Proof.Machine
end

