-- ==== Sys2Proof/Machine/Training.lean ====
section
/-! DEFINITION. The special registers of the loss scale (R114, R206, R207) and the training instructions (R200-R208). -/

namespace Sys2Proof.Machine

open Sys2Proof

/-- The reset value of a writable special register (R114). -/
def specialReset (n : Nat) : Word :=
  match n with
  | 0x027 => 0x47800000
  | 0x028 => 0x3F800000
  | 0x029 => 0x4B800000
  | 0x02A => 2000
  | _ => 0

/-- LSCALE, LSMIN, LSMAX, LSGROW, LSCNT and LSSTAT. -/
structure LossScale where
  scale : Word
  lo    : Word
  hi    : Word
  grow  : Word
  cnt   : Word
  stat  : Word
  deriving DecidableEq, Repr

/-- A writable special register of a context on a column (R114). -/
def Context.special (c : Context) (col n : Nat) : Word := mapGetD c.sreg (64 * col + n) (specialReset n)

/-- The loss-scale registers of a context on a column. -/
def Context.loss (c : Context) (col : Nat) : LossScale :=
  { scale := c.special col 0x027, lo := c.special col 0x028, hi := c.special col 0x029, grow := c.special col 0x02A,
    cnt := c.special col 0x02B, stat := c.special col 0x02C }

/-- A special register written; the reserved bits of LSSTAT stay 0 (R114). -/
def LossScale.write (l : LossScale) (n : Nat) (v : Word) : LossScale :=
  match n with
  | 0x027 => { l with scale := v }
  | 0x028 => { l with lo := v }
  | 0x029 => { l with hi := v }
  | 0x02A => { l with grow := v }
  | 0x02B => { l with cnt := v }
  | 0x02C => { l with stat := v &&& 7 }
  | _ => l

/-- The order of two FP32 words; none when one is a NaN. -/
def cmp32 (a b : Word) : Option Int := (fp32.val a.toNat).cmp (fp32.val b.toNat)

/-- The larger, or smaller, of two FP32 words; of a NaN the specification states neither, and the result is free. -/
def pick32 (larger : Bool) (a b free : Word) : Word :=
  match cmp32 a b with
  | none => free
  | some o => if (decide (0 ≤ o)) == larger then a else b

/-- Is an FP32 word finite and above zero? -/
def positive32 (a : Word) : Bool :=
  match fp32.val a.toNat with
  | .fin n m _ => !n && m != 0
  | _ => false

/-- One step of the loss scale (R206) (log 23, DESIGN CHOICE). -/
def LossScale.step (l : LossScale) (overflow : Bool) (free : Word) : LossScale :=
  let ls := if positive32 l.scale then l.scale else l.lo
  let ceil := bit l.stat 1
  let le (a b : Word) : Bool := match cmp32 a b with | some o => decide (o ≤ 0) | none => false
  if overflow then
    let floor := le ls l.lo
    let half : Word := BitVec.ofNat 32 (mul32 ls.toNat 0x3F000000)
    { l with scale := if floor then ls else pick32 true half l.lo free
             cnt := 0, stat := lsstat floor false true }
  else
    let cnt := l.cnt + 1
    if cnt < l.grow then { l with scale := ls, cnt := cnt, stat := lsstat false ceil false }
    else
      let top := le l.hi ls
      let twice : Word := BitVec.ofNat 32 (mul32 ls.toNat 0x40000000)
      { l with scale := if top then ls else pick32 false twice l.hi free
               cnt := 0, stat := lsstat false top false }

/-- What a command of a run makes of the loss-scale registers (R207). -/
def QCmd.loss (l : LossScale) (free : Word) : QCmd → LossScale
  | .sreg n v => l.write n v
  | .lsupd _ flag => l.step flag free
  | _ => l

/-- The loss-scale registers as the earlier instructions of the run leave them (R203) (log 23, DESIGN CHOICE). -/
def Cx.loss (c : Cx) : LossScale :=
  c.r.cmds.foldl (fun l q => q.loss l (c.s.freeW 4000)) ((c.s.ctx c.asid).loss c.x.col)

/-- The registers of a context after its loss scale is `l` on a column. -/
def Context.setLoss (c : Context) (col : Nat) (l : LossScale) : Context :=
  let regs := [(0x027, l.scale), (0x028, l.lo), (0x029, l.hi), (0x02A, l.grow), (0x02B, l.cnt), (0x02C, l.stat)]
  { c with sreg := regs.foldl (fun m p => mapSet m (64 * col + p.1) p.2) c.sreg }

/-- A uniform instruction under R45 and R395: nothing without a guarded thread; when an input is poisoned, its S result
of `n` registers is poisoned and no command is performed. -/
def Cx.scalar (c : Cx) (as : List Arg) (n : Nat) (g : Cx → Step) : Step :=
  if c.grd = 0 then .ok c
  else if c.poisoned as = 0 then g c
  else
    let c := c.consume (c.poisoned as)
    match c.f.d with
    | .s d => .ok (c.writeS d.toNat ((List.range n).map fun j => { val := c.s.freeW (2048 + j), poison := true }))
    | _ => .ok c

/-- A command added to the run, to be sent at its commit. -/
def Cx.queue (c : Cx) (q : QCmd) : Cx := { c with r := { c.r with cmds := c.r.cmds ++ [q] } }

/-- A uniform instruction of class Q whose S results come at the commit (R60, R395): when an input is poisoned, its `n`
registers are poisoned there, and no command is performed. -/
def Cx.scalarQ (c : Cx) (as : List Arg) (n : Nat) (g : Cx → Step) : Step :=
  if c.grd = 0 then .ok c
  else if c.poisoned as = 0 then g c
  else match c.f.d with
    | .s d => .ok ((c.consume (c.poisoned as)).queue (.poisoned d.toNat n))
    | _ => .ok (c.consume (c.poisoned as))

/-- S registers written with words. -/
def Cx.putS (c : Cx) (ws : List Word) : Cx :=
  match c.f.d with
  | .s d => c.writeS d.toNat (ws.map fun w => { val := w, poison := false })
  | _ => c

/-- LSUPD (R206): the result can be read by the next instruction, and is written again at commit, when it takes
effect (log 25, DEDUCED). -/
def bodyLsupd (c : Cx) : Step :=
  let a := c.argA 1 .s32
  c.scalar [a] 2 fun c =>
    let flag := c.word a 0 0 != 0
    let l := c.loss.step flag (c.s.freeW 4000)
    match c.f.d with
    | .s d => .ok ((c.putS [l.scale, l.stat]).queue (.lsupd d.toNat flag))
    | _ => .ok c

/-- The FP32 steps of MUPD and GNRM, with every result flushed under FTZ (R202, R208). -/
def flushed (ftz : Bool) (x : Nat) : Nat := fp32.flush ftz x

/-- One AdamW step (R202): the four results, whether the update was suppressed, and whether NEGV is set. `b` holds the
seven values of the B octet. -/
def adamw (ftz : Bool) (l : LossScale) (p m v g : Nat) (b : List Nat) : List Nat × Bool × Bool :=
  let fz (x : Nat) : Nat := flushed ftz x
  let add (x y : Nat) : Nat := fz (add32 x y)
  let sub (x y : Nat) : Nat := fz (sub32 x y)
  let mul (x y : Nat) : Nat := fz (mul32 x y)
  let div (x y : Nat) : Nat := fz (div32 x y)
  let arg (i : Nat) : Nat := fz (b.getD i 0)
  if bit l.stat 2 then ([p, m, v, 0], false, false)
  else
    let p0 := fz p
    let m0 := fz m
    let v0 := fz v
    let g0 := fz g
    if fp32.isNan g0 || fp32.isNan m0 || fp32.isNan v0 then ([p, m, v, 0], true, false)
    else
      let gs := div g0 (fz l.scale.toNat)
      let m1 := add m0 (mul (arg 1) (sub gs m0))
      let v1 := add v0 (mul (arg 2) (sub (mul gs gs) v0))
      let mh := mul m1 (arg 5)
      let vh := mul v1 (arg 6)
      let neg := ((fp32.val vh).cmp (.fin false 0 0)).getD 0 < 0
      let vh := if neg then 0 else vh
      let den := if vh % 2 ^ 31 = 0 then arg 3 else add (fz (sqrt32 vh)) (arg 3)
      let stp := mul (arg 0) (add (div mh den) (mul (arg 4) p0))
      ([sub p0 stp, m1, v1, stp], false, neg)

/-- MUPD (R201-R203). A set SKIP computes from no operand. -/
def bodyMupd (c : Cx) : Step :=
  let a := c.argA 1 .f32
  let b := c.argB 7 .f32
  let d := c.argD 3 .f32
  let l := c.loss
  let psn := if bit l.stat 2 then 0 else c.poisoned [a, b, d]
  let run (t : Nat) : List Nat × Bool × Bool :=
    let w (a : Arg) (j : Nat) : Nat := (c.word a t j).toNat
    adamw c.ftz l (w d 0) (w d 1) (w d 2) (w a 0) ((List.range 7).map (w b))
  let rows := c.rowsPsn 4 fun t =>
    let res := (run t).1
    (List.range 4).map fun j =>
      (BitVec.ofNat 32 (res.getD j 0), bit psn t || (decide (j < 3) && bit l.stat 2 && (c.rd 3 c.f.d .f32 t j).2))
  let live := (threads c.lanes).filter fun t => !bit psn t
  let supp := live.filter fun t => (run t).2.1
  let count := if c.prot then ((List.range 32).filter fun i => supp.any fun t => t / 2 == i).length else supp.length
  let negv := live.any fun t => (run t).2.2
  (c.consume psn).later none c.lanes rows (.mupd count negv) true

/-- LSCK (R205): nothing is flushed. -/
def bodyLsck (c : Cx) : Step :=
  let f := fmtOf c.f.ty
  let a := c.argA c.f.aw.count c.f.ty
  let k := c.argC 1 .s32
  let bad (x : Nat) : Bool := match f.val x with | .nan | .inf _ => true | .fin _ _ _ => false
  c.aluP [a, k] fun t => c.word k t 0 != 0 || (c.elems a t).any bad

/-- GNRM (R208): the sum of squares in the stated order. -/
def bodyGnrm (c : Cx) : Step :=
  let f := fmtOf c.f.ty
  let a := c.argA c.f.aw.count c.f.ty
  let k := c.argC 1 .f32
  c.aluLater (some 1) 1 [a, k] fun t =>
    let start := flushed c.ftz (c.word k t 0).toNat
    let wide (x : Nat) : Nat :=
      if c.f.ty = .f32 then flushed c.ftz x else f.convert fp32 .rne false (f.flush c.ftz x)
    [BitVec.ofNat 32 ((c.elems a t).foldl (fun s x =>
      let y := wide x
      flushed c.ftz (add32 s (flushed c.ftz (mul32 y y)))) start)]

/-- The meaning of MUPD. -/
def execMupd (f : Fields) (s : State) : Host.Outcome State Fault Refusal := s.issue .mupd f false noPre bodyMupd
/-- The meaning of LSCK. -/
def execLsck (f : Fields) (s : State) : Host.Outcome State Fault Refusal := s.issue .lsck f false noPre bodyLsck
/-- The meaning of LSUPD. -/
def execLsupd (f : Fields) (s : State) : Host.Outcome State Fault Refusal := s.issue .lsupd f false noPre bodyLsupd
/-- The meaning of GNRM. -/
def execGnrm (f : Fields) (s : State) : Host.Outcome State Fault Refusal := s.issue .gnrm f false noPre bodyGnrm

end Sys2Proof.Machine
end

