-- ==== Sys2Proof/Machine/Registers.lean ====
section
/-! DEFINITION. The special registers (R113, R114), the system registers (R130), CIR (R127, R128) and the meters
(R129). -/

namespace Sys2Proof.Machine

open Sys2Proof

/-- The thread index TID (R72, R114); in protected mode primaries are counted, 32 in a warp (R89)
(log 32, DEDUCED). -/
def Cx.tid (c : Cx) (t : Nat) : Nat := if c.prot then c.x.num * 32 + t / 2 else c.x.num * 64 + t

/-- The index in the grid along X, Y and Z (R114, R139). -/
def Record.index (r : Record) (linear axis : Nat) : Nat :=
  match axis with
  | 0 => linear % r.gdx
  | 1 => linear / r.gdx % r.gdy
  | _ => linear / (r.gdx * r.gdy)

/-- A special register read by a thread (R114), as 64 bits. -/
def Cx.specialReg (c : Cx) (n t : Nat) : Addr :=
  let r := c.s.recOf c.x
  let x := c.x
  let gang := c.s.gangOf x
  let grid := c.s.gridOf x
  let g := (gang.map Gang.index).getD 0
  let nat (k : Nat) : Addr := BitVec.ofNat 64 k
  let word (w : Word) : Addr := w.setWidth 64
  if n = 0x000 then nat (c.tid t)
  else if n = 0x001 then nat x.num
  else if n = 0x002 then nat r.nwarp
  else if n ≤ 0x005 then nat (r.index g (n - 3))
  else if n = 0x006 then nat r.gdx
  else if n = 0x007 then nat r.gdy
  else if n = 0x008 then nat r.gdz
  else if n = 0x009 then nat (((c.s.blockOf x).map Block.g).getD 0)
  else if n = 0x00A then nat r.gang
  else if n = 0x00B then nat ((grid.map Grid.handle).getD 0)
  else if n = 0x00C then nat ((grid.map Grid.depth).getD 0)
  else if n = 0x00D then nat (((c.s.ctx c.asid).coll x.col).getD 0xFF)
  else if n = 0x00E then nat x.col
  else if n = 0x00F then nat x.core
  else if n = 0x010 then nat x.slot
  else if n = 0x011 then nat x.wcore
  else if n = 0x012 then nat (c.s.cycOf x.col)
  else if n ≤ 0x01A then word (r.shp.getD (n - 0x013) 0)
  else if n ≤ 0x022 then word (((grid.map Grid.spad).getD []).getD (n - 0x01B) 0)
  else if n = 0x023 then word ((grid.map Grid.bucket).getD 0xFFFFFFFF)
  else if n = 0x024 then x.pbase
  else if n = 0x025 then nat x.plim
  else if n = 0x026 then
    nat (r.mode + (if r.ftz then 4 else 0) + (if r.prot then 8 else 0) + (if r.rstrt then 16 else 0))
  else word ((c.s.ctx c.asid).special x.col n)

/-- SREAD (R113) (log 24, DEDUCED). -/
def bodySread (c : Cx) : Step :=
  let n := c.f.x.toNat
  c.alu (some 0) c.f.ty.regs [] fun t => [loWord (c.specialReg n t), hiWord (c.specialReg n t)]

/-- SWRITE (R113): the value of the lowest guarded thread; it takes effect at the commit of its run
(log 24, DEDUCED). A poisoned value is consumed, and nothing is written (log 94, DEDUCED). -/
def bodySwrite (c : Cx) : Step :=
  let a := c.argA 1 .b32
  let t := if c.f.uni then 0 else (lowest c.grd).getD 0
  if c.grd = 0 then .ok c
  else if c.poisonAt a t then .ok (c.consume 1)
  else .ok (c.queue (.sreg c.f.x.toNat (c.word a t 0)))

/-- WDOGL of a context on a column (R130). -/
def Context.wdog (c : Context) (col : Nat) : Word := mapGetD c.wdogl col 0x00400000

/-- A system register (R130), as 64 bits. -/
def Cx.system (c : Cx) (n : Nat) : Addr :=
  let x := c.x
  match n with
  | 0 => ((c.s.ctx c.asid).wdog x.col).setWidth 64
  | 1 => c.s.tvecOf x
  | 2 => c.s.tframeOf x
  | 3 => if x.hmode then 1 else 0
  | 4 => (c.s.column x.col).cph.setWidth 64
  | _ => BitVec.ofNat 64 (c.s.column x.col).cwp

/-- SYSR (R130). A read of CWP by the warp that issued a CPART waits for its change (R352). -/
def bodySysr (c : Cx) : Step :=
  let n := c.f.x.toNat
  c.scalar [] 0 fun c =>
    if 5 ≤ n ∧ c.x.rest.isSome then c.stop .wait
    else .ok (c.putS (if systemWidth n = some 64 then [loWord (c.system n), hiWord (c.system n)] else [loWord (c.system n)]))

/-- SYSW (R130): the copy changes at commit. -/
def bodySysw (c : Cx) : Step :=
  let n := c.f.x.toNat
  let wide := systemWidth n = some 64
  let a := c.argA (if wide then 2 else 1) (if wide then .b64 else .b32)
  c.scalar [a] 0 fun c => .ok (c.queue (.sysreg n (if wide then c.word64 a 0 else (c.word a 0 0).setWidth 64)))

/-- What a write to a system register leaves (R130): bits 6:0 of TFRAME stay 0. -/
def State.setSystem (s : State) (x : Warp) (n : Nat) (v : Addr) : State :=
  let a := s.asidOf x
  match s.gangOf x, n with
  | _, 0 => s.modCtx a fun c => { c with wdogl := mapSet c.wdogl x.col (loWord v) }
  | some g, 1 => s.modGrid g.grid fun k => { k with tvec := mapSet k.tvec x.col v }
  | some g, 2 => s.modGrid g.grid fun k => { k with tframe := mapSet k.tframe x.col (v &&& ~~~0x7F) }
  | _, _ => s

/-- CIR as the instructions of the run before this one will leave it at their commit (R60, R128, R203). -/
def Cx.cir (c : Cx) : Addr :=
  c.r.cmds.foldl (fun v q => match q with
    | .chkerr _ mask => cirCleared v mask
    | .mupd k negv => cirUpdated v k negv
    | .trn => v ||| (1#64 <<< 3)
    | _ => v) ((c.s.ctx c.asid).cirAt c.x.col)

/-- CHKERR (R128): CIR is read and cleared at commit; its value can be read by the next instruction
(log 25, DEDUCED). -/
def bodyChkerr (c : Cx) : Step :=
  let a := c.argA 2 .b64
  c.scalar [a] 2 fun c =>
    let bad := ((c.s.blockOf c.x).map Block.poison).getD false
    if (c.s.recOf c.x).rstrt && bad then c.stop .kill
    else
      let v := c.cir
      match c.f.d with
      | .s d => .ok ((c.putS [loWord v, hiWord v]).queue (.chkerr d.toNat (c.word64 a 0)))
      | _ => .ok c

/-- RDCTR (R129). -/
def bodyRdctr (c : Cx) : Step :=
  let v := mapGetD (c.s.ctx c.asid).meters (16 * c.x.col + c.f.x.toNat % 32) 0
  if c.grd = 0 then c.later none 0 [Lanes.zero, Lanes.zero] .none true
  else
    let lane (w : Word) : Lanes := { val := List.replicate 64 w, poison := 0 }
    c.later none 1 [lane (loWord v), lane (hiWord v)] .none true

/-- The meaning of SREAD. -/
def execSread (f : Fields) (s : State) : Host.Outcome State Fault Refusal := s.issue .sread f false noPre bodySread
/-- The meaning of SWRITE. -/
def execSwrite (f : Fields) (s : State) : Host.Outcome State Fault Refusal := s.issue .swrite f false noPre bodySwrite
/-- The meaning of SYSR. -/
def execSysr (f : Fields) (s : State) : Host.Outcome State Fault Refusal := s.issue .sysr f false noPre bodySysr
/-- The meaning of SYSW. -/
def execSysw (f : Fields) (s : State) : Host.Outcome State Fault Refusal := s.issue .sysw f false noPre bodySysw
/-- The meaning of CHKERR. -/
def execChkerr (f : Fields) (s : State) : Host.Outcome State Fault Refusal := s.issue .chkerr f false noPre bodyChkerr
/-- The meaning of RDCTR. -/
def execRdctr (f : Fields) (s : State) : Host.Outcome State Fault Refusal := s.issue .rdctr f false noPre bodyRdctr

end Sys2Proof.Machine
end

