-- ==== Sys2Proof/Machine/MemOps.lean ====
section
/-! DEFINITION. The memory, cache and pool instructions (R288-R296, R309), and the issue of the atomics (R297-R299,
R311), whose performance belongs to the commit. -/

namespace Sys2Proof.Machine

open Sys2Proof

/-- The scope of the X field (R66). -/
def Cx.scope (c : Cx) : Nat := c.f.x.toNat / 4 % 8

/-- The axis of the X field (R67). -/
def Cx.axis (c : Cx) : Nat := c.f.x.toNat / 128 % 4

/-- How a memory instruction meets the caches (R67). -/
def Cx.touchKind (c : Cx) : Touch :=
  { colAx := c.axis != 0, stream := c.f.x.toNat / 32 % 4 == 1, noL1 := c.f.x.toNat / 32 % 4 == 2 }

/-- How many bytes the D group holds. ZERO as the destination of a .b64 load has the width code 00, which counts one register:
such a load accesses 4 bytes, and writes nothing (log 93, DESIGN CHOICE). -/
def Cx.bytesD (c : Cx) : Nat := 4 * c.f.dw.count

/-- Does a load of the run wait behind a BFENCE (R326)? -/
def Cx.loadWaits (c : Cx) : Bool :=
  c.x.pend.any fun p => p.ofRun && (match p.fx with | .load _ _ _ _ => true | _ => false)

/-- How far an acquire of the run orders its later loads (R252, R255): beyond the column, host pages included, from GANG scope
on. -/
def Cx.reach (c : Cx) : Nat := if 2 ≤ c.scope then 3 else 2

/-- An acquire of the run: behind a release of it, later loads are performed at the commit (R255); behind a load that waits for
bank commands, they wait too (R268). -/
def Cx.acquires (c : Cx) : Cx :=
  { c with r := { c.r with
      fenced := if c.r.fenced = 0 then 0 else max c.r.fenced c.reach, behind := c.r.behind || c.loadWaits } }

/-- A release of the run (R255). -/
def Cx.releases (c : Cx) : Cx := if c.r.fenced = 0 then { c with r := { c.r with fenced := 1 } } else c

/-- The acquire with which an acquiring load begins (R255). -/
def Cx.acquiring (c : Cx) : Cx :=
  if c.f.x.toNat % 4 = 1 then ({ c with s := c.s.acquire c.x.col c.x.core c.scope } : Cx).acquires else c

/-- LD (R289). -/
def bodyLd (c : Cx) : Step :=
  let psn := c.poisoned c.addrArgs
  let axis := c.axis
  let (accs, fs) := c.accesses (c.actors psn) c.memAddr (!c.touchKind.noL1 && axis == 0) c.bytesD axis
    (match axis with | 0 => 4 | 1 => 1 | _ => 2) { read := true }
  c.faults fs fun c => (c.consume psn).acquiring.loadFrom Place.va accs c.touchKind psn

/-- ST (R289): its bytes are buffered, and released at commit. -/
def bodySt (c : Cx) : Step :=
  let psn := c.poisoned c.addrArgs
  let axis := c.axis
  let d := c.argD c.f.dw.count c.f.ty
  let k := c.touchKind
  let (accs, fs) := c.accesses (c.actors psn) c.memAddr (!k.noL1 && axis == 0) c.bytesD axis
    (match axis with | 0 => 4 | 1 => 1 | _ => 2) { write := true }
  c.faults fs fun c =>
    let c := c.consume psn
    let tlb := accs.flatMap fun a => a.ps.filterMap Place.leaf
    let c : Cx := { c with s := tlb.foldl (fun s (pe : Nat × TlbEntry) => s.fillTlb pe.1 pe.2) c.s }
    let c : Cx := if c.f.x.toNat % 4 = 1 then c.releases else c
    .ok (c.buffer
      { bytes := c.storeBytes d Place.va accs, so := accs.any fun a => a.ps.any fun p => p.kind == 1, priv := false
        rel := if c.f.x.toNat % 4 = 1 then some c.scope else none, pool := false, colAx := k.colAx, stream := k.stream
        noL1 := k.noL1, zero := false, after := c.r.cmds.length, pc := c.pc }
      (c.compared c.lanes c.memAddr (c.words d)))

/-- The thread whose private words a thread uses (R278). -/
def Cx.privThread (c : Cx) (t : Nat) : Nat := if c.prot then 2 * (t / 2) else t

/-- The address of a private word of a thread (R278). -/
def Cx.privAddr (c : Cx) (t w : Nat) : Addr := c.x.pbase + BitVec.ofNat 64 ((w * 64 + c.privThread t) * 4)

/-- The private accesses of some threads (R279, R290): the limit is checked first, for every thread. -/
def Cx.privAccesses (c : Cx) (ts : List Nat) (words : Nat) (need : Need) : List Access × List (Nat × Cause) :=
  let beyond := ts.filterMap fun t =>
    let w := c.offset t
    if w + words - 1 < c.x.plim then none
    else
      let bad := max w c.x.plim
      some (t, { code := 0x24, info := BitVec.ofNat 32 bad, addr := c.privAddr t bad : Cause })
  if !beyond.isEmpty then ([], beyond)
  else ts.foldl (fun acc t =>
    let w := c.offset t
    let each := (List.range words).map fun j => c.placesOf true (c.privAddr t (w + j)) 4 0 need
    match each.findSome? fun e => match e with | .error k => some k | .ok _ => none with
    | some k => (acc.1, acc.2 ++ [(t, { k with addr := c.privAddr t w })])
    | none =>
      let ps := each.flatMap fun e => match e with | .ok p => p | .error _ => []
      (acc.1 ++ [{ t := t, a := c.privAddr t w, ps := ps }], acc.2)) ([], [])

/-- The key of a private place. -/
def Place.priv (p : Place) : Nat := privKey p.va

/-- LDL (R290). -/
def bodyLdl (c : Cx) : Step :=
  let psn := c.poisoned [c.argB 1 .n32]
  let (accs, fs) := c.privAccesses (c.actors psn) c.f.dw.count { read := true }
  c.faults fs fun c =>
    (c.consume psn).loadFrom Place.priv accs { priv := true } psn

/-- STL (R290). -/
def bodyStl (c : Cx) : Step :=
  let psn := c.poisoned [c.argB 1 .n32]
  let d := c.argD c.f.dw.count .b32
  let (accs, fs) := c.privAccesses (c.actors psn) c.f.dw.count { write := true }
  c.faults fs fun c =>
    let c := c.consume psn
    let tlb := accs.flatMap fun a => a.ps.filterMap Place.leaf
    let c : Cx := { c with s := tlb.foldl (fun s (pe : Nat × TlbEntry) => s.fillTlb pe.1 pe.2) c.s }
    .ok (c.buffer
      { bytes := c.storeBytes d Place.priv accs, so := accs.any fun a => a.ps.any fun p => p.kind == 1, priv := true
        rel := none, pool := false, colAx := false, stream := false, noL1 := false, zero := false
        after := c.r.cmds.length, pc := c.pc }
      (c.compared c.lanes (fun t => BitVec.ofNat 64 (c.offset t)) (c.words d)))

/-- The limit of LDK's offset (R291) (log 22, DEDUCED). -/
def Cx.constFault (c : Cx) (o n : Nat) : Option Cause :=
  let r := c.s.recOf c.x
  let launch := c.f.sub = 1
  let limit := if launch then 256 else r.csize
  let ptr : Addr := if launch then BitVec.ofNat 64 o else r.const + BitVec.ofNat 64 o
  if o % 4 ≠ 0 then some (misaligned ptr)
  else if limit < o + n then
    some { code := 0x28, info := if launch then 1 else 0, addr := BitVec.ofNat 64 o }
  else none

/-- LDK (R291): the constant bank, or the scheduler's copy of the launch record. -/
def bodyLdk (c : Cx) : Step :=
  let psn := c.poisoned [c.argB 1 .n32]
  let r := c.s.recOf c.x
  let n := c.bytesD
  let ts := c.actors psn
  let limits := ts.filterMap fun t => (c.constFault (c.offset t) n).map fun k => (t, k)
  c.faults limits fun c =>
    if c.f.sub = 1 then
      (c.consume psn).loadResult c.f.dw.count psn (ts.map fun t =>
        (t, (List.range n).map fun i => (r.bytes.getD (c.offset t + i) 0, false)))
    else
      let (accs, fs) := c.accesses ts (fun t => r.const + BitVec.ofNat 64 (c.offset t)) true n 0 1 { read := true }
      c.faults fs fun c =>
        (c.consume psn).loadFrom Place.va accs {} psn

/-- PREF (R292): an address that would fault is dropped. -/
def bodyPref (c : Cx) : Step :=
  let psn := c.poisoned c.addrArgs
  let (accs, _) := c.accesses (c.actors psn) c.memAddr (!c.touchKind.noL1 && c.axis == 0) 1 0 1 { read := true }
  .ok ((c.consume psn).touchAll (accs.flatMap Access.ps) c.touchKind)

/-- The line or sector an address names in CCTL: its logical column, its offset and where it lies. -/
def Cx.cctlLine (c : Cx) (a : Addr) : Option (Nat × Nat × Loc) :=
  match c.s.resolve c.asid c.x.col a with
  | .error _ => none
  | .ok (l, off) => some (l, off, .mem 0 0 0)

/-- The 1,024 zero bytes of a sector (R293). -/
def sectorZeros (p : Place) : List ByteW :=
  let back := p.off % 1024
  (List.range 1024).map fun i =>
    { loc := (match p.loc with
        | .mem col pa slot => .mem col (pa - back + i) slot
        | .host pa => .host (pa - back + i)
        | l => l)
      va := p.va - back + i, byte := 0, poison := false }

/-- CCTL (R293): L1 operations never fault; column-cache operations translate; every one is performed after the run
commits, and CCZERO forwards its zeros within the run. -/
def bodyCctl (c : Cx) : Step :=
  let psn := c.poisoned c.addrArgs
  let sub := c.f.sub.toNat
  let ts := c.actors psn
  if sub < 4 then
    .ok ((c.consume psn).queue (.cctl sub (ts.filterMap fun t => c.cctlLine (c.memAddr t))))
  else
    let need : Need := if sub = 8 then { write := true } else { read := true }
    let (accs, fs) := c.accesses ts c.memAddr true 1 0 1 need
    c.faults fs fun c =>
      let ps : List Place := (accs.flatMap Access.ps).foldl (fun acc p =>
        if acc.any fun q => q.va / 1024 == p.va / 1024 then acc else acc ++ [p]) []
      let tlb := ps.filterMap Place.leaf
      let c := (c.consume psn)
      let c : Cx := { c with s := tlb.foldl (fun s (pe : Nat × TlbEntry) => s.fillTlb pe.1 pe.2) c.s }
      let c := if sub = 8 then
          c.buffer { bytes := ps.flatMap sectorZeros, so := ps.any fun p => p.kind == 1, priv := false, rel := none
                     pool := false, colAx := false, stream := false, noL1 := false, zero := true, after := c.r.cmds.length
                     pc := c.pc } []
        else c
      .ok (c.queue (.cctl sub (ps.map fun p => (p.lcol, p.off, p.loc))))

/-- PHASE (R294). -/
def bodyPhase (c : Cx) : Step :=
  let a := c.argA 1 .s32
  c.scalar (if c.f.sub = 1 then [] else [a]) 0 fun c => .ok (c.queue (.phase (c.f.sub == 1) (c.word a 0 0)))

/-- FENCE (R255, R295): its acquiring side now, its release at the commit. -/
def bodyFence (c : Cx) : Step :=
  c.scalar [] 0 fun c =>
    let c := match c.f.sub.toNat with
      | 0 => ({ c with s := c.s.acquire c.x.col c.x.core c.scope, r := { c.r with fenced := max c.r.fenced 1 } } : Cx).acquires
      | 1 => ({ c with s := c.s.acquire c.x.col c.x.core c.scope } : Cx).acquires
      | _ => c.releases
    .ok (c.queue (.fence c.f.sub.toNat c.scope))

/-- Is some resident grid of another context on a column (R296)? -/
def State.foreignGrid (s : State) (asid col : Nat) : Bool :=
  s.gangs.any fun kv => kv.2.state == .running && kv.2.columns.contains col
    && ((s.grid kv.2.grid).map Grid.asid).getD asid != asid

/-- CPART (R296) (log 37, DEDUCED). -/
def bodyCpart (c : Cx) : Step :=
  let a := c.argA 1 .s32
  c.scalar [a] 0 fun c =>
    let v := (c.word a 0 0).toNat
    if v % 4 ≠ 0 ∨ 12 < v then c.raiseAll 0x29 1
    else if c.s.foreignGrid c.asid c.x.col then c.raiseAll 0x29 2
    else .ok (c.queue (.cpart v))

/-! ### The pool -/

/-- Do some accesses meet a barrier object at which the run arrives? -/
def Cx.meetsArrival (c : Cx) (as : List Access) : Bool :=
  as.any fun a => a.ps.any fun p => match p.loc with
    | .spad col o => c.r.arrives col (o - o % 16)
    | _ => false

/-- PLD (R309). Behind an acquire of its run that a waiting load precedes, it waits too (R268); where it would read an object at
which the run arrives, the run ends before it (log 86, DESIGN CHOICE). -/
def bodyPld (c : Cx) : Step :=
  let psn := c.poisoned c.poolArgs
  let n := c.bytesD
  let (accs, fs) := c.poolAccesses (c.actors psn) n 4
  c.faults fs fun c =>
    if c.r.behind && c.meetsArrival accs then c.stop .endRun
    else
      let c := c.consume psn
      let c := { c with s := c.s.meter c.asid c.x.col 6 (n * accs.length) }
      if c.r.behind then c.loadBehindFence Place.pool accs psn
      else
        let f := c.loadAll Place.pool accs {}
        ({ c with r := { c.r with late := c.r.late ++ f.rest } } : Cx).loadResult c.f.dw.count psn f.got

/-- PST (R309). -/
def bodyPst (c : Cx) : Step :=
  let psn := c.poisoned c.poolArgs
  let n := c.bytesD
  let d := c.argD c.f.dw.count c.f.ty
  let (accs, fs) := c.poolAccesses (c.actors psn) n 4
  c.faults fs fun c =>
    let c := c.consume psn
    let c := { c with s := c.s.meter c.asid c.x.col 6 (n * accs.length) }
    .ok (c.buffer
      { bytes := c.storeBytes d Place.pool accs, so := false, priv := false, rel := none, pool := true, colAx := false
        stream := false, noL1 := false, zero := false, after := c.r.cmds.length, pc := c.pc }
      (c.compared c.lanes (fun t => pair (BitVec.ofNat 32 (c.offset t)) (c.word (c.argA 1 .n32) t 0)) (c.words d)))

/-! ### Atomics -/

/-- The width in bytes of an atomic (R272, R297). -/
def Cx.atomBytes (c : Cx) : Nat := if c.f.ty.is64 then 8 else 4

/-- Where an atomic of a kind replaces its data without reading it: EXCH. -/
def isExch (op : AtomKind) (f : Fields) : Bool := (op == .atom || op == .patom) && f.sub == 6

/-- The threads in which an atomic consumes a poisoned D group (R395): EXCH moves it. -/
def Cx.dataPoison (c : Cx) (op : AtomKind) (regs : Nat) : Mask :=
  if isExch op c.f then 0 else c.poisoned [c.argD regs c.f.ty]

/-- The threads in which an atomic performs nothing (R395): those with a poisoned address, and a uniform instruction that
consumes its data. -/
def Cx.atomStop (c : Cx) (addr : List Arg) (op : AtomKind) (regs : Nat) : Mask :=
  c.poisoned addr ||| (if c.f.uni then c.dataPoison op regs else 0)

/-- The accesses of an atomic as its run commits to perform them (R82, R297): each thread's place and data. -/
def Cx.atomItems (c : Cx) (regs : Nat) (accs : List Access) : List AtomAcc :=
  accs.map fun a =>
    { t := a.t, locs := a.ps.map Place.loc, off := ((a.ps.head?).map Place.off).getD 0
      data := c.words (c.argD regs c.f.ty) a.t, poison := c.poisonAt (c.argD regs c.f.ty) a.t }

/-- An atomic of `c` in the run of `d`: where some thread performs it, the run ends in it (R82). -/
def Cx.endAtomic (c d : Cx) (op : AtomKind) (regs : Nat) (accs : List Access) (addr : Nat → Addr) : Cx :=
  let e := { d with r := { d.r with cmp := d.r.cmp ++ c.compared c.lanes addr (c.words (c.argD regs c.f.ty)) } }
  if accs.isEmpty then e
  else { e with r := { e.r with ended := some .irr, irr := some (.atomic d.f op (c.atomItems regs accs) c.s.nextId) } }

/-- The issue of an atomic that has passed its checks: it is performed at the commit of its run, which it ends. -/
def Cx.atomic (c : Cx) (op : AtomKind) (psn : Mask) (regs : Nat) (accs : List Access) (addr : Nat → Addr) : Step :=
  let d := c.consume (psn ||| c.dataPoison op regs)
  let rows := d.rowsPsn (if op = .acas then regs / 2 else regs) fun t =>
    (d.words (c.argD regs c.f.ty) t).map fun w => (w, bit psn t)
  if op = .red then .ok (c.endAtomic d op regs accs addr)
  else (d.later (some 2) c.lanes rows .none accs.isEmpty).map fun e => c.endAtomic e op regs accs addr

/-- ATOM, ACAS, AFADD and RED (R297, R299): every thread's checks are made at issue. -/
def Cx.memAtomic (c : Cx) (op : AtomKind) (regs : Nat) : Step :=
  let psn := c.atomStop c.addrArgs op regs
  let n := c.atomBytes
  let (accs, fs) := c.accesses (c.actors psn) c.memAddr false n 0 n { read := true, write := true }
  c.faults fs fun c => c.atomic op psn regs accs c.memAddr

/-- ATOM (R297). -/
def bodyAtom (c : Cx) : Step := c.memAtomic .atom c.f.ty.regs
/-- ACAS (R297). -/
def bodyAcas (c : Cx) : Step := c.memAtomic .acas (2 * c.f.ty.regs)
/-- AFADD (R297). -/
def bodyAfadd (c : Cx) : Step := c.memAtomic .afadd 1
/-- RED (R297). -/
def bodyRed (c : Cx) : Step := c.memAtomic .red c.f.ty.regs

/-- PATOM (R311). -/
def bodyPatom (c : Cx) : Step :=
  let psn := c.atomStop c.poolArgs .patom c.f.ty.regs
  let n := c.atomBytes
  let (accs, fs) := c.poolAccesses (c.actors psn) n n
  c.faults fs fun c =>
    let c := { c with s := c.s.meter c.asid c.x.col 6 (n * accs.length) }
    c.atomic .patom psn c.f.ty.regs accs fun t =>
      pair (BitVec.ofNat 32 (c.offset t)) (c.word (c.argA 1 .n32) t 0)

/-- The meaning of LD. -/
def execLd (f : Fields) (s : State) : Host.Outcome State Fault Refusal := s.issue .ld f false noPre bodyLd
/-- The meaning of ST. -/
def execSt (f : Fields) (s : State) : Host.Outcome State Fault Refusal := s.issue .st f false noPre bodySt
/-- The meaning of LDL. -/
def execLdl (f : Fields) (s : State) : Host.Outcome State Fault Refusal := s.issue .ldl f false noPre bodyLdl
/-- The meaning of LDL in its short form. -/
def execLdlShort (f : Fields) (s : State) : Host.Outcome State Fault Refusal := s.issue .ldl f false noPre bodyLdl
/-- The meaning of STL. -/
def execStl (f : Fields) (s : State) : Host.Outcome State Fault Refusal := s.issue .stl f false noPre bodyStl
/-- The meaning of STL in its short form. -/
def execStlShort (f : Fields) (s : State) : Host.Outcome State Fault Refusal := s.issue .stl f false noPre bodyStl
/-- The meaning of LDK. -/
def execLdk (f : Fields) (s : State) : Host.Outcome State Fault Refusal := s.issue .ldk f false noPre bodyLdk
/-- The meaning of LDK in its short form. -/
def execLdkShort (f : Fields) (s : State) : Host.Outcome State Fault Refusal := s.issue .ldk f false noPre bodyLdk
/-- The meaning of PREF. -/
def execPref (f : Fields) (s : State) : Host.Outcome State Fault Refusal := s.issue .pref f false noPre bodyPref
/-- The meaning of CCTL. -/
def execCctl (f : Fields) (s : State) : Host.Outcome State Fault Refusal := s.issue .cctl f false noPre bodyCctl
/-- The meaning of PHASE. -/
def execPhase (f : Fields) (s : State) : Host.Outcome State Fault Refusal := s.issue .phase f false noPre bodyPhase
/-- The meaning of FENCE. -/
def execFence (f : Fields) (s : State) : Host.Outcome State Fault Refusal := s.issue .fence f false noPre bodyFence
/-- The meaning of CPART. -/
def execCpart (f : Fields) (s : State) : Host.Outcome State Fault Refusal := s.issue .cpart f false noPre bodyCpart
/-- The meaning of PLD. -/
def execPld (f : Fields) (s : State) : Host.Outcome State Fault Refusal := s.issue .pld f false noPre bodyPld
/-- The meaning of PST. -/
def execPst (f : Fields) (s : State) : Host.Outcome State Fault Refusal := s.issue .pst f false noPre bodyPst
/-- The meaning of ATOM. -/
def execAtom (f : Fields) (s : State) : Host.Outcome State Fault Refusal := s.issue .atom f false noPre bodyAtom
/-- The meaning of ACAS. -/
def execAcas (f : Fields) (s : State) : Host.Outcome State Fault Refusal := s.issue .acas f false noPre bodyAcas
/-- The meaning of AFADD. -/
def execAfadd (f : Fields) (s : State) : Host.Outcome State Fault Refusal := s.issue .afadd f false noPre bodyAfadd
/-- The meaning of RED. -/
def execRed (f : Fields) (s : State) : Host.Outcome State Fault Refusal := s.issue .red f false noPre bodyRed
/-- The meaning of PATOM. -/
def execPatom (f : Fields) (s : State) : Host.Outcome State Fault Refusal := s.issue .patom f false noPre bodyPatom

end Sys2Proof.Machine
end

