-- ==== Sys2Proof/Machine/Crossing.lean ====
section
/-! DEFINITION. Pointers (R301), exchanges (R302-R307), lane movement (R312-R316) and the barrier objects' instructions
(R117-R120). -/

namespace Sys2Proof.Machine

open Sys2Proof

/-- A pointer with its column field replaced. -/
def setCol (a : Addr) (col : Nat) : Addr :=
  (a &&& 0xFF00FFFFFFFFFFFF) ||| (BitVec.ofNat 64 (col % 256) <<< 48)

/-- PTRC (R301). -/
def bodyPtrc (c : Cx) : Step :=
  let a := c.argA 2 .b64
  let b1 := c.argB 1 .s32
  let b2 := c.argB 2 .b64
  let ctx := c.s.ctx c.asid
  let col (t : Nat) : Nat := (c.word64 a t).toNat / 2 ^ 48 % 256
  let two (x : Addr) : List Word := [loWord x, hiWord x]
  match c.f.sub.toNat with
  | 0 => c.alu none 1 [a] fun t => [BitVec.ofNat 32 (col t)]
  | 1 => c.alu none 2 [a, b1] fun t => two (setCol (c.word64 a t) (c.word b1 t 0).toNat)
  | 2 => c.alu none 2 [a] fun t => two (c.word64 a t &&& 0x0000FFFFFFFFFFFF)
  | 3 => c.alu none 2 [a, b2] fun t =>
      two ((c.word64 a t &&& 0xFFFF000000000000) ||| (c.word64 b2 t &&& 0x0000FFFFFFFFFFFF))
  | 4 => c.aluP [a] fun t => col t == 0xFF
  | 5 => c.alu none 2 [a] fun t =>
      let x := c.word64 a t
      two (if col t = 0xFF then setCol x ((ctx.coll c.x.col).getD 0xFF) else x)
  | _ => c.aluP [a] fun t =>
      decide ((c.word64 a t).toNat / 2 ^ 56 = 0) && (col t == 0xFF || (ctx.pcol (col t)).isSome)

/-! ### Lanes -/

/-- The number of lanes the lane instructions see, and a thread's index among them (R316). -/
def Cx.laneCount (c : Cx) : Nat := if c.prot then 32 else 64

/-- The thread of an index, in the warp of 64, or among the primaries or the shadows. -/
def Cx.laneThread (c : Cx) (t i : Nat) : Nat := if c.prot then 2 * i + t % 2 else i

/-- The segment width of SHFL (R67, R316). -/
def Cx.segment (c : Cx) : Nat := min (64 / 2 ^ (c.f.x.toNat % 8)) c.laneCount

/-- The lane SHFL takes from (R312): `l` of `w` lanes, with the operand n. -/
def shuffleLane (pat w l : Nat) (n : Word) : Nat :=
  match pat with
  | 0 => n.toNat % w
  | 1 => (((l : Int) + n.toInt) % (w : Int)).toNat
  | 2 =>
    let k := (l : Int) + n.toInt
    if k < 0 ∨ (w : Int) ≤ k then l else k.toNat
  | 3 => l ^^^ (n.toNat % w)
  | _ => w - 1 - l

/-- A lane movement whose result goes to L3: each thread's words from one thread, poisoned as there or in `psn`. -/
def Cx.moveLanes (c : Cx) (n : Nat) (psn : Mask) (src : Nat → List (Word × Bool)) : Step :=
  let rows := c.rowsPsn n fun t => (src t).map fun w => (w.1, w.2 || bit psn t)
  (c.consume psn).later (some 3) c.lanes rows .none true

/-- SHFL (R312): the source thread's value is read whatever its guard, and passed with its poison. -/
def bodyShfl (c : Cx) : Step :=
  let n := c.f.ty.regs
  let a := c.argA n c.f.ty
  let pat := c.f.sub.toNat
  let b := c.argB 1 (if pat = 0 ∨ pat = 3 then .n32 else .s32)
  let psn := if pat = 4 then 0 else c.poisoned [b]
  c.moveLanes n psn fun t =>
    let w := c.segment
    let i := c.index t
    c.wordsPsn a (c.laneThread t (i / w * w + shuffleLane pat w (i % w) (c.word b t 0)))

/-- BSET (R313). -/
def bodyBset (c : Cx) : Step :=
  let psn := c.poisoned c.addrArgs
  let (accs, fs) := c.accesses (c.actors psn) c.memAddr true 64 0 64 { read := true }
  if c.grd = 0 then .ok c
  else if psn ≠ 0 then .ok (c.consume psn)
  else c.faults fs fun c =>
    if c.fencedBank then
      (c.touchAll (accs.flatMap Access.ps) {}).later none 0 []
        (.load c.r.bfenceAt (some (c.f.x.toNat % 4)) 0 (c.loadBehind Place.va accs)) false
    else
      let ws := wordsOf 11 (((c.loadAll Place.va accs {}).got.head?.map Prod.snd).getD [])
      (c.readNoted Place.va accs {}).later none 0 [] (.bset (c.f.x.toNat % 4) (ws.map Prod.fst) (ws.any Prod.snd)) true

/-- Is protected mode off (R316)? -/
def preUnprotected (c : Cx) : Bool := !c.prot

/-- One stage of the permutation network (R314): the lanes after word `s` of a slot acts at distance 2^|5 - s|. -/
def benesStage (word : Word) (s : Nat) (v : List Nat) : List Nat :=
  let d := 2 ^ (if s ≤ 5 then 5 - s else s - 5)
  (List.range 64).map fun t =>
    let low := t % (2 * d) < d
    let p := if low then t else t - d
    let j := p / (2 * d) * d + p % d
    if bit word j then v.getD (if low then t + d else t - d) 0 else v.getD t 0

/-- The thread whose value reaches each thread through a slot (R314). -/
def benes (words : List Word) : List Nat :=
  (List.range 11).foldl (fun v s => benesStage (words.getD s 0) s v) (List.range 64)

/-- The pending BSET of a permutation slot. -/
def Cx.slotPending (c : Cx) (k : Nat) : Option Pending :=
  c.x.pend.find? fun p => !p.here && p.fx.slot == some k

/-- BPERM (R314): it waits for an outstanding BSET of its slot; a poisoned slot is consumed. -/
def bodyBperm (c : Cx) : Step :=
  let k := c.f.x.toNat % 4
  match c.slotPending k with
  | some p => c.stop p.awaiting
  | none =>
    let n := c.f.ty.regs
    let a := c.argA n c.f.ty
    let q := c.r.work.q.getD k { words := [], poison := false }
    let from_ := benes q.words
    c.moveLanes n (if q.poison then c.lanes else 0) fun t => c.wordsPsn a (from_.getD t 0)

/-- One combination step of a reduction (R306), on elements of a type. Nothing is flushed. -/
def reduceElem (ty : Ty) (op a b : Nat) : Nat :=
  let w := ty.elemBits
  if ty.isFloat then
    match op with
    | 0 => (fmtOf ty).add .rne false a b
    | 1 => (fmtOf ty).minMax false a b
    | _ => (fmtOf ty).minMax true a b
  else
    let x := readInt ty.isSigned w a
    let y := readInt ty.isSigned w b
    match op with
    | 0 => (a + b) % 2 ^ w
    | 1 => if y < x then b else a
    | 2 => if x < y then b else a
    | 3 => a &&& b
    | 4 => a ||| b
    | _ => a ^^^ b

/-- One combination step on the words of a thread. -/
def reduceWords (ty : Ty) (op : Nat) (a b : List Word) : List Word :=
  groupWords ty.elemBits ty.regs
    (List.zipWith (reduceElem ty op) (groupElems ty.elemBits a) (groupElems ty.elemBits b))

/-- The butterfly of REDX (R315) over `n` lanes, at the distances left (log 41, DEDUCED). -/
def butterfly (ty : Ty) (op n : Nat) : List Nat → List (Option (List Word)) → List (Option (List Word))
  | [], v => v
  | d :: rest, v =>
    butterfly ty op n rest ((List.range n).map fun i =>
      match v.getD i none, v.getD (i ^^^ d) none with
      | some a, some b => some (reduceWords ty op a b)
      | some a, none => some a
      | none, b => b)

/-- REDX (R315). A poisoned contribution reaches every thread's result. -/
def bodyRedx (c : Cx) : Step :=
  let n := c.f.ty.regs
  let a := c.argA n c.f.ty
  let psn := c.poisoned [a]
  let lanes := c.laneCount
  let half (k : Nat) : List (Option (List Word)) :=
    butterfly c.f.ty c.f.sub.toNat lanes (if c.prot then [16, 8, 4, 2, 1] else [32, 16, 8, 4, 2, 1])
      ((List.range lanes).map fun i =>
        let t := c.laneThread k i
        if bit c.grd t then some (c.words a t) else none)
  let even := half 0
  let odd := half 1
  c.moveLanes n psn fun t =>
    (((if c.prot && t % 2 == 1 then odd else even).getD (c.index t) none).getD []).map fun w =>
      (w, (threads psn).any fun u => !c.prot || u % 2 == t % 2)

/-! ### Exchanges -/

/-- What an exchange sends (R303): every thread's A group, whatever its guard. -/
def Cx.sends (c : Cx) (n : Nat) : List Lanes :=
  (List.range n).map fun j =>
    let row := (List.range 64).map fun t => c.rd 0 c.f.a c.f.ty t j
    { val := row.map Prod.fst, poison := maskOf fun t => (row.getD t (0, false)).2 }

/-- An exchange of `c` in the run of `d`, which it ends (R303). -/
def Cx.endExchange (c d : Cx) (red : Bool) (n : Nat) : Cx :=
  { d with r := { d.r with
      ended := some .irr, irr := some (.exchange d.f red (c.sends n) d.grd c.s.nextId)
      cmp := d.r.cmp ++ c.compared (BitVec.allOnes 64) (fun _ => 0) (c.words (c.argA n c.f.ty)) } }

/-- The issue of an exchange (R303): every thread's A group is sent, the result is for the guarded threads, and the
arrival is at the commit of its run. -/
def Cx.exchange (c : Cx) (red : Bool) (n : Nat) : Step :=
  (c.later (some 3) c.grd ((c.sends n).map fun _ => Lanes.zero) .none false).map fun d => c.endExchange d red n

/-- XCH (R305) (log 11, DEDUCED). -/
def bodyXch (c : Cx) : Step := c.exchange false c.f.aw.count
/-- XRED (R306). -/
def bodyXred (c : Cx) : Step := c.exchange true c.f.ty.regs

/-! ### Barrier objects -/

/-- The place of a barrier object (R120): the checks of R308 with an alignment of 16. -/
def Cx.objectPlace (c : Cx) : Except Cause (Nat × Loc) :=
  c.poolPlace (c.word (c.argA 1 .n32) 0 0).toNat (c.offset 0) 16 16

/-- A barrier-object instruction: its address is checked at issue (R120). -/
def Cx.object (c : Cx) (as : List Arg) (g : Cx → Nat → Nat → Step) : Step :=
  c.scalar (c.poolArgs ++ as) 0 fun c =>
    match c.objectPlace with
    | .error e => c.stop (.trap e c.act)
    | .ok (_, .spad col off) => g { c with s := c.s.meter c.asid c.x.col 6 16 } col off
    | .ok _ => .ok c

/-- ARRV (R118). -/
def bodyArrv (c : Cx) : Step :=
  let d := c.argD 1 .n32
  c.object [d] fun c col off =>
    let n := if c.f.d = .zero then 1 else c.word d 0 0
    let c := if bit c.f.x 1 then c.releases else c
    .ok (c.queue (.arrv col off n (if bit c.f.x 1 then some c.scope else none)))

/-- WAITB (R119). -/
def bodyWaitb (c : Cx) : Step :=
  let d := c.argD 1 .n32
  c.object [d] fun c col off =>
    .ok { c with r := { c.r with
      ended := some (.waitb col off (c.word d 0 0) (if bit c.f.x 0 then some c.scope else none)) } }

/-- The meaning of PTRC. -/
def execPtrc (f : Fields) (s : State) : Host.Outcome State Fault Refusal := s.issue .ptrc f false noPre bodyPtrc
/-- The meaning of SHFL. -/
def execShfl (f : Fields) (s : State) : Host.Outcome State Fault Refusal := s.issue .shfl f false noPre bodyShfl
/-- The meaning of BSET. -/
def execBset (f : Fields) (s : State) : Host.Outcome State Fault Refusal :=
  s.issue .bset f false preUnprotected bodyBset
/-- The meaning of BPERM. -/
def execBperm (f : Fields) (s : State) : Host.Outcome State Fault Refusal :=
  s.issue .bperm f false preUnprotected bodyBperm
/-- The meaning of REDX. -/
def execRedx (f : Fields) (s : State) : Host.Outcome State Fault Refusal := s.issue .redx f false noPre bodyRedx
/-- The meaning of XCH. -/
def execXch (f : Fields) (s : State) : Host.Outcome State Fault Refusal := s.issue .xch f false noPre bodyXch
/-- The meaning of XRED. -/
def execXred (f : Fields) (s : State) : Host.Outcome State Fault Refusal := s.issue .xred f false noPre bodyXred
/-- The meaning of ARRV. -/
def execArrv (f : Fields) (s : State) : Host.Outcome State Fault Refusal := s.issue .arrv f false noPre bodyArrv
/-- The meaning of WAITB. -/
def execWaitb (f : Fields) (s : State) : Host.Outcome State Fault Refusal := s.issue .waitb f false noPre bodyWaitb

end Sys2Proof.Machine
end

