-- ==== Sys2Proof/Machine/CopyOps.lean ====
section
/-! DEFINITION. The issue of the copy and bank commands and of CWAIT (R317-R319, R324); their performance is in
CopyEngine.lean. -/

namespace Sys2Proof.Machine

open Sys2Proof

/-- The ordering of the Engine class (R67). -/
def Cx.engineOrd (c : Cx) : Ord := { acq := bit c.f.x 0, rel := bit c.f.x 1, scope := c.scope }

/-- Does a copy pointer break R319? A bank command takes no pool reference. -/
def badCopyPtr (bank : Bool) (p : Addr) : Bool := decide (p.toNat / 2 ^ 56 % 128 ≠ 0) || (bank && bit p 63)

/-- Does a barrier word break R319, in a gang of `size` blocks? -/
def badBarrier (size : Nat) (w : Word) : Bool :=
  decide (w.toNat / 2 ^ 28 % 8 ≠ 0) || (bit w 31 && decide (size ≤ w.toNat / 2 ^ 20 % 256))

/-- Does a link word break R319? -/
def badLink (w : Word) : Bool := decide (w.toNat / 2 ^ 9 % 2 ^ 22 ≠ 0)

/-- The words of a copy command that R319 checks. -/
structure CopyCheck where
  bank    : Bool := false
  ptrs    : List Addr
  barrier : List Word := []
  link    : List Word := []
  zeros   : List Word := []
  aligned : List Nat           -- what must be a multiple of 4, or of 1,024 for a bank command
  room    : Bool := true       -- the length lies inside its limit

/-- The fault of R319, the invalid pointer first; among those, in the order of INFO (log 21, DEDUCED)
(log 22, DEDUCED). -/
def CopyCheck.fault (k : CopyCheck) (size : Nat) : Option Cause :=
  let bad (info : Nat) (a : Addr) : Cause := { code := 0x21, info := BitVec.ofNat 32 info, addr := a }
  let unit := if k.bank then 1024 else 4
  match k.ptrs.find? (badCopyPtr k.bank), k.barrier.find? (badBarrier size), k.link.find? badLink,
      k.zeros.find? (fun w => w != 0) with
  | some p, _, _, _ => some (bad 0 p)
  | none, some w, _, _ => some (bad 1 (w.setWidth 64))
  | none, none, some w, _ => some (bad 2 (w.setWidth 64))
  | none, none, none, some w => some (bad 3 (w.setWidth 64))
  | none, none, none, none =>
    match k.ptrs.find? fun p => p.toNat % unit != 0 with
    | some p => some (misaligned p)
    | none => if k.room && k.aligned.all fun n => n % unit == 0 then none else k.ptrs.head?.map misaligned

/-- A command with the facts of its warp; its handle and promise come at acceptance (R320). -/
def Cx.copyCmd (c : Cx) (op : CopyOp) (bank : Bool) : CopyCmd :=
  { op := op, dst := 0, src := 0, len := 0, row := 0, dstride := 0, sstride := 0, barrier := 0, link := 0,
    ord := c.engineOrd, dreg := (match c.f.d with | .s d => d.toNat | _ => 0), pc := c.pc, col := c.x.col, asid := c.asid,
    warp := c.w, block := c.x.block, gang := ((c.s.blockOf c.x).map Block.gang).getD 0, handle := 0, promise := none,
    done := 0, fault := none, stage := 0, bank := bank }

/-- A copy or bank command checked and queued (R319). -/
def Cx.queueCopy (c : Cx) (k : CopyCheck) (cmd : CopyCmd) : Step :=
  match k.fault ((c.s.gangOf c.x).map Gang.size |>.getD 1) with
  | some e => c.stop (.trap e c.act)
  | none => .ok (c.queue (.copy cmd))

/-- CPY (R317). -/
def bodyCpy (c : Cx) : Step :=
  let a := c.argA 2 .b64
  let b := c.argB 2 .b64
  let k := c.argC 2 .b32
  c.scalarQ [a, b, k] 4 fun c =>
    let n := (c.word k 0 0).toNat
    c.queueCopy { ptrs := [c.word64 a 0, c.word64 b 0], barrier := [c.word k 0 1], aligned := [n] }
      { c.copyCmd .cpy false with dst := c.word64 a 0, src := c.word64 b 0, len := n, row := n, barrier := c.word k 0 1 }

/-- CPY2 (R317). -/
def bodyCpy2 (c : Cx) : Step :=
  let a := c.argA 2 .b64
  let b := c.argB 2 .b64
  let k := c.argC 8 .b32
  c.scalarQ [a, b, k] 4 fun c =>
    let w (j : Nat) : Word := c.word k 0 j
    let n := (w 0).toNat * (w 1).toNat
    c.queueCopy { ptrs := [c.word64 a 0, c.word64 b 0], barrier := [w 4], zeros := [w 5, w 6, w 7]
                  aligned := [(w 0).toNat, (w 2).toNat, (w 3).toNat], room := decide (n < 2 ^ 32) }
      { c.copyCmd .cpy2 false with dst := c.word64 a 0, src := c.word64 b 0, len := n, row := (w 0).toNat
                                   dstride := (w 2).toNat, sstride := (w 3).toNat, barrier := w 4 }

/-- CPYZ (R317). -/
def bodyCpyz (c : Cx) : Step :=
  let a := c.argA 2 .b64
  let k := c.argC 2 .b32
  c.scalarQ [a, k] 4 fun c =>
    let n := (c.word k 0 0).toNat
    c.queueCopy { ptrs := [c.word64 a 0], barrier := [c.word k 0 1], aligned := [n] }
      { c.copyCmd .cpyz false with dst := c.word64 a 0, len := n, row := n, barrier := c.word k 0 1 }

/-- CPYX (R317, R323). -/
def bodyCpyx (c : Cx) : Step :=
  let a := c.argA 2 .b64
  let b := c.argB 2 .b64
  let k := c.argC 4 .b32
  c.scalarQ [a, b, k] 4 fun c =>
    let n := (c.word k 0 0).toNat
    c.queueCopy { ptrs := [c.word64 a 0, c.word64 b 0], barrier := [c.word k 0 1], link := [c.word k 0 2]
                  zeros := [c.word k 0 3], aligned := [n] }
      { c.copyCmd .cpyx false with dst := c.word64 a 0, src := c.word64 b 0, len := n, row := n
                                   barrier := c.word k 0 1, link := c.word k 0 2 }

/-- BZERO (R317). -/
def bodyBzero (c : Cx) : Step :=
  let a := c.argA 2 .b64
  let k := c.argC 1 .n32
  c.scalarQ [a, k] 4 fun c =>
    let n := (c.word k 0 0).toNat
    c.queueCopy { bank := true, ptrs := [c.word64 a 0], aligned := [n] }
      { c.copyCmd .bzero true with dst := c.word64 a 0, len := n, row := n }

/-- BCOPY and BCMP (R317). -/
def Cx.bankTwo (c : Cx) (op : CopyOp) : Step :=
  let a := c.argA 2 .b64
  let b := c.argB 2 .b64
  let k := c.argC 1 .n32
  c.scalarQ [a, b, k] 4 fun c =>
    let n := (c.word k 0 0).toNat
    c.queueCopy { bank := true, ptrs := [c.word64 a 0, c.word64 b 0], aligned := [n] }
      { c.copyCmd op true with dst := c.word64 a 0, src := c.word64 b 0, len := n, row := n }

/-- BCOPY (R317). -/
def bodyBcopy (c : Cx) : Step := c.bankTwo .bcopy
/-- BCMP (R317). -/
def bodyBcmp (c : Cx) : Step := c.bankTwo .bcmp

/-- BFENCE (R326). -/
def bodyBfence (c : Cx) : Step := c.scalar [] 0 fun c => .ok (c.queue (.copy (c.copyCmd .bfence true)))

/-- CWAIT (R324): the wait begins when its run has committed. -/
def bodyCwait (c : Cx) : Step :=
  let a := c.argA 1 .b32
  c.scalar [a] 1 fun c =>
    match c.f.d with
    | .s d => .ok (c.endIn (.cwait d.toNat (c.word a 0 0)))
    | _ => .ok c

/-- The meaning of CPY. -/
def execCpy (f : Fields) (s : State) : Host.Outcome State Fault Refusal := s.issue .cpy f false noPre bodyCpy
/-- The meaning of CPY2. -/
def execCpy2 (f : Fields) (s : State) : Host.Outcome State Fault Refusal := s.issue .cpy2 f false noPre bodyCpy2
/-- The meaning of CPYZ. -/
def execCpyz (f : Fields) (s : State) : Host.Outcome State Fault Refusal := s.issue .cpyz f false noPre bodyCpyz
/-- The meaning of CPYX. -/
def execCpyx (f : Fields) (s : State) : Host.Outcome State Fault Refusal := s.issue .cpyx f false noPre bodyCpyx
/-- The meaning of BZERO. -/
def execBzero (f : Fields) (s : State) : Host.Outcome State Fault Refusal := s.issue .bzero f false noPre bodyBzero
/-- The meaning of BCOPY. -/
def execBcopy (f : Fields) (s : State) : Host.Outcome State Fault Refusal := s.issue .bcopy f false noPre bodyBcopy
/-- The meaning of BCMP. -/
def execBcmp (f : Fields) (s : State) : Host.Outcome State Fault Refusal := s.issue .bcmp f false noPre bodyBcmp
/-- The meaning of BFENCE. -/
def execBfence (f : Fields) (s : State) : Host.Outcome State Fault Refusal := s.issue .bfence f false noPre bodyBfence
/-- The meaning of CWAIT. -/
def execCwait (f : Fields) (s : State) : Host.Outcome State Fault Refusal := s.issue .cwait f false noPre bodyCwait

end Sys2Proof.Machine
end

