-- ==== Sys2Proof/Machine/Launch.lean ====
section
/-! DEFINITION. The issue of LAUNCH, TAPE and GWAIT (R121-R123); what the scheduler makes of them is in
Scheduler.lean. -/

namespace Sys2Proof.Machine

open Sys2Proof

/-- The checks of a record pointer at issue (R121): the depth, then the alignment. -/
def Cx.recordCheck (c : Cx) (a : Addr) (g : Cx → Step) : Step :=
  if ((c.s.gridOf c.x).map Grid.depth).getD 0 = 10 then c.raiseAll 0x15 10
  else if a.toNat % 256 ≠ 0 then c.stop (.trap (misaligned a) c.act)
  else g c

/-- The S register D names. -/
def Cx.dreg (c : Cx) : Nat := match c.f.d with | .s d => d.toNat | _ => 0

/-- LAUNCH (R121). -/
def bodyLaunch (c : Cx) : Step :=
  let a := c.argA 2 .b64
  c.scalarQ [a] 1 fun c =>
    c.recordCheck (c.word64 a 0) fun c =>
      let o := c.engineOrd
      let c := if o.rel then c.releases else c
      .ok (c.queue (.launch c.dreg (c.word64 a 0) (if o.rel then some o.scope else none)))

/-- TAPE (R122). -/
def bodyTape (c : Cx) : Step :=
  let a := c.argA 2 .b64
  match c.f.sub.toNat with
  | 0 => c.scalarQ [a] 1 fun c =>
      c.recordCheck (c.word64 a 0) fun c => .ok (c.queue (.tape 0 (bit c.f.x 0) c.dreg (c.word64 a 0)))
  | 1 => c.scalar [] 2 fun c => .ok (c.queue (.tape 1 false c.dreg 0))
  | _ => c.scalar [] 1 fun c => .ok (c.queue (.tape 2 false c.dreg 0))

/-- GWAIT (R123). -/
def bodyGwait (c : Cx) : Step :=
  let a := c.argA 1 .b32
  c.scalar [a] 1 fun c => .ok (c.endIn (.gwait c.dreg (c.word a 0 0)))

/-- The meaning of LAUNCH. -/
def execLaunch (f : Fields) (s : State) : Host.Outcome State Fault Refusal := s.issue .launch f false noPre bodyLaunch
/-- The meaning of TAPE. -/
def execTape (f : Fields) (s : State) : Host.Outcome State Fault Refusal := s.issue .tape f false noPre bodyTape
/-- The meaning of GWAIT. -/
def execGwait (f : Fields) (s : State) : Host.Outcome State Fault Refusal := s.issue .gwait f false noPre bodyGwait

end Sys2Proof.Machine
end

