-- ==== Sys2Proof/Machine/Matrix.lean ====
section
/-! DEFINITION. The issue of the matrix instructions: slot pairs (R211), descriptors (R212-R214), batches and MSTAT
(R226-R234); their performance is in MatrixEngine.lean. -/

namespace Sys2Proof.Machine

open Sys2Proof

/-- The pairs of FMT codes that MMA and MMAT admit (R211): the chunk, and whether the tile counts in INT48. -/
def matPair (mmat : Bool) (a b : Nat) : Option (Nat × Bool) :=
  let within (lo hi k : Nat) : Bool := decide (lo ≤ k) && decide (k ≤ hi)
  if mmat then (if within 5 6 a && b == 8 then some (128, true) else none)
  else if within 1 2 a && within 1 2 b then some (16, false)
  else if within 3 4 a && within 3 4 b then some (32, false)
  else if within 5 6 a && within 5 6 b then some (32, true)
  else if a == 7 && b == 7 then some (64, true)
  else none

/-- The formats of the slots of A and B. -/
def Cx.slotA (c : Cx) : Slot64 := (c.s.recOf c.x).slot (c.f.x.toNat % 8)
/-- The format of the slot of B. -/
def Cx.slotB (c : Cx) : Slot64 := (c.s.recOf c.x).slot (c.f.x.toNat / 8 % 8)

/-- The slot pair of MMA is one of R211. -/
def preMma (c : Cx) : Bool := (matPair false c.slotA.fmt c.slotB.fmt).isSome
/-- The slot pair of MMAT is one of R211. -/
def preMmat (c : Cx) : Bool := (matPair true c.slotA.fmt c.slotB.fmt).isSome
/-- The slot of MLDZ and MST has no zero points and is not TRN2 (R227). -/
def preTile (c : Cx) : Bool := decide (c.slotA.fmt ≤ 5)

/-- A matrix instruction issues with all threads active and none marked (R87). -/
def Cx.wholeWarp (c : Cx) (g : Cx → Step) : Step :=
  if c.r.work.mark ≠ 0 ∨ c.r.work.nc.any (fun n => n != 0) then c.raiseAll 0x14 3 else g c

/-- A descriptor (R212). -/
structure Desc where
  addr   : Addr
  stride : Nat
  w3     : Word
  deriving DecidableEq, Repr

/-- The descriptor of four words. -/
def descOf (l : List Word) : Desc :=
  { addr := pair (l.getD 0 0) (l.getD 1 0), stride := (l.getD 2 0).toNat, w3 := l.getD 3 0 }

/-- K of a descriptor. -/
def Desc.k (d : Desc) : Nat := d.w3.toNat % 8192
/-- ORI of a descriptor. -/
def Desc.ori (d : Desc) : Bool := bit d.w3 16
/-- Is it a pool reference? -/
def Desc.pool (d : Desc) : Bool := bit d.addr 63
/-- TAG of a pool reference. -/
def Desc.tag (d : Desc) : Nat := d.addr.toNat / 2 ^ 56 % 128
/-- G of a pool reference. -/
def Desc.g (d : Desc) : Nat := d.addr.toNat / 2 ^ 48 % 256
/-- OFF of a descriptor. -/
def Desc.off (d : Desc) : Nat := d.addr.toNat % 2 ^ 48

/-- How an operand lies in memory (R213): how many lines, and how many bytes a line holds. -/
structure Layout where
  lines : Nat
  len   : Nat
  deriving DecidableEq, Repr

/-- The block size of a slot's zero points; 0 where its format has none (R163, R167). -/
def Slot64.zblock (s : Slot64) : Nat := if s.fmt = 6 ∨ s.fmt = 7 then 16 * 2 ^ s.zpb else 0

/-- Kz of R213. -/
def Slot64.kz (s : Slot64) (k : Nat) : Nat := if s.zblock = 0 then 0 else k / s.zblock
/-- Tb of R213. -/
def Slot64.tb (s : Slot64) (k : Nat) : Nat :=
  if s.zblock = 0 then 0 else (k * slotBits s.fmt + 8 * s.zblock - 1) / (8 * s.zblock)

/-- The layout of an operand whose reduction has length `k` and that spans `n` rows or columns of the tile; `along` says
that a line runs along K. -/
def Slot64.layout (s : Slot64) (k n : Nat) (along : Bool) : Layout :=
  let w := slotBits s.fmt
  if along then { lines := n, len := (k * w + 7) / 8 + s.tb k } else { lines := k + s.kz k, len := n * w / 8 }

/-- The layout of the memory operand of MLDZ and MST (R213). -/
def Slot64.tileLayout (s : Slot64) (ori : Bool) : Layout :=
  let w := slotBits s.fmt
  if ori then { lines := 128, len := 192 * w / 8 } else { lines := 192, len := 128 * w / 8 }

/-- The matrix-descriptor codes 1, 3 and 4 that a descriptor meets (R214); `tagged` says whether a TAG is allowed. -/
def Desc.codes (d : Desc) (tagged : Bool) (l : Layout) : List Nat :=
  let high := d.addr.toNat / 2 ^ 56
  let bad1 := decide (d.w3.toNat / 2 ^ 17 ≠ 0) || decide (d.w3.toNat / 2 ^ 13 % 8 ≠ 0) || (!d.pool && high != 0)
    || (d.pool && !tagged && d.tag != 0)
  let base := if d.pool then d.off else d.addr.toNat
  (if bad1 then [1] else []) ++ (if base % 32 ≠ 0 ∨ d.stride % 32 ≠ 0 then [3] else [])
    ++ (if d.stride < l.len then [4] else [])

/-- What R214 asks of a descriptor's place, after its fields: a column pointer to the issuing column, or a pool reference
whose lines lie inside its window. The trap's ADDR is the descriptor's, as R214 says, also where R392's table of pool-window
faults has the offset (log 22, DEDUCED). -/
def Cx.descPlace (c : Cx) (d : Desc) (l : Layout) : Option Cause :=
  if d.pool then
    match c.poolPlace d.g d.off ((l.lines - 1) * d.stride + l.len) 1 with
    | .error e => some { e with addr := d.addr }
    | .ok _ => none
  else
    let ctx := c.s.ctx c.asid
    let n := d.addr.toNat / 2 ^ 48 % 256
    let p := if n = 0xFF then some c.x.col else ctx.pcol n
    match p with
    | some q => if q = c.x.col then none else some { code := 0x27, info := BitVec.ofNat 32 q, addr := d.addr }
    | none => none

/-- The first code of some descriptors, lowest first, with the descriptor that has it (log 21, DEDUCED). -/
def lowestCode (l : List (Nat × Addr)) : Option (Nat × Addr) :=
  l.foldl (fun b p => match b with | none => some p | some q => if p.1 < q.1 then some p else some q) none

/-- The check of R214: the fields of every descriptor, then their places, A and B before the memory operand. -/
def Cx.descriptors (c : Cx) (ds : List (Desc × List Nat × Layout)) (g : Cx → Step) : Step :=
  match lowestCode (ds.flatMap fun d => d.2.1.map fun k => (k, d.1.addr)) with
  | some (k, a) => c.raise 0x30 k a c.act
  | none =>
    match ds.findSome? fun d => c.descPlace d.1 d.2.2 with
    | some e => c.stop (.trap e c.act)
    | none => g c

/-- The tile SUB names. -/
def Cx.tile (c : Cx) : Nat := c.f.sub.toNat % 4

/-- The ordering of the Matrix class (R65, R67). -/
def Cx.matrixOrd (c : Cx) : Ord := { acq := bit c.f.x 6, rel := bit c.f.x 7, scope := c.f.sub.toNat / 4 % 8 }

/-- A matrix command queued. -/
def Cx.queueMat (c : Cx) (op : MatOp) (a b : List Word) : Step :=
  .ok (c.queue (.mat { op := op, tile := c.tile, descA := a, descB := b, slotA := c.f.x.toNat % 8
                       slotB := c.f.x.toNat / 8 % 8, ord := c.matrixOrd, warp := c.w, block := c.x.block, batch := 0, next := 0
                       pc := c.pc }))

/-- The code 2 of a reduction length (R214). -/
def badK (chunk k : Nat) (a b : Slot64) : Bool :=
  k == 0 || decide (4096 < k) || k % chunk != 0 || (a.zblock != 0 && k % a.zblock != 0)
    || (b.zblock != 0 && k % b.zblock != 0)

/-- MMA and MMAT (R214, R228). -/
def Cx.multiply (c : Cx) (op : MatOp) : Step :=
  let a := c.argA 4 .b32
  let b := c.argB 4 .b32
  c.wholeWarp fun c =>
    c.scalar [a, b] 0 fun c =>
      let da := descOf (c.words a 0)
      let db := descOf (c.words b 0)
      let chunk := ((matPair (op == .mmat) c.slotA.fmt c.slotB.fmt).map Prod.fst).getD 16
      let la := c.slotA.layout da.k 192 (!da.ori)
      let lb := c.slotB.layout db.k 128 db.ori
      let two (k : Nat) : List Nat := if badK chunk k c.slotA c.slotB || da.k != db.k then [2] else []
      c.descriptors [(da, da.codes true la ++ two da.k, la), (db, db.codes true lb ++ two db.k, lb)] fun c =>
        c.queueMat op (c.words a 0) (c.words b 0)

/-- MMA. -/
def bodyMma (c : Cx) : Step := c.multiply .mma
/-- MMAT. -/
def bodyMmat (c : Cx) : Step := c.multiply .mmat

/-- MLDZ and MST (R214, R230, R231). -/
def Cx.tileMove (c : Cx) (op : MatOp) : Step :=
  let a := c.argA 4 .b32
  c.wholeWarp fun c =>
    c.scalar [a] 0 fun c =>
      let d := descOf (c.words a 0)
      let l := c.slotA.tileLayout d.ori
      c.descriptors [(d, d.codes false l ++ (if d.k = 0 then [] else [2]), l)] fun c => c.queueMat op (c.words a 0) []

/-- MLDZ. -/
def bodyMldz (c : Cx) : Step := c.tileMove .mldz
/-- MST. -/
def bodyMst (c : Cx) : Step := c.tileMove .mst

/-- MZERO (R229). -/
def bodyMzero (c : Cx) : Step := c.wholeWarp fun c => c.scalar [] 0 fun c => c.queueMat .mzero [] []

/-- MFENCE (R232): the batch number is written at commit. -/
def bodyMfence (c : Cx) : Step :=
  c.wholeWarp fun c => c.scalar [] 1 fun c =>
    match c.f.d with
    | .s d => .ok (c.queue (.mfence d.toNat))
    | _ => .ok c

/-- MWAIT (R233). -/
def bodyMwait (c : Cx) : Step :=
  let a := c.argA 1 .n32
  c.wholeWarp fun c => c.scalar [a] 0 fun c => .ok (c.endIn (.mwait (c.word a 0 0)))

/-- MSTAT (R234): its words are those of its arrival. -/
def bodyMstat (c : Cx) : Step :=
  c.wholeWarp fun c =>
    if c.grd = 0 then .ok c
    else c.later none 1 (List.replicate 4 Lanes.zero) (.mstat c.tile) true

/-- The meaning of MMA. -/
def execMma (f : Fields) (s : State) : Host.Outcome State Fault Refusal := s.issue .mma f false preMma bodyMma
/-- The meaning of MMAT. -/
def execMmat (f : Fields) (s : State) : Host.Outcome State Fault Refusal := s.issue .mmat f false preMmat bodyMmat
/-- The meaning of MZERO. -/
def execMzero (f : Fields) (s : State) : Host.Outcome State Fault Refusal := s.issue .mzero f false noPre bodyMzero
/-- The meaning of MLDZ. -/
def execMldz (f : Fields) (s : State) : Host.Outcome State Fault Refusal := s.issue .mldz f false preTile bodyMldz
/-- The meaning of MST. -/
def execMst (f : Fields) (s : State) : Host.Outcome State Fault Refusal := s.issue .mst f false preTile bodyMst
/-- The meaning of MFENCE. -/
def execMfence (f : Fields) (s : State) : Host.Outcome State Fault Refusal := s.issue .mfence f false noPre bodyMfence
/-- The meaning of MWAIT. -/
def execMwait (f : Fields) (s : State) : Host.Outcome State Fault Refusal := s.issue .mwait f false noPre bodyMwait
/-- The meaning of MSTAT. -/
def execMstat (f : Fields) (s : State) : Host.Outcome State Fault Refusal := s.issue .mstat f false noPre bodyMstat

end Sys2Proof.Machine
end

