-- ==== Sys2Proof/Machine/Engine.lean ====
section
/-! DEFINITION. How the engines reach bytes: the copy engine, the bank logic, the matrix engine and the merge station read
and write at each target column's coherent tier (R252, R269, R321, R333). -/

namespace Sys2Proof.Machine

open Sys2Proof

/-- The place of byte `o` of the pool window of block `g` of a gang, as an engine checks it (R308): the gang's window,
then the partition. A window on a slice-failed column meets the column-map fault (R405). -/
def State.poolAt (s : State) (gang g o : Nat) : Except Cause Loc :=
  match s.gang gang with
  | none => .error (poolFault 2 g o)
  | some k =>
    let r := ((s.grid k.grid).map Grid.rcd).getD Record.empty
    if k.size ≤ g then .error (poolFault 2 g o)
    else if r.poolw * 1024 ≤ o then .error (poolFault 3 g o)
    else
      let col := k.columnOf g
      let base := mapGetD k.pool col 0
      if (s.column col).failed = 2 then
        .error { code := 0x22, info := BitVec.ofNat 32 g, addr := BitVec.ofNat 64 o }
      else if (s.column col).cwp * 2 ^ 20 ≤ base + o then .error (poolFault 4 g o)
      else .ok (.spad col (base + o))

/-- The place of byte `i` of an engine operand: a column pointer, or a pool reference in the layout of R212. Bytes that
run past the last offset meet the alignment fault (R239). -/
def State.engineByte (s : State) (col asid gang : Nat) (ptr : Addr) (i : Nat) (need : Need) : Except Cause Loc :=
  if bit ptr 63 then s.poolAt gang (ptr.toNat / 2 ^ 48 % 256) (ptr.toNat % 2 ^ 48 + i)
  else if 2 ^ 48 ≤ ptr.toNat % 2 ^ 48 + i then .error (misaligned (ptr + BitVec.ofNat 64 i))
  else s.enginePlace col asid (ptr + BitVec.ofNat 64 i) need

/-- The places of the bytes of an engine operand, or the first fault among them. -/
def placesOrFault (f : Nat → Except Cause Loc) : List Nat → Except Cause (List Loc)
  | [] => .ok []
  | i :: rest =>
    match f i with
    | .error c => .error c
    | .ok l => match placesOrFault f rest with
      | .error c => .error c
      | .ok ls => .ok (l :: ls)

/-- The places of `n` bytes at an engine operand. -/
def State.enginePlaces (s : State) (col asid gang : Nat) (ptr : Addr) (n : Nat) (need : Need) :
    Except Cause (List Loc) :=
  placesOrFault (fun i => s.engineByte col asid gang ptr i need) (List.range n)

/-- Locations with one for each 64-byte line. -/
def lineLocs (ls : List Loc) : List Loc :=
  ls.foldl (fun acc l => if acc.any fun k => k.same64 l then acc else acc ++ [l]) []

/-- What the column caches hold after an engine has met some bytes; `off` is the offset of the first. -/
def State.engineTouch (s : State) (col asid off : Nat) (ls : List Loc) (store : Bool) : State :=
  (lineLocs ls).foldl (fun s l =>
    let s := s.touchLoc asid col l off { store := store }
    if store then
      match l with
      | .mem c _ _ => s.shootL1 c 0 l true
      | _ => s.shootL1 col 0 l true
    else s) s

/-- Bytes an engine reads, with their poison. -/
def State.engineRead (s : State) (col : Nat) (ls : List Loc) : List (Byte × Bool) := ls.map (s.readLoc col)

/-- The lines of column memory that a read finds in no sector, read from the array (R399, R411). -/
def State.arrayRead (s : State) (ls : List Loc) : State :=
  let lines := ls.foldl (fun (acc : List Loc) l =>
    if acc.any fun k => k.same64 l && k.line == l.line then acc else acc ++ [l]) []
  lines.foldl (fun s l => match l with
    | .mem c pa _ => if s.holdsSector c pa then s else s.readLines c (pa / 32) 1
    | _ => s) s

/-- Bytes that the device reads on behalf of a context, as a party of column `viewer` sees them (128 for none): the walks are
made, and errors of the array are met (R375, R399, R411). -/
def State.deviceRead (s : State) (viewer col asid : Nat) (ptr : Addr) (n : Nat) : Except Cause (List (Byte × Bool)) × State :=
  let s := s.walkBytes asid col ptr n
  match s.enginePlaces col asid 0 ptr n { read := true } with
  | .error e => (.error e, s)
  | .ok ls => (.ok (s.engineRead viewer ls), s.arrayRead ls)

/-- Bytes an engine writes: the sectors are there before a byte of them changes (R283). -/
def State.engineWrite (s : State) (col asid off : Nat) (ls : List Loc) (bs : List (Byte × Bool)) : State :=
  let s := (lineLocs ls).foldl (fun s l => s.flushLine (match l with | .mem c _ _ => c | _ => col) l) s
  (s.engineTouch col asid off ls true).writeBytes col ((ls.zip bs).map fun p =>
    { loc := p.1, va := 0, byte := p.2.1, poison := p.2.2 : ByteW })

/-- The context of a peer device that a context is paired with, where the tables of both devices name each other (R373). -/
def State.mutual (s : State) (asid dev : Nat) : Option Nat :=
  match mapGet (s.ctx asid).pairs dev with
  | some pasid => if dev ≤ 287 ∧ mapGet s.pairsIn (dev * 8192 + pasid) = some asid then some pasid else none
  | none => none

/-- The acquire with which an engine command begins (R269). -/
def State.engineAcquire (s : State) (col core : Nat) (o : Ord) : State :=
  if o.acq then s.acquire col core o.scope else s

/-- The release with which an engine command ends (R269). -/
def State.engineRelease (s : State) (col : Nat) (o : Ord) : State := if o.rel then s.release col o.scope else s

/-- A consumption of poison by an engine for a context and a block (R395). -/
def State.engineConsume (s : State) (asid col block : Nat) : State :=
  ((s.setCir asid col 0).countCir asid col 32 1).modBlock block fun b => { b with poison := true }

end Sys2Proof.Machine
end

