-- ==== Sys2Proof/Machine/Station.lean ====
section
/-! DEFINITION. The merge stations: what a round reference names (R330, R331), the landing (R332), and what a station does
with each command (R333-R339, R343, R346), and what leaves for a peer's station, which is outside the device (log 26, DESIGN
CHOICE). -/

namespace Sys2Proof.Machine

open Sys2Proof

/-- ID of a round reference (R330). -/
def refId (r : Addr) : Nat := r.toNat % 65536
/-- COL of a round reference. -/
def refCol (r : Addr) : Nat := r.toNat / 2 ^ 48 % 256
/-- PEER of a round reference. -/
def refPeer (r : Addr) : Nat := r.toNat / 2 ^ 32 % 512
/-- REM of a round reference. -/
def refRem (r : Addr) : Bool := bit r 63

/-- Does a reference break R330? -/
def badRef (r : Addr) : Bool :=
  decide (r.toNat / 2 ^ 56 % 128 ≠ 0) || decide (r.toNat / 2 ^ 41 % 128 ≠ 0) || decide (r.toNat / 2 ^ 16 % 2 ^ 16 ≠ 0)
    || (if refRem r then decide (287 < refPeer r) else refPeer r != 0)

/-- The station of this device that a reference names, seen from a column of a context (R330, R340). -/
def State.stationOf (s : State) (asid col : Nat) (r : Addr) : Option Nat :=
  if refRem r then none
  else if refCol r = 0xFF then some col
  else (s.ctx asid).pcol (refCol r)

/-- The station of this device that a peer's reference names: a column of the context it is paired with (R330, R340). -/
def State.peerStation (s : State) (asid : Nat) (r : Addr) : Option Nat := (s.ctx asid).pcol (refCol r)

/-- Does a byte of an open round's total lie elsewhere than in its station's column and on the host (R15, R343 code 8)? -/
def Loc.awayFrom (st : Nat) : Loc → Bool
  | .mem c _ _ => c != st
  | .host _ => false
  | _ => true

/-- Can a station be reached (R405)? -/
def State.reachable (s : State) (st : Nat) : Bool := (s.column st).failed != 2

/-- The round a reference names at a station for a context: the OPEN one, or the one that completed last (R331)
(log 44, DEDUCED). -/
def State.findRound (s : State) (asid st id : Nat) : Option (Nat × Round) :=
  let mine := s.rounds.filter fun kv => kv.2.col == st && kv.2.asid == asid && kv.2.id == id
  match mine.find? fun kv => kv.2.state == .opened with
  | some kv => some kv
  | none => mine.foldl (fun b kv => match b with
      | none => some kv
      | some x => if x.2.order < kv.2.order then some kv else some x) none

/-- The open round a reference names (log 43, DEDUCED). -/
def State.openRound (s : State) (asid st id : Nat) : Option (Nat × Round) :=
  match s.findRound asid st id with
  | some kv => if kv.2.state = .opened then some kv else none
  | none => none

/-- Bytes of one element, and of one tile (R332). -/
def elemBytes (half : Bool) : Nat := if half then 2 else 4
/-- Bytes of one tile. -/
def tileBytes (half : Bool) : Nat := 1024 * elemBytes half

/-- A contributor that nothing has been staged for. -/
def Contributor.fresh : Contributor :=
  { tiles := [], loose := [], gang := none, ended := false, faulted := false, poison := false, psn := [], scale := none,
    released := false }

/-- A contributor of a round. -/
def Round.contributor (r : Round) (c : Nat) : Contributor := mapGetD r.cont c Contributor.fresh

/-- A contributor changed. -/
def Round.modCont (r : Round) (c : Nat) (g : Contributor → Contributor) : Round :=
  { r with cont := mapSet r.cont c (g (r.contributor c)) }

/-- The landing bytes an open round takes: its reserve, and the tiles it staged in the free space. -/
def Round.bytes (r : Round) : Nat :=
  if r.state = .opened then
    2 * r.t * tileBytes r.bf16 + (r.cont.map fun c => c.2.loose.length * tileBytes r.bf16).sum
  else 0

/-- The landing of a column: 4 MiB (R332) (log 45, DEDUCED). -/
def landingBytes : Nat := 4 * 2 ^ 20

/-- The landing bytes of a station that are neither reserved nor staged (R348) (log 45, DEDUCED). -/
def State.landingFree (s : State) (st : Nat) : Nat :=
  landingBytes - ((s.rounds.filter fun kv => kv.2.col == st).map fun kv => kv.2.bytes).sum

/-- Is a contributor held (R337)? -/
def Contributor.held (c : Contributor) : Bool := (match c.gang with | some (_, rs) => rs | none => false) && !c.released

/-- A round changed. -/
def State.modRound (s : State) (n : Nat) (f : Round → Round) : State :=
  match mapGet s.rounds n with
  | some r => { s with rounds := mapSet s.rounds n (f r) }
  | none => s

/-- The word of MRG.STAT (R348) for a station of this device. -/
def State.mergeStat (s : State) (asid st id sub : Nat) : Word :=
  if sub = 4 then BitVec.ofNat 32 (s.landingFree st)
  else match s.findRound asid st id with
    | none => 0
    | some (_, r) =>
      match sub with
      | 0 =>
        let held := r.cont.any fun c => c.2.held
        BitVec.ofNat 32 ((if r.state = .opened then 1 else 2) + (if held then 4 else 0) + 16 * r.head)
      | 1 => BitVec.ofNat 32 r.nDone
      | 2 => BitVec.ofNat 32 r.nRej
      | _ => BitVec.ofNat 32 r.nScaled

/-! ### Refusals -/

/-- A refusal recorded against the issuing warp (R343) (log 71, DEDUCED). -/
def State.refuse (s : State) (m : MergeCmd) (code cont tile : Nat) (addr : Addr) : State :=
  s.modWarp m.warp fun x =>
    { x with refused := x.refused ++ [{ ref := m.ref, code := code, cont := cont, tile := tile, addr := addr }] }

/-- A command performed or refused: it leaves the queue. -/
def State.endMerge (s : State) (m : MergeCmd) : State := { s with merges := mapErase s.merges m.id }

/-- The station of a command on this device, or the code of its refusal (R343). -/
def State.mergeStation (s : State) (m : MergeCmd) : Except Nat Nat :=
  match s.stationOf m.asid m.col m.ref with
  | none => .error 1
  | some st => if s.reachable st then .ok st else .error 11

/-- Every waiter of a round told its fate (R338, R339): 1 dropped, 2 + scope done (log 70, DEDUCED). Those of peers are sent
it. -/
def State.tellWaiters (s : State) (r : Round) (fate : Nat) : State :=
  let s := r.waiters.foldl (fun s q => s.send (.mergeFate q.1 q.2 fate)) s
  { s with warps := mapAll s.warps fun _ x =>
      match x.wait with
      | .mrgWait d ref 0 =>
        if s.asidOf x = r.asid ∧ refId ref = r.id ∧ s.stationOf r.asid x.col ref = some r.col then
          { x with wait := .mrgWait d ref fate }
        else x
      | _ => x }

/-! ### Commands of a warp -/

/-- K of an OPEN parameter pair (R345). -/
def openK (w1 : Word) : Nat := w1.toNat % 8192
/-- T of an OPEN parameter pair. -/
def openT (w1 : Word) : Nat := w1.toNat / 2 ^ 16 % 64 + 1

/-- A slot for a new round (R331): a free one, the context's DONE round that completed earliest, or any context's. -/
def State.roundSlot (s : State) (asid st : Nat) : Option State :=
  let here := s.rounds.filter fun kv => kv.2.col == st
  let earliest (l : List (Nat × Round)) : Option Nat :=
    (l.foldl (fun b kv => match b with
      | none => some kv
      | some x => if kv.2.order < x.2.order then some kv else some x) none).map Prod.fst
  if here.length < 64 then some s
  else
    let done := here.filter fun kv => kv.2.state == .done
    match earliest (done.filter fun kv => kv.2.asid == asid), earliest done with
    | some k, _ | none, some k => some { s with rounds := mapErase s.rounds k }
    | none, none => none

/-- The elements of some bytes, in words. -/
def elemsOf (half : Bool) (bs : List (Byte × Bool)) : List Word :=
  let e := elemBytes half
  (List.range (bs.length / e)).map fun i => BitVec.ofNat 32 (leNat (((bs.drop (e * i)).take e).map Prod.fst))

/-- One tile from its 1,024 elements: the `i`-th of some. -/
def tileOf (ws : List Word) (i : Nat) : List Word := (ws.drop (1024 * i)).take 1024

/-- MRG.OPEN performed (R346): the slot, the landing, the total read (log 43, DEDUCED). -/
def State.openAt (s : State) (m : MergeCmd) (st : Nat) : State :=
  let half := bit m.w1 24
  let t := openT m.w1
  let tb := tileBytes half
  if (s.openRound m.asid st (refId m.ref)).isSome then (s.refuse m 6 0 0 0).endMerge m
  else match s.roundSlot m.asid st with
    | none => (s.refuse m 7 0 0 0).endMerge m
    | some s' =>
      if s.landingFree st < 2 * t * tb then (s.refuse m 7 0 0 0).endMerge m
      else
        let s1 := (s.engineAcquire m.col 0 m.ord).walkBytes m.asid st m.src (t * tb)
        match s1.enginePlaces st m.asid m.gang m.src (t * tb) { read := true, write := true } with
        | .error c => (s1.refuse m 8 0 0 c.addr).endMerge m
        | .ok ls =>
          let bs := s1.engineRead st ls
          if ls.any (Loc.awayFrom st) || bs.any Prod.snd then (s.refuse m 8 0 0 m.src).endMerge m
          else
            let ws := elemsOf half bs
            let r : Round :=
              { col := st, asid := m.asid, id := refId m.ref, state := .opened, bf16 := half, t := t, k := openK m.w1,
                limit := m.w0, tot := m.src, scope := m.ord.scope, order := 0, total := (List.range t).map (tileOf ws), psn := []
                cont := [], head := 0, nDone := 0, nRej := 0, nScaled := 0, waiters := [] }
            let (n, s2) := s1.takeId
            let s2 := s2.engineTouch st m.asid (m.src.toNat % 2 ^ 48) ls false
            let s2 := { s2 with rounds := mapSet s'.rounds n r }
            (s2.engineRelease m.col m.ord).endMerge m

/-- CID of a PUT or END word (R345). -/
def cidOf (w : Word) : Nat := w.toNat % 4096
/-- T0 of a PUT word. -/
def putT0 (w : Word) : Nat := w.toNat / 2 ^ 16 % 64
/-- NT of a PUT word. -/
def putNt (w : Word) : Nat := w.toNat / 2 ^ 24 % 64 + 1

/-- What refuses a PUT or an END of a contributor (R343), in ascending code (log 46, DEDUCED). -/
def Round.refusal (r : Round) (m : MergeCmd) (put : Bool) : Option (Nat × Nat) :=
  let c := cidOf m.w0
  let k := r.contributor c
  if r.k ≤ c then some (2, 0)
  else if put && decide (r.t < putT0 m.w0 + putNt m.w0) then some (3, max r.t (putT0 m.w0))
  else if c < r.head ∨ k.ended then some (4, if put then putT0 m.w0 + m.done else 0)
  else if (match k.gang with | some (g, _) => g != m.gang | none => false) then some (9, if put then putT0 m.w0 + m.done else 0)
  else if put && bit m.w0 30 != r.bf16 then some (12, putT0 m.w0 + m.done)
  else none

/-- A contributor bound to the gang of its first PUT or END (R334). -/
def Contributor.bind (k : Contributor) (gang : Nat) (rstrt : Bool) : Contributor :=
  match k.gang with
  | some _ => k
  | none => { k with gang := some (gang, rstrt) }

/-- The contributor of a command that faulted (R343 code 5): bound to the command's gang, and rejected at its END. -/
def Round.faultCont (r : Round) (c gang : Nat) (held : Bool) : Round :=
  r.modCont c fun k => { k.bind gang held with faulted := true }

/-- Is a gang's grid restartable? -/
def State.restartable (s : State) (gang : Nat) : Bool :=
  (((s.gang gang).bind fun k => s.grid k.grid).map fun g => g.rcd.rstrt).getD false

/-- Will a gang's contributor be held (R337): its grid is restartable, and the gang has not retired? -/
def State.willHold (s : State) (gang : Nat) : Bool :=
  s.restartable gang && ((s.gang gang).map Gang.state) != some .retired

/-- Where the tile in flight of a PUT goes on in its source. -/
def MergeCmd.at_ (m : MergeCmd) (half : Bool) : Nat := m.done * tileBytes half + m.part.length

/-- The place of a byte of a PUT's source (R333): in column memory of the issuing column, or in a pool window. -/
def State.tileByte (s : State) (m : MergeCmd) (i : Nat) : Except Cause Loc :=
  match s.engineByte m.col m.asid m.gang m.src i { read := true } with
  | .ok (.mem p pa k) =>
    if p = m.col then .ok (.mem p pa k)
    else .error { code := 0x27, info := BitVec.ofNat 32 p, addr := m.src + BitVec.ofNat 64 i }
  | r => r

/-- The bytes of the source that the next chunk of a tile takes (R333). -/
def MergeCmd.chunk (m : MergeCmd) (half : Bool) : List Nat :=
  (List.range (min 256 (tileBytes half - m.part.length))).map (m.at_ half + ·)

/-- The next chunk of a PUT's tile read at the issuing column, as an engine party (R321, R333), with what had been read of the
tile, or the address that faulted. Its bytes are counted (R340), and its poison consumed, once for a tile (R343). -/
def State.readTile (s : State) (m : MergeCmd) (half : Bool) : Except Addr (State × List (Byte × Bool)) :=
  match placesOrFault (s.tileByte m) (m.chunk half) with
  | .error e => .error e.addr
  | .ok ls =>
    let s := if m.done = 0 ∧ m.part = [] then s.engineAcquire m.col 0 m.ord else s
    let s := (s.walkBytes m.asid m.col (m.src + BitVec.ofNat 64 (m.at_ half)) ls.length).meter m.asid m.col 3 ls.length
    let new := s.engineRead m.col ls
    let s := s.engineTouch m.col m.asid ((m.src.toNat + m.at_ half) % 2 ^ 48) ls false
    .ok (if new.any Prod.snd && !m.part.any Prod.snd then s.engineConsume m.asid m.col m.block else s, m.part ++ new)

/-- A PUT with one more tile done. -/
def MergeCmd.tileDone (m : MergeCmd) : MergeCmd := { m with done := m.done + 1, part := [] }

/-- A contributor with a tile staged (R333): it replaces what stood there whole. -/
def Contributor.stage (k : Contributor) (tile : Nat) (half : Bool) (bs : List (Byte × Bool)) (reserved : Bool) : Contributor :=
  let again := (mapGet k.tiles tile).isSome
  { k with tiles := mapSet k.tiles tile (elemsOf half bs), poison := k.poison || bs.any Prod.snd
           psn := k.psn.filter fun l => l / 128 != tile
           loose := if reserved || again then k.loose else setIns k.loose tile }

/-- A tile of a PUT performed at its station, chunk by chunk as it is read (R332, R333, R343): staged, returned to its queue
for want of room, or refused (log 71, DEDUCED). -/
def State.stageTile (s : State) (m : MergeCmd) (st : Nat) : State :=
  let c := cidOf m.w0
  let tile := putT0 m.w0 + m.done
  match s.openRound m.asid st (refId m.ref) with
  | none => (s.refuse m 1 c tile 0).endMerge m
  | some (n, r) =>
    match r.refusal m true with
    | some (code, t) => (s.refuse m code c t 0).endMerge m
    | none =>
      if c ≠ r.head ∧ (mapGet (r.contributor c).tiles tile).isNone ∧ s.landingFree st < tileBytes r.bf16 then
        { s with merges := mapSet s.merges m.id { m with sent := m.done } }
      else match s.readTile m r.bf16 with
        | .error addr =>
          ((s.modRound n fun r => r.faultCont c m.gang (s.willHold m.gang)).refuse m 5 c tile addr).endMerge m
        | .ok (s, got) =>
          if got.length < tileBytes r.bf16 then { s with merges := mapSet s.merges m.id { m with part := got } }
          else
            let s := s.modRound n fun r =>
              r.modCont c fun k => (k.bind m.gang (s.willHold m.gang)).stage tile r.bf16 got (c == r.head)
            if m.done + 1 = putNt m.w0 then (s.engineRelease m.col m.ord).endMerge m
            else { s with merges := mapSet s.merges m.id m.tileDone }

/-- One element of a round as an FP32 pattern (R335). -/
def wide32 (half : Bool) (w : Word) : Nat := if half then w.toNat % 65536 * 65536 else w.toNat

/-- The measurement of a group (R335): rejected, or its scale. -/
def measureGroup (half : Bool) (t : Nat) (limit : Word) (k : Contributor) : Option Word :=
  let elems := (List.range t).flatMap fun i => mapGetD k.tiles i (List.replicate 1024 0)
  let finite (x : Nat) : Bool := match fp32.val x with | .fin _ _ _ => true | _ => false
  if k.faulted || k.poison || !k.psn.isEmpty || elems.any fun w => !finite (wide32 half w) then none
  else
    let sum := elems.foldl (fun acc w => add32 acc (mul32 (wide32 half w) (wide32 half w))) 0
    let norm := sqrt32 sum
    let le := match (fp32.val norm).cmp (fp32.val limit.toNat) with | some o => decide (o ≤ 0) | none => false
    some (if le then 0x3F800000 else BitVec.ofNat 32 (div32 limit.toNat norm))

/-- How many transfers a command makes: a tile each for a PUT, or one marker. -/
def MergeCmd.total (m : MergeCmd) : Nat := if m.op = .put then putNt m.w0 else 1

/-- Do two commands of one column name the same round, by whatever references (R330, R331)? -/
def State.sameRound (s : State) (m q : MergeCmd) : Bool :=
  q.col == m.col && q.asid == m.asid && refId q.ref == refId m.ref && refRem q.ref == refRem m.ref
    && (if refRem m.ref then refPeer q.ref == refPeer m.ref && refCol q.ref == refCol m.ref
      else s.stationOf q.asid q.col q.ref == s.stationOf m.asid m.col m.ref)

/-- Has an earlier PUT or END of the same contributor to the same round, accepted at the same column, still transfers to make
(R333)? -/
def State.mergeBehind (s : State) (m : MergeCmd) : Bool :=
  s.merges.any fun kv =>
    let q := kv.2
    decide (q.id < m.id) && s.sameRound m q && (q.op == .put || q.op == .endGroup) && cidOf q.w0 == cidOf m.w0
      && decide (q.done < q.total)

/-- MRG.END performed (R334, R335): the group is closed, bound and measured. -/
def State.endGroupAt (s : State) (m : MergeCmd) (st : Nat) : State :=
  let c := cidOf m.w0
  match s.openRound m.asid st (refId m.ref) with
  | none => (s.refuse m 1 c 0 0).endMerge m
  | some (n, r) =>
    match r.refusal m false with
    | some (code, t) => (s.refuse m code c t 0).endMerge m
    | none =>
      let close (r : Round) : Round := r.modCont c fun k =>
        let k := k.bind m.gang (s.willHold m.gang)
        { k with ended := true, scale := some (measureGroup r.bf16 r.t r.limit k) }
      ((s.modRound n close).engineRelease m.col m.ord).endMerge m

/-- One element of the total after a contributor's element with its scale (R336). -/
def accumulate (half : Bool) (total x scale : Word) : Word :=
  let y := mul32 (wide32 half x) scale.toNat
  if half then
    match bf16.val total.toNat, fp32.val y with
    | .nan, _ | _, .nan => BitVec.ofNat 32 bf16.nan
    | .inf n, .inf k => BitVec.ofNat 32 (if n = k then bf16.infinite false n else bf16.nan)
    | .inf n, .fin _ _ _ | .fin _ _ _, .inf n => BitVec.ofNat 32 (bf16.infinite false n)
    | .fin na ma ea, .fin nb mb eb =>
      let (n, v, e) := exactAdd .rne na ma ea nb mb eb
      BitVec.ofNat 32 (bf16.round .rne false n v e false)
  else BitVec.ofNat 32 (add32 total.toNat y)

/-- The scale a contributor commits with (R335, R336): none where it was rejected, or where its tiles have come to hold poison
since it was measured (R328). -/
def Contributor.commitScale (k : Contributor) : Option Word := if k.psn.isEmpty then k.scale.getD none else none

/-- The head contributor committed or rejected (R336): its tiles are freed and the head moves on. -/
def Round.advance (r : Round) : Round :=
  let k := r.contributor r.head
  let next : Round := { r with cont := mapErase r.cont r.head, head := r.head + 1 }
  match k.commitScale with
  | some sc =>
    { next with
      nDone := r.nDone + 1
      nScaled := if sc = 0x3F800000 then r.nScaled else r.nScaled + 1
      total := (List.range r.t).map fun i =>
        List.zipWith (fun a x => accumulate r.bf16 a x sc) (r.total.getD i [])
          (mapGetD k.tiles i (List.replicate 1024 0)) }
  | none => { next with nRej := r.nRej + 1 }

/-- May the head contributor commit (R336)? -/
def Round.headReady (r : Round) : Bool :=
  let k := r.contributor r.head
  r.state == .opened && decide (r.head < r.k) && k.ended && k.scale.isSome && !k.held

/-- The bytes of a running total, as its lines hold them, with their poison (R333, R409). -/
def Round.totalBytes (r : Round) : List (Byte × Bool) :=
  let e := elemBytes r.bf16
  let tb := tileBytes r.bf16
  ((r.total.flatMap fun t => t.flatMap fun w => leBytes e w.toNat).zipIdx).map fun b =>
    (b.1, r.psn.contains (128 * (b.2 / tb) + b.2 % tb / 32))

/-- Where a 32-byte row line of a total is written, as the maps stand (R338, R362): in the station's column still, and in no
other (R15). -/
def State.totalLine (s : State) (r : Round) (i : Nat) : Except Cause (List Loc) :=
  let ptr := r.tot + BitVec.ofNat 64 (32 * i)
  match s.enginePlaces r.col r.asid 0 ptr 32 { write := true } with
  | .error c => .error c
  | .ok ls =>
    if ls.any (Loc.awayFrom r.col) then .error { code := 0x22, info := BitVec.ofNat 32 (r.tot.toNat / 2 ^ 48 % 256), addr := ptr }
    else .ok ls

/-- The first `n` 32-byte row lines of a total written to TOT, in ascending order (R338). Each is translated as it is written
(R362); one that can no longer be is left (log 80, DEDUCED). -/
def State.writeLines (s : State) (r : Round) (n : Nat) : State :=
  (List.range n).foldl (fun s i =>
    let s := s.walkBytes r.asid r.col (r.tot + BitVec.ofNat 64 (32 * i)) 32
    match s.totalLine r i with
    | .ok ls => s.engineWrite r.col r.asid ((r.tot.toNat + 32 * i) % 2 ^ 48) ls ((r.totalBytes.drop (32 * i)).take 32)
    | .error _ => s) s

/-- A total written (R338). -/
def State.writeTotal (s : State) (r : Round) : State := s.writeLines r (r.totalBytes.length / 32)

/-- A round completed (R338): the total is written, released, and the round marked DONE. -/
def State.completeRound (s : State) (n : Nat) (r : Round) : State :=
  let s := (s.writeTotal r).release r.col r.scope
  let (order, s) := s.takeId
  let done := { r with state := .done, order := order, total := [], psn := [], cont := [], waiters := [] }
  let s := { s with rounds := mapSet s.rounds n done }
  s.tellWaiters r (2 + r.scope)

/-- A round dropped, and its waiters told (R339). -/
def State.dropRound (s : State) (n : Nat) (r : Round) : State :=
  ({ s with rounds := mapErase s.rounds n } : State).tellWaiters r 1

/-- MRG.DROP performed (R339): of the round the reference names, open or done (log 36, DEDUCED)
(log 70, DEDUCED). -/
def State.dropAt (s : State) (m : MergeCmd) (st : Nat) : State :=
  match s.findRound m.asid st (refId m.ref) with
  | none => (s.refuse m 1 0 0 0).endMerge m
  | some (n, r) => (s.dropRound n r).endMerge m

/-! ### The outbound queue -/

/-- The rank of a reference in a column's table (R341). -/
def Context.rankOf (c : Context) (col : Nat) (ref : Addr) : Nat :=
  ((c.rank.find? fun r => r.1 == col && r.2.1 == ref).map fun r => r.2.2).getD 128

/-- MRG.RANK performed (R341): an entry set, one added, or, in a table of 256, the first entry without queued
transfers replaced; none when the command must wait. -/
def State.setRank (s : State) (m : MergeCmd) : Option State :=
  let c := s.ctx m.asid
  let mine := c.rank.filter fun r => r.1 == m.col
  let new : Nat × Addr × Nat := (m.col, m.ref, m.w0.toNat % 256)
  let busy (ref : Addr) : Bool := s.merges.any fun kv =>
    kv.2.col == m.col && kv.2.asid == m.asid && kv.2.ref == ref && kv.2.id != m.id && (kv.2.op == .put || kv.2.op == .endGroup)
  let put (l : List (Nat × Addr × Nat)) : State := s.modCtx m.asid fun c => { c with rank := l }
  if mine.any fun r => r.2.1 == m.ref then
    some (put (c.rank.map fun r => if r.1 = m.col ∧ r.2.1 = m.ref then new else r))
  else if mine.length < 256 then some (put (c.rank ++ [new]))
  else match mine.find? fun r => !busy r.2.1 with
    | some old => some (put (c.rank.map fun r => if r = old then new else r))
    | none => none

/-- Would the next tile of a PUT find room at its station, or be refused there (R332, R343)? Anything else always does. -/
def State.hasRoom (s : State) (m : MergeCmd) : Bool :=
  match m.op, s.stationOf m.asid m.col m.ref with
  | .put, some st =>
    match s.openRound m.asid st (refId m.ref) with
    | some (_, r) =>
      let c := cidOf m.w0
      (r.refusal m true).isSome || c == r.head || (mapGet (r.contributor c).tiles (putT0 m.w0 + m.done)).isSome
        || decide (tileBytes r.bf16 ≤ s.landingFree st)
    | none => true
  | _, _ => true

/-- Does a merge command wait for a store that precedes it in its run, behind a BFENCE or CPART (R269)? -/
def State.mergeHeld (s : State) (m : MergeCmd) : Bool :=
  s.restBefore m.warp fun q => match q with
    | .merge k => k.op == m.op && k.ref == m.ref && k.src == m.src && k.w0 == m.w0 && k.w1 == m.w1
    | _ => false

/-- The next transfer a column's outbound queue sends (R341): lowest rank first, then in acceptance order; none while
one is in flight. A PUT goes tile by tile; a marker waits for the contributor's earlier transfers; a tile that would be
returned for want of room is sent once there is some, and lets the others pass (R332). -/
def State.nextTransfer (s : State) (col : Nat) : Option MergeCmd :=
  let runs (m : MergeCmd) : Bool := ((s.gang m.gang).map Gang.state) != some .preempted
  let q := (s.merges.map Prod.snd).filter fun m =>
    m.col == col && m.op != .openRound && m.op != .rank && runs m && !s.mergeHeld m && decide (m.done < m.total)
  if q.any fun m => decide (m.done < m.sent) then none
  else
    let open_ := q.filter fun m => if m.op = .put ∨ m.op = .endGroup then !s.mergeBehind m else true
    (open_.filter s.hasRoom).foldl (fun b m => match b with
      | none => some m
      | some x => if (s.ctx m.asid).rankOf col m.ref < (s.ctx x.asid).rankOf col x.ref then some m else some x) none

/-- Bytes of a transfer that crosses to a peer: a tile, or a marker. -/
def MergeCmd.bytes (m : MergeCmd) : Nat := if m.op = .put then tileBytes (bit m.w0 30) else 32

/-- A gang noted as having contributors at a peer's stations (R337). -/
def State.notePeer (s : State) (m : MergeCmd) : State :=
  if m.op = .drop then s else s.modGang m.gang fun k => { k with peers := setIns k.peers (refPeer m.ref) }

/-- A tile or a marker sent on to a peer's station (R340): it is counted on the link's meter. The command stays until the peer
answers (R347). -/
def State.sendOn (s : State) (m : MergeCmd) (pasid : Nat) (bs : List (Byte × Bool)) : State :=
  let s := ((s.meter m.asid m.col 8 m.bytes).notePeer m).send
    (.merge (refPeer m.ref) pasid { m with part := [] } (bs.map Prod.fst) (bs.any Prod.snd) (s.willHold m.gang))
  { s with merges := mapSet s.merges m.id m.tileDone }

/-- A peer's station told that a PUT or an END faulted (R343 code 5): a tile without its bytes, or a poisoned marker. -/
def State.faultPeer (s : State) (m : MergeCmd) (pasid : Nat) : State :=
  (s.notePeer m).send (.merge (refPeer m.ref) pasid { m with part := [] } [] true (s.willHold m.gang))

/-- A transfer to a peer (R323, R340, R343): code 11 when the peer is outside the domain or not mutually paired; a source fault
is code 5, and the peer is told that the tile holds poison, which faults the contributor too. -/
def State.sendPeer (s : State) (m : MergeCmd) : State :=
  match s.mutual m.asid (refPeer m.ref) with
  | none => (s.refuse m 11 (cidOf m.w0) 0 0).endMerge m
  | some pasid =>
    if m.op ≠ .put then s.sendOn m pasid []
    else
      let half := bit m.w0 30
      match s.readTile m half with
      | .error addr => (s.faultPeer m pasid).refuse m 5 (cidOf m.w0) (putT0 m.w0 + m.done) addr |>.endMerge m
      | .ok (s, got) =>
        if got.length < tileBytes half then { s with merges := mapSet s.merges m.id { m with part := got } }
        else s.sendOn m pasid got

/-- A peer's station has performed a command, all of whose transfers have left, or refused it, at any of them (R343, R347): with
it comes the release of a PUT or an END. An answer without a mutual pairing is the refusal of R373. -/
def State.mergeAnswered (s : State) (n code cont tile : Nat) (addr : Addr) : State :=
  match mapGet s.merges n with
  | none => s
  | some m =>
    let code := if (s.mutual m.asid (refPeer m.ref)).isNone then 11 else code
    if !refRem m.ref || m.done == 0 || (code == 0 && decide (m.done < m.total)) then s
    else if code = 0 then (s.engineRelease m.col m.ord).endMerge m
    else (s.refuse m (code % 256) (cont % 4096) (tile % 64) addr).endMerge m

/-- The next tile or marker of a column sent (R341). A waiting MRG.RANK is tried again first. -/
def State.sendNext (s : State) (col : Nat) : State :=
  let s := match s.merges.find? fun kv => kv.2.col == col && kv.2.op == .rank with
    | some (_, m) => match s.setRank m with
      | some t => t.endMerge m
      | none => s
    | none => s
  match s.nextTransfer col with
  | none => s
  | some m => { s with merges := mapSet s.merges m.id { m with sent := m.done + 1 } }

end Sys2Proof.Machine
end

