-- ==== Sys2Proof/Machine/Merge.lean ====
section
/-! DEFINITION. The issue of the merge instructions (R342-R348): their checks, and the commands they queue. -/

namespace Sys2Proof.Machine

open Sys2Proof

/-- The faults of R342 in the order the rule reports them: the first that applies. -/
def mergeFault (l : List (Bool × Cause)) : Option Cause := (l.find? fun p => p.1).map Prod.snd

/-- A merge-fault cause at issue. -/
def mergeCause (info : Nat) : Cause := { code := 0x35, info := BitVec.ofNat 32 info, addr := 0 }

/-- The reference in A. -/
def Cx.ref (c : Cx) : Addr := c.word64 (c.argA 2 .b64) 0

/-- A command of the issuing warp. -/
def Cx.mergeCmd (c : Cx) (op : MergeOp) (src : Addr) (w0 w1 : Word) : QCmd :=
  .merge { id := 0, op := op, ref := c.ref, src := src, w0 := w0, w1 := w1, ord := c.engineOrd, col := c.x.col,
           asid := c.asid, warp := c.w, block := c.x.block, gang := ((c.s.blockOf c.x).map Block.gang).getD 0, sent := 0
           done := 0, part := [] }

/-- A merge instruction's checks, then what it does. -/
def Cx.mergeCheck (c : Cx) (l : List (Bool × Cause)) (g : Cx → Step) : Step :=
  match mergeFault l with
  | some e => c.stop (.trap e c.act)
  | none => g c

/-- The check of a reference alone. -/
def Cx.refCheck (c : Cx) : Bool × Cause := (badRef c.ref, mergeCause 0x10)

/-- Is an FP32 limit outside (+0, +inf] (R342)? -/
def badLimit (l : Word) : Bool := decide (l = 0) || decide (0x7F800000 < l.toNat)

/-- MRG.OPEN (R342). -/
def bodyMrgOpen (c : Cx) : Step :=
  let a := c.argA 2 .b64
  let b := c.argB 2 .b64
  let k := c.argC 2 .b32
  c.scalar [a, b, k] 0 fun c =>
    let tot := c.word64 b 0
    let w1 := c.word k 0 1
    let bad := decide (w1.toNat / 2 ^ 25 ≠ 0) || decide (w1.toNat / 2 ^ 22 % 4 ≠ 0) || decide (w1.toNat / 2 ^ 13 % 8 ≠ 0)
      || openK w1 == 0 || decide (4096 < openK w1) || badLimit (c.word k 0 0)
    c.mergeCheck
      [c.refCheck, (c.s.stationOf c.asid c.x.col c.ref != some c.x.col, mergeCause 0x11), (bad, mergeCause 0x12),
       (decide (tot.toNat / 2 ^ 56 ≠ 0), { code := 0x21, info := 0, addr := tot }),
       (decide (tot.toNat % 256 ≠ 0), misaligned tot)] fun c =>
      .ok (c.queue (c.mergeCmd .openRound tot (c.word k 0 0) w1))

/-- MRG.PUT (R342). -/
def bodyMrgPut (c : Cx) : Step :=
  let a := c.argA 2 .b64
  let b := c.argB 2 .b64
  let k := c.argC 1 .b32
  c.scalar [a, b, k] 0 fun c =>
    let src := c.word64 b 0
    let w := c.word k 0 0
    let bad := bit w 31 || decide (w.toNat / 2 ^ 22 % 4 ≠ 0) || decide (w.toNat / 2 ^ 12 % 16 ≠ 0)
      || decide (64 < putT0 w + putNt w)
    c.mergeCheck
      [c.refCheck, (bad, mergeCause 0x12), (badCopyPtr false src, { code := 0x21, info := 0, addr := src }),
       (decide (src.toNat % 256 ≠ 0), misaligned src)] fun c =>
      .ok (c.queue (c.mergeCmd .put src w 0))

/-- MRG.END (R342). -/
def bodyMrgEnd (c : Cx) : Step :=
  let a := c.argA 2 .b64
  let b := c.argB 1 .n32
  c.scalar [a, b] 0 fun c =>
    let w := c.word b 0 0
    c.mergeCheck [c.refCheck, (decide (w.toNat / 2 ^ 12 ≠ 0), mergeCause 0x12)] fun c =>
      .ok (c.queue (c.mergeCmd .endGroup 0 w 0))

/-- MRG.RANK (R342). -/
def bodyMrgRank (c : Cx) : Step :=
  let a := c.argA 2 .b64
  let b := c.argB 1 .n32
  c.scalar [a, b] 0 fun c =>
    let w := c.word b 0 0
    c.mergeCheck [c.refCheck, (decide (w.toNat / 2 ^ 8 ≠ 0), mergeCause 0x12)] fun c =>
      .ok (c.queue (c.mergeCmd .rank 0 w 0))

/-- MRG.DROP (R342). -/
def bodyMrgDrop (c : Cx) : Step :=
  let a := c.argA 2 .b64
  c.scalar [a] 0 fun c => c.mergeCheck [c.refCheck] fun c => .ok (c.queue (c.mergeCmd .drop 0 0 0))

/-- MRG.WAIT (R347): the wait begins when its run has committed. -/
def bodyMrgWait (c : Cx) : Step :=
  let a := c.argA 2 .b64
  c.scalar [a] 1 fun c => c.mergeCheck [c.refCheck] fun c =>
    match c.f.d with
    | .s d => .ok (c.endIn (.mrgWait d.toNat c.ref))
    | _ => .ok c

/-- The word of MRG.STAT that a paired peer's station gives: a free value among those that R348 admits
(log 26, DESIGN CHOICE). -/
def peerStat (v : Word) (sub : Nat) : Word :=
  let n := v.toNat / 8
  match sub with
  | 0 => if v.toNat % 3 = 0 then 0 else BitVec.ofNat 32 (v.toNat % 3 + 4 * (n % 2) + 16 * (n / 2 % 4097))
  | 4 => BitVec.ofNat 32 (n % (landingBytes + 1))
  | _ => BitVec.ofNat 32 (n % 4097)

/-- The word of MRG.STAT (R348): 0 where no station can be named or reached. -/
def State.statWord (s : State) (asid col : Nat) (ref : Addr) (sub : Nat) : Word :=
  if refRem ref then (if (s.mutual asid (refPeer ref)).isNone then 0 else peerStat (s.freeW 0) sub)
  else match s.stationOf asid col ref with
    | none => 0
    | some st => if s.reachable st then s.mergeStat asid st (refId ref) sub else 0

/-- MRG.STAT (R348). Of a round it is a load of the round's slot (R355): behind an order of its run it rests on what the slot
says at the commit, and behind an acquire that a waiting load precedes the run ends before it (log 86, DESIGN CHOICE). -/
def bodyMrgStat (c : Cx) : Step :=
  let a := c.argA 2 .b64
  let psn := c.poisoned [a]
  let lane (w : Word) (p : Bool) : Lanes := { val := List.replicate 64 w, poison := if p then 1 else 0 }
  if c.grd = 0 then c.later none 0 [Lanes.zero] .none true
  else if psn ≠ 0 then (c.consume psn).later none 1 [lane 0 true] .none true
  else c.mergeCheck [c.refCheck] fun c =>
    if c.r.behind then c.stop .endRun
    else
      let sub := c.f.sub.toNat
      let word := c.s.statWord c.asid c.x.col c.ref sub
      let late := if 2 ≤ c.r.fenced ∧ !refRem c.ref then [(c.ref, sub, word)] else []
      ({ c with r := { c.r with lateStat := c.r.lateStat ++ late } } : Cx).later none 1 [lane word false] .none true

/-- The meaning of MRG.OPEN. -/
def execMrgOpen (f : Fields) (s : State) : Host.Outcome State Fault Refusal :=
  s.issue .mrgOpen f false noPre bodyMrgOpen
/-- The meaning of MRG.PUT. -/
def execMrgPut (f : Fields) (s : State) : Host.Outcome State Fault Refusal := s.issue .mrgPut f false noPre bodyMrgPut
/-- The meaning of MRG.END. -/
def execMrgEnd (f : Fields) (s : State) : Host.Outcome State Fault Refusal := s.issue .mrgEnd f false noPre bodyMrgEnd
/-- The meaning of MRG.WAIT. -/
def execMrgWait (f : Fields) (s : State) : Host.Outcome State Fault Refusal :=
  s.issue .mrgWait f false noPre bodyMrgWait
/-- The meaning of MRG.STAT. -/
def execMrgStat (f : Fields) (s : State) : Host.Outcome State Fault Refusal :=
  s.issue .mrgStat f false noPre bodyMrgStat
/-- The meaning of MRG.RANK. -/
def execMrgRank (f : Fields) (s : State) : Host.Outcome State Fault Refusal :=
  s.issue .mrgRank f false noPre bodyMrgRank
/-- The meaning of MRG.DROP. -/
def execMrgDrop (f : Fields) (s : State) : Host.Outcome State Fault Refusal :=
  s.issue .mrgDrop f false noPre bodyMrgDrop

end Sys2Proof.Machine
end

