-- ==== Sys2Proof/Machine/Residency.lean ====
section
/-! DEFINITION. Where warps stand: the slots and their arbitration (R73, R76, R77), the save area (R361), swap-out and
swap-in (R98), pre-emption (R149), and the scratchpad's partition (R287, R296, R370). -/

namespace Sys2Proof.Machine

open Sys2Proof

/-! ### The scratchpad -/

/-- The sectors of a scratchpad range hold the data of a context from now on, under the key slot of its save area there
(R368) (log 88, DEDUCED). -/
def State.tagSpad (s : State) (asid col lo hi : Nat) : State :=
  match mapGet (s.ctx asid).save col with
  | none => s
  | some (_, slot) =>
    let sectors := List.range ((hi - lo + 1023) / 1024)
    { s with spadTag := sectors.foldl (fun m i => mapSet m (spadKey col lo / 1024 + i) (slot, asid)) s.spadTag }

/-- Is a command a CPART? -/
def QCmd.isCpart : QCmd → Bool
  | .cpart _ => true
  | _ => false

/-- Does a run, from its command `n` on, hold the window it checked for a pool access that it has still to perform on a column
(R308)? An access behind a CPART of its own was checked against the partition that this will leave. -/
def Run.holdsPool (r : Run) (n col : Nat) : Bool :=
  let on (l : Loc) : Bool := match l with | .spad c _ => c == col | _ => false
  let own := n + (r.cmds.drop n).findIdx QCmd.isCpart
  (r.stbuf.any fun b => b.pool && decide (n ≤ b.after) && decide (b.after ≤ own) && b.bytes.any fun y => on y.loc)
    || ((r.cmds.take own).drop n).any (fun (q : QCmd) => match q with | .arrv c _ _ _ => c == col | _ => false)
    || (own == r.cmds.length && (match r.irr with
      | some (.atomic _ .patom accs _) => accs.any fun a => a.locs.any on
      | _ => false))

/-- Does the part of a run that stands behind a command stand behind a CPART? -/
def Rest.awaitsPart (k : Rest) : Bool := (k.run.cmds[k.place - 1]?).any QCmd.isCpart

/-- Does a warp other than `w` hold a window of a column (R308)? -/
def State.poolHeld (s : State) (col w : Nat) : Bool :=
  s.warps.any fun kv => kv.1 != w && ((match kv.2.run with | some r => r.holdsPool 0 col | none => false)
    || (match kv.2.rest with | some k => !k.awaitsPart && k.run.holdsPool k.place col | none => false))

/-- Has a warp still to perform an access that precedes the CPART it has queued (R353)? -/
def State.beforePart (s : State) (w : Nat) : Bool :=
  match (s.warp w).bind Warp.rest with
  | some k => !k.awaitsPart
  | none => false

/-- The partition of a column changed to `v` ways (R296): a growing scratchpad takes ways from the cache, written back
and zero; a shrinking one gives bytes up. -/
def State.setWays (s : State) (col v : Nat) : State :=
  let k := (s.column col).cwp
  let s := if k < v then
      let gone := (s.column col).sectors.filter fun x => !x.zero && decide (16 - v ≤ x.way) && decide (x.way < 16 - k)
      let s := gone.foldl (fun s x => s.dropSector (((mapGet s.keys x.slot).map Prod.fst).getD 0) col x) s
      s.clearSpad col (k * 2 ^ 20) (v * 2 ^ 20)
    else s.clearSpad col (v * 2 ^ 20) (k * 2 ^ 20)
  s.modColumn col fun c => { c with cwp := v }

/-! ### Arrivals -/

/-- An arrival of count `n` on the barrier object at a scratchpad offset (R118). A slice-failed column's window is written no
more (R405). -/
def State.arriveAt (s : State) (col off : Nat) (n : Word) : State :=
  if (s.column col).failed = 2 then s
  else
    let old := (List.range 16).map fun i => (s.readLoc col (.spad col (off + i))).1
    (arriveBytes old n).zipIdx.foldl (fun s b => s.putByte col (.spad col (off + b.2)) b.1) s

/-- Some arrivals that committed runs have sent performed. -/
def State.settleSome (s : State) (mine : Nat × Nat × Nat × Word → Bool) : State :=
  (s.arrivals.filter fun kv => mine kv.2).foldl (fun s kv => s.arriveAt kv.2.2.1 kv.2.2.2.1 kv.2.2.2.2)
    { s with arrivals := s.arrivals.filter fun kv => !mine kv.2 }

/-- The arrivals that a gang has sent performed: they belong to committed runs, and the windows they name are about to leave
(R118, R149). -/
def State.settleGang (s : State) (g : Nat) : State := s.settleSome fun a => a.1 == g

/-- The oldest waiting change of a column's partition performed (R296, R353), once its warp's accesses before it are performed
and no run holds a window there (R308) (log 37, DEDUCED). An arrival that was sent is a pool access, and comes first
(R240, R287). -/
def State.nextPart (s : State) (col : Nat) : State :=
  match (s.column col).parts with
  | [] => s
  | (v, w) :: rest =>
    if s.poolHeld col w || s.beforePart w then s
    else ((s.settleSome fun a => a.2.1 == col).setWays col v).modColumn col fun c => { c with parts := rest }

/-! ### Slots -/

/-- Does a warp stand on its core (R76)? -/
def Warp.resident (x : Warp) : Bool := !x.swapped && !x.halted && !x.retired

/-- The slot a warp takes when it becomes resident (R73): the one with the fewest bound warps, the lowest on a tie
(log 51, DEDUCED). -/
def State.pickSlot (s : State) (col core : Nat) : Nat :=
  let bound (k : Nat) : Nat := ((s.coreWarps col core).filter fun kv => kv.2.resident && kv.2.slot == k).length
  (List.range 4).foldl (fun b k => if bound k < bound b then k else b) 0

/-- The lowest core-local number no warp of a core holds (log 51, DEDUCED). -/
def State.pickWcore (s : State) (col core : Nat) : Nat :=
  ((List.range 32).find? fun n => (s.coreWarps col core).all fun kv => kv.2.halted || kv.2.wcore != n).getD 0

/-- A slot that a warp holds, given up (R77): its release time is now, and its monopoly count returns to zero. Release
times are kept as the order of the releases (log 2, DESIGN CHOICE). -/
def State.release77 (s : State) (w : Nat) : State :=
  let (t, s) := s.takeId
  (s.leaveSlot w).modWarp w fun x => { x with since := t }

/-! ### The save area -/

/-- The code of a wait in a warp record, and its operands (R361). -/
def Wait.image : Wait → Nat × List Byte
  | .none | .pressure _ _ _ _ => (0, List.replicate 16 0)
  | .bar b | .gbar b => (1, leBytes 16 b)
  | .waitb _ off p _ => (2, leBytes 8 off ++ leBytes 8 p.toNat)
  | .sleep t => (3, leBytes 16 t)
  | .cwait _ h => (4, leBytes 16 h.toNat)
  | .mwait n => (5, leBytes 16 n.toNat)
  | .mrgWait _ r _ => (6, leBytes 16 r.toNat)
  | .gwait _ h _ => (7, leBytes 16 h.toNat)

/-- A wait with its operands as 16 bytes of a warp record give them back (R361). -/
def Wait.restore (k : Wait) (bs : List Byte) : Wait :=
  match k with
  | .none => .none
  | .pressure bank held older first => .pressure bank held older first
  | .bar _ => .bar (leNat bs)
  | .gbar _ => .gbar (leNat bs)
  | .waitb col _ _ acq => .waitb col (leNat (bs.take 8)) (BitVec.ofNat 32 (leNat (bs.drop 8))) acq
  | .sleep _ => .sleep (leNat bs)
  | .cwait d _ => .cwait d (BitVec.ofNat 32 (leNat bs))
  | .mwait _ => .mwait (BitVec.ofNat 32 (leNat bs))
  | .mrgWait d _ fate => .mrgWait d (BitVec.ofNat 64 (leNat bs)) fate
  | .gwait d _ fate => .gwait d (BitVec.ofNat 32 (leNat bs)) fate

/-- The image of a warp in its record, as pieces with their offsets (R361). -/
def Warp.image (x : Warp) : List (Nat × List Byte) :=
  let r := x.regs
  let flag (b : Bool) (n : Nat) : Nat := if b then 2 ^ n else 0
  let word (l : List Nat) : Nat := l.foldl (fun a n => a ||| n) 0
  (r.v.map fun kv => (256 * kv.1, kv.2.lanes.image)) ++
    [(0x10000, r.c.flatMap fun e => e.lanes.image),
     (0x10800, r.s.flatMap fun v => leBytes 4 v.val.toNat),
     (0x10900, (List.range 64).map fun t => BitVec.ofNat 8 (word ((List.range 8).map fun n => flag (bit (r.pred n) t) n))),
     (0x10940, r.nc.map fun n => n),
     (0x10980, leBytes 8 r.mark.toNat),
     (0x10988, [BitVec.ofNat 8 r.depth, BitVec.ofNat 8 r.ldep, if x.hmode then 1 else 0,
                BitVec.ofNat 8 (word ((List.range 8).map fun k => flag ((r.c.map Entry.valid).getD k false) k))]),
     (0x1098C, leBytes 4 x.batch), (0x10990, leBytes 4 x.xcount), (0x10994, leBytes 4 x.wait.image.1),
     (0x10998, x.wait.image.2), (0x109A8, leBytes 8 r.pc.toNat),
     (0x109B0, leBytes 32 (word (r.v.map fun kv => 2 ^ kv.1))),
     (0x109D0, r.q.flatMap fun q => q.words.flatMap fun w => leBytes 4 w.toNat),
     (0x10A80, List.replicate 5504 0)]

/-- A warp written to its save area (R98, R149, R361) (log 35, DEDUCED). -/
def State.saveWarp (s : State) (x : Warp) : State := x.image.foldl (fun s p => s.saveBytes x p.1 p.2) s

/-- Some bytes of a warp's record as a number. -/
def State.loadNat (s : State) (x : Warp) (off n : Nat) : Nat × State :=
  let (bs, s) := s.recordRead x off n
  (recordNat bs 0 n, s)

/-- The V registers of a warp as its record gives them back: those of its live map (R98, R361). -/
def State.loadV (s : State) (x : Warp) (live : Nat) : AMap VReg × State :=
  (List.range 256).foldl (fun (acc : AMap VReg × State) i =>
    if live.testBit i then
      let (bs, s) := acc.2.recordRead x (256 * i) 256
      let old := (mapGet x.regs.v i).getD { phys := 0, lanes := Lanes.zero }
      (acc.1 ++ [(i, { old with lanes := old.lanes.restore bs })], s)
    else acc) ([], s)

/-- The registers of a warp as the rest of its record gives them back: `at_` reads a number of some bytes at an offset, and
`psn` whether one of them is poisoned (R98, R361, R394). -/
def Regs.loaded (r : Regs) (v : AMap VReg) (cs : List Entry) (at_ : Nat → Nat → Nat) (psn : Nat → Nat → Bool) : Regs :=
  { r with
    v := v, c := cs
    s := r.s.zipIdx.map fun e => { val := BitVec.ofNat 32 (at_ (0x800 + 4 * e.2) 4), poison := e.1.poison || psn (0x800 + 4 * e.2) 4 }
    p := (List.range 8).map fun n => maskOf fun t => (at_ (0x900 + t) 1).testBit n
    nc := (List.range 64).map fun t => BitVec.ofNat 8 (at_ (0x940 + t) 1)
    mark := BitVec.ofNat 64 (at_ 0x980 8), depth := at_ 0x988 1, ldep := at_ 0x989 1, pc := BitVec.ofNat 64 (at_ 0x9A8 8)
    q := r.q.zipIdx.map fun e =>
      { words := (List.range 11).map fun k => BitVec.ofNat 32 (at_ (0x9D0 + 44 * e.2 + 4 * k) 4)
        poison := e.1.poison || psn (0x9D0 + 44 * e.2) 44 } }

/-- A warp as its record gives it back (R98, R140, R361). What the record has no place for comes from the warp's own copy: the
poison that stood before the save, the destination of its wait, H0-H11; and where a trap has saved its part there before, that
part is written to the record again (log 35, DEDUCED). -/
def State.loadWarp (s : State) (x : Warp) : Warp × State :=
  let (bs, s) := s.recordRead x 0x10000 0xA80
  if bs.isEmpty then (x, s)
  else
    let at_ (o n : Nat) : Nat := recordNat bs o n
    let (v, s) := s.loadV x (at_ 0x9B0 32)
    let cs := restoreEntries x.regs.c (bs.take 0x800) (at_ 0x98B 1)
    let y := { x with
      regs := x.regs.loaded v cs at_ fun o n => ((bs.drop o).take n).any Prod.snd
      hmode := (at_ 0x98A 1).testBit 0, batch := at_ 0x98C 4, xcount := at_ 0x990 4
      wait := x.wait.restore (((bs.drop 0x998).take 16).map Prod.fst) }
    (y, match x.saved with
      | some t => s.saveTrap x t
      | none => s)

/-- The image of a tile: its elements, 6 bytes each (R361). -/
def Tile.image (t : Tile) : List Byte :=
  (List.range (192 * 128)).flatMap fun i => leBytes 6 (mapGetD t.elems i 0).toNat

/-- A tile as its image and its state in a block record give it back (R210, R361, R394). -/
def Tile.restore (t : Tile) (image state : List (Byte × Bool)) : Tile :=
  let flags := recordNat state 0 4
  { t with
    elems := (List.range (192 * 128)).filterMap fun i =>
      let e := recordNat image (6 * i) 6
      if e = 0 then none else some (i, BitVec.ofNat 48 e)
    prod := BitVec.ofNat 32 (recordNat state 4 4)
    mode := flags % 4, ovf := flags.testBit 2, psn := flags.testBit 3 || image.any Prod.snd, flt := flags.testBit 4 }

/-- The context of a block, and the core-local number of its first warp, by which its record is found (R361). -/
def State.blockPlace (s : State) (b : Nat) (k : Block) : Nat × Nat :=
  ((((s.gang k.gang).bind fun g => s.grid g.grid).map Grid.asid).getD 0,
    (((s.warpsOf b).find? fun kv => kv.2.num == 0).map fun kv => kv.2.wcore).getD 0)

/-- Where the record of a block lies in its save area (R361). -/
def blockRecord (core first : Nat) : Nat := 0x0900000 + 0x1220000 * core + 0x91000 * first

/-- The tiles of a block read back from its record (R140, R209, R361); they are as they were where another block has written the
record since (log 35, DEDUCED). -/
def State.loadBlock (s : State) (b : Nat) : State :=
  match s.block b with
  | none => s
  | some k =>
    let (asid, first) := s.blockPlace b k
    let base := blockRecord k.core first
    if mapGet s.records (recordKey asid k.col k.core first + 32) ≠ some b ∨ (mapGet (s.ctx asid).save k.col).isNone then s
    else
      let (tiles, s) := k.tiles.zipIdx.foldl (fun (acc : List Tile × State) e =>
        if e.1.mode = 0 then (acc.1 ++ [e.1], acc.2)
        else
          let (image, s) := acc.2.savedAt asid k.col (base + 0x24000 * e.2) 0x24000
          let (state, s) := s.savedAt asid k.col (base + 0x90000 + 16 * e.2) 16
          (acc.1 ++ [e.1.restore image state], s)) ([], s)
      s.modBlock b fun k => { k with tiles := tiles }

/-- A block written to its record (R149, R209, R361): tiles, their state, barrier arrivals (log 35, DEDUCED). -/
def State.saveBlock (s : State) (b : Nat) : State :=
  match s.block b with
  | none => s
  | some k =>
    let (asid, first) := s.blockPlace b k
    let base := blockRecord k.core first
    let s := { s with records := mapSet s.records (recordKey asid k.col k.core first + 32) b }
    let s := (List.range 4).foldl (fun s z =>
      let t := k.tiles.getD z Tile.clear
      let s := if t.mode = 0 then s else s.saveAt asid k.col (base + 0x24000 * z) t.image
      s.saveAt asid k.col (base + 0x90000 + 16 * z) (leBytes 4 t.flags ++ leBytes 4 t.prod.toNat ++ List.replicate 8 0)) s
    let gb := ((s.gang k.gang).map Gang.gbar).getD []
    let mine (l : List (Nat × Nat)) (n : Nat) : Nat :=
      (l.filter fun a => a.1 == n && ((s.warp a.2).map Warp.block) == some b).length
    s.saveAt asid k.col (base + 0x90040)
      ((List.range 16).flatMap (fun n => leBytes 4 (mine k.bar n)) ++ (List.range 16).flatMap fun n => leBytes 4 (mine gb n))

/-- A pool window written to, or read back from, the save area of its column (R149, R361). -/
def State.savePool (s : State) (asid col base len : Nat) : State :=
  match mapGet (s.ctx asid).save col with
  | none => s
  | some (pa, slot) =>
    let at_ (o : Nat) : Nat := pa + 0x5200000 + o
    let s := s.meter asid col 5 len
    (List.range len).foldl (fun s i =>
      let o := base + i
      let psn := s.spadPsn.contains (spadKey col o / 32)
      let s := s.putDram col (at_ o) slot (cellGet s.spad (spadKey col o))
      s.markLine col (.mem col (at_ o) slot) (psn || (i % 32 != 0 && s.dramPoison col (at_ o)))) s

/-- A pool window of a column read back onto another, or the same (R140, R399): the image stands at the window's old base. -/
def State.loadPool (s : State) (asid col dest old new len : Nat) : State :=
  let (bs, s) := s.savedAt asid col (0x5200000 + old) len
  bs.zipIdx.foldl (fun s e =>
    let l : Loc := .spad dest (new + e.2)
    (s.putByte dest l e.1.1).markLine dest l (e.1.2 || (e.2 % 32 != 0 && s.spadPsn.contains l.line))) s

/-! ### Leaving and returning -/

/-- The results of committed long-latency instructions received before a warp is saved (R83, R98). -/
def State.receiveAll (s : State) (w : Nat) : State :=
  match s.warp w with
  | none => s
  | some x => (x.pend.map Pending.id).foldl (fun s n => s.arrival w n) s

/-- Before a warp leaves: its run is discarded, its data received, its slot given up (R83, R98, R149). -/
def State.leaveCore (s : State) (w : Nat) : State :=
  let s := ((s.discardRun w).receiveAll w).leaveSlot w
  match s.warp w with
  | some x => s.saveWarp x
  | none => s

/-- A warp swapped out (R98). Its registers return to the pool. -/
def State.swapOutWarp (s : State) (w : Nat) : State :=
  (s.leaveCore w).modWarp w fun x => { x with swapped := true, swapReq := false }

/-- The live registers of each bank that a warp needs back (R98, R104). -/
def Warp.needs (x : Warp) (bank : Nat) : Nat :=
  (x.regs.phys bank).length + (x.static.filter fun b => b.1 == bank).length

/-- Physical registers of a bank that no warp of a core uses, in order, outside the emergency block. -/
def State.freePhys (s : State) (col core bank w : Nat) (used : List Nat) : List Nat :=
  let taken := used ++ s.warps.flatMap fun kv =>
    let x := kv.2
    if kv.1 = w ∨ x.col ≠ col ∨ x.core ≠ core ∨ x.swapped ∨ x.halted then []
    else x.regs.phys bank ++ (match x.run with | some q => q.phys bank | none => [])
      ++ (x.static.filter fun b => b.1 == bank).map Prod.snd
  (List.range emergencyAt).filter fun i => !taken.contains i

/-- A list of registers given new physical registers, bank by bank. -/
def remap {α : Type} (bankOf : α → Nat) (put : α → Nat → α) (free : Nat → List Nat) : List α → List (Nat × Nat) → List α
  | [], _ => []
  | a :: rest, taken =>
    let b := bankOf a
    let n := (taken.filter fun p => p.1 == b).length
    put a ((free b).getD n 0) :: remap bankOf put free rest ((b, n) :: taken)

/-- A warp given a place on a core: slot, core-local number, physical registers (R73, R98). -/
def State.settle (s : State) (w : Nat) (x : Warp) : State :=
  let free (b : Nat) : List Nat := s.freePhys x.col x.core b w []
  let v := remap (fun kv : Nat × VReg => kv.1 % 4) (fun kv p => (kv.1, { kv.2 with phys := p })) free x.regs.v []
  let used (b : Nat) : List Nat := (v.filter fun kv => kv.1 % 4 == b).map fun kv => kv.2.phys
  let static := remap (fun p : Nat × Nat => p.1) (fun p q => (p.1, q))
    (fun b => (free b).filter fun i => !(used b).contains i) x.static []
  let (t, s) := s.takeId
  s.setWarp w { x with
    regs := { x.regs with v := v }, static := static, slot := s.pickSlot x.col x.core, since := t, swapped := false
    halted := false, yielded := false }

/-- May a swapped-out warp return (R98): it is the oldest that waits, and its registers fit? The pool they must fit in is
counted without the emergency block, whose registers R98 gives to the privileged warp (log 95, DESIGN CHOICE). -/
def State.mayReturn (s : State) (w : Nat) (x : Warp) : Bool :=
  x.swapped && !x.retired && !x.halted
    && (s.coreWarps x.col x.core).all (fun kv => kv.1 == w || !kv.2.swapped || kv.2.halted || !kv.2.older x)
    && (List.range 4).all fun b => decide (x.needs b ≤ (s.freePhys x.col x.core b w []).length)

/-! ### The engines of a pre-empted gang -/

/-- May the commands of a gang proceed (R149, R327, R406)? -/
def State.gangRuns (s : State) (g : Nat) : Bool := ((s.gang g).map Gang.state) != some .preempted

/-- A queued matrix command in the record of its engine (R361) (log 35, DEDUCED). -/
def MatCmd.image (m : MatCmd) : List Byte :=
  let op : Nat := match m.op with | .mma => 0 | .mmat => 1 | .mzero => 2 | .mldz => 3 | .mst => 4
  let o : Nat := (if m.ord.acq then 1 else 0) + (if m.ord.rel then 2 else 0) + 4 * m.ord.scope
  let desc (l : List Word) : List Byte := (List.range 4).flatMap fun i => leBytes 4 (l.getD i 0).toNat
  [op, m.tile, m.slotA + 16 * m.slotB, o].flatMap (leBytes 1) ++ desc m.descA ++ desc m.descB
    ++ leBytes 4 m.warp ++ leBytes 4 m.block ++ leBytes 4 m.batch ++ leBytes 4 m.next ++ leBytes 8 m.pc.toNat

/-- A queued copy or bank command in the record of its column's engine (R361) (log 35, DEDUCED). -/
def CopyCmd.image (c : CopyCmd) : List Byte :=
  let op : Nat := match c.op with
    | .cpy => 0 | .cpy2 => 1 | .cpyz => 2 | .cpyx => 3 | .bzero => 4 | .bcopy => 5 | .bcmp => 6 | .bfence => 7
  let o : Nat := (if c.ord.acq then 1 else 0) + (if c.ord.rel then 2 else 0) + 4 * c.ord.scope
  [op, o, c.dreg, c.stage].flatMap (leBytes 1) ++ leBytes 8 c.dst.toNat ++ leBytes 8 c.src.toNat
    ++ [c.len, c.row, c.dstride, c.sstride, c.barrier.toNat, c.link.toNat, c.warp, c.block, c.handle, c.done].flatMap (leBytes 4)

/-- The engine records of a gang's cores and columns (R361), and its matrix commands taken out of their queues (R224). -/
def State.saveEngines (s : State) (asid g : Nat) (columns : List Nat) : State :=
  let s := (s.blocksOf g).foldl (fun s kv =>
    let b := kv.2
    let mine := (s.core b.col b.core).engine.filter fun m => m.block == kv.1
    if mine.isEmpty then s
    else
      let s := s.saveAt asid b.col (0x5180000 + 4096 * b.core) (mine.flatMap MatCmd.image)
      (s.modCore b.col b.core fun c => { c with engine := c.engine.filter fun m => m.block != kv.1 }).modBlock kv.1
        fun b => { b with queue := mine }) s
  columns.foldl (fun s col =>
    let mine := s.copies.filter fun kv => kv.2.gang == g && kv.2.col == col && kv.2.stage != 2
    if mine.isEmpty then s else s.saveAt asid col 0x5184000 (mine.flatMap fun kv => kv.2.image)) s

/-- A pre-empted gang's warps, blocks, engines and windows saved (R149), once the arrivals it sent are performed, and none of
its committed runs has a part to perform behind a BFENCE or CPART (log 48, DEDUCED). -/
def State.preemptGang (s : State) (g : Nat) : State :=
  match s.gang g with
  | none => s
  | some k =>
    if k.state ≠ .running ∨ (s.gangWarps g).any fun kv => kv.2.rest.isSome then s
    else
      let grid := s.grid k.grid
      let asid := (grid.map Grid.asid).getD 0
      let poolw := ((grid.map Grid.rcd).getD Record.empty).poolw
      let s := s.settleGang g
      let s := (s.gangWarps g).foldl (fun s kv =>
        ((if kv.2.swapped then s else s.leaveCore kv.1)).modWarp kv.1 fun x => { x with halted := true, swapReq := false }) s
      let s := ((s.blocksOf g).foldl (fun s kv => s.saveBlock kv.1) s).saveEngines asid g k.columns
      let s := if poolw = 0 then s
        else k.pool.foldl (fun s p => s.savePool asid p.1 p.2 (poolw * 1024)) s
      let s := k.columns.foldl (fun s c => s.releaseHost c) s
      let lnum := k.columns.filterMap fun c => ((s.ctx asid).coll c).map fun n => (c, n)
      s.modGang g fun k => { k with state := .preempted, lnum := lnum }

end Sys2Proof.Machine
end

