-- ==== Sys2Proof/Machine/Scheduler.lean ====
section
/-! DEFINITION. The scheduler: launch records and their checks (R131, R132, R163, R164), shape dispatch (R142), handles
(R133), accepting grids (R134-R138, R148), placing gangs (R139-R147), LAUNCH and TAPE as it performs them (R121, R122,
R391), and the retirement of blocks and gangs (R74, R128). -/

namespace Sys2Proof.Machine

open Sys2Proof

/-! ### Records -/

/-- The bits `lo` to `lo + n - 1` of a record (R131). -/
def field (bs : List Byte) (lo n : Nat) : Nat := leNat bs / 2 ^ lo % 2 ^ n

/-- The fields of the 256 bytes of a record (R131). -/
def recordOf (bs : List Byte) : Record :=
  let at_ (lo n : Nat) : Nat := field bs lo n
  { bytes := bs, entry := BitVec.ofNat 64 (at_ 0 64), gdx := at_ 64 32, gdy := at_ 96 32, gdz := at_ 128 32,
    nwarp := at_ 160 5, gang := at_ 168 9, mode := at_ 177 2, ftz := at_ 179 1 == 1, prot := at_ 180 1 == 1,
    rstrt := at_ 181 1 == 1, oct := at_ 182 4, ways := 4 * at_ 186 2, prio := at_ 188 4, poolw := at_ 192 32,
    pwords := at_ 224 32, nreg := at_ 256 16, tvec := BitVec.ofNat 64 (at_ 320 64), tframe := BitVec.ofNat 64 (at_ 384 64),
    const := BitVec.ofNat 64 (at_ 448 64), csize := at_ 512 32, disp := BitVec.ofNat 64 (at_ 576 64), pred0 := at_ 640 32,
    pred1 := at_ 672 32, parent := at_ 704 32, shp := (List.range 8).map fun k => BitVec.ofNat 32 (at_ (832 + 32 * k) 32),
    slots := (List.range 8).map fun k => BitVec.ofNat 64 (at_ (1536 + 64 * k) 64) }

/-- Does a format slot break the slot rules (R164)? -/
def badSlot (x : BitVec 64) : Bool :=
  let s := slotOf x
  let e := s.scale / 2 ^ 23 % 256
  decide (8 < s.fmt) || decide (x.toNat / 2 ^ 10 % 2 ^ 22 ≠ 0) || bit x 7
    || decide (2 ^ 31 ≤ s.scale) || e == 0 || e == 255 || (s.zpb != 0 && s.fmt != 6 && s.fmt != 7)

/-- Is a record invalid by its fields (R132)? Its dispatch table is judged at acceptance. The bytes of a record that
could not be read are fewer than 256 (log 50, DEDUCED). -/
def badRecord (bs : List Byte) : Bool :=
  let r := recordOf bs
  let dim (n : Nat) : Bool := n == 0 || decide (65535 < n)
  let zero (lo n : Nat) : Bool := field bs lo n == 0
  bs.length != 256 || dim r.gdx || dim r.gdy || dim r.gdz || r.nwarp == 0 || decide (16 < r.nwarp) || r.gang == 0
    || decide (256 < r.gang) || r.mode == 3 || r.oct == 0 || decide (8 < r.oct) || decide (65536 < r.csize)
    || decide (256 < r.nreg) || decide (r.ways * 1024 < r.poolw)
    || decide (r.entry.toNat / 2 ^ 48 ≠ 0) || r.entry.toNat % 4 != 0 || r.const.toNat % 64 != 0
    || r.disp.toNat % 128 != 0 || r.slots.any badSlot
    || !(zero 165 3 && zero 272 16 && zero 288 32 && zero 544 32 && zero 736 96 && zero 1088 448)

/-- A bucket entry of the dispatch table (R142): LO, HI, PAD and USE of the eight ranges. -/
abbrev Bucket := List (Nat × Nat × Nat × Bool)

/-- The bucket entry in 128 bytes; none when it breaks the table rule (R142). -/
def bucketOf (bs : List Byte) : Option Bucket :=
  let one (k : Nat) : Nat × Nat × Nat × Nat :=
    let x := leNat ((bs.drop (16 * k)).take 16)
    (x % 2 ^ 32, x / 2 ^ 32 % 2 ^ 32, x / 2 ^ 64 % 2 ^ 32, x / 2 ^ 96)
  let l := (List.range 8).map one
  if l.any fun q => decide (1 < q.2.2.2) || (q.2.2.2 == 1 && (decide (q.2.1 < q.1) || decide (q.2.2.1 < q.2.1)))
  then none
  else some (l.map fun q => (q.1, q.2.1, q.2.2.1, q.2.2.2 == 1))

/-- Does a bucket match the shape values (R142)? -/
def Bucket.holds (b : Bucket) (shp : List Word) : Bool :=
  b.any (fun q => q.2.2.2) && (b.zip shp).all fun p => !p.1.2.2.2 || (decide (p.1.1 ≤ p.2.toNat) && decide (p.2.toNat ≤ p.1.2.1))

/-- What a dispatch table makes of a record's shape values (R142): the bucket and the padded bounds, or none when the table
breaks its rule or no bucket matches. -/
def tableChoice (bs : List Byte) (shp : List Word) : Option (Word × List Word) :=
  let all := (List.range 16).map fun b => bucketOf ((bs.drop (128 * b)).take 128)
  if all.any Option.isNone then none
  else
    match (List.range 16).find? fun b => match all.getD b none with | some k => k.holds shp | none => false with
    | none => none
    | some b =>
      let k := (all.getD b none).getD []
      some (BitVec.ofNat 32 b, (k.zip shp).map fun p => if p.1.2.2.2 then BitVec.ofNat 32 p.1.2.2.1 else p.2)

/-- What shape dispatch makes of a record (R142), once its table is read: none when the record is invalid or no bucket
matches. -/
def State.dispatch (s : State) (asid : Nat) (r : Record) : Option (Word × List Word) × State :=
  if r.disp = 0 then (some (0xFFFFFFFF, r.shp), s)
  else if r.disp.toNat / 2 ^ 48 % 256 = 0xFF ∨ bit r.disp 63 then (none, s)
  else
    let col := ((s.ctx asid).pcol (r.disp.toNat / 2 ^ 48 % 256)).getD 0
    match s.deviceRead col col asid r.disp 2048 with
    | (.error _, s) => (none, s)
    | (.ok bs, s) => (if bs.any Prod.snd then none else tableChoice (bs.map Prod.fst) r.shp, s)

/-! ### Handles -/

/-- Has a grid's handle lapsed (R133)? The records that a queue has accepted for a context are counted in the context, whatever
the queue serves meanwhile. -/
def State.lapsed (s : State) (g : Grid) : Bool :=
  match g.parent, g.queue with
  | some _, _ => false
  | none, some (q, _, _) => decide (g.lapse ≤ mapGetD (s.ctx g.asid).accepted q 0)
  | none, none => decide (g.lapse ≤ (s.ctx g.asid).created)

/-- The grid of a context a handle names, until the handle lapses, whether or not the grid has retired (R133). -/
def State.gridByHandle (s : State) (asid h : Nat) : Option (Nat × Grid) :=
  if h = 0 then none
  else s.grids.find? fun kv => kv.2.asid == asid && kv.2.handle == h && !s.lapsed kv.2

/-- What a GWAIT on a handle knows (R123): 0 while the grid runs, then 1 + the status, 3 when it names no grid. -/
def State.grantFate (s : State) (asid : Nat) (h : Word) : Nat :=
  match s.gridByHandle asid h.toNat with
  | none => 3
  | some (_, g) => if g.state = .retired then 1 + g.status else 0

/-- Grids whose handles have lapsed forgotten, but for those whose status the last grid of their drain still has to report
(R148). -/
def State.forget (s : State) : State :=
  let owed (g : Nat) : Bool := s.grids.any fun kv => kv.2.state != .retired && kv.2.drain.contains g
  { s with grids := s.grids.filter fun kv => kv.2.state != .retired || !s.lapsed kv.2 || owed kv.1 }

/-- The next value of a context's launch counter from `n` on that names no grid (R133). -/
def State.freeHandle (s : State) (asid : Nat) : Nat → Nat → Nat
  | 0, n => n
  | fuel + 1, n =>
    let h := n % 2 ^ 31
    if h = 0 ∨ (s.gridByHandle asid h).isSome then s.freeHandle asid fuel (n + 1) else h

/-- A handle for a child or drained grid, taken from the context's counter (R133). -/
def State.takeHandle (s : State) (asid : Nat) : Nat × State :=
  let h := s.freeHandle asid (s.grids.length + 2) (s.ctx asid).launches
  (h, s.modCtx asid fun c => { c with launches := h + 1 })

/-- One more grid of a context created by LAUNCH or TAPE.DRAIN (R133). -/
def State.countCreated (s : State) (asid : Nat) : State := s.modCtx asid fun c => { c with created := c.created + 1 }

/-! ### Accepting grids -/

/-- How many grids of a context wait in its pending set (R137), other than the grid `but`: a grid leaves the set when its last
gang is placed (log 87, DESIGN CHOICE). -/
def State.pendingCount (s : State) (asid but : Nat) : Nat :=
  (s.grids.filter fun kv =>
    kv.1 != but && kv.2.asid == asid && kv.2.state == .pending && decide (kv.2.next < kv.2.rcd.total)).length

/-- A grid of a record, before it is accepted. -/
def newGrid (asid handle : Nat) (bs : List Byte) (order : Nat) : Grid :=
  let r := recordOf bs
  { asid := asid, handle := handle, rcd := r, depth := 0, parent := none, prio := r.prio, order := order, preds := [],
    drain := [], queue := none, bucket := 0xFFFFFFFF, spad := r.shp, next := 0, passed := 0, state := .pending, judged := false,
    error := false, cause := none, status := 0, tvec := [], tframe := [], lapse := 0 }

/-- Does a grid of a context wait in a command queue for room in the pending set (R137)? -/
def State.commandWaits (s : State) (asid but : Nat) : Bool :=
  s.grids.any fun kv => kv.1 != but && kv.2.asid == asid && kv.2.state == .command

/-- A grid accepted: its record judged and its bucket chosen (R132, R142); an invalid one ends with an error at once. It
waits in its column's command queue where `wait` says so and the pending set is full, or an earlier grid waits there (R137)
(log 50, DEDUCED). -/
def State.acceptGrid (s : State) (g : Nat) (wait bad : Bool) : State :=
  match s.grid g with
  | none => s
  | some x =>
    let (choice, s) := if bad || badRecord x.rcd.bytes then (none, s) else s.dispatch x.asid x.rcd
    match choice with
    | some (b, pad) =>
      let full := wait && (decide (1024 ≤ s.pendingCount x.asid g) || s.commandWaits x.asid g)
      s.modGrid g fun x => { x with bucket := b, spad := pad, state := if full then .command else .pending }
    | none => (s.modGrid g fun x => { x with rcd := { x.rcd with gdx := 1, gdy := 1, gdz := 1 } }).endGrid g

/-- A predecessor of a handle, as far as the grid is known (R138). -/
def State.predOf (s : State) (h : Nat) (g : Option Nat) : Pred :=
  { handle := h, grid := g
    status := (g.bind s.grid).bind fun y => if y.state = .retired then some y.status else none }

/-- Has a predecessor retired, or does its handle name no grid (R138)? -/
def Pred.over (p : Pred) : Bool := p.grid.isNone || p.status.isSome

/-- Have the predecessors of a grid all retired (R138)? -/
def Grid.unblocked (x : Grid) : Bool := x.preds.all Pred.over

/-- A grid that waits for its predecessors, once a handle has come to name a grid: a grid that is ready already stays so
(log 54, DEDUCED). -/
def Grid.named (x : Grid) (asid h g : Nat) : Grid :=
  if x.asid ≠ asid ∨ x.state == .pending && x.unblocked then x
  else { x with preds := x.preds.map fun p => if p.handle = h ∧ p.grid = none then { p with grid := some g } else p }

/-- A grid added, with the grids that its record's PRED0 and PRED1 name (R138); grids that wait for its handle wait for it. -/
def State.addGrid (s : State) (g : Nat) (x : Grid) : State :=
  let t : State := { s with grids := mapSet (mapAll s.grids fun _ y => y.named x.asid x.handle g) g x }
  let named (h : Nat) : Pred := t.predOf h ((t.gridByHandle x.asid h).map Prod.fst)
  { t with grids := mapSet t.grids g { x with preds := [named x.rcd.pred0, named x.rcd.pred1] ++ x.preds } }

/-- The next record of a host queue accepted (R133-R137): none while the queue has none, the pending set is full or owed to a
grid of a command queue, or its handle still names a grid. A ring whose QBASE has COL 0xFF is read as column 0 would read it:
the specification names no issuing column for it (log 96, DESIGN CHOICE). -/
def State.acceptRecord (s : State) (q : Nat) : State :=
  let k := s.dev.queue q
  match k.asid with
  | none => s
  | some asid =>
    let handle := 2 ^ 31 + q * 2 ^ 27 + k.n % 2 ^ 27
    if !bit k.qctl 0 || k.qhead == k.qtail || !(s.ctx asid).live || decide (1024 ≤ s.pendingCount asid 0)
        || s.commandWaits asid 0 || (s.gridByHandle asid handle).isSome then s
    else
      let ptr := k.qbase + BitVec.ofNat 64 (256 * (k.qhead.toNat % k.size))
      let col := ((s.ctx asid).pcol (ptr.toNat / 2 ^ 48 % 256)).getD 0
      let (bs, s) := match s.deviceRead 128 col asid ptr 256 with
        | (.ok got, s) => (if bit ptr 63 || got.any Prod.snd then [] else got.map Prod.fst, s)
        | (.error _, s) => ([], s)
      let (order, s) := s.takeId
      let (g, s) := s.takeId
      let x := newGrid asid handle bs order
      let s := { s with dev := { s.dev with queues := s.dev.queues.set q { k with qhead := k.qhead + 1, n := k.n + 1 } } }
      let count := mapGetD (s.ctx asid).accepted q 0 + 1
      let s := s.modCtx asid fun c => { c with accepted := mapSet c.accepted q count }
      let parent := s.gridByHandle asid x.rcd.parent
      let ok := match parent with
        | some (_, p) => p.state != .retired && decide (p.depth < 10)
        | none => false
      let x := { x with
        queue := some (q, k.qcmpl, k.size), lapse := count + 2 ^ 26
        parent := if ok then parent.map Prod.fst else none
        depth := if ok then ((parent.map fun p => p.2.depth).getD 0) + 1 else 0
        prio := if ok then min x.prio ((parent.map fun p => p.2.prio).getD 0) else x.prio }
      (s.addGrid g x).forget.acceptGrid g false (x.rcd.parent != 0 && !ok)

/-- A child grid of a gang's grid (R121, R131): the record's bytes were read at the commit of its LAUNCH. -/
def State.addChild (s : State) (parent : Nat) (bs : List Byte) (held : Bool) : Nat × Nat × State :=
  match s.grid parent with
  | none => (0, 0, s)
  | some p =>
    let (h, s) := s.takeHandle p.asid
    let (order, s) := s.takeId
    let (g, s) := s.takeId
    let x := newGrid p.asid h bs order
    let x := { x with depth := p.depth + 1, parent := some parent, prio := min x.prio p.prio
                      state := if held then .held else .pending }
    (h, g, (if held then s.addGrid g x else (s.countCreated p.asid).addGrid g x).forget)

/-- The wake stack drained for a gang's grid (R122, R148): each entry becomes a grid and is accepted, in pop order; the number
popped and the last handle. -/
def State.drainTape (s : State) (parent : Nat) : Nat × Nat × State :=
  match s.grid parent with
  | none => (0, 0, s)
  | some p =>
    let entries := (s.ctx p.asid).stack
    let s := s.modCtx p.asid fun c => { c with stack := [] }
    let (s, gs, last, _) := entries.foldl (fun (acc : State × List Nat × Nat × Option Nat) e =>
      let (s, gs, _, chain) := acc
      let (h, s) := s.takeHandle p.asid
      let (order, s) := (s.countCreated p.asid).takeId
      let (g, s) := s.takeId
      let gs := gs ++ [g]
      let x := newGrid p.asid h e.1 order
      let x := { x with prio := min x.prio p.prio
                        preds := match (if e.2 then none else chain) with | some c => [s.predOf 0 (some c)] | none => []
                        drain := if gs.length = entries.length then gs else []
                        lapse := (s.ctx p.asid).created + 2 ^ 26 }
      ((s.addGrid g x).acceptGrid g true false, gs, h, if e.2 then chain else some g)) (s, [], 0, none)
    (gs.length, last, s.forget)

/-- Bytes pushed onto the wake stack of a context (R122): the index, or all ones when it is full. -/
def State.pushTape (s : State) (asid : Nat) (bs : List Byte) (ind : Bool) : Word × State :=
  let n := (s.ctx asid).stack.length
  if 4096 ≤ n then (0xFFFFFFFF, s)
  else (BitVec.ofNat 32 n, s.modCtx asid fun c => { c with stack := (bs, ind) :: c.stack })

/-- A grid waiting in a command queue enters the pending set when it has room (R137): the one accepted first
(log 54, DEDUCED). -/
def State.enterPending (s : State) : State :=
  let waiting := s.grids.filter fun kv => kv.2.state == .command && decide (s.pendingCount kv.2.asid 0 < 1024)
  match waiting.foldl (fun (b : Option (Nat × Grid)) kv => match b with
    | none => some kv
    | some x => if kv.2.order < x.2.order then some kv else some x) none with
  | some (g, _) => s.modGrid g fun x => { x with state := .pending }
  | none => s

/-! ### Placing -/

/-- Is a grid ready (R138)? -/
def Grid.ready (g : Grid) : Bool := g.state == .pending && decide (g.next < g.rcd.total) && g.unblocked

/-- Did a predecessor of a grid end with an error (R138)? -/
def Grid.predErred (g : Grid) : Bool := g.preds.any fun p => p.status.getD 0 != 0

/-- Could a column take work (R19, R383)? -/
def State.usable (s : State) (col : Nat) : Bool :=
  let c := s.column col
  decide (col < 128) && c.live && c.failed == 0 && !c.halted

/-- m and N of a gang size (R143). -/
def gangColumns (size : Nat) : Nat := (size + perColumn size - 1) / perColumn size

/-- A placement: first column, base core. -/
structure Site where
  col  : Nat
  base : Nat
  deriving DecidableEq, Repr

/-- The core of block `g` of a gang of `size` at a base (R143). -/
def coreOf (size base g : Nat) : Nat := base + g % perColumn size * (4 / perColumn size)

/-- The cores of a column a gang uses on its `i`-th column. -/
def coresOn (size base i : Nat) : List Nat :=
  let m := perColumn size
  (List.range m).filterMap fun j => if i * m + j < size then some (base + j * (4 / m)) else none

/-- The static registers of a bank that a compatible-mode warp needs (R104). -/
def staticNeed (nreg bank : Nat) : Nat := ((List.range nreg).filter fun v => v % 4 == bank).length + 3

/-- The registers of a bank that a block needs free (R144). -/
def Record.regNeed (r : Record) (bank : Nat) : Nat :=
  if r.mode = 2 then staticNeed r.nreg bank * r.nwarp else 16 * r.nwarp

/-- The pool windows on a column: their bases and lengths in bytes (R144). -/
def State.windows (s : State) (col : Nat) : List (Nat × Nat) :=
  s.gangs.filterMap fun kv =>
    let len := (((s.grid kv.2.grid).map Grid.rcd).getD Record.empty).poolw * 1024
    if kv.2.state ≠ .running ∨ len = 0 then none else (mapGet kv.2.pool col).map fun b => (b, len)

/-- The lowest 64 KiB-aligned offset where a window of `len` bytes fits below `top` (R144). -/
def fitWindow (used : List (Nat × Nat)) (top len : Nat) : Option Nat :=
  (((List.range 193).map fun i => i * 65536).find? fun b =>
    decide (b + len ≤ top) && used.all fun u => decide (u.1 + u.2 ≤ b) || decide (b + len ≤ u.1))

/-- The private ranges that warps of a context hold on a column: offset and length (R147). -/
def State.privRanges (s : State) (asid col : Nat) : List (Nat × Nat) :=
  s.warps.filterMap fun kv =>
    if kv.2.col ≠ col ∨ kv.2.retired ∨ s.asidOf kv.2 ≠ asid ∨ kv.2.plim = 0 then none
    else some (kv.2.pbase.toNat % 2 ^ 48, 256 * kv.2.plim)

/-- The lowest offset of a region, aligned to 256, where `len` bytes fit beside some ranges (R147): the region's start
or the end of some range (log 52, DEDUCED). -/
def fitPrivate (region : Nat × Nat) (used : List (Nat × Nat)) (len : Nat) : Option Nat :=
  let ok (b : Nat) : Bool := decide (region.1 ≤ b) && decide (b + len ≤ region.1 + region.2)
    && used.all fun u => decide (u.1 + u.2 ≤ b) || decide (b + len ≤ u.1)
  ((region.1 :: used.map fun u => (u.1 + u.2 + 255) / 256 * 256).filter ok).foldl (fun b x => match b with
    | none => some x
    | some y => some (min x y)) none

/-- The private ranges of `n` warps, in turn; none when one does not fit. -/
def fitPrivates (region : Nat × Nat) (len : Nat) : Nat → List (Nat × Nat) → Option (List Nat)
  | 0, _ => some []
  | n + 1, used =>
    match fitPrivate region used len with
    | none => none
    | some b => (fitPrivates region len n ((b, len) :: used)).map fun l => b :: l

/-- The warps of a core that take a warp place. -/
def State.placesTaken (s : State) (col core : Nat) : Nat := ((s.coreWarps col core).filter fun kv => !kv.2.halted).length

/-- The octants granted in a tower (R144). -/
def State.octants (s : State) (t : Nat) : Nat :=
  (s.blocks.map fun kv =>
    if tower kv.2.col = t ∧ !kv.2.retired ∧ !kv.2.lost ∧ ((s.gang kv.2.gang).map Gang.state) = some .running
    then kv.2.oct else 0).sum

/-- The power clause of R144: the octants of the resident blocks and of the new ones, by tower. -/
def State.powered (s : State) (new : Nat → Nat) : Bool :=
  (List.range 4).all fun t => new t == 0 || decide (s.octants t + new t ≤ s.dev.octbud.getD t 0)

/-- Do a gang's blocks fit on some columns, at a base, but for their power (R144)? -/
def State.fitsOn (s : State) (asid : Nat) (r : Record) (base : Nat) (columns : List Nat) : Bool :=
  columns.zipIdx.all fun ci =>
    let col := ci.1
    let c := s.column col
    let cores := coresOn r.gang base ci.2
    let warps := cores.length * r.nwarp
    s.usable col
      && cores.all (fun core =>
        decide (s.placesTaken col core + r.nwarp ≤ 32)
          && (List.range 4).all fun b => decide (r.regNeed b ≤ (s.freePhys col core b 0 []).length))
      && (r.poolw == 0 || (c.cwp == r.ways && (fitWindow (s.windows col) (r.ways * 2 ^ 20) (r.poolw * 1024)).isSome)
        || (c.cwp != r.ways && (s.windows col).isEmpty))
      && (r.pwords == 0
        || (fitPrivates (mapGetD (s.ctx asid).priv col (0, 0)) (256 * r.pwords) warps (s.privRanges asid col)).isSome)
      && (mapGet (s.ctx asid).save col).isSome

/-- Is a placement admissible but for its power (R16, R143, R144)? -/
def State.siteFits (s : State) (asid : Nat) (r : Record) (k : Site) : Bool :=
  let n := gangColumns r.gang
  decide (k.col / 64 = (k.col + n - 1) / 64) && s.fitsOn asid r k.base ((List.range n).map (k.col + ·))

/-- Is a placement admissible (R16, R143, R144)? -/
def State.admissible (s : State) (asid : Nat) (r : Record) (k : Site) : Bool :=
  let cols := (List.range (gangColumns r.gang)).map fun i => (i, k.col + i)
  s.siteFits asid r k && s.powered fun t =>
    (cols.map fun ic => if tower ic.2 = t then (coresOn r.gang k.base ic.1).length * r.oct else 0).sum

/-- Every placement of a gang size, the lowest first (R145). -/
def sites (size : Nat) : List Site :=
  (List.range 128).flatMap fun c => (List.range (4 / perColumn size)).map fun b => { col := c, base := b }

/-- The placement the scheduler takes (R145). -/
def State.site (s : State) (asid : Nat) (r : Record) : Option Site := (sites r.gang).find? (s.admissible asid r)

/-- The machine with nothing resident, for the judgement of R141: a gang that does not fit there never will. -/
def State.emptied (s : State) : State := { s with warps := [], blocks := [], gangs := [] }

/-- A warp at its start (R96, R99, R104, R146) (log 4, DESIGN CHOICE) (log 58, DEDUCED). -/
def newWarp (r : Record) (col core wcore num block age since : Nat) : Warp :=
  let entry : Entry := { valid := false, lanes := Lanes.zero }
  let v : AMap VReg := if r.mode = 2 then (List.range (min r.nreg 256)).map fun n => (n, { phys := 0, lanes := Lanes.zero }) else []
  let static : List (Nat × Nat) :=
    if r.mode = 2 then (List.range 12).map fun h => ((if h < 4 then h else h % 4), 0) else []
  { col := col, core := core, wcore := wcore, slot := 0, num := num, block := block, age := age, since := since,
    regs := { v := v, s := List.replicate 64 SVal.zero, p := List.replicate 8 0, c := List.replicate 8 entry,
              q := List.replicate 4 { words := List.replicate 11 0, poison := false }, nc := List.replicate 64 0,
              mark := 0, depth := 0, ldep := 0, pc := r.entry, home := List.replicate 12 Lanes.zero },
    run := none, pend := [], wait := .none, waitPc := 0, hmode := false, saved := none, bskip := none, batch := 0, xcount := 0,
    arrived := none, pbase := selfPtr 0, plim := r.pwords, swapped := false, halted := false, retired := false,
    yielded := false, swapReq := false, colFail := [], wdog := false, soTries := 0, refused := [], matFlt := [],
    static := static, begun := false, rest := none }

/-- A block placed on a core: its warps become resident together, in ascending number (R73, R146)
(log 52, DEDUCED). -/
def State.placeBlock (s : State) (asid : Nat) (r : Record) (gang g col core : Nat) : State :=
  let (b, s) := s.takeId
  let (age, s) := s.takeId
  let (since, s) := s.takeId
  let blk : Block :=
    { gang := gang, g := g, col := col, core := core, nwarp := r.nwarp, oct := r.oct,
      tiles := List.replicate 4 Tile.clear, bar := [], poison := false, lost := false, retired := false, counted := [], queue := [] }
  let s := { s with blocks := mapSet s.blocks b blk }
  (List.range r.nwarp).foldl (fun s num =>
    let (w, s) := s.takeId
    let x := newWarp r col core (s.pickWcore col core) num b age since
    let base := (fitPrivate (mapGetD (s.ctx asid).priv col (0, 0)) (s.privRanges asid col) (256 * r.pwords)).getD 0
    let s := s.settle w { x with pbase := selfPtr (BitVec.ofNat 64 base) }
    s.modWarp w fun x => { x with since := since }) s

/-- Was a DRAM line last written under another key than the one a slot holds? -/
def State.foreignLine (s : State) (l : Loc) : Bool :=
  match l with
  | .mem c pa slot => (match mapGet s.keyTag (memKey c pa / 32) with | some t => t != s.keyOf slot | none => false)
  | _ => false

/-- The private areas of a gang's warps made zero, as far as they are mapped: all of them (R397), or the lines that
another context wrote last (R370). -/
def State.scrubPrivate (s : State) (g : Nat) (all : Bool) : State :=
  (s.gangWarps g).foldl (fun s kv =>
    let s := if kv.2.plim = 0 then s else s.walkBytes (s.asidOf kv.2) kv.2.col kv.2.pbase (256 * kv.2.plim)
    (List.range (8 * kv.2.plim)).foldl (fun s i =>
      match s.enginePlace kv.2.col (s.asidOf kv.2) (kv.2.pbase + BitVec.ofNat 64 (32 * i)) { write := true } with
      | .ok l =>
        if all || s.foreignLine l then
          s.writeBytes kv.2.col ((List.range 32).map fun k => { loc := l.plus k, va := 0, byte := 0, poison := false })
        else s
      | .error _ => s) s) s

/-- A gang given its site (R143-R147, R370): the partition set, windows chosen and zero, TVEC and TFRAME filled, its
blocks placed (log 69, DEDUCED). -/
def State.placeAt (s : State) (gid : Nat) (k : Gang) (x : Grid) (site : Site) : State :=
  let r := x.rcd
  let n := gangColumns r.gang
  let cols := (List.range n).map (site.col + ·)
  let s := cols.foldl (fun s c => if r.poolw = 0 ∨ (s.column c).cwp = r.ways then s else s.setWays c r.ways) s
  let pool : AMap Nat := if r.poolw = 0 then []
    else cols.map fun c => (c, (fitWindow (s.windows c) (r.ways * 2 ^ 20) (r.poolw * 1024)).getD 0)
  let s := pool.foldl (fun s p =>
    (s.clearSpad p.1 p.2 (p.2 + r.poolw * 1024)).tagSpad x.asid p.1 p.2 (p.2 + r.poolw * 1024)) s
  let k := { k with columns := cols, base := site.base, pool := pool, state := .running, gbar := [] }
  let s := { s with gangs := mapSet s.gangs gid k }
  let fill (m : AMap Addr) (v : Addr) : AMap Addr :=
    cols.foldl (fun m c => if (mapGet m c).isSome then m else mapSet m c v) m
  let s := s.modGrid k.grid fun x =>
    { x with tvec := fill x.tvec r.tvec, tframe := fill x.tframe (r.tframe &&& ~~~0x7F) }
  let s := (List.range r.gang).foldl (fun s g =>
    s.placeBlock x.asid r gid g (site.col + g / perColumn r.gang) (coreOf r.gang site.base g)) s
  let s := s.scrubPrivate gid false
  cols.foldl (fun s c => (List.range 4).foldl (fun s core => s.acquireHost c core) s) s

/-- Where a pre-empted gang's columns lie now (R140): where they were, but for a logical column that has been mapped
elsewhere since. -/
def State.columnsNow (s : State) (asid : Nat) (k : Gang) : List Nat :=
  k.columns.map fun c =>
    match (k.lnum.find? fun p => p.1 == c).map Prod.snd with
    | some l => ((s.ctx asid).pcol l).getD c
    | none => c

/-- May a pre-empted gang return (R140, R144): its columns, of which one may have been remapped, are usable columns of one shore
(R16), and what it held there fits: warp places, registers, windows, the octants of the blocks that have not retired, and the
queues its commands enter again (R219, R320)? Its private ranges it has kept. -/
def State.mayResume (s : State) (g : Nat) (k : Gang) (x : Grid) (cols : List Nat) : Bool :=
  let r := { x.rcd with pwords := 0 }
  let ws := (s.gangWarps g).filter fun kv => !kv.2.retired
  let fits (col core : Nat) : Bool :=
    let mine := ws.filter fun kv => kv.2.core == core && (k.columns.zip cols).any fun p => p.1 == kv.2.col && p.2 == col
    decide (s.placesTaken col core + mine.length ≤ 32)
      && (List.range 4).all fun b => decide ((mine.map fun kv => kv.2.needs b).sum ≤ (s.freePhys col core b 0 []).length)
  let blocks := ((s.blocksOf g).map Prod.snd).filter fun b => !b.retired && !b.lost
  let dest (c : Nat) : Nat := (((k.columns.zip cols).find? fun p => p.1 == c).map Prod.snd).getD c
  let room (b : Block) : Bool := decide ((s.core (dest b.col) b.core).engine.length
    + (((blocks.filter fun q => q.col == b.col && q.core == b.core).map fun q => q.queue.length).sum) ≤ 32)
  let waits (old new : Nat) (bank : Bool) : Bool := decide ((s.copies.countP fun kv =>
    (kv.2.gang == g && kv.2.col == old || kv.2.gang != g && s.gangRuns kv.2.gang && kv.2.col == new) && kv.2.asid == x.asid
      && kv.2.bank == bank && kv.2.stage != 2) ≤ (if bank then 32 else 64))
  k.state == .preempted && cols.eraseDups == cols && cols.all (fun c => c / 64 == cols.headD 0 / 64)
    && s.fitsOn x.asid { r with nwarp := 0 } k.base cols
    && s.powered (fun t => ((blocks.filter fun b => tower (dest b.col) == t).map Block.oct).sum)
    && blocks.all room && (k.columns.zip cols).all (fun p => waits p.1 p.2 false && waits p.1 p.2 true)
    && cols.all fun c => (List.range 4).all (fits c)

/-- Something that waits to be placed (R139, R140, R397): the next gang of a ready grid, a pre-empted gang, or a killed one. -/
structure Waiting where
  grid : Nat
  x    : Grid
  gang : Option Nat
  deriving DecidableEq, Repr

/-- What the scheduler does with something that waits: the site of a new gang or of a relaunch, a resumption, or some gangs
pre-empted for it. -/
inductive Chosen where
  | place (k : Site)
  | relaunch (gang : Nat) (k : Site)
  | resume (gang : Nat)
  | preempt (victims : List Nat)
  deriving DecidableEq, Repr

/-- The order of placement (R139): higher priority first, then earlier acceptance; within a grid, what was placed before. -/
def Waiting.before (a b : Waiting) : Bool :=
  decide (b.x.prio < a.x.prio) || (a.x.prio == b.x.prio
    && (decide (a.x.order < b.x.order) || (a.x.order == b.x.order && (a.gang.isSome || b.gang.isNone))))

/-- The ready grids. -/
def State.readyGrids (s : State) : List (Nat × Grid) := s.grids.filter fun kv => kv.2.ready

/-- All that waits to be placed, in the order of placement: the ready grids, and the pre-empted and killed gangs with the order
of their grids (R139, R140, R397). -/
def State.waiting (s : State) : List Waiting :=
  sortBy Waiting.before
    (s.readyGrids.map (fun kv => { grid := kv.1, x := kv.2, gang := none }) ++ s.gangs.filterMap fun kv =>
      if kv.2.state = .preempted ∨ kv.2.state = .killed
      then (s.grid kv.2.grid).map fun x => { grid := kv.2.grid, x := x, gang := some kv.1 } else none)

/-- Does every warp of a gang wait in GWAIT on a grid that has a gang still to place (R140)? -/
def State.waitsOnUnplaced (s : State) (g : Nat) : Bool :=
  let l := (s.gangWarps g).filter fun kv => !kv.2.retired
  !l.isEmpty && l.all fun kv =>
    match kv.2.wait with
    | .gwait _ h _ =>
      (match s.gridByHandle (s.asidOf kv.2) h.toNat with
        | some (_, x) => x.state != .retired && decide (x.next < x.rcd.total)
        | none => false)
    | _ => false

/-- The gangs a grid may pre-empt, in order (R140): lowest priority first, then latest acceptance
(log 55, DEDUCED). -/
def State.victims (s : State) (x : Grid) : List Nat :=
  let info (g : Nat) : Nat × Nat := (((s.gang g).bind fun k => s.grid k.grid).map fun y => (y.prio, y.order)).getD (0, 0)
  let all := (s.gangs.filter fun kv => kv.2.state == .running
    && ((decide (12 ≤ x.prio) && decide ((info kv.1).1 + 4 ≤ x.prio)) || s.waitsOnUnplaced kv.1)).map Prod.fst
  sortBy (fun a b =>
    let p := info a
    let q := info b
    decide (p.1 < q.1) || (p.1 == q.1 && decide (q.2 ≤ p.2))) all

/-- Some gangs pre-empted, in order. -/
def State.preemptAll (s : State) (l : List Nat) : State := l.foldl (fun s g => s.preemptGang g) s

/-- Does a grid's next gang fit once some gangs are pre-empted? -/
def State.fitsWithout (s : State) (x : Grid) (l : List Nat) : Bool := ((s.preemptAll l).site x.asid x.rcd).isSome

/-- The gangs to pre-empt for a grid (R140): as few of the first victims as let it be placed, and of them none that the
placement does not need; none when no number does (log 55, DEDUCED). -/
def State.enough (s : State) (x : Grid) : Option (List Nat) :=
  let v := s.victims x
  ((List.range v.length).map fun n => v.take (n + 1)).find? (s.fitsWithout x) |>.map fun l =>
    l.reverse.foldl (fun keep g => if s.fitsWithout x (keep.filter (· != g)) then keep.filter (· != g) else keep) l

/-- What can be done with something that waits, as the machine stands (R140, R145, R397): a grid's next gang, or a killed gang
that no station has still to hear of, is placed where it can be, and otherwise pre-empts (log 69, DEDUCED). -/
def State.chosen (s : State) (q : Waiting) : Option Chosen :=
  let fit (f : Site → Chosen) : Option Chosen :=
    match s.site q.x.asid q.x.rcd with
    | some k => some (f k)
    | none => (s.enough q.x).map .preempt
  match q.gang with
  | none => fit .place
  | some g => match s.gang g with
    | some k =>
      if k.state = .preempted then (if s.mayResume g k q.x (s.columnsNow q.x.asid k) then some (.resume g) else none)
      else if s.notices.any fun n => n.2.1 == g then none
      else fit (.relaunch g)
    | none => none

/-- The first of those that wait that can be placed, and the grids it passes over: none of lower priority than a grid passed
over 64 times (R139). -/
def State.firstFit (s : State) : List Waiting → Nat → List Nat → Option (Waiting × Chosen × List Nat)
  | [], _, _ => none
  | q :: rest, floor, passed =>
    if q.x.prio < floor then none
    else match s.chosen q with
      | some k => some (q, k, passed)
      | none => s.firstFit rest (if 64 ≤ q.x.passed then max floor q.x.prio else floor) (setIns passed q.grid)

/-- A gang of a grid placed, so far as R139 counts it: the grids of higher priority that it passes over are one nearer
to 64, and its own starts anew. -/
def State.passOver (s : State) (g : Nat) (x : Grid) (passed : List Nat) : State :=
  passed.foldl (fun s o => s.modGrid o fun y => if x.prio < y.prio then { y with passed := y.passed + 1 } else y)
    (s.modGrid g fun x => { x with passed := 0 })

/-- The next gang of a grid placed at a site. -/
def State.placeNext (s : State) (g : Nat) (x : Grid) (k : Site) : State :=
  let (gid, s) := s.takeId
  let gang : Gang :=
    { grid := g, index := x.next, columns := [], m := perColumn x.rcd.gang, size := x.rcd.gang, base := k.base,
      pool := [], gbar := [], held := [], lnum := [], relaunch := 0, peers := [], state := .running }
  (s.modGrid g fun x => { x with next := x.next + 1 }).placeAt gid gang x k

/-- The ready grids marked as judged (R141) (log 53, DEDUCED). -/
def State.judgeReady (s : State) : State :=
  { s with grids := s.grids.map fun kv => (kv.1, if kv.2.ready then { kv.2 with judged := true } else kv.2) }

/-- A pending grid that ends without running: a predecessor of it ended with an error, whether or not the others have retired
(R138). -/
def State.failedPred (s : State) : Option (Nat × Grid) :=
  s.grids.find? fun kv => kv.2.state == .pending && decide (kv.2.next < kv.2.rcd.total) && kv.2.predErred

/-- One step of the scheduler's placing (R138-R146): a grid whose predecessor ended with an error ends with one; so does
one that, when it became ready, could not be placed on an empty device; otherwise the first of those that wait that can be
placed has its gang placed, with gangs pre-empted for it where it needs that; a resumption and a relaunch are events of their
own (log 53, DEDUCED). -/
def State.schedule (s : State) : State :=
  match s.failedPred with
  | some (g, _) => s.endGrid g
  | none =>
    match s.readyGrids.find? fun kv => !kv.2.judged && (s.emptied.site kv.2.asid kv.2.rcd).isNone with
    | some (g, _) => s.endGrid g
    | none =>
      let t := s.judgeReady
      match s.firstFit s.waiting 0 [] with
      | some (q, .place k, passed) => (t.passOver q.grid q.x passed).placeNext q.grid q.x k
      | some (q, .preempt l, passed) =>
        let t := t.preemptAll l
        (match q.gang, t.site q.x.asid q.x.rcd with
          | none, some k => (t.passOver q.grid q.x passed).placeNext q.grid q.x k
          | _, _ => t)
      | some (_, .resume _, _) | some (_, .relaunch _ _, _) | none => t

/-! ### Retirement -/

/-- The held commands of a gang performed in commit order (R391): a held child is accepted now, after every grid accepted before
(R139). -/
def State.performHeld (s : State) (g : Nat) : State :=
  match s.gang g with
  | none => s
  | some k =>
    let asid := ((s.grid k.grid).map Grid.asid).getD 0
    let s := k.held.foldl (fun s h => match h with
      | .launch c =>
        let (order, s) := (s.countCreated asid).takeId
        (s.modGrid c fun x => { x with state := .pending, order := order }).acceptGrid c true false
      | .push bs ind => (s.pushTape asid bs ind).2
      | .drain => (s.drainTape k.grid).2.2
      | .clear => s.modCtx asid fun c => { c with stack := [] }) s
    s.modGang g fun k => { k with held := [] }

/-- A gang retired when its blocks have (R74, R128): a restartable gang with a set poison record is killed instead; a set
record makes any other grid end with status 1. Its stations are told, its stores released, its grid may retire. -/
def State.retireGang (s : State) (g : Nat) : State :=
  match s.gang g with
  | none => s
  | some k =>
    let blocks := s.blocksOf g
    if k.state ≠ .running ∨ !(blocks.all fun kv => kv.2.retired || kv.2.lost) then s
    else
      let rstrt := s.restartable g
      let bad := blocks.any fun kv => kv.2.poison
      if rstrt && bad then s.killGang g
      else
        let s := s.tellPeers g true
        let s := { s with notices := s.notices ++ (s.stationsOf g).map fun c => (c, g, true) }
        let s := blocks.foldl (fun s kv => s.dropBlock kv.1) s
        let s := s.performHeld g
        let s := s.modGang g fun k => { k with state := .retired, gbar := [] }
        let s := s.modGrid k.grid fun x => if bad then { x with error := true } else x
        s.retireGrid retireFuel k.grid

/-- A block retired (R74, R209): all its warps have, and neither its core's engine nor its own queue holds a command of it. -/
def State.retireBlock (s : State) (b : Nat) : State :=
  match s.block b with
  | none => s
  | some k =>
    let ws := s.warpsOf b
    if k.retired ∨ !(ws.all fun kv => kv.2.retired) ∨ (s.core k.col k.core).engine.any (fun m => m.block == b)
        ∨ !k.queue.isEmpty then s
    else
      let s := ws.foldl (fun s kv => s.dropWarp kv.1) s
      let s := s.modBlock b fun k => { k with retired := true, tiles := [], bar := [] }
      s.retireGang k.gang

end Sys2Proof.Machine
end

