-- ==== Sys2Proof/Machine/Waits.lean ====
section
/-! DEFINITION. How waits end (R109, R115, R119, R123, R233, R324, R347), what happens at a run boundary (R393), barriers
and the retirement of warps (R74, R115), arrivals on barrier objects (R118), and exchanges (R302-R307, R407). -/

namespace Sys2Proof.Machine

open Sys2Proof

/-! ### Run boundaries -/

/-- A claim of a warp on its slot given up: it has yielded (R77). -/
def State.unclaim (s : State) (x : Warp) (w : Nat) : State :=
  let k := (s.core x.col x.core).slots.getD x.slot Slot.idle
  if k.claim = some w then s.modCore x.col x.core fun c => { c with slots := c.slots.set x.slot { k with claim := none } } else s

/-- The events a warp meets at a run boundary after a swap-out or pre-emption (R78, R393, R406): a column failure, unless
the warp is in its handler or waits; otherwise a forced yield. While a run is in flight there is no boundary, nor before the
first run; the run that ended in an exchange has its boundary when the exchange is performed (R82). -/
def State.boundary (s : State) (w : Nat) : State :=
  match s.warp w with
  | none => s
  | some x =>
    if x.swapReq || !x.resident || !x.begun || x.wait != .none || x.run.isSome || x.arrived.isSome || x.rest.isSome then s
    else match x.colFail, x.hmode with
      | (g, kind, col) :: rest, false =>
        let s := s.setWarp w { x with colFail := rest }
        s.takeTrap w { code := 0x50, info := BitVec.ofNat 32 (g % 256 + 256 * kind), addr := BitVec.ofNat 64 col }
          x.regs.active x.regs.pc x.regs.pc false false
      | _, _ =>
        if !x.wdog then s
        else ((s.setWarp w { x with wdog := false, yielded := true }).unclaim x w).setCir (s.asidOf x) x.col 2

/-! ### Barriers -/

/-- A block barrier completed when every warp of the block has arrived or retired (R115). -/
def State.barCheck (s : State) (b n : Nat) : State :=
  match s.block b with
  | none => s
  | some k =>
    let ws := (s.warpsOf b).filter fun kv => !kv.2.retired
    let here (w : Nat) : Bool := k.bar.contains (n, w)
    if ws.isEmpty ∨ !(k.bar.any fun a => a.1 == n) ∨ !(ws.all fun kv => here kv.1) then s
    else
      let s := s.modBlock b fun k => { k with bar := k.bar.filter fun a => a.1 != n }
      ws.foldl (fun s kv => (if kv.2.wait = .bar n then s.modWarp kv.1 fun x => { x with wait := .none } else s).boundary kv.1) s

/-- A gang barrier completed when every warp of the gang has arrived or retired; a lost block counts as retired (R115,
R407). Its completion is a GANG-scope acquire of each waiting warp. -/
def State.gbarCheck (s : State) (g n : Nat) : State :=
  match s.gang g with
  | none => s
  | some k =>
    let ws := (s.gangWarps g).filter fun kv => !kv.2.retired && !((s.blockOf kv.2).map Block.lost).getD false
    let here (w : Nat) : Bool := k.gbar.contains (n, w)
    if ws.isEmpty ∨ !(k.gbar.any fun a => a.1 == n) ∨ !(ws.all fun kv => here kv.1) then s
    else
      let s := s.modGang g fun k => { k with gbar := k.gbar.filter fun a => a.1 != n }
      ws.foldl (fun s kv =>
        (if kv.2.wait = .gbar n then
          (s.acquire kv.2.col kv.2.core 2).modWarp kv.1 fun x => { x with wait := .none }
        else s).boundary kv.1) s

/-- Every barrier that a block's warps stand at, tried again. -/
def State.barriersOf (s : State) (b : Nat) : State :=
  match s.block b with
  | none => s
  | some k =>
    let s := (List.range 16).foldl (fun s n => s.barCheck b n) s
    (List.range 16).foldl (fun s n => s.gbarCheck k.gang n) s

/-- A warp retired (R74): its data is received, its registers are free, its slot is given up, and the barriers it held
back may complete. -/
def State.retireWarp (s : State) (w : Nat) : State :=
  match s.warp w with
  | none => s
  | some x =>
    let s := (((s.receiveAll w).dropPrivate w).release77 w)
    let s := (match s.warp w with | some x => s.imprint x x.leaves | none => s).modWarp w fun x =>
      { x with retired := true, regs := { x.regs with v := [] }, static := [], run := none, pend := [] }
    s.barriersOf x.block

/-! ### Waits -/

/-- The batch that follows a batch count (R232). -/
def nextBatch (b : Nat) : Nat := if b + 1 = 2 ^ 32 then 1 else b + 1

/-- Does MWAIT n cover a batch (R233)? -/
def coversBatch (n : Word) (b : Nat) : Bool := n != 0 && decide ((n - BitVec.ofNat 32 (nextBatch b)).toNat < 2 ^ 31)

/-- The command of a warp's block that a handle names (R324). -/
def State.copyOf (s : State) (x : Warp) (h : Word) : Option (Nat × CopyCmd) :=
  s.copies.find? fun kv =>
    kv.2.block == x.block && kv.2.handle == h.toNat && kv.2.col == x.col && kv.2.op != .bfence && h != 0

/-- PHASE of a barrier object (R117); none on a slice-failed column, whose memory is unreachable: a wait there ends, as the
waits of R407 do (R405, R406) (log 97, DESIGN CHOICE). -/
def State.phaseOf (s : State) (col off : Nat) : Option Word :=
  if (s.column col).failed = 2 then none
  else some (BitVec.ofNat 32 (leNat ((List.range 4).map fun i => (s.readLoc col (.spad col (off + 8 + i))).1)))

/-- Has a merge wait's first step ended: every command of the warp to the reference is performed or refused (R347)? -/
def State.mergesDone (s : State) (w : Nat) (ref : Addr) : Bool :=
  s.merges.all fun kv => kv.2.warp != w || kv.2.ref != ref

/-- Does the warp's gang hold a held contribution to the round (R337, R343 code 10)? -/
def State.holdsOwn (s : State) (x : Warp) (ref : Addr) : Bool :=
  match s.stationOf (s.asidOf x) x.col ref, s.blockOf x with
  | some st, some b =>
    match s.findRound (s.asidOf x) st (refId ref) with
    | some (_, r) => r.cont.any fun c => c.2.held && (c.2.gang.map Prod.fst) == some b.gang
    | none => false
  | _, _ => false

/-- The status MRG.WAIT returns, with the scope of its acquire; none while the round is open (R347). Of a paired peer's round
the peer's station says it (log 26, DESIGN CHOICE). -/
def State.mergeStatus (s : State) (x : Warp) (ref : Addr) (fate : Nat) : Option (Nat × Nat) :=
  if fate = 1 then some (1, 0)
  else if fate = 7 then some (2, 0)
  else if 2 ≤ fate then some (0, fate - 2)
  else if refRem ref then
    (if (s.mutual (s.asidOf x) (refPeer ref)).isNone then some (2, 0) else none)
  else match s.stationOf (s.asidOf x) x.col ref with
    | none => some (2, 0)
    | some st =>
      if !s.reachable st then some (2, 0)
      else match s.findRound (s.asidOf x) st (refId ref) with
        | none => some (2, 0)
        | some (_, r) => if r.state = .done then some (0, r.scope) else none

/-- Has a warp's wait ended (R76, R98)? A warp discarded for register pressure waits for a register of its bank that was in use
then; or for an older warp's return, where that kept the bank's free registers from it; or for the emergency block, where it was
not the privileged warp and now is. -/
def State.waitOver (s : State) (w : Nat) (x : Warp) : Bool :=
  match x.wait with
  | .none => true
  | .bar _ | .gbar _ => false
  | .waitb col off p _ => s.phaseOf col off != some p
  | .sleep t => decide (t ≤ s.cycOf x.col)
  | .cwait _ h =>
    match s.copyOf x h with
    | none => true
    | some (_, c) => c.stage == 2 || (match c.promise with | some p => decide (p ≤ s.cycOf x.col) | none => false)
  | .mwait n =>
    (s.core x.col x.core).engine.all fun m => m.warp != w || m.batch == x.batch || !coversBatch n m.batch
  | .mrgWait _ ref fate =>
    s.mergesDone w ref && ((x.refused.any fun r => r.ref == ref) || s.holdsOwn x ref || (s.mergeStatus x ref fate).isSome)
  | .gwait _ h fate =>
    fate != 0 || match s.gridByHandle (s.asidOf x) h.toNat with
    | none => true
    | some (_, g) => g.state == .retired
  | .pressure bank held older priv =>
    let used := s.physUsed x.col x.core bank w none
    let free (i : Nat) : Bool := !used.contains i
    (!s.olderOut x && (List.range emergencyAt).any fun i => free i && (older || held.contains i))
      || (s.privileged x.col x.core == some w
        && (List.range 8).any fun i => free (emergencyAt + i) && (!priv || held.contains (emergencyAt + i)))

/-- A warp whose wait has ended with a word for its S register. -/
def State.wake (s : State) (w d : Nat) (v : Word) : State :=
  s.modWarp w fun x => { x with wait := .none, regs := { x.regs with s := x.regs.s.set d { val := v, poison := false } } }

/-- A warp whose wait ends in a trap: the wait is over and the handler is entered with the run already committed. -/
def State.wakeTrap (s : State) (w : Nat) (x : Warp) (code : Nat) (info : Nat) (addr : Addr) (again : Bool) : State :=
  let s := s.modWarp w fun x => { x with wait := .none }
  s.takeTrap w { code := code, info := BitVec.ofNat 32 info, addr := addr } x.regs.active x.waitPc
    (if again then x.waitPc else x.regs.pc) false false

/-- The end of CWAIT (R324). -/
def State.endCwait (s : State) (w : Nat) (x : Warp) (d : Nat) (h : Word) : State :=
  match s.copyOf x h with
  | none => s.wake w d 0xFFFFFFFF
  | some (k, c) =>
    let scope := if c.op = .cpyx then 4 else 3
    match c.fault with
    | some (_, addr) =>
      (({ s with copies := mapErase s.copies k } : State).acquire x.col x.core scope).wakeTrap w x 0x33 c.done addr false
    | none =>
      if c.stage = 2 then
        (({ s with copies := mapErase s.copies k } : State).acquire x.col x.core scope).wake w d (BitVec.ofNat 32 c.done)
      else
        ({ s with copies := mapSet s.copies k { c with promise := none } } : State).wakeTrap w x 0x34 c.done 0 true

/-- The end of MWAIT (R233): the earliest fault it covers is reported; otherwise it returns. -/
def State.endMwait (s : State) (w : Nat) (x : Warp) (n : Word) : State :=
  match x.matFlt.find? fun f => f.batch != x.batch && coversBatch n f.batch with
  | some f =>
    let s := s.modWarp w fun x => { x with matFlt := x.matFlt.erase f }
    s.wakeTrap w x 0x32 (f.tile + 65536 * (f.done % 65536)) f.addr false
  | none => s.modWarp w fun x => { x with wait := .none }

/-- The end of MRG.WAIT (R347): its steps in order. -/
def State.endMrgWait (s : State) (w : Nat) (x : Warp) (d : Nat) (ref : Addr) (fate : Nat) : State :=
  match x.refused.find? fun r => r.ref == ref with
  | some r =>
    let s := s.modWarp w fun x => { x with refused := x.refused.filter fun q => q.ref != ref }
    s.wakeTrap w x 0x35 (r.code + 256 * r.cont + 2 ^ 20 * r.tile) r.addr true
  | none =>
    if s.holdsOwn x ref || fate == 8 then s.wakeTrap w x 0x35 10 0 true
    else match s.mergeStatus x ref fate with
      | none => s
      | some (status, scope) =>
        let s := if status = 0 then s.acquire x.col x.core scope else s
        (s.wake w d (BitVec.ofNat 32 status)).drewFresh

/-- The end of a wait that is over, and the run boundary that follows it. -/
def State.endWait (s : State) (w : Nat) : State :=
  match s.warp w with
  | none => s
  | some x =>
    if !x.resident || !s.waitOver w x then s
    else
      let s := match x.wait with
        | .none | .bar _ | .gbar _ => s
        | .waitb _ _ _ acq =>
          let s := match acq with | some k => s.acquire x.col x.core k | none => s
          s.modWarp w fun x => { x with wait := .none }
        | .sleep _ | .pressure _ _ _ _ => s.modWarp w fun x => { x with wait := .none }
        | .cwait d h => s.endCwait w x d h
        | .mwait n => s.endMwait w x n
        | .mrgWait d ref fate => s.endMrgWait w x d ref fate
        | .gwait d h fate =>
          let fate := if fate = 0 then s.grantFate (s.asidOf x) h else fate
          if fate = 3 then s.wake w d 2 else (s.acquire x.col x.core 3).wake w d (BitVec.ofNat 32 (fate - 1))
      s.boundary w

/-! ### Arrivals -/

/-- The warps whose wait at a barrier object is over, woken (R119). -/
def State.wakeAt (s : State) (col off : Nat) : State :=
  (s.warps.map Prod.fst).foldl (fun s w => match s.warp w with
    | some x => match x.wait with
      | .waitb c o _ _ => if c = col ∧ o = off then s.endWait w else s
      | _ => s
    | none => s) s

/-- BARRIER_OBJECT_ARRIVE (R118): an arrival that was sent takes place, and the waiters of the object wake
(log 57, DESIGN CHOICE). -/
def State.performArrival (s : State) (n : Nat) : State :=
  match mapGet s.arrivals n with
  | none => s
  | some (_, col, off, k) =>
    (({ s with arrivals := mapErase s.arrivals n } : State).arriveAt col off k).wakeAt col off

/-- Every arrival that was sent takes place: a thread's accesses to one address are performed in program order (R243), so
no warp issues past an arrival that a commit has sent (log 57, DESIGN CHOICE). -/
def State.settleArrivals (s : State) : State := (s.arrivals.map Prod.fst).foldl State.performArrival s

/-- The meaning of BARRIER_OBJECT_ARRIVE. -/
def execBarrierObjectArrive (n : Nat) (s : State) : Host.Outcome State Fault Refusal := .next (s.performArrival n)

/-! ### Exchanges -/

/-- A member of an exchange group: its warp, where it has one, and whether its block is lost. -/
structure Member where
  warp : Option (Nat × Warp)
  lost : Bool

/-- The members of a warp's exchange group, in ascending order (R302). -/
def State.members (s : State) (x : Warp) : List Member :=
  match s.blockOf x with
  | none => []
  | some b =>
    match s.gang b.gang with
    | none => []
    | some k =>
      ((List.range k.size).filter fun g => g % k.m == b.g % k.m).map fun g =>
        match (s.blocksOf b.gang).find? fun kv => kv.2.g == g with
        | none => { warp := none, lost := false }
        | some (bid, blk) =>
          { warp := (s.warpsOf bid).find? fun kv => kv.2.num == x.num, lost := blk.lost }

/-- What a member sent, where it stands arrived. -/
def Member.sent (m : Member) : Option Arrival := m.warp.bind fun kv => kv.2.arrived

/-- A trap that arises from the performance of a warp's exchange (R82, R304): it withdraws, its run in flight is discarded,
and RPC names the exchange. -/
def State.exchangeTrap (s : State) (w : Nat) (code info : Nat) : State :=
  match s.warp w with
  | none => s
  | some x =>
    match x.arrived with
    | none => s
    | some a =>
      let s := (s.discardRun w).modWarp w fun x =>
        { x with arrived := none, pend := x.pend.filter fun p => p.id != a.pend }
      (s.takeTrap w { code := code, info := BitVec.ofNat 32 info, addr := 0 } x.regs.active a.pc a.pc true false).boundary w

/-- Do two arrivals agree (R304)? -/
def Arrival.agrees (a b : Arrival) : Bool :=
  a.red == b.red && a.f.sub == b.f.sub && a.f.ty == b.f.ty && a.f.aw == b.f.aw && a.f.x == b.f.x

/-- The member XCH takes from (R305). -/
def exchangeSource (sub n k x : Nat) : Nat :=
  match sub with
  | 0 => if n ≤ x ^^^ k then x else x ^^^ k
  | 1 => (x + (n - k % n)) % n
  | 2 => n - 1 - x
  | _ => k

/-- XRED's value for every thread (R306): the contributions present, in ascending member order. Poison in any of them
reaches the result. -/
def reduceAll (f : Fields) : List (List Lanes) → List Lanes
  | [] => []
  | first :: rest =>
    let n := f.ty.regs
    let at_ (v : List Lanes) (t : Nat) : List Word := (List.range n).map fun j => (v.getD j Lanes.zero).val.getD t 0
    let rows := (List.range 64).map fun t =>
      rest.foldl (fun r v => reduceWords f.ty f.sub.toNat r (at_ v t)) (at_ first t)
    let psn := (first :: rest).foldl (fun m v => v.foldl (fun m l => m ||| l.poison) m) 0
    (List.range n).map fun j => { val := rows.map fun r => r.getD j 0, poison := psn }

/-- The result of an exchange for member `i` (R305-R307, R407) (log 41, DEDUCED). -/
def exchangeResult (ms : List Member) (a : Arrival) (i : Nat) : List Lanes :=
  let n := ms.length
  if a.red then reduceAll a.f (ms.filterMap fun m => m.sent.map Arrival.vals)
  else match ms[exchangeSource a.f.sub.toNat n (a.f.x.toNat % 256) i]? with
    | some m => if m.lost then a.vals else (m.sent.map Arrival.vals).getD a.vals
    | none => a.vals

/-- An exchange delivered to a member: its pending result is ready, and its count moves on (R303). An XRED whose value in
a thread of the member's guard comes from poison has consumed it (R395). -/
def State.deliver (s : State) (w : Nat) (a : Arrival) (vals : List Lanes) : State :=
  let eats := a.red && (vals.any fun l => l.poison &&& a.mask != 0)
  let s := match s.warp w with
    | some x => s.consume x (if eats then 1 else 0)
    | none => s
  (s.modWarp w fun x =>
    { x with arrived := none, xcount := (x.xcount + 1) % 2 ^ 32
             pend := x.pend.map fun p => if p.id = a.pend then { p with vals := vals, ready := true } else p }).boundary w

/-- The instance a warp stands arrived at, completed where every member stands arrived (R303, R304): compared, then
trapped or delivered (log 58, DEDUCED). A lost member's contribution, made before the failure, counts in it and in no later one
(R407). -/
def State.completeExchange (s : State) (w : Nat) : State :=
  match s.warp w with
  | none => s
  | some x =>
    let ms := s.members x
    if x.arrived.isNone ∨ !(ms.all fun m => m.lost || m.sent.isSome) then s
    else
      let live := (List.range ms.length).filterMap fun i =>
        match ms[i]? with
        | some m => if m.lost then none else m.warp.bind fun kv => kv.2.arrived.map fun a => (i, kv.1, a)
        | none => none
      match live with
      | [] => s
      | (_, _, ref) :: _ =>
        match live.find? fun m => !ref.agrees m.2.2 with
        | some (i, _, _) => live.foldl (fun s m => s.exchangeTrap m.2.1 0x40 i) s
        | none =>
          let k := ref.f.x.toNat % 256
          if !ref.red && ref.f.sub == 3 && decide (ms.length ≤ k) then
            live.foldl (fun s m => s.exchangeTrap m.2.1 0x40 (2 ^ 31 + k)) s
          else
            let s := live.foldl (fun s m => s.deliver m.2.1 m.2.2 (exchangeResult ms m.2.2 m.1)) s
            ms.foldl (fun s m => match m.warp with
              | some (v, _) => if m.lost then s.modWarp v fun x => { x with arrived := none } else s
              | none => s) s

end Sys2Proof.Machine
end

