-- ==== Sys2Proof/Machine/Commit.lean ====
section
/-! DEFINITION. The commit of a run (R79): what holds it back, what discards it instead (R90, R218, R245), and its four
steps: registers, stores, commands, the irrevocable instruction (R82, R298); then how the run ended (R75). -/

namespace Sys2Proof.Machine

open Sys2Proof

/-! ### Before the commit -/

/-- How many commands of a kind a run sends. -/
def Run.countCmds (r : Run) (p : QCmd → Bool) : Nat := (r.cmds.filter p).length

/-- The copy and bank commands of a context that a column holds; those of a pre-empted gang are in its save area (R327). -/
def State.copiesAt (s : State) (asid col : Nat) : List CopyCmd :=
  (s.copies.filter fun kv => kv.2.col == col && kv.2.asid == asid && s.gangRuns kv.2.gang).map Prod.snd

/-- Does a run's commit find room in the queues its commands enter (R219, R320)? (log 68, DEDUCED) MFENCE takes no
place in the engine's queue (log 84, DEDUCED). -/
def State.queueRoom (s : State) (x : Warp) (r : Run) : Bool :=
  let mat := r.countCmds fun q => match q with | .mat _ => true | _ => false
  let cpy := r.countCmds fun q => match q with | .copy c => !c.bank | _ => false
  let bank := r.countCmds fun q => match q with | .copy c => c.bank | _ => false
  let named := r.countCmds fun q => match q with | .copy c => c.op != .bfence | _ => false
  let here := s.copiesAt (s.asidOf x) x.col
  let waiting (b : Bool) : Nat := (here.filter fun c => c.bank == b && c.stage != 2).length
  decide (mat = 0 ∨ (s.core x.col x.core).engine.length + mat ≤ 32)
    && decide (cpy = 0 ∨ waiting false + cpy ≤ 64) && decide (bank = 0 ∨ waiting true + bank ≤ 32)
    && decide (named = 0 ∨ (here.filter fun c => c.op != .bfence).length + named ≤ 1024)

/-- Does a run hold an SO store? -/
def Run.storesSo (r : Run) : Bool := r.stbuf.any fun b => b.so

/-- Does another run of the column, discarded twice in succession, defer a warp's commit of SO stores (R245)? Of two such
runs the one of the lower warp identity commits first (log 85, DESIGN CHOICE). -/
def State.deferred (s : State) (w : Nat) (x : Warp) : Bool :=
  s.warps.any fun kv => kv.1 != w && kv.2.col == x.col && kv.2.resident && decide (2 ≤ kv.2.soTries)
    && (decide (x.soTries < 2) || decide (kv.1 < w))

/-- Must the commit of a run wait (R82, R219, R245, R320)? (log 27, DEDUCED) -/
def State.mustWait (s : State) (w : Nat) (x : Warp) (r : Run) : Bool :=
  x.arrived.isSome || x.rest.isSome || x.pend.any (fun p => !p.ready && !p.ofRun) || !s.queueRoom x r
    || (r.storesSo && s.deferred w x)

/-- A byte as a load at the commit would read it: of a host line that the column has not written, the host's (R252, R255). -/
def State.freshByte (s : State) (col : Nat) : Loc → Byte
  | .host pa =>
    match mapGet s.hostCopy (hostKey col pa) with
    | some h => if h.dirty.testBit (pa % 64) then h.bytes.getD (pa % 64) 0 else cellGet s.host pa
    | none => cellGet s.host pa
  | l => (s.readLoc col l).1

/-- Has a byte changed that a load of the run read behind an order of R255 which its commit performs, or the word that
MRG.STAT read there (R355)? An order of CORE or COLUMN scope acquires nothing of the host: the column's own copy of a host
line is then what such a load rests on (R252). The run is executed again, as one that has not read (R254) (log 79, DEDUCED).
-/
def State.overtaken (s : State) (x : Warp) (r : Run) : Bool :=
  (r.late.any fun q => (if q.2.2 then s.freshByte x.col q.1 else (s.readLoc x.col q.1).1) != q.2.1)
    || r.lateStat.any fun q => s.statWord (s.asidOf x) x.col q.1 q.2.1 != q.2.2

/-- The state a matrix command leaves its tile in, as R218 counts it. -/
def MatCmd.counts (m : MatCmd) (rcd : Record) (st : Nat × Word) : Nat × Word :=
  let a := rcd.slot m.slotA
  let b := rcd.slot m.slotB
  match m.op with
  | .mzero => (0, 0)
  | .mldz => (if a.fmt = 5 then 2 else 1, BitVec.ofNat 32 a.scale)
  | .mst => st
  | .mma | .mmat =>
    if st.1 ≠ 0 then st
    else
      let int := ((matPair (m.op == .mmat) a.fmt b.fmt).map Prod.snd).getD false
      (if int then 2 else 1, BitVec.ofNat 32 (mul32 a.scale b.scale))

/-- The code of the scale-mismatch trap a command meets (R218) (log 30, DEDUCED). -/
def MatCmd.mismatch (m : MatCmd) (rcd : Record) (st : Nat × Word) : Option Nat :=
  match m.op with
  | .mma | .mmat =>
    let want := m.counts rcd (0, 0)
    if st.1 = 0 then none
    else if st.1 ≠ want.1 then some 2
    else if st.2 ≠ want.2 then some 1
    else none
  | _ => none

/-- The counted state of a tile of a block (R218). -/
def Block.countedTile (b : Block) (t : Nat) : Nat × Word := mapGetD b.counted t (0, 0)

/-- The check of R218 over the matrix commands of a run, in program order: the first mismatch with its instruction, or
the block's counted state after them. -/
def countMats (rcd : Record) : List QCmd → AMap (Nat × Word) → Except (Nat × Addr) (AMap (Nat × Word))
  | [], m => .ok m
  | .mat c :: rest, m =>
    let st := mapGetD m c.tile (0, 0)
    match c.mismatch rcd st with
    | some k => .error (k, c.pc)
    | none => countMats rcd rest (mapSet m c.tile (c.counts rcd st))
  | _ :: rest, m => countMats rcd rest m

/-! ### Stores and records -/

/-- The record bytes that LAUNCH and TAPE.PUSH read, as a load by the warp (R121, R399); none of them when it cannot be read
(log 49, DEDUCED). -/
def State.readRecord (s : State) (x : Warp) (ptr : Addr) : List Byte × State :=
  match s.places x.col x.core (s.asidOf x) true ptr 256 0 { read := true } with
  | .error _ => ([], s.walkPtr (s.asidOf x) x.col ptr)
  | .ok ps =>
    let bs := ps.map fun p => s.readLoc x.col p.loc
    (if bs.any Prod.snd then [] else bs.map Prod.fst, s.loadTouch x.col x.core (s.asidOf x) ps)

/-- Does a store write a byte of the barrier object at a scratchpad offset? -/
def BufStore.meets (b : BufStore) (col obj : Nat) : Bool :=
  b.bytes.any fun y => match y.loc with
    | .spad c o => c == col && decide (obj ≤ o) && decide (o < obj + 16)
    | _ => false

/-- Is a command of a run an arrival that some of its stores to the same object follow (R243)? It is performed before them. -/
def Run.early (r : Run) (due : List BufStore) (i : Nat) : Bool :=
  match r.cmds[i]? with
  | some (.arrv col off _ _) => due.any fun b => decide (i < b.after) && b.meets col off
  | _ => false

/-- Commands of a run from place `n` to below `m` as its stores pass them: the records they read (R121, R122), and the arrivals
that stores of the run follow (R118, R243). -/
def State.passCmds (s : State) (x : Warp) (r : Run) (due : List BufStore) (n m : Nat) : State × List (Nat × List Byte) :=
  (List.range (m - n)).foldl (fun (acc : State × List (Nat × List Byte)) k =>
    let i := n + k
    let record (ptr : Addr) : State × List (Nat × List Byte) :=
      let (bs, s) := acc.1.readRecord x ptr
      (s, acc.2 ++ [(i, bs)])
    match r.cmds[i]? with
    | some (.launch _ ptr _) => record ptr
    | some (.tape 0 _ _ ptr) => record ptr
    | some (.arrv col off c rel) =>
      if r.early due i then
        (((match rel with | some k => acc.1.release x.col k | none => acc.1).arriveAt col off c).wakeAt col off, acc.2)
      else acc
    | _ => acc) (s, [])

/-- Some stores of a run, `due`, released in program order, and what the commands up to place `m` do among them (R79, R121). -/
def releaseStores (x : Warp) (r : Run) (due : List BufStore) (m : Nat) :
    List BufStore → Nat → State → State × List (Nat × List Byte)
  | [], n, s => s.passCmds x r due n m
  | b :: more, n, s =>
    let (s, now) := s.passCmds x r due n b.after
    let (s, later) := releaseStores x r due m more b.after (s.releaseStore x b)
    (s, now ++ later)

/-- The release that some stores hold, performed after them all (R255). -/
def State.releaseHeld (s : State) (col : Nat) (bs : List BufStore) : State :=
  s.release col (bs.foldl (fun k b => max k (b.rel.getD 0)) 0)

/-! ### Commands -/

/-- S registers that a command of a run writes at the commit (R60): a register that a later instruction of the run wrote
directly keeps that value. -/
def State.putCommit (s : State) (w : Nat) (r : Run) (i d : Nat) (vs : List Word) (psn : Bool := false) : State :=
  s.modWarp w fun x =>
    { x with regs := { x.regs with s := (List.range vs.length).foldl (fun l j =>
        if i < mapGetD r.sAt (d + j) 0 then l else l.set (d + j) { val := vs.getD j 0, poison := psn }) x.regs.s } }

/-- A rate of R320, in bytes per clock. -/
def CopyCmd.rate (c : CopyCmd) (inTower : Bool) : Nat :=
  match c.op with
  | .cpyx => 8
  | .bzero => 256
  | .bcopy | .bcmp => 128
  | _ => if inTower then 64 else 16

/-- Do all bytes of a copy lie in the issuing column's tower (R320)? Host pages lie in none. A row is looked at where it begins
and where it enters another page. -/
def State.inTower (s : State) (c : CopyCmd) : Bool :=
  let near (ptr : Addr) (stride : Nat) : Bool :=
    let rows := if c.op = .cpy2 then c.len / max c.row 1 else 1
    (List.range rows).all fun y =>
      let from_ := (ptr.toNat + y * stride) % 65536
      (List.range ((from_ + c.row + 65535) / 65536)).all fun k =>
        match s.engineByte c.col c.asid c.gang ptr (y * stride + (65536 * k - from_)) {} with
        | .ok (.mem q _ _) | .ok (.spad q _) => tower q == tower c.col
        | .ok _ => false
        | .error _ => true
  near c.dst c.dstride && (c.op == .cpyz || near c.src c.sstride)

/-- The clocks of the promise that a command takes (R320): what it still has to move over its rate, rounded up
(log 68, DEDUCED). -/
def State.promiseClocks (s : State) (c : CopyCmd) : Nat :=
  let r := c.rate (s.inTower c)
  if c.op = .bfence then 0 else (c.len - c.done + r - 1) / r

/-- A copy or bank command accepted (R320): its handle, its promise, its record in the S quad. BFENCE takes its place in
the bank queue, and has no handle record. -/
def State.acceptCopy (s : State) (w : Nat) (r : Run) (i : Nat) (c : CopyCmd) : State :=
  let (id, s) := s.takeId
  if c.op = .bfence then { s with copies := mapSet s.copies id c }
  else
    let n := mapGetD (s.ctx c.asid).copies c.col 0 + 1
    let h := if n % 2 ^ 32 = 0 then 1 else n % 2 ^ 32
    let s := s.modCtx c.asid fun k => { k with copies := mapSet k.copies c.col h }
    let ahead := (s.copiesAt c.asid c.col).filter fun k => k.bank == c.bank && k.stage != 2
    let p := s.cycOf c.col + 1024 + (ahead.map s.promiseClocks).sum + s.promiseClocks c
    let s := { s with copies := mapSet s.copies id { c with handle := h, promise := some p } }
    s.putCommit w r i c.dreg [BitVec.ofNat 32 h, 0, BitVec.ofNat 32 p, BitVec.ofNat 32 (p / 2 ^ 32)]

/-- LAUNCH as it reaches the scheduler (R121, R391) (log 49, DEDUCED). -/
def State.launchAt (s : State) (w : Nat) (x : Warp) (r : Run) (i d : Nat) (bs : List Byte) (rel : Option Nat) : State :=
  let s := match rel with | some k => s.release x.col k | none => s
  match s.blockOf x with
  | none => s
  | some b =>
    let held := s.restartable b.gang
    let (h, g, s) := s.addChild (((s.gang b.gang).map Gang.grid).getD 0) bs held
    let s := s.putCommit w r i d [BitVec.ofNat 32 h]
    if held then s.modGang b.gang fun k => { k with held := k.held ++ [.launch g] } else s.acceptGrid g true false

/-- TAPE as it reaches the scheduler (R122, R391). -/
def State.tapeAt (s : State) (w : Nat) (x : Warp) (r : Run) (i kind : Nat) (ind : Bool) (d : Nat) (bs : List Byte) : State :=
  match s.blockOf x with
  | none => s
  | some b =>
    let asid := s.asidOf x
    let hold (h : Held) (s : State) : State := s.modGang b.gang fun k => { k with held := k.held ++ [h] }
    let held := s.restartable b.gang
    match kind with
    | 0 =>
      if held then (hold (.push bs ind) s).putCommit w r i d [0xFFFFFFFE]
      else
        let (n, s) := s.pushTape asid bs ind
        s.putCommit w r i d [n]
    | 1 =>
      if held then (hold .drain s).putCommit w r i d [0, 0]
      else
        let (n, h, s) := s.drainTape (((s.gang b.gang).map Gang.grid).getD 0)
        s.putCommit w r i d [BitVec.ofNat 32 n, BitVec.ofNat 32 h]
    | _ =>
      if held then (hold .clear s).putCommit w r i d [0]
      else
        let n := (s.ctx asid).stack.length
        (s.modCtx asid fun c => { c with stack := [] }).putCommit w r i d [BitVec.ofNat 32 n]

/-- One CCTL operation (R293) on one line or sector. It changes no byte that a party of the device can read, but for the
host lines a column holds. -/
def State.cctlAt (s : State) (x : Warp) (sub : Nat) (line : Nat × Nat × Loc) : State :=
  let asid := s.asidOf x
  let (lcol, off, l) := line
  let col := x.col
  let inL1 (e : L1Line) : Bool := e.asid == asid && e.lcol == lcol && e.vline == off / 64
  let l1 (s : State) (g : L1Line → Option L1Line) : State := s.modCore col x.core fun c =>
    { c with l1 := c.l1.filterMap fun e => if inL1 e then g e else some e }
  let written : State := ((s.core col x.core).l1.filter inL1).foldl (fun t e => t.writeBack col e) s
  match sub with
  | 0 => l1 written fun e => some { e with dirty := false }
  | 1 => l1 s fun e => if e.dirty then some e else none
  | 2 => l1 written fun _ => none
  | 4 => s.cleanSector asid col l
  | 5 =>
    if (s.column col).sectors.any fun z => z.holds l && !z.dirty then
      ((s.onSector asid col l fun _ => none).dropL1Sector col l).forgetHost col l
    else s
  | 6 => s.flushSector asid col l
  | 8 => s
  | _ => (s.touchLoc asid col l off {}).onSector asid col l fun z => some { z with colAx := !z.zero && sub == 13 }

/-- One command of a run performed or sent at its commit (R79 step 3). `i` is its place among the run's commands. -/
def State.commitCmd (s : State) (w : Nat) (r : Run) (recs : List (Nat × List Byte)) (i : Nat) (q : QCmd) : State :=
  match s.warp w with
  | none => s
  | some x =>
    let asid := s.asidOf x
    let bs := ((recs.find? fun p => p.1 == i).map Prod.snd).getD []
    match q with
    | .mat m => s.modCore x.col x.core fun c => { c with engine := c.engine ++ [{ m with batch := x.batch }] }
    | .mfence d =>
      let b := nextBatch x.batch
      (s.modWarp w fun x => { x with batch := b }).putCommit w r i d [BitVec.ofNat 32 b]
    | .copy c => s.acceptCopy w r i c
    | .merge m =>
      let (id, s) := s.takeId
      let m := { m with id := id }
      if m.op = .rank then
        match s.setRank m with
        | some t => t
        | none => { s with merges := mapSet s.merges id m }
      else { s with merges := mapSet s.merges id m }
    | .phase next v => s.modColumn x.col fun c => { c with cph := if next then c.cph + 1 else v }
    | .cpart v => s.modColumn x.col fun c => { c with parts := c.parts ++ [(v, w)] }
    | .arrv col off n rel =>
      let s := match rel with | some k => s.release x.col k | none => s
      let (id, s) := s.takeId
      { s with arrivals := mapSet s.arrivals id (((s.blockOf x).map Block.gang).getD 0, col, off, n) }
    | .launch d _ rel => s.launchAt w x r i d bs rel
    | .tape kind ind d _ => s.tapeAt w x r i kind ind d bs
    | .cctl sub locs => locs.foldl (fun s l => s.cctlAt x sub l) s
    | .fence kind scope => if kind = 1 then s else s.release x.col scope
    | .chkerr d mask =>
      let v := (s.ctx asid).cirAt x.col
      let s := s.modCtx asid fun c => { c with cir := mapSet c.cir x.col (cirCleared v mask) }
      s.putCommit w r i d [loWord v, hiWord v]
    | .sreg n v => s.modCtx asid fun c =>
        if 0x027 ≤ n ∧ n ≤ 0x02C then c.setLoss x.col ((c.loss x.col).write n v)
        else { c with sreg := mapSet c.sreg (64 * x.col + n) v }
    | .lsupd d flag =>
      let l := ((s.ctx asid).loss x.col).step flag (s.freeW 4000)
      (s.modCtx asid fun c => c.setLoss x.col l).putCommit w r i d [l.scale, l.stat]
    | .sysreg n v => s.setSystem x n v
    | .mupd k negv => s.lossEvents asid x.col k negv
    | .trn => s.setCir asid x.col 3
    | .poisoned d n => s.putCommit w r i d ((List.range n).map fun j => s.freeW (2048 + 64 * i + j)) true

/-- Is a command an access of its warp, which waits for a BFENCE or CPART that stands before it (R326, R353)? -/
def QCmd.isAccess : QCmd → Bool
  | .arrv _ _ _ _ | .cctl _ _ | .fence _ _ | .launch _ _ _ | .tape _ _ _ _ => true
  | _ => false

/-- The commands of a run that `which` names, in program order. -/
def State.commitCmds (s : State) (w : Nat) (r : Run) (recs : List (Nat × List Byte)) (which : Nat → QCmd → Bool) : State :=
  (List.range r.cmds.length).foldl (fun s i => match r.cmds[i]? with
    | some q => if which i q then s.commitCmd w r recs i q else s
    | none => s) s

/-- The BFENCEs of a run among its commands, each with the bank command it is, once its commands are queued: those of its warp
from identity `first` on (R326). -/
def State.fencesOf (s : State) (w : Nat) (r : Run) (first : Nat) : List (Nat × Nat) :=
  ((r.cmds.zipIdx.filter fun q => q.1.isBfence).map Prod.snd).zip
    ((s.copies.filter fun kv => decide (first ≤ kv.1) && kv.2.op == .bfence && kv.2.warp == w).map Prod.fst)

/-! ### Atomics -/

/-- The new value of an atomic on `n` bytes (R298). `v` is the D group. -/
def atomNew (op : AtomKind) (f : Fields) (ftz : Bool) (n : Nat) (old : Nat) (v : List Word) : Nat :=
  let w := 8 * n
  let num (l : List Word) : Nat := l.foldr (fun x a => x.toNat + 2 ^ 32 * a) 0
  let a := num (v.take (n / 4))
  match op with
  | .acas => if old = a then num (v.drop (n / 4)) % 2 ^ w else old
  | .afadd =>
    let g := fmtOf f.ty
    let es := List.zipWith (fun x y => g.flush ftz (g.add f.rnd false (g.flush ftz x) (g.flush ftz y)))
      (groupElems f.ty.elemBits [BitVec.ofNat 32 old]) (groupElems f.ty.elemBits (v.take 1))
    num (groupWords f.ty.elemBits 1 es)
  | .atom | .red | .patom =>
    let x := readInt f.ty.isSigned w old
    let y := readInt f.ty.isSigned w a
    match f.sub.toNat with
    | 0 => (old + a) % 2 ^ w
    | 1 => if y < x then a else old
    | 2 => if x < y then a else old
    | 3 => old &&& a
    | 4 => old ||| a
    | 5 => old ^^^ a
    | 6 => a
    | 7 => if a ≤ old then 0 else old + 1
    | _ => if old = 0 ∨ a < old then a else old - 1

/-- One thread's atomic performed (R298): the machine after it, the old value and the poison of the result. An atomic that
computes from poisoned memory writes nothing, and its line stays poisoned (R394, R395); EXCH only moves. On a host page the
result is in host memory at once, where every column's later access of it is ordered behind it (R243). -/
def State.atomOne (s : State) (x : Warp) (f : Fields) (ftz : Bool) (op : AtomKind) (a : AtomAcc) :
    State × Nat × Bool :=
  let n := a.locs.length
  let got := a.locs.map (s.readLoc x.col)
  let old := leNat (got.map Prod.fst)
  let oldPsn := got.any Prod.snd
  let new := atomNew op f ftz n old a.data
  let eats := !isExch op f && oldPsn
  let bytes := (a.locs.zip (leBytes n new)).map fun p => { loc := p.1, va := 0, byte := p.2, poison := a.poison }
  let s := if eats then s else ((s.keepCode x bytes).writeBytes x.col bytes).cleanStored x.col bytes
  (s, old, oldPsn || (!isExch op f && a.poison))

/-- The line of an atomic taken by the column cache, without a copy in any L1 (R299): on a host page it is held exclusive. -/
def State.atomLine (s : State) (x : Warp) (a : AtomAcc) : State :=
  match a.locs.head? with
  | none => s
  | some l =>
    let s := s.flushLine x.col l
    let s := match l with | .host pa => s.takeHost x.col pa | _ => s
    (s.touchLoc (s.asidOf x) x.col l a.off { store := true }).shootL1 x.col x.core l true

/-- Atomics with one for each 32-byte row line (R274). -/
def atomLines (accs : List AtomAcc) : List AtomAcc :=
  let line (a : AtomAcc) : Option (Loc × Nat) := a.locs.head?.map fun l => (l.plus 0, l.line)
  accs.foldl (fun acc a => if acc.any fun b => (line b).any fun p => (line a).any fun q => p.1.same64 q.1 && p.2 == q.2 then acc
    else acc ++ [a]) []

/-- An atomic instruction performed after its run's commit (R82, R299, R311): thread by thread, in ascending order; the
old values go to its pending result. -/
def State.performAtomic (s : State) (w : Nat) (x : Warp) (f : Fields) (op : AtomKind) (accs : List AtomAcc) (pend : Nat) :
    State :=
  let o : Ord := { acq := bit f.x 0, rel := bit f.x 1, scope := f.x.toNat / 4 % 8 }
  let rcd := s.recOf x
  let s0 := (atomLines accs).foldl (fun s a => s.atomLine x a) (s.engineRelease x.col o)
  let (s, olds) := accs.foldl (fun (acc : State × List (Nat × Nat × Bool)) a =>
    let (s, old, psn) := acc.1.atomOne x f rcd.ftz op a
    (s, acc.2 ++ [(a.t, old, psn)])) (s0, [])
  let eaten := !isExch op f && accs.any fun a => a.locs.any fun l => (s0.readLoc x.col l).2
  let s := s.consume x (if eaten then 1 else 0)
  let s := if o.acq then s.acquire x.col x.core o.scope else s
  let lead (t : Nat) : Nat := if rcd.prot && olds.any (fun e => e.1 == 2 * (t / 2)) then 2 * (t / 2) else t
  let fill (j : Nat) (l : Lanes) : Lanes :=
    let pick (t : Nat) : Option (Nat × Nat × Bool) := olds.find? fun e => e.1 == lead t
    { val := (List.range 64).map fun t => match pick t with
        | some e => BitVec.ofNat 32 (e.2.1 / 2 ^ (32 * j))
        | none => l.val.getD t 0
      poison := maskOf fun t => match pick t with | some e => e.2.2 | none => bit l.poison t }
  s.modWarp w fun x =>
    { x with pend := x.pend.map fun p =>
        if p.id = pend then { p with vals := (List.range p.vals.length).map fun j => fill j (p.vals.getD j Lanes.zero)
                                     ready := true }
        else p }

/-! ### The commit -/

/-- The registers of a warp after its run's registers become architectural (R79 step 1, R97): dead reads end registers, and a
run whose last instruction is YIELD or a W instruction leaves no operand-cache entry valid (R60, R96). -/
def Run.settled (r : Run) : Regs :=
  let regs := { r.work with v := r.work.v.filter fun kv => !r.dead.contains kv.1 }
  if r.cold then { regs with c := regs.c.map fun e => { e with valid := false } } else regs

/-- The monopoly count of a warp's slot returned to zero: its holder executes YIELD or a W instruction (R78). -/
def State.restartMono (s : State) (w : Nat) : State :=
  match s.warp w with
  | none => s
  | some x => s.modCore x.col x.core fun c =>
    { c with slots := c.slots.set x.slot { (c.slots.getD x.slot Slot.idle) with mono := 0 } }

/-- A waiting state entered at the commit of a run (R60 class W). -/
def State.enterWait (s : State) (w : Nat) (r : Run) (wait : Wait) : State :=
  s.modWarp w fun x => { x with wait := wait, waitPc := r.lastPc }

/-- What the end of a run does after its commit (R75). -/
def State.endRun (s : State) (w : Nat) (x : Warp) (r : Run) : RunEnd → State
  | .plain => s
  | .yield => s.modWarp w fun x => { x with yielded := true }
  | .sleep t => match t with
    | some k => s.enterWait w r (.sleep k)
    | none => s
  | .bar n =>
    let s := s.enterWait w r (.bar n)
    (s.modBlock x.block fun b => { b with bar := b.bar ++ [(n, w)] }).barCheck x.block n
  | .gbar n =>
    let s := (s.release x.col 2).enterWait w r (.gbar n)
    match s.blockOf x with
    | some b => (s.modGang b.gang fun k => { k with gbar := k.gbar ++ [(n, w)] }).gbarCheck b.gang n
    | none => s
  | .waitb col off p acq => s.settleArrivals.enterWait w r (.waitb col off p acq)
  | .cwait d h => s.enterWait w r (.cwait d h)
  | .mwait n => s.enterWait w r (.mwait n)
  | .mrgWait d ref =>
    let s := match refRem ref, s.mutual (s.asidOf x) (refPeer ref) with
      | true, some pasid => s.send (.mergeWait (refPeer ref) pasid ref w (((s.blockOf x).map Block.gang).getD 0))
      | _, _ => s
    s.enterWait w r (.mrgWait d ref 0)
  | .gwait d h => s.enterWait w r (.gwait d h (s.grantFate (s.asidOf x) h))
  | .trap c =>
    s.takeTrap w { code := 1, info := BitVec.ofNat 32 c, addr := 0 } r.work.active r.lastPc r.work.pc false false
  | .tret => match s.returnTrap w with
    | .ok t => t
    | .error (c, t) => t.takeTrap w c r.work.active r.lastPc r.startPc false false
  | .irr =>
    match r.irr with
    | some (.atomic f op accs pend) => s.performAtomic w x f op accs pend
    | some (.exchange f red vals mask pend) =>
      s.modWarp w fun x => { x with
        arrived := some { red := red, f := f, vals := vals, mask := mask, q := x.xcount + 1, since := s.cycOf x.col, pend := pend
                          pc := r.lastPc, nextPc := r.work.pc } }
    | none => s

/-- Does the BFENCE or CPART that the part of a warp's run stands behind still stand in its queue (R326, R353)? -/
def State.restHeld (s : State) (w col : Nat) (k : Rest) : Bool :=
  match (k.fences.find? fun f => f.1 + 1 == k.place).map Prod.snd with
  | some id => (mapGet s.copies id).isSome
  | none => decide ((k.run.cmds.drop k.place).countP QCmd.isCpart < (s.column col).parts.countP fun p => p.2 == w)

/-- The place past the first BFENCE or CPART of a run from place `n` on: what follows it waits for it (R326, R353). -/
def Run.stopAfter (r : Run) (n : Nat) : Option Nat :=
  ((List.range (r.cmds.length - n)).find? fun k => match r.cmds[n + k]? with
    | some q => q.isBfence || q.isCpart
    | none => false).map fun k => n + k + 1

/-- The end of a run, and the boundary after it (R75, R393). -/
def State.closeRun (s : State) (w : Nat) (r : Run) : State :=
  match s.warp w with
  | none => s
  | some x =>
    let s := s.endRun w x r (r.ended.getD .plain)
    let s := match s.warp w with
      | some y => if y.regs.allExited && y.wait == Wait.none && !y.retired then s.retireWarp w else s
      | none => s
    s.boundary w

/-- The stores and accesses of a committed run from place `n` on, to the next BFENCE or CPART, and, at the commit itself,
where `n` is 0, all the commands that are no accesses (R60, R79, R326, R353) (log 47, DEDUCED). An arrival that a load of the
run has seen is performed with it (R243). -/
def State.commitPart (s : State) (w : Nat) (x : Warp) (r : Run) (n : Nat) : State :=
  let stop := r.stopAfter n
  let m := stop.getD r.cmds.length
  let due := r.stbuf.filter fun b => decide (n ≤ b.after) && (stop.isNone || decide (b.after < m))
  let (s, recs) := releaseStores x r due m due n s
  let s := (s.releaseHeld x.col due).commitCmds w r recs fun i q =>
    if q.isAccess then decide (n ≤ i) && decide (i < m) && !r.early due i else n == 0
  let s := if r.late.any fun q => match q.1 with | .spad _ _ => true | _ => false then s.settleArrivals else s
  if r.fenced = 3 then s.acquireHost x.col x.core else s

/-- A run committed from place `n` on (R79): a part of it, and its end; what stands behind a BFENCE or a CPART is left for
later, and with it an end that waits for it (log 47, DEDUCED). -/
def State.commitFrom (s : State) (w : Nat) (r : Run) (fences : List (Nat × Nat)) (n : Nat) : State :=
  match s.warp w with
  | none => s
  | some x =>
    let t := s.commitPart w x r n
    let fences := if n = 0 then t.fencesOf w r s.nextId else fences
    match r.stopAfter n with
    | some m =>
      let t := t.modWarp w fun x => { x with rest := some { run := r, place := m, fences := fences } }
      if n = 0 ∧ !r.endsLate then t.closeRun w r else t
    | none => if n = 0 ∨ r.endsLate then t.closeRun w r else t.boundary w

/-- A load behind a BFENCE performed (R326): a byte that a store of its run gave it, or memory's. -/
def Pending.loaded (p : Pending) (s : State) (x : Warp) (slot : Option Nat) (psn : Mask)
    (got : List (Nat × List (Loc × Option (Byte × Bool)))) : Pending :=
  let prot := (s.recOf x).prot
  let lead (t : Nat) : Nat := if prot && bit p.mask (2 * (t / 2)) then 2 * (t / 2) else t
  let byte (q : Loc × Option (Byte × Bool)) : Byte × Bool := match q.2 with
    | some b => b
    | none =>
      let b := s.readLoc x.col q.1
      (b.1, b.2 || s.l1Poison x.col x.core q.1)
  let rows := (List.range 64).map fun t =>
    if bit psn t then List.replicate p.count (0, true)
    else match got.find? fun g => g.1 == lead t with
      | some g => wordsOf p.count (g.2.map byte)
      | none => []
  let row (t j : Nat) : Word × Bool := (rows.getD t []).getD j (0, false)
  let words := wordsOf 11 (((got.head?.map Prod.snd).getD []).map byte)
  { p with vals := (List.range p.count).map fun j =>
            { val := (List.range 64).map fun t => (row t j).1, poison := maskOf fun t => (row t j).2 }
           ready := true
           fx := match slot with | some k => .bset k (words.map Prod.fst) (words.any Prod.snd) | none => .none }

/-- The pending results of a warp once the loads that stand behind the BFENCE at place `n` of its run's commands are performed
(R326). -/
def State.loadedPends (s : State) (x : Warp) (n : Nat) : List Pending :=
  x.pend.map fun p => match p.fx with
    | .load k slot psn got => if k ≤ n then p.loaded s x slot psn got else p
    | _ => p

/-- The part of a committed run that stood behind a BFENCE or CPART performed, once that is (R326, R353): first the loads that
stood behind the BFENCE. -/
def State.continueOnce (s : State) (w : Nat) : State :=
  match s.warp w with
  | none => s
  | some x => match x.rest with
    | none => s
    | some k =>
      if !x.resident || s.restHeld w x.col k then s
      else
        let s := s.settleArrivals
        let s := if k.run.fenced = 3 then s.acquireHost x.col x.core else s
        ((s.modWarp w fun x => { x with rest := none, pend := s.loadedPends x k.place }).commitFrom w k.run k.fences k.place).drewFresh

/-- What a committed run still has to perform, performed as far as nothing holds it back: the next BFENCE of it may be over
too. -/
def State.continueRest (s : State) (w : Nat) : State := (List.range 24).foldl (fun s _ => s.continueOnce w) s

/-- The commit of a run that nothing holds back (R79). -/
def State.commitRun (s : State) (w : Nat) (x : Warp) (r : Run) (counted : AMap (Nat × Word)) : State :=
  let s := (s.imprint x (r.drops x.slot)).setWarp w { x with
    regs := r.settled, run := none, pend := x.pend.map Pending.settled, bskip := none, soTries := 0, begun := true }
  let s := if r.cold then s.restartMono w else s
  ((s.modBlock x.block fun b => { b with counted := counted }).commitFrom w r [] 0).drewFresh

/-- A run that has ended and need not wait: a protected-mode disagreement kills the gang (R90), an overwritten SO load discards
the run (R245), and a scale mismatch traps (R218); otherwise it commits. -/
def State.decideCommit (s : State) (w : Nat) : State :=
  match s.warp w with
  | none => s
  | some x =>
    match x.run with
    | none => s
    | some r =>
      if r.cmp.any fun p => p.1 != p.2 then
        let s := (s.setCir (s.asidOf x) x.col 1).discardRun w
        match s.blockOf x with
        | some b => s.killGang b.gang
        | none => s
      else if r.soHit then (s.discardRun w).modWarp w fun x => { x with soTries := x.soTries + 1 }
      else if s.overtaken x r then s.discardRun w
      else
        match countMats (s.recOf x) r.cmds (((s.blockOf x).map Block.counted).getD []) with
        | .error (k, pc) =>
          (s.discardRun w).takeTrap w { code := 0x31, info := BitVec.ofNat 32 k, addr := 0 }
            (BitVec.allOnes 64) pc r.startPc false false
        | .ok counted => s.commitRun w x r counted

/-- RUN_COMMIT (R79): a run that has ended commits, unless it must wait. The arrivals that committed runs have sent come
before it (R243). -/
def State.tryCommit (s : State) (w : Nat) : State :=
  match s.warp w with
  | none => s
  | some x =>
    match x.run with
    | none => s
    | some r => if r.ended.isNone || !x.resident || s.mustWait w x r then s else s.settleArrivals.decideCommit w

/-- The oldest waiting change of a column's partition performed (R296, R353), and what its warp's run has behind it. -/
def State.changePart (s : State) (col : Nat) : State :=
  match (s.column col).parts with
  | [] => s
  | (_, w) :: _ => (s.nextPart col).continueRest w

/-- The meaning of RUN_COMMIT. -/
def execRunCommit (w : Nat) (s : State) : Host.Outcome State Fault Refusal := .next (s.tryCommit w)

end Sys2Proof.Machine
end

