-- ==== Sys2Proof/Machine/CopyEngine.lean ====
section
/-! DEFINITION. What the copy engine and the bank logic of a column do (R320-R327), and the passing of a promise (R324). -/

namespace Sys2Proof.Machine

open Sys2Proof

/-! ### Copies -/

/-- Byte `i` of a side of a copy: its distance from the pointer (R321). -/
def CopyCmd.at_ (c : CopyCmd) (stride i : Nat) : Nat :=
  if c.op = .cpy2 then i / c.row * stride + i % c.row else i

/-- Does a CPYX side lie on the peer (R323)? DIR 0 writes there, DIR 1 reads there. -/
def CopyCmd.onPeer (c : CopyCmd) (write : Bool) : Bool := c.op == .cpyx && bit c.link 31 != write

/-- PEER of a link word. -/
def CopyCmd.peer (c : CopyCmd) : Nat := c.link.toNat % 512

/-- Where byte `i` of one side of a copy lies (R321, R323). A peer outside the domain, or without a mutual pairing (R373),
faults with the peer pointer as the address. -/
def State.copyByte (s : State) (c : CopyCmd) (write : Bool) (i : Nat) : Except Cause Loc :=
  let ptr := if write then c.dst else c.src
  let o := c.at_ (if write then c.dstride else c.sstride) i
  if c.onPeer write then
    match s.mutual c.asid c.peer with
    | some pasid => .ok (.peer c.peer pasid (ptr.toNat + o))
    | none => .error { code := 0x22, info := 0, addr := ptr }
  else s.engineByte c.col c.asid c.gang ptr o { read := !write, write := write }

/-- The sectors that CPYZ has covered whole with a chunk's last bytes, made zero sectors (R283, R321). -/
def State.zeroSectors (s : State) (c : CopyCmd) (idx : List Nat) (dst : List Loc) : State :=
  let off := c.dst.toNat % 2 ^ 48
  (idx.zip dst).foldl (fun s p =>
    if (off + p.1) % 1024 = 1023 ∧ 1023 ≤ p.1 then s.touchLoc c.asid c.col p.2 ((off + p.1) % 2 ^ 48) { zero := true } else s) s

/-- The walks for some bytes of one side of a copy, one for each page (R321, R363, R375). -/
def State.walkSide (s : State) (c : CopyCmd) (write : Bool) (idx : List Nat) : State :=
  let ptr := if write then c.dst else c.src
  if bit ptr 63 || c.onPeer write || (c.op == .cpyz && !write) then s
  else
    let at_ (i : Nat) : Addr := ptr + BitVec.ofNat 64 (c.at_ (if write then c.dstride else c.sstride) i)
    let pages := idx.foldl (fun (acc : List Addr) i =>
      if acc.any fun p => p.toNat / 65536 == (at_ i).toNat / 65536 then acc else acc ++ [at_ i]) []
    pages.foldl (fun s p => s.walkPtr c.asid c.col p) s

/-- One chunk of a copy (R321): every byte of it checked, source before destination, then read whole, then written. A
chunk that reads poison writes poison (log 42, DEDUCED). -/
def State.copyChunk (s : State) (c : CopyCmd) (k : Nat) : Except Cause State :=
  let idx := (List.range (min 256 (c.len - 256 * k))).map (256 * k + ·)
  match (if c.op = .cpyz then .ok [] else placesOrFault (s.copyByte c false) idx), placesOrFault (s.copyByte c true) idx with
  | .error e, _ => .error e
  | .ok _, .error e => .error e
  | .ok src, .ok dst =>
    let got := if c.op = .cpyz then idx.map fun _ => ((0 : Byte), false) else s.engineRead c.col src
    let psn := got.any Prod.snd
    let s := s.engineTouch c.col c.asid (c.src.toNat % 2 ^ 48) src false
    let s := s.engineWrite c.col c.asid (c.dst.toNat % 2 ^ 48) dst (got.map fun b => (b.1, psn))
    let s := if c.op = .cpyz then s.zeroSectors c idx dst else s
    let s := s.meter c.asid c.col 2 idx.length
    .ok (if c.op = .cpyx then s.meter c.asid c.col 8 idx.length else s)

/-- The barrier object of a copy at its column (R318), checked at the end (R321, R322) (log 42, DEDUCED). -/
def State.copyObject (s : State) (c : CopyCmd) : Except Cause (Nat × Nat) :=
  let g := c.barrier.toNat / 2 ^ 20 % 256
  let o := 16 * (c.barrier.toNat % 2 ^ 20)
  match placesOrFault (fun i => s.poolAt c.gang g (o + i)) (List.range 16) with
  | .ok (.spad col off :: _) => .ok (col, off)
  | .ok _ => .error (poolFault 3 g o)
  | .error e => .error { e with addr := BitVec.ofNat 64 o }

/-- A command performed or faulted, its handle kept until it is reported; a block that has gone asks for no report. -/
def State.endCopy (s : State) (k : Nat) (c : CopyCmd) : State :=
  if ((s.block c.block).map Block.retired).getD true then { s with copies := mapErase s.copies k }
  else { s with copies := mapSet s.copies k { c with stage := 2 } }

/-- A copy command whose last chunk is written: the release, then the arrival on its object (R321, R322). -/
def State.finishCopy (s : State) (k : Nat) (c : CopyCmd) : State :=
  if !bit c.barrier 31 then (s.engineRelease c.col c.ord).endCopy k c
  else match s.copyObject c with
    | .error e => s.endCopy k { c with fault := some (e.code, e.addr) }
    | .ok (col, off) => ((((s.engineRelease c.col c.ord).endCopy k c).arriveAt col off 1).wakeAt col off)

/-- The next chunk of a copy command performed, after the acquire where it is the first (R321, R322). -/
def State.performCopy (s : State) (k : Nat) (c : CopyCmd) : State :=
  let s := if c.stage = 0 then s.engineAcquire c.col 0 c.ord else s
  if c.len ≤ c.done then s.finishCopy k c
  else
    let idx := (List.range (min 256 (c.len - c.done))).map (c.done + ·)
    let s := (s.walkSide c false idx).walkSide c true idx
    match s.copyChunk c (c.done / 256) with
    | .error e => s.endCopy k { c with fault := some (e.code, e.addr) }
    | .ok s =>
      let c := { c with done := min (c.done + 256) c.len, stage := 1 }
      if c.done < c.len then { s with copies := mapSet s.copies k c } else s.finishCopy k c

/-- Does a copy or bank command wait for a store that precedes it in its run? -/
def State.copyHeld (s : State) (c : CopyCmd) : Bool :=
  s.restBefore c.warp fun q => match q with | .copy k => k.pc == c.pc | _ => false

/-- COPY_PERFORM (R321): a chunk of the first command of a column's copy queue, in acceptance order. -/
def State.runCopy (s : State) (col : Nat) : State :=
  match mapFind s.copies fun _ c => c.col == col && !c.bank && c.stage != 2 && s.gangRuns c.gang with
  | some (k, c) => if (s.column col).failed = 2 ∨ (s.column col).halted ∨ s.copyHeld c then s else s.performCopy k c
  | none => s

/-! ### Bank commands -/

/-- Where a unit of a bank command's range lies: DRAM of the issuing physical column (R325). Bytes past the last offset meet the
alignment fault (R239). -/
def State.bankUnit (s : State) (c : CopyCmd) (write : Bool) (u : Nat) : Except Cause (List Loc) :=
  let ptr := if write then c.dst else c.src
  match placesOrFault (fun i => s.engineByte c.col c.asid c.gang ptr (1024 * u + i) { read := !write, write := write })
      (List.range 1024) with
  | .error e => .error e
  | .ok ls =>
    if ls.all fun l => match l with | .mem p _ _ => p == c.col | _ => false then .ok ls
    else .error { code := 0x27, info := BitVec.ofNat 32 c.col, addr := ptr + BitVec.ofNat 64 (1024 * u) }

/-- A unit that the bank logic is about to read (R325): its dirty bytes are written back from the column cache and the L1s,
and errors of the array are corrected and logged (R399). -/
def State.bankReads (s : State) (c : CopyCmd) (ls : List Loc) : State :=
  match ls.head? with
  | some (.mem p pa k) => (s.cleanSector c.asid c.col (.mem p pa k)).correctSector p (pa / 1024)
  | _ => s

/-- The column's cached copies of a unit that the bank logic has written, invalid (R325). -/
def State.bankWrote (s : State) (c : CopyCmd) (ls : List Loc) : State :=
  match ls.head? with
  | some l =>
    let gone := (List.range 4).flatMap fun k => (s.core c.col k).l1.filter fun e => e.dirty && e.ploc.sameSector l
    let s := gone.foldl (fun s e => s.settleBelow e.ploc) s
    let s := s.modColumn c.col fun k => { k with sectors := k.sectors.filter fun x => !x.holds l }
    (List.range 4).foldl (fun s k =>
      if mapGet s.cores (4 * c.col + k) = none then s
      else s.modCore c.col k fun k => { k with l1 := k.l1.filter fun e => !e.ploc.sameSector l }) s
  | none => s

/-- The bytes a unit of a bank command moves over the pseudo-channels (R375): read and written. -/
def State.bankMeter (s : State) (c : CopyCmd) : State :=
  let s := if c.op = .bzero then s else s.meter c.asid c.col 4 (if c.op = .bcmp then 2048 else 1024)
  if c.op = .bcmp then s else s.meter c.asid c.col 5 1024

/-- The walks for a unit of a bank command (R325, R363, R375). -/
def State.walkUnit (s : State) (c : CopyCmd) (u : Nat) : State :=
  let side (s : State) (ptr : Addr) : State :=
    if 2 ^ 48 ≤ ptr.toNat % 2 ^ 48 + 1024 * u then s
    else s.walkBytes c.asid c.col (ptr + BitVec.ofNat 64 (1024 * u)) 1024
  if c.op = .bzero then side s c.dst else side (side s c.src) c.dst

/-- One unit of a bank command: the machine after it, and for BCMP the place of the first byte that differs. -/
def State.bankStep (s : State) (c : CopyCmd) (u : Nat) : Except Cause (State × Option Nat) :=
  match c.op with
  | .bzero =>
    match s.bankUnit c true u with
    | .error e => .error e
    | .ok d => .ok ((s.writeBytes c.col (d.map fun l => { loc := l, va := 0, byte := 0, poison := false })).bankWrote c d, none)
  | .bcmp =>
    match s.bankUnit { c with src := c.dst } false u, s.bankUnit c false u with
    | .error e, _ => .error e
    | .ok _, .error e => .error e
    | .ok a, .ok b =>
      let s := (s.bankReads c a).bankReads c b
      let x := (s.engineRead c.col a).map Prod.fst
      let y := (s.engineRead c.col b).map Prod.fst
      .ok (s, (List.range 1024).find? fun i => x.getD i 0 != y.getD i 0)
  | _ =>
    match s.bankUnit c false u, s.bankUnit c true u with
    | .error e, _ => .error e
    | .ok _, .error e => .error e
    | .ok a, .ok d =>
      let s := s.bankReads c a
      let bs := (d.zip (s.engineRead c.col a)).map fun p => { loc := p.1, va := 0, byte := p.2.1, poison := p.2.2 : ByteW }
      .ok ((s.writeBytes c.col bs).bankWrote c d, none)

/-- The next unit of a bank command performed, after the acquire where it is the first (R325): the command is over
with its last unit, or at the unit in which BCMP finds a difference (R324) (log 47, DEDUCED). -/
def State.performBank (s : State) (n : Nat) (c : CopyCmd) : State :=
  let s := if c.stage = 0 then s.engineAcquire c.col 0 c.ord else s
  if c.len ≤ c.done then (s.engineRelease c.col c.ord).endCopy n c
  else
    let s := s.walkUnit c (c.done / 1024)
    match s.bankStep c (c.done / 1024) with
    | .error e => s.endCopy n { c with fault := some (e.code, e.addr) }
    | .ok (s, some i) => ((s.bankMeter c).engineRelease c.col c.ord).endCopy n { c with done := c.done + i }
    | .ok (s, none) =>
      let s := s.bankMeter c
      let c := { c with done := c.done + 1024, stage := 1 }
      if c.done < c.len then { s with copies := mapSet s.copies n c }
      else (s.engineRelease c.col c.ord).endCopy n c

/-- May a bank command begin (R326): no BFENCE of its warp stands before it, and for a BFENCE no command of its warp
(log 47, DEDUCED). -/
def State.bankReady (s : State) (k : Nat) (c : CopyCmd) : Bool :=
  s.copies.all fun kv => !(decide (kv.1 < k) && kv.2.bank && kv.2.stage != 2 && kv.2.warp == c.warp
    && (c.op == .bfence || kv.2.op == .bfence))

/-- BANK_COMMAND_PERFORM (R325, R326): a unit of a command of a column's bank queue that may begin. With a BFENCE, what its
warp's run has behind it follows. -/
def State.runBank (s : State) (col n : Nat) : State :=
  match mapGet s.copies n with
  | none => s
  | some c =>
    if c.col ≠ col ∨ !c.bank ∨ c.stage = 2 ∨ !s.gangRuns c.gang ∨ (s.column col).failed = 2 ∨ (s.column col).halted
      ∨ !s.bankReady n c ∨ s.copyHeld c then s
    else if c.op = .bfence then ({ s with copies := mapErase s.copies n } : State).continueRest c.warp
    else s.performBank n c

/-- COPY_PROMISE_EXPIRE (R324): a waiting CWAIT whose command is late. -/
def State.expirePromise (s : State) (w : Nat) : State :=
  match s.warp w with
  | none => s
  | some x => match x.wait with
    | .cwait _ _ => s.endWait w
    | _ => s

/-- The meaning of COPY_PERFORM. -/
def execCopyPerform (col : Nat) (s : State) : Host.Outcome State Fault Refusal := .next (s.runCopy col)
/-- The meaning of BANK_COMMAND_PERFORM. -/
def execBankCommandPerform (col n : Nat) (s : State) : Host.Outcome State Fault Refusal := .next (s.runBank col n)
/-- The meaning of COPY_PROMISE_EXPIRE. -/
def execCopyPromiseExpire (w : Nat) (s : State) : Host.Outcome State Fault Refusal := .next (s.expirePromise w)

end Sys2Proof.Machine
end

