-- ==== Sys2Proof/Machine/MatrixEngine.lean ====
section
/-! DEFINITION. What a core's matrix engine does with each command (R209, R213-R217, R220, R225, R228-R231). -/

namespace Sys2Proof.Machine

open Sys2Proof

/-! ### Exact arithmetic -/

/-- The exact product of two values (R215). -/
def FVal.mul : FVal → FVal → FVal
  | .nan, _ | _, .nan => .nan
  | .inf a, .inf b => .inf (a != b)
  | .inf a, .fin b m _ => if m = 0 then .nan else .inf (a != b)
  | .fin a m _, .inf b => if m = 0 then .nan else .inf (a != b)
  | .fin a m e, .fin b k d => .fin (a != b) (m * k) (e + d)

/-- Is a value zero (R217)? -/
def FVal.isZero : FVal → Bool
  | .fin _ m _ => m == 0
  | _ => false

/-- The term of one chunk (R215): the products of the nonzero A elements, summed exactly and rounded once. -/
def chunkTerm (ps : List (FVal × FVal)) : Nat :=
  let ps := (ps.filter fun p => !p.1.isZero).map fun p => p.1.mul p.2
  let has (v : FVal) : Bool := ps.any fun p => p == v
  if has .nan || (has (.inf false) && has (.inf true)) then fp32.nan
  else if has (.inf false) then fp32.infinite false false
  else if has (.inf true) then fp32.infinite false true
  else
    let (n, m, e) := ps.foldl (fun (acc : Bool × Nat × Int) p => match p with
      | .fin b k d => exactAdd .rne acc.1 acc.2.1 acc.2.2 b k d
      | _ => acc) (false, 0, 0)
    fp32.round .rne false (n && m != 0) m e false

/-- The integer of an element of an integer format. -/
def FVal.int : FVal → Int
  | .fin n m e => (if n then -1 else 1) * ((m : Int) * 2 ^ e.toNat)
  | _ => 0

/-! ### Operands in memory -/

/-- What an engine's command needs to reach memory. -/
structure MatCtx where
  col  : Nat
  core : Nat
  asid : Nat
  gang : Nat
  rcd  : Record

/-- Where a byte of an operand lies, `o` bytes past its descriptor's ADDR (R212): the issuing column, or a pool window. -/
def State.matByte (s : State) (c : MatCtx) (d : Desc) (need : Need) (o : Nat) : Except Cause Loc :=
  match s.engineByte c.col c.asid c.gang (d.addr &&& 0x80FFFFFFFFFFFFFF) o need with
  | .error e => .error e
  | .ok (.mem p pa k) =>
    if p = c.col then .ok (.mem p pa k)
    else .error { code := 0x27, info := BitVec.ofNat 32 p, addr := d.addr + BitVec.ofNat 64 o }
  | .ok l => .ok l

/-- Bits `i * w` to `i * w + w - 1` of line `j` of an operand (R168, R213), with the poison of its bytes. -/
def State.matElem (s : State) (c : MatCtx) (d : Desc) (w j bit0 : Nat) : Except Cause (Nat × Bool) :=
  let o := j * d.stride + bit0 / 8
  match placesOrFault (s.matByte c d { read := true }) ((List.range ((w + 7) / 8)).map (o + ·)) with
  | .error e => .error e
  | .ok ls =>
    let bs := s.engineRead c.col ls
    .ok (leNat (bs.map Prod.fst) / 2 ^ (bit0 % 8) % 2 ^ w, bs.any Prod.snd)

/-- An element of A or B: its value, its raw code, and whether poison was met. -/
structure MatElem where
  v   : FVal
  raw : Nat
  psn : Bool

/-- Element (pos, k) of an operand of length `kk` along K, with the zero point of its block (R167, R213). -/
def State.operand (s : State) (c : MatCtx) (d : Desc) (sl : Slot64) (along : Bool) (kk pos k : Nat) :
    Except Cause MatElem :=
  let w := slotBits sl.fmt
  let main := if along then s.matElem c d w pos (k * w) else s.matElem c d w k (pos * w)
  match main with
  | .error e => .error e
  | .ok (x, p) =>
    if sl.zblock = 0 then .ok { v := slotVal sl.fmt x 0, raw := x, psn := p }
    else
      let b := k / sl.zblock
      match (if along then s.matElem c d w pos (kk * w + b * w) else s.matElem c d w (kk + b) (pos * w)) with
      | .error e => .error e
      | .ok (z, q) => .ok { v := slotVal sl.fmt x z, raw := x, psn := p || q }

/-- Some elements, or the first fault among them. -/
def elemsOrFault (f : Nat → Except Cause MatElem) : List Nat → Except Cause (List MatElem)
  | [] => .ok []
  | i :: rest =>
    match f i with
    | .error c => .error c
    | .ok e => match elemsOrFault f rest with
      | .error c => .error c
      | .ok es => .ok (e :: es)

/-- The elements of one chunk of an operand, row after row of `n` positions. -/
def State.chunkOf (s : State) (c : MatCtx) (d : Desc) (sl : Slot64) (along : Bool) (n ch i : Nat) :
    Except Cause (List MatElem) :=
  elemsOrFault (fun p => s.operand c d sl along d.k (p / ch) (i * ch + p % ch)) (List.range (n * ch))

/-- The 32-byte pieces that bytes `lo` to below `hi` of line `j` of an operand meet, by their distance from its ADDR. -/
def Desc.pieces (d : Desc) (j lo hi : Nat) : List Nat :=
  (List.range ((hi + 31) / 32 - lo / 32)).map fun q => j * d.stride + 32 * (lo / 32 + q)

/-- The pieces of chunk `i` of an operand of `n` positions, with the zero points of its blocks (R167, R213). -/
def chunkPieces (d : Desc) (sl : Slot64) (along : Bool) (n ch i : Nat) : List Nat :=
  let w := slotBits sl.fmt
  let first := i * ch / sl.zblock
  let blocks := if sl.zblock = 0 then 0 else (i * ch + ch - 1) / sl.zblock + 1 - first
  if along then (List.range n).flatMap fun p =>
    d.pieces p (i * ch * w / 8) (((i + 1) * ch * w + 7) / 8)
      ++ (if blocks = 0 then [] else d.pieces p ((d.k * w + first * w) / 8) ((d.k * w + (first + blocks) * w + 7) / 8))
  else ((List.range ch).map (i * ch + ·) ++ (List.range blocks).map (d.k + first + ·)).flatMap fun k =>
    d.pieces k 0 (n * w / 8)

/-- What the column caches hold after the engine has read some pieces of an operand along their lines (R213, R282). -/
def State.matTouch (s : State) (c : MatCtx) (d : Desc) (os : List Nat) : State :=
  match placesOrFault (s.matByte c d { read := true }) os with
  | .ok ls => s.engineTouch c.col c.asid d.off ls false
  | .error _ => s

/-- The walks for some pieces of an operand, one for each page (R225, R363, R375). -/
def State.matWalk (s : State) (c : MatCtx) (d : Desc) (os : List Nat) : State :=
  let at_ (o : Nat) : Addr := d.addr + BitVec.ofNat 64 o
  if bit d.addr 63 then s
  else
    let pages := os.foldl (fun (acc : List Addr) o =>
      if acc.any fun p => p.toNat / 65536 == (at_ o).toNat / 65536 then acc else acc ++ [at_ o]) []
    pages.foldl (fun s p => s.walkPtr c.asid c.col p) s

/-! ### Tiles -/

/-- A tile's elements from a rule for each place. -/
def tileElems (g : Nat → Nat → BitVec 48) : AMap (BitVec 48) :=
  (List.range (192 * 128)).filterMap fun i =>
    let v := g (i / 128) (i % 128)
    if v = 0 then none else some (i, v)

/-- One element of a tile. -/
def Tile.at_ (t : Tile) (m n : Nat) : BitVec 48 := mapGetD t.elems (128 * m + n) 0

/-- A tile after one chunk (R215, R216). -/
def Tile.addChunk (t : Tile) (int : Bool) (ch : Nat) (a b : List MatElem) : Tile :=
  let row (l : List MatElem) (p : Nat) : List FVal := ((l.drop (p * ch)).take ch).map MatElem.v
  let as := (List.range 192).map (row a)
  let bs := (List.range 128).map (row b)
  let pairs (m n : Nat) : List (FVal × FVal) := (as.getD m []).zip (bs.getD n [])
  let exact (m n : Nat) : Int := (t.at_ m n).toInt + ((pairs m n).map fun p => p.1.int * p.2.int).sum
  if int then
    let past := (List.range (192 * 128)).any fun i =>
      let x := exact (i / 128) (i % 128)
      decide (x < -(2 ^ 47)) || decide (2 ^ 47 ≤ x)
    { t with ovf := t.ovf || past, elems := tileElems fun m n => BitVec.ofInt 48 (exact m n) }
  else { t with elems := tileElems fun m n => BitVec.ofNat 48 (add32 ((t.at_ m n).toNat % 2 ^ 32) (chunkTerm (pairs m n))) }

/-- The launch record of a block's grid. -/
def State.recordOfBlock (s : State) (b : Nat) : Record :=
  ((((s.block b).bind fun k => s.gang k.gang).bind fun g => s.grid g.grid).map Grid.rcd).getD Record.empty

/-- The block of a command and its tile. -/
def State.tileOfCmd (s : State) (m : MatCmd) : Tile := ((s.block m.block).map fun b => b.tiles.getD m.tile Tile.clear).getD Tile.clear

/-- A tile of a command's block replaced. -/
def State.setTile (s : State) (m : MatCmd) (t : Tile) : State :=
  s.modBlock m.block fun b => { b with tiles := b.tiles.set m.tile t }

/-- A fault of a command (R225): FLT is set on its tile, and the fault recorded for the MWAIT that covers it. -/
def State.matFault (s : State) (m : MatCmd) (t : Tile) (done : Nat) (addr : Addr) : State :=
  (s.setTile m { t with flt := true, fltAt := done }).modWarp m.warp fun x =>
    { x with matFlt := x.matFlt ++ [{ batch := m.batch, tile := m.tile, done := done, addr := addr }] }

/-- A chunk or a line of a command, and whether the command is over with it. -/
abbrev Unit224 := State × Bool

/-- A command performed to its last chunk or line: its release (R220). -/
def State.unitDone (s : State) (c : MatCtx) (m : MatCmd) (units : Nat) : Unit224 :=
  if m.next + 1 < units then (s, false) else (s.engineRelease c.col m.ord, true)

/-- The acquire of a command, before its first chunk or line (R220). -/
def State.unitBegin (s : State) (c : MatCtx) (m : MatCmd) : State :=
  if m.next = 0 then s.engineAcquire c.col c.core m.ord else s

/-- A chunk of MMA or MMAT (R215, R216, R225, R228). Of several bytes that fault, the address recorded is that of the first: A
before B, and of each the elements position by position and along K, with its zero point after each (log 98, DESIGN CHOICE).
-/
def State.performMma (s : State) (c : MatCtx) (m : MatCmd) : Unit224 :=
  let t := s.tileOfCmd m
  let da := descOf m.descA
  let db := descOf m.descB
  let sa := c.rcd.slot m.slotA
  let sb := c.rcd.slot m.slotB
  match t.flt, matPair (m.op == .mmat) sa.fmt sb.fmt with
  | true, _ | _, none => (s, true)
  | false, some (ch, int) =>
    let s := s.unitBegin c m
    let st := m.counts c.rcd (t.mode, t.prod)
    let t := { t with mode := st.1, prod := st.2 }
    let pa := chunkPieces da sa (!da.ori) 192 ch m.next
    let pb := chunkPieces db sb db.ori 128 ch m.next
    let s := (s.matWalk c da pa).matWalk c db pb
    match s.chunkOf c da sa (!da.ori) 192 ch m.next, s.chunkOf c db sb db.ori 128 ch m.next with
    | .error e, _ => (s.matFault m t m.next e.addr, true)
    | .ok _, .error e => (s.matFault m t m.next e.addr, true)
    | .ok a, .ok b =>
      let psn := a.any MatElem.psn || b.any MatElem.psn
      let s := (s.matTouch c da pa).matTouch c db pb
      let s := if psn then s.engineConsume c.asid c.col m.block else s
      let s := if sb.fmt = 8 ∧ b.any fun e => e.raw == 2 then s.setCir c.asid c.col 3 else s
      (s.setTile m { t.addChunk int ch a b with psn := t.psn || psn }).unitDone c m (da.k / ch)

/-- The place of element `i` of line `j` of a tile's memory operand (R213): its row and column. -/
def linePlace (ori : Bool) (j i : Nat) : Nat × Nat := if ori then (i, j) else (j, i)

/-- How many lines MLDZ and MST have, and how many elements a line has (R213). -/
def lineCount (m : MatCmd) : Nat × Nat := if (descOf m.descA).ori then (128, 192) else (192, 128)

/-- Line `j` of MLDZ's operand (R230). -/
def State.matLine (s : State) (c : MatCtx) (m : MatCmd) (j : Nat) : Except Cause (List MatElem) :=
  let d := descOf m.descA
  let sl := c.rcd.slot m.slotA
  elemsOrFault (fun i => match s.matElem c d (slotBits sl.fmt) j (i * slotBits sl.fmt) with
    | .error e => .error e
    | .ok (x, p) => .ok { v := slotVal sl.fmt x 0, raw := x, psn := p }) (List.range (lineCount m).2)

/-- The bits an element MLDZ has read leaves in a tile (R230). -/
def MatElem.loaded (e : MatElem) (fmt : Nat) : BitVec 48 :=
  if fmt = 5 then BitVec.ofInt 48 e.v.int else BitVec.ofNat 48 ((fmtCode fmt).convert fp32 .rne false e.raw)

/-- A tile as MLDZ's first line finds it (R230). -/
def Tile.begun (t : Tile) (sl : Slot64) : Tile :=
  { t with flt := false, ovf := false, psn := false, fltAt := 0, mode := if sl.fmt = 5 then 2 else 1
           prod := BitVec.ofNat 32 sl.scale }

/-- A line of MLDZ (R230). -/
def State.performMldz (s : State) (c : MatCtx) (m : MatCmd) : Unit224 :=
  let sl := c.rcd.slot m.slotA
  let ori := (descOf m.descA).ori
  let s := s.unitBegin c m
  let t := if m.next = 0 then (s.tileOfCmd m).begun sl else s.tileOfCmd m
  let pieces := (descOf m.descA).pieces m.next 0 ((lineCount m).2 * slotBits sl.fmt / 8)
  let s := s.matWalk c (descOf m.descA) pieces
  match s.matLine c m m.next with
  | .error e => (s.matFault m t m.next e.addr, true)
  | .ok es =>
    let psn := es.any MatElem.psn
    let s := s.matTouch c (descOf m.descA) pieces
    let s := if psn then s.engineConsume c.asid c.col m.block else s
    let elems := (List.range (lineCount m).2).foldl (fun (l : AMap (BitVec 48)) i =>
      let (r, k) := linePlace ori m.next i
      match es[i]? with
      | some e => if e.loaded sl.fmt = 0 then mapErase l (128 * r + k) else mapSet l (128 * r + k) (e.loaded sl.fmt)
      | none => l) t.elems
    (s.setTile m { t with elems := elems, psn := t.psn || psn }).unitDone c m (lineCount m).1

/-- The exact value of a tile element (R231). -/
def Tile.value (t : Tile) (m n : Nat) : FVal :=
  let p := fp32.val t.prod.toNat
  match t.mode with
  | 0 => .fin false 0 0
  | 1 => (fp32.val ((t.at_ m n).toNat % 2 ^ 32)).mul p
  | _ =>
    let x := (t.at_ m n).toInt
    (FVal.fin (decide (x < 0)) x.natAbs 0).mul p

/-- Where line `j` of MST's operand lies (R213, R231). -/
def State.mstPlaces (s : State) (c : MatCtx) (m : MatCmd) (j : Nat) : Except Cause (List Loc) :=
  let d := descOf m.descA
  placesOrFault (s.matByte c d { write := true })
    ((List.range ((lineCount m).2 * slotBits (c.rcd.slot m.slotA).fmt / 8)).map (j * d.stride + ·))

/-- The bytes of line `j` of a tile as MST writes them (R231). -/
def Tile.line (t : Tile) (sl : Slot64) (m : MatCmd) (j : Nat) : List Byte :=
  (List.range (lineCount m).2).flatMap fun i =>
    let (r, k) := linePlace (descOf m.descA).ori j i
    leBytes (slotBits sl.fmt / 8) (encodeVal sl 0 (t.value r k))

/-- A line of MST (R220, R231): a line that faults is not written. -/
def State.performMst (s : State) (c : MatCtx) (m : MatCmd) : Unit224 :=
  let t := s.tileOfCmd m
  let d := descOf m.descA
  if t.flt then (s, true)
  else
    let s := (s.unitBegin c m).matWalk c d (d.pieces m.next 0 ((lineCount m).2 * slotBits (c.rcd.slot m.slotA).fmt / 8))
    match s.mstPlaces c m m.next with
    | .error e => (s.matFault m t m.next e.addr, true)
    | .ok ls =>
      (s.engineWrite c.col c.asid ((d.off + m.next * d.stride) % 2 ^ 48) ls
        ((t.line (c.rcd.slot m.slotA) m m.next).map fun b => (b, t.psn))).unitDone c m (lineCount m).1

/-- A block's tiles written to its save area as the engine turns to another block (R209); those of a retired block are
gone. -/
def State.putTiles (s : State) (b : Nat) : State :=
  if ((s.block b).map Block.retired).getD true then s else s.saveBlock b

/-- The engine's tiles changed to those of another block (R209): each tile of that which is not CLEAR is read from its save area
(R361). It changes no bit of any tile. -/
def State.switchTiles (s : State) (col core b : Nat) : State :=
  match (s.core col core).serving with
  | some old =>
    if old = b then s
    else ((s.putTiles old).loadBlock b).modCore col core fun c => { c with serving := some b }
  | none => s.modCore col core fun c => { c with serving := some b }

/-- The command a core's engine performs next (R219): the first of its queue whose gang is not pre-empted. -/
def State.nextMat (s : State) (col core : Nat) : Option MatCmd :=
  (s.core col core).engine.find? fun m => match s.block m.block with
    | some b => s.gangRuns b.gang
    | none => false

/-- Does a matrix command wait for a store that precedes it in its run? -/
def State.matHeld (s : State) (m : MatCmd) : Bool :=
  s.restBefore m.warp fun q => match q with | .mat k => k.pc == m.pc | _ => false

/-- A chunk or a line of a command of one of the given kinds performed; after its last one, or where it stops, the command
leaves the queue (R219, R224, R225). The engines of a failed column stand still (R406). -/
def State.engineStep (s : State) (col core : Nat) (kinds : List MatOp) : State :=
  match s.nextMat col core with
  | none => s
  | some m =>
    match s.block m.block with
    | none => s
    | some b =>
      if !kinds.contains m.op ∨ (s.column col).failed ≠ 0 ∨ (s.column col).halted ∨ s.matHeld m then s
      else
        let grid := (s.gang b.gang).bind fun g => s.grid g.grid
        let c : MatCtx := { col := col, core := core, asid := (grid.map Grid.asid).getD 0, gang := b.gang,
                            rcd := (grid.map Grid.rcd).getD Record.empty }
        let s := s.switchTiles col core m.block
        let (s, gone) := match m.op with
          | .mma | .mmat => s.performMma c m
          | .mzero => (s.setTile m Tile.clear, true)
          | .mldz => s.performMldz c m
          | .mst => s.performMst c m
        s.modCore col core fun k =>
          { k with engine := if gone then k.engine.erase m else k.engine.replace m { m with next := m.next + 1 } }

/-- The meaning of MMA_PERFORM. -/
def execMmaPerform (col core : Nat) (s : State) : Host.Outcome State Fault Refusal :=
  .next (s.engineStep col core [.mma, .mmat])
/-- The meaning of MZERO_PERFORM. -/
def execMzeroPerform (col core : Nat) (s : State) : Host.Outcome State Fault Refusal :=
  .next (s.engineStep col core [.mzero])
/-- The meaning of MLDZ_PERFORM. -/
def execMldzPerform (col core : Nat) (s : State) : Host.Outcome State Fault Refusal :=
  .next (s.engineStep col core [.mldz])
/-- The meaning of MST_PERFORM. -/
def execMstPerform (col core : Nat) (s : State) : Host.Outcome State Fault Refusal :=
  .next (s.engineStep col core [.mst])

end Sys2Proof.Machine
end

