-- ==== Sys2Proof/Machine/MergeEvents.lean ====
section
/-! DEFINITION. The events of merging: what a station does with a command that has reached it (R331-R339, R343, R346), the
outbound queue (R341), and the notices of a gang's end (R337). An event that has nothing to act on changes nothing. -/

namespace Sys2Proof.Machine

open Sys2Proof

/-- The contributor a command names, and the tile it has come to, as a refusal reports them (R343)
(log 46, DEDUCED). -/
def MergeCmd.refusedAt (m : MergeCmd) : Nat × Nat :=
  match m.op with
  | .put => (cidOf m.w0, putT0 m.w0 + m.done)
  | .endGroup => (cidOf m.w0, 0)
  | _ => (0, 0)

/-- A command performed at its station, or refused for want of one (R343 codes 1 and 11); one for a peer's station sent on. -/
def State.atStation (s : State) (m : MergeCmd) (f : Nat → State) : State :=
  if refRem m.ref then s.sendPeer m
  else match s.mergeStation m with
  | .ok st => f st
  | .error code => (s.refuse m code m.refusedAt.1 m.refusedAt.2 0).endMerge m

/-- A command of one kind that has left its outbound queue. -/
def State.onItsWay (s : State) (n : Nat) (op : MergeOp) : Option MergeCmd :=
  match mapGet s.merges n with
  | some m => if m.op = op ∧ m.done < m.sent then some m else none
  | none => none

/-- The meaning of ROUND_OPEN (R346): an MRG.OPEN waits for nothing but its turn. -/
def execRoundOpen (n : Nat) (s : State) : Host.Outcome State Fault Refusal :=
  .next (match mapGet s.merges n with
    | some m => if m.op = .openRound && !s.mergeHeld m then s.atStation m (s.openAt m) else s
    | none => s)

/-- The meaning of STAGE_TILES (R333): the tile in flight is staged. -/
def execStageTiles (n : Nat) (s : State) : Host.Outcome State Fault Refusal :=
  .next (match s.onItsWay n .put with
    | some m => s.atStation m (s.stageTile m)
    | none => s)

/-- The meaning of MEASURE_CONTRIBUTOR (R334, R335): the END in flight closes its group, in the order of R333. -/
def execMeasureContributor (n : Nat) (s : State) : Host.Outcome State Fault Refusal :=
  .next (match s.onItsWay n .endGroup with
    | some m => if s.mergeBehind m then s else s.atStation m (s.endGroupAt m)
    | none => s)

/-- The meaning of ROUND_DROP (R339). -/
def execRoundDrop (n : Nat) (s : State) : Host.Outcome State Fault Refusal :=
  .next (match s.onItsWay n .drop with
    | some m => s.atStation m (s.dropAt m)
    | none => s)

/-- The round of a context at a station whose head contributor is committed or rejected, and the round completed after
its last one (R336, R338). -/
def State.commitHead (s : State) (col asid round : Nat) : State :=
  match s.openRound asid col round with
  | none => s
  | some (n, r) =>
    if !r.headReady || !s.reachable col then s
    else
      let r := r.advance
      if r.head = r.k then s.completeRound n r else { s with rounds := mapSet s.rounds n r }

/-- The meaning of CONTRIBUTOR_COMMIT (R336, R338). -/
def execContributorCommit (col asid round : Nat) (s : State) : Host.Outcome State Fault Refusal :=
  .next (s.commitHead col asid round)

/-- The meaning of MERGE_TILE_SEND (R341). Nothing leaves a slice-failed column (R406). -/
def execMergeTileSend (col : Nat) (s : State) : Host.Outcome State Fault Refusal :=
  .next (if (s.column col).failed = 2 ∨ (s.column col).halted then s else s.sendNext col)

/-- What a notice does to the contributors bound to a gang (R337): retirement releases them; a kill empties those of a
restartable grid and leaves the others. -/
def Contributor.noticed (k : Contributor) (gang : Nat) (retired : Bool) : Contributor :=
  match k.gang with
  | some (g, rstrt) =>
    if g ≠ gang then k else if retired then { k with released := true } else if rstrt then Contributor.fresh else k
  | none => k

/-- A station told of the end of a gang (R337): the first notice on its way there (log 36, DEDUCED). -/
def State.takeNotice (s : State) (col gang : Nat) : State :=
  match s.notices.find? fun q => q.1 == col && q.2.1 == gang with
  | none => s
  | some q =>
    { s with
      notices := s.notices.erase q
      rounds := mapAll s.rounds fun _ r =>
        if r.col = col then { r with cont := mapAll r.cont fun _ k => k.noticed gang q.2.2 } else r }

/-- The meaning of MERGE_GANG_NOTICE (R337). -/
def execMergeGangNotice (col gang : Nat) (s : State) : Host.Outcome State Fault Refusal := .next (s.takeNotice col gang)

end Sys2Proof.Machine
end

