-- ==== Sys2Proof/Machine/WarpEvents.lean ====
section
/-! DEFINITION. Which warp issues (R76, R77), and the events of warps: arriving results (R100), the watchdog (R78), waking
(R109), exchanges (R303, R304), swap-out and swap-in (R98), pre-emption and its end (R140, R149, R327). An event whose
conditions do not hold changes nothing. -/

namespace Sys2Proof.Machine

open Sys2Proof

/-! ### Readiness and arbitration -/

/-- Is a warp ready (R76)? A victim of R98 leaves at its next run boundary, and begins no run before; nor does a warp whose
last run has its end behind a BFENCE or CPART (R326, R353). Behind any other the warp issues, and its slot stalls where an
instruction must wait (R352). -/
def State.isReady (s : State) (w : Nat) (x : Warp) : Bool :=
  x.resident && s.waitOver w x && !(x.rest.any fun k => k.run.endsLate) && !(x.swapReq && x.run.isNone) && !s.dependsOn w x

/-- The slot of a warp. -/
def State.slotOf (s : State) (x : Warp) : Slot := (s.core x.col x.core).slots.getD x.slot Slot.idle

/-- The warps bound to a slot. -/
def State.slotWarps (s : State) (col core slot : Nat) : List (Nat × Warp) :=
  (s.coreWarps col core).filter fun kv => kv.2.resident && kv.2.slot == slot

/-- The warp with the earliest release time, the lowest core-local number on a tie (R77). -/
def earliest (l : List (Nat × Warp)) : Option Nat :=
  (l.foldl (fun b kv => match b with
    | none => some kv
    | some y => if kv.2.since < y.2.since ∨ kv.2.since = y.2.since ∧ kv.2.wcore < y.2.wcore then some kv else some y)
    none).map Prod.fst

/-- The warp that an arbitration picks (R77): the holder where it is ready and not yielding; otherwise the ready warp that
was released first; otherwise the holder that yielded. -/
def State.candidate (s : State) (ws : List (Nat × Warp)) (holder : Option Nat) : Option Nat :=
  let ready := ws.filter fun kv => s.isReady kv.1 kv.2
  match ready.find? fun kv => some kv.1 == holder with
  | none => earliest ready
  | some (w, x) =>
    if x.yielded then
      match earliest (ready.filter fun kv => some kv.1 != holder) with
      | some v => some v
      | none => some w
    else some w

/-- The warp that issues on a slot (R76, R77): its holder while it is inside a run; otherwise the warp that won the slot
when it was last arbitrated, as long as it is ready; otherwise the one that an arbitration picks now. -/
def State.winner (s : State) (col core slot : Nat) : Option Nat :=
  let ws := s.slotWarps col core slot
  let k := (s.core col core).slots.getD slot Slot.idle
  match ws.find? fun kv => some kv.1 == k.holder && kv.2.run.isSome with
  | some (w, _) => some w
  | none =>
    match ws.find? fun kv => some kv.1 == k.claim && s.isReady kv.1 kv.2 with
    | some (w, _) => some w
    | none => s.candidate ws k.holder

/-- The holder of a slot that does not keep it at its run boundary: it gives the slot up then, whoever takes it and whenever
(R77). The monopoly count stands until the slot passes to another warp (R78). -/
def State.giveUp (s : State) (col core slot : Nat) (next : Option Nat) : State :=
  let k := (s.core col core).slots.getD slot Slot.idle
  match k.holder with
  | none => s
  | some h =>
    if next = some h ∨ ((s.warp h).bind Warp.run).isSome then s
    else
      let (t, s) := s.takeId
      (s.modCore col core fun c => { c with slots := c.slots.set slot { k with holder := none, last := some h } }).modWarp h
        fun x => { x with since := t }

/-- A slot arbitrated (R77): the first warp to be ready has won it, and keeps it until it issues. -/
def State.claimSlot (s : State) (col core slot : Nat) : State :=
  let next := s.winner col core slot
  let s := s.giveUp col core slot next
  let k := (s.core col core).slots.getD slot Slot.idle
  let claim := match next with
    | some w => if ((s.warp w).bind Warp.run).isSome then none else some w
    | none => none
  if claim = k.claim then s
  else s.modCore col core fun c => { c with slots := c.slots.set slot { k with claim := claim } }

/-- The waits at barrier objects whose PHASE differs ended, whatever changed it: an arrival, a store, an atomic, a copy
(R119). A swapped-out warp's is over when it returns, which is an acquire (R98). -/
def State.endPhaseWaits (s : State) : State :=
  s.warps.foldl (fun s kv => match kv.2.wait, s.warp kv.1 with
    | .waitb _ _ _ _, some x =>
      if !s.waitOver kv.1 x then s
      else if x.resident then s.endWait kv.1
      else if x.swapped && !x.halted then s.setWarp kv.1 { x with wait := .none }
      else s
    | _, _ => s) s

/-- What follows every turn: waits that it has ended, and every slot that a warp is bound to, arbitrated. -/
def State.arbitrate (s : State) : State :=
  let s := s.endPhaseWaits
  s.warps.foldl (fun s kv => if kv.2.resident then s.claimSlot kv.2.col kv.2.core kv.2.slot else s) s

/-- A slot handed to a warp (R77): where it passes to another than its last holder, the monopoly count returns to zero. -/
def State.giveSlot (s : State) (w : Nat) (x : Warp) : State :=
  let k := s.slotOf x
  if k.holder = some w then
    (if k.claim = none then s
      else s.modCore x.col x.core fun c => { c with slots := c.slots.set x.slot { k with claim := none } }).modWarp w
      fun x => { x with yielded := false }
  else
    let s := match k.holder with | some v => s.release77 v | none => s
    let mono := if k.last = some w then k.mono else 0
    (s.modCore x.col x.core fun c =>
      { c with slots := c.slots.set x.slot { holder := some w, mono := mono, claim := none, last := some w } }).modWarp w
      fun x => { x with yielded := false }

/-! ### The watchdog -/

/-- The limit that applies to a holder of a slot (R78); none when no other warp is ready or the watchdog is off. -/
def State.watchdogFor (s : State) (w : Nat) (x : Warp) : Option Nat :=
  let others := (s.slotWarps x.col x.core x.slot).filter fun kv => kv.1 != w && s.isReady kv.1 kv.2
  let mine := mapGetD (s.ctx (s.asidOf x)).wdogl x.col 0x00400000
  if others.isEmpty then none
  else if others.all fun kv => s.asidOf kv.2 == s.asidOf x then (if mine = 0 then none else some mine.toNat)
  else if mine ≠ 0 ∧ mine < s.dev.wdogd then some mine.toNat
  else some s.dev.wdogd.toNat

/-- The forced yield of a slot's holder, due when its count has reached the limit (R78): it takes effect at the holder's
next run boundary, which is now when no run is in flight. -/
def State.watchdog (s : State) (col core slot : Nat) : State :=
  let k := (s.core col core).slots.getD slot Slot.idle
  match k.holder.bind fun w => (s.warp w).map fun x => (w, x) with
  | none => s
  | some (w, x) =>
    match s.watchdogFor w x with
    | none => s
    | some limit =>
      if k.mono < limit ∨ x.wdog then s
      else
        let s := s.modWarp w fun x => { x with wdog := true }
        if x.run.isSome then s else s.boundary w

/-- The meaning of WATCHDOG_LIMIT (R78). -/
def execWatchdogLimit (col core slot : Nat) (s : State) : Host.Outcome State Fault Refusal :=
  .next (s.watchdog col core slot)

/-! ### Results, sleep, exchanges -/

/-- The meaning of LONG_LATENCY_ARRIVAL (R100): result `n` of a warp, once it is on its way and can arrive. -/
def execLongLatencyArrival (w n : Nat) (s : State) : Host.Outcome State Fault Refusal := .next (s.arrival w n)

/-- The meaning of SLEEP_END (R109): a resident sleeper whose target its column's CYC has reached. -/
def execSleepEnd (w : Nat) (s : State) : Host.Outcome State Fault Refusal :=
  .next (match s.warp w with
    | some x => match x.wait with
      | .sleep _ => if x.resident then s.endWait w else s
      | _ => s
    | none => s)

/-- The meaning of EXCHANGE_COMPLETE (R303-R307). -/
def execExchangeComplete (w : Nat) (s : State) : Host.Outcome State Fault Refusal := .next (s.completeExchange w)

/-- An arrival that has stood 2^20 clk without its instance completing withdraws, and traps (R304). A warp that is not
resident keeps its arrival until it is. -/
def State.timeOut (s : State) (w : Nat) : State :=
  match s.warp w with
  | none => s
  | some x =>
    match x.arrived with
    | none => s
    | some a =>
      if !x.resident || decide (s.cycOf x.col < a.since + 2 ^ 20) || (s.members x).all (fun m => m.lost || m.sent.isSome) then s
      else s.exchangeTrap w 0x41 (a.q % 2 ^ 32)

/-- The meaning of EXCHANGE_TIMEOUT (R304). -/
def execExchangeTimeout (w : Nat) (s : State) : Host.Outcome State Fault Refusal := .next (s.timeOut w)

/-! ### Swap-out and swap-in -/

/-- The meaning of SWAP_OUT (R98): a warp chosen as a victim leaves its core. The swap-out is a release at DEVICE scope
(R257). -/
def execSwapOut (w : Nat) (s : State) : Host.Outcome State Fault Refusal :=
  .next (match s.warp w with
    | some x => if x.swapReq && x.resident && x.rest.isNone then (s.releaseHost x.col).swapOutWarp w else s
    | none => s)

/-- A swapped-out warp returned to its core from its save area (R98, R361), and the run boundary there (R393). -/
def State.swapInWarp (s : State) (w : Nat) : State :=
  match s.warp w with
  | none => s
  | some x =>
    if !s.mayReturn w x then s
    else
      let (x, s) := s.loadWarp x
      ((s.acquireHost x.col x.core).settle w x).boundary w

/-- The meaning of SWAP_IN (R98). -/
def execSwapIn (w : Nat) (s : State) : Host.Outcome State Fault Refusal := .next (s.swapInWarp w)

/-! ### Pre-emption -/

/-- The meaning of PREEMPTION_REQUEST (R149) (log 48, DEDUCED). -/
def execPreemptionRequest (gang : Nat) (s : State) : Host.Outcome State Fault Refusal := .next (s.preemptGang gang)

/-- One part of a gang moved to the column it now stands on (log 67, DEDUCED). -/
def moved (old new : List Nat) (c : Nat) : Nat := (((old.zip new).find? fun p => p.1 == c).map Prod.snd).getD c

/-- A wait of a warp on the column it now stands on (R110, R120): on another column its sleep ends, and the object it waits at
lies where its pool window lies now. -/
def Wait.onColumn (wait : Wait) (away : Bool) (dest : Nat → Nat) (old new : AMap Nat) : Wait :=
  match wait with
  | .sleep t => if away then .none else .sleep t
  | .waitb c off p acq => .waitb (dest c) (off - mapGetD old c 0 + mapGetD new (dest c) 0) p acq
  | w => w

/-- A warp of a resumed gang back on its core (R110, R140, R324): on another column the promises it waits on are cleared, and
the time of an arrival it stands at runs anew by that column's CYC (R3). It keeps the age of its first placement
(log 78, DESIGN CHOICE). -/
def State.resumeWarp (s : State) (w col : Nat) (wait : Wait) : State :=
  match s.warp w with
  | none => s
  | some x =>
    let away := col != x.col
    let x := { x with
      col := col, wcore := s.pickWcore col x.core, wait := wait
      arrived := if away then x.arrived.map fun (a : Arrival) => { a with since := s.cycOf col } else x.arrived }
    if x.retired then s.setWarp w { x with halted := false } else s.settle w x

/-- The pool windows of a resumed gang, chosen anew and filled from their images (R140, R149). -/
def State.resumePool (s : State) (asid : Nat) (k : Gang) (r : Record) (cols : List Nat) : AMap Nat × State :=
  let len := r.poolw * 1024
  if len = 0 then ([], s)
  else
    let s := cols.foldl (fun s c => if (s.column c).cwp = r.ways then s else s.setWays c r.ways) s
    let pool : AMap Nat := cols.map fun c => (c, (fitWindow (s.windows c) (r.ways * 2 ^ 20) len).getD 0)
    (pool, (k.columns.zip cols).foldl (fun s p =>
      (s.loadPool asid p.1 p.2 (mapGetD k.pool p.1 0) (mapGetD pool p.2 0) len).tagSpad asid p.2 (mapGetD pool p.2 0)
        (mapGetD pool p.2 0 + len)) s)

/-- A gang's tiles and warps read back from the save areas they were written to (R149, R361). -/
def State.restoreGang (s : State) (g : Nat) : State :=
  let s := (s.blocksOf g).foldl (fun s kv => s.loadBlock kv.1) s
  (s.gangWarps g).foldl (fun s kv =>
    if kv.2.retired then s
    else
      let (x, s) := s.loadWarp kv.2
      s.setWarp kv.1 x) s

/-- A resumed gang's blocks on their columns, with their matrix commands behind those that stand in the engines' queues
(R140, R224) (log 67, DEDUCED). -/
def State.resumeBlocks (s : State) (g : Nat) (dest : Nat → Nat) : State :=
  (s.blocksOf g).foldl (fun s kv =>
    let b := kv.2
    let s := s.modCore b.col b.core fun c => { c with serving := if c.serving = some kv.1 then none else c.serving }
    let s := if b.queue.isEmpty then s
      else s.modCore (dest b.col) b.core fun c => { c with engine := c.engine ++ b.queue }
    s.modBlock kv.1 fun b => { b with col := dest b.col, queue := [] }) s

/-- A resumed gang's copy and bank commands on their columns, behind those that stand there, without their promises (R327); with
the handles of those that are performed (R324) (log 67, DEDUCED). -/
def State.resumeCopies (s : State) (g : Nat) (dest : Nat → Nat) : State :=
  let mine := s.copies.filter fun kv => kv.2.gang == g
  let s := { s with copies := s.copies.filter fun kv => kv.2.gang != g }
  mine.foldl (fun s kv =>
    let (id, s) := s.takeId
    { s with copies := mapSet s.copies id { kv.2 with col := dest kv.2.col, promise := none } }) s

/-- A pre-empted gang restored (R140, R149): its windows, its blocks with their queued matrix commands, its copies, its warps,
each chunk, line, unit or wait where it stood. A gang whose blocks had all retired retires then (R74)
(log 67, DEDUCED). -/
def State.resumeGang (s : State) (g : Nat) : State :=
  match s.gang g with
  | none => s
  | some k =>
    match s.grid k.grid with
    | none => s
    | some x =>
      let cols := s.columnsNow x.asid k
      if !s.mayResume g k x cols then s
      else
        let dest := moved k.columns cols
        let (pool, s) := (s.restoreGang g).resumePool x.asid k x.rcd cols
        let s := (s.resumeBlocks g dest).resumeCopies g dest
        let fill (m : AMap Addr) : AMap Addr := (k.columns.zip cols).foldl (fun m p =>
          match mapGet m p.1 with
          | some v => if (mapGet m p.2).isSome then m else mapSet m p.2 v
          | none => m) m
        let s := s.modGrid k.grid fun x => { x with tvec := fill x.tvec, tframe := fill x.tframe }
        let s := s.modGang g fun k => { k with state := .running, columns := cols, pool := pool, lnum := [] }
        let ws := sortBy (fun a b => !b.2.older a.2) (s.gangWarps g)
        let s := ws.foldl (fun s kv =>
          let next := dest kv.2.col
          s.resumeWarp kv.1 next (kv.2.wait.onColumn (next != kv.2.col) dest k.pool pool)) s
        let s := cols.foldl (fun s c => (List.range 4).foldl (fun s core => s.acquireHost c core) s) s
        (ws.foldl (fun s kv => s.boundary kv.1) s).retireGang g

/-- The meaning of GANG_RESUME (R140): a pre-empted gang that is the first in the order of placement to fit. -/
def execGangResume (gang : Nat) (s : State) : Host.Outcome State Fault Refusal :=
  .next (if (s.gang gang).map Gang.state ≠ some .preempted then s
    else match s.firstFit s.waiting 0 [] with
      | some (q, .resume g, passed) => if g = gang then (s.passOver q.grid q.x passed).resumeGang gang else s
      | _ => s)

end Sys2Proof.Machine
end

