-- ==== Sys2Proof/Machine/GangEvents.lean ====
section
/-! DEFINITION. The events of the scheduler (R74, R136-R146), of a column's partition (R353), of a gang's relaunch (R397),
and of a column's failure (R405-R407, R414). An event whose conditions do not hold changes nothing. -/

namespace Sys2Proof.Machine

open Sys2Proof

/-! ### The scheduler -/

/-- The meaning of HOST_RECORD_ACCEPT (R136): one record of a queue, in ring order. -/
def execHostRecordAccept (q : Nat) (s : State) : Host.Outcome State Fault Refusal :=
  .next (if q < 16 then s.acceptRecord q else s)

/-- The meaning of COMMAND_GRID_ACCEPT (R137). -/
def execCommandGridAccept (s : State) : Host.Outcome State Fault Refusal := .next s.enterPending

/-- The meaning of GANG_PLACE (R138-R146): one step of the scheduler's placing. -/
def execGangPlace (s : State) : Host.Outcome State Fault Refusal := .next s.schedule

/-- The handles of a block's commands that are performed, released with the block: nothing can wait on them any more
(R324) (log 56, DESIGN CHOICE). -/
def State.forgetCopies (s : State) (b : Nat) : State :=
  { s with copies := s.copies.filter fun kv => kv.2.block != b || kv.2.stage != 2 }

/-- The meaning of BLOCK_RETIRE (R74): where the block may retire. -/
def execBlockRetire (b : Nat) (s : State) : Host.Outcome State Fault Refusal :=
  let t := s.retireBlock b
  .next (if ((t.block b).map Block.retired).getD true then t.forgetCopies b else t)

/-- The meaning of PARTITION_CHANGE (R296, R353): the oldest change of a column's partition, and what its run held back. -/
def execPartitionChange (col : Nat) (s : State) : Host.Outcome State Fault Refusal := .next (s.changePart col)

/-! ### Relaunch -/

/-- A killed gang of a restartable grid placed again at a site, from its retained record (R397, R370) (log 69, DEDUCED). -/
def State.relaunch (s : State) (g : Nat) (site : Site) : State :=
  match s.gang g with
  | none => s
  | some k =>
    match s.grid k.grid with
    | none => s
    | some x => (s.placeAt g { k with relaunch := k.relaunch + 1, held := [], lnum := [] } x site).scrubPrivate g true

/-- The meaning of GANG_RELAUNCH (R139, R397): a killed gang that is the first in the order of placement to fit. -/
def execGangRelaunch (gang : Nat) (s : State) : Host.Outcome State Fault Refusal :=
  .next (if (s.gang gang).map Gang.state ≠ some .killed then s
    else match s.firstFit s.waiting 0 [] with
      | some (q, .relaunch g k, passed) => if g = gang then (s.passOver q.grid q.x passed).relaunch gang k else s
      | _ => s)

/-! ### Column failure -/

/-- The lowest-numbered live column of a column's tower (R405). -/
def State.logColumn (s : State) (col : Nat) : Option Nat :=
  ((List.range 32).map (32 * tower col + ·)).find? fun c => (s.column c).live && (s.column c).failed == 0

/-- The compute die of a column gone: the runs of its warps are discarded and the warps halted, its engines' work and the
tiles of its blocks are lost, and its L1s with them, but for what committed stores left there; those behind a BFENCE or CPART
are released (R406) (log 47, DEDUCED). -/
def State.haltColumn (s : State) (col : Nat) (lost : List Nat) : State :=
  let s := s.cleanL1 col fun _ => true
  let s := (s.warps.filter fun kv => kv.2.col == col && lost.contains kv.2.block).foldl (fun s kv =>
    (((s.releaseRest kv.1).leaveSlot kv.1).discardRun kv.1).modWarp kv.1 fun x =>
      { x with halted := true, swapReq := false, rest := none }) s
  let s := lost.foldl (fun s b => s.modBlock b fun k => { k with tiles := [], counted := [] }) s
  (List.range 4).foldl (fun s k =>
    if mapGet s.cores (4 * col + k) = none then s
    else s.modCore col k fun c =>
      { c with engine := c.engine.filter fun m => !lost.contains m.block, serving := none, l1 := [], l1rr := [], pred := [] }) s

/-- A warp's column-failure event made pending; a warp with no run in flight and no wait is at its boundary, and takes it
now (R393). -/
def State.postFailure (s : State) (w g kind col : Nat) : State :=
  s.modWarp w fun x => { x with colFail := x.colFail ++ [(g, kind, col)] }

/-- What becomes of a gang that lost blocks (R406, R407, R414): a restartable one is killed; the warps that survive of any
other have their events pending before the lost blocks count as retired. -/
def State.gangLost (s : State) (g kind col : Nat) (lost : List Nat) : State :=
  if s.restartable g then s.killGang g
  else
    let gone := (s.blocksOf g).filter fun kv => lost.contains kv.1
    let left := (s.blocksOf g).filter fun kv => !lost.contains kv.1 && !kv.2.lost
    let ws := left.flatMap fun kv => (s.warpsOf kv.1).filter fun w => !w.2.retired
    let s := gone.foldl (fun s b => ws.foldl (fun s w => s.postFailure w.1 b.2.g kind col) s) s
    let s := gone.foldl (fun s b => s.modBlock b.1 fun k => { k with lost := true }) s
    let s := left.foldl (fun s b => s.barriersOf b.1) s
    (ws.foldl (fun s w => s.boundary w.1) s).retireGang g

/-- A column declared failed (R405-R407): logged, reported, its warps halted, its blocks lost. A column that has failed
already can only lose its slice as well. -/
def State.failColumn (s : State) (col kind : Nat) : State :=
  let c := s.column col
  if 128 ≤ col ∨ !c.live ∨ (kind ≠ 1 ∧ kind ≠ 2) ∨ kind ≤ c.failed then s
  else
    let s := s.modColumn col fun c => { c with failed := kind }
    let s := match s.logColumn col with
      | some k =>
        let e := s.cycOf k * 2 ^ 64 + 0xF * 2 ^ 8 + 2 ^ 7 + col
        s.modColumn k fun c =>
          { c with clog := mapSet c.clog (c.clcnt.toNat % 64) (BitVec.ofNat 128 e), clcnt := c.clcnt + 1 }
      | none => s
    let s := s.raiseVector 1
    let lost := (s.blocks.filter fun kv =>
      kv.2.col == col && !kv.2.lost && ((s.gang kv.2.gang).map Gang.state) == some .running).map fun kv => kv.1
    let gangs := (s.gangs.filter fun kv => (s.blocksOf kv.1).any fun b => lost.contains b.1).map Prod.fst
    let s := s.haltColumn col lost
    gangs.foldl (fun s g => s.gangLost g kind col lost) s

/-- The meaning of COLUMN_FAILURE (R405). -/
def execColumnFailure (col kind : Nat) (s : State) : Host.Outcome State Fault Refusal := .next (s.failColumn col kind)

end Sys2Proof.Machine
end

