-- ==== Sys2Proof/Machine/Ras.lean ====
section
/-! DEFINITION. The device's own maintenance: write-backs of host lines and coherence with the host (R252, R371), the
rebalancer (R286), scrubbing, transfers, lanes and retraining (R399-R403, R411), flows and links (R404, R373), and the
throttles (R222, R383). Which transfer or attempt fails is the world's doing: it is a free choice (log 6, DESIGN CHOICE). -/

namespace Sys2Proof.Machine

open Sys2Proof

/-! ### Host lines -/

/-- The meaning of HOST_WRITEBACK_TIMEOUT (R252): the dirty host bytes of a column are written back. -/
def execHostWritebackTimeout (col : Nat) (s : State) : Host.Outcome State Fault Refusal := .next (s.releaseHost col)

/-- What a column does with a snooped host line (R371): dirty bytes are written back; the copy goes where the host
invalidates it, with its L1 lines. -/
def State.snoopColumn (s : State) (line col : Nat) (invalidate : Bool) : State :=
  let key := col * 2 ^ 47 + line
  let s := (s.flushLine col (.host (64 * line))).cleanLines (· == key)
  if !invalidate then s
  else ({ s with hostCopy := mapErase s.hostCopy key } : State).shootL1 col 0 (.host (64 * line)) true

/-- The meaning of CXL_CACHE_SNOOP (R371): every column's copy answers, and the host is told whether one was dirty. -/
def execCxlCacheSnoop (line : Nat) (invalidate : Bool) (s : State) : Host.Outcome State Fault Refusal :=
  let held := s.hostCopy.filter fun kv => kv.1 % 2 ^ 47 == line
  let t := held.foldl (fun s kv => s.snoopColumn line (kv.1 / 2 ^ 47) invalidate) s
  .next (t.send (.snoop line (held.any fun kv => kv.2.dirty != 0)))

/-! ### The rebalancer -/

/-- The requests of each slice in a column's window, by bucket (R286). -/
def Column.sliceLoad (c : Column) (slice : Nat) : Nat :=
  (c.requests.map fun kv => if mapGetD c.sit kv.1 (kv.1 % 8) = slice then kv.2 else 0).sum

/-- The slice with the most requests, or with the fewest: the lowest-numbered on a tie (log 99, DESIGN CHOICE). -/
def Column.extremeSlice (c : Column) (most : Bool) : Nat :=
  (List.range 8).foldl (fun b k =>
    if (if most then c.sliceLoad b < c.sliceLoad k else c.sliceLoad k < c.sliceLoad b) then k else b) 0

/-- A bucket moved to a slice (R286): its sectors are written back and dropped, and SIT names its new slice. -/
def State.moveBucket (s : State) (col bucket slice : Nat) : State :=
  let gone := (s.column col).sectors.filter fun x => ((s.column col).slice x.addr).1 == bucket
  let s := gone.foldl (fun s x => s.dropSector (((mapGet s.keys x.slot).map Prod.fst).getD 0) col x) s
  s.modColumn col fun c =>
    { c with sit := if bucket % 8 = slice then mapErase c.sit bucket else mapSet c.sit bucket slice }

/-- The end of a column's window of requests (R286). Of the buckets of the busiest slice with equally many requests, the
lowest moves (log 99, DESIGN CHOICE). -/
def State.rebalance (s : State) (col : Nat) : State :=
  let c := s.column col
  let busy := c.extremeSlice true
  let idle := c.extremeSlice false
  let mine := c.requests.filter fun kv => mapGetD c.sit kv.1 (kv.1 % 8) == busy
  let top := mine.foldl (fun (b : Option (Nat × Nat)) kv => match b with
    | none => some kv
    | some x => if x.2 < kv.2 then some kv else some x) none
  let s := match top with
    | some (bucket, _) => if 2 * c.sliceLoad idle < c.sliceLoad busy then s.moveBucket col bucket idle else s
    | none => s
  s.modColumn col fun c => { c with requests := [] }

/-- The meaning of REBALANCE_WINDOW_END (R286). -/
def execRebalanceWindowEnd (col : Nat) (s : State) : Host.Outcome State Fault Refusal :=
  .next (if 128 ≤ col ∨ (s.column col).failed = 2 then s else s.rebalance col)

/-! ### Scrub, transfers, lanes -/

/-- The meaning of PATROL_SCRUB (R399): one line of a column read and corrected in place. -/
def execPatrolScrub (col line : Nat) (s : State) : Host.Outcome State Fault Refusal :=
  .next (if 128 ≤ col ∨ 2 ^ 29 ≤ line ∨ (s.column col).failed = 2 then s else (s.correctLine col line 3 4).upkeep col 8)

/-- The first transfer of a column whose lane is to be tested: it has made four attempts (R400). -/
def Column.toTest (c : Column) : Option (Nat × Nat × Nat × Nat) := c.retry.find? fun t => decide (4 ≤ t.2.2.1)

/-- The first transfer under retry of a column that may be attempted again: it has made fewer than four attempts, and no lane
test holds its bus (R400, R411). -/
def Column.retrying (c : Column) : Option (Nat × Nat × Nat × Nat) :=
  c.retry.find? fun t => decide (t.2.2.1 < 4) && !c.testing t.1

/-- One more attempt of a transfer (R400): it ends it, correct, with its log entry; or it fails and is counted
(log 9, DEDUCED). -/
def State.retryTransfer (s : State) (col : Nat) : State :=
  match (s.column col).retrying with
  | none => s
  | some (pch, line, tries, beat) =>
    let drop (c : Column) : Column := { c with retry := c.retry.erase (pch, line, tries, beat) }
    let s := if Config.freeBit s.fresh then
        (s.modColumn col drop).transferLog col line 255 (tries + 1) (beat / 2 % 4) (beat % 2) 1
      else (s.modColumn col fun c => { c with retry := c.retry.map fun t =>
        if t = (pch, line, tries, beat) then (pch, line, tries + 1, beat) else t }).upkeep col 5
    s.drewFresh

/-- The meaning of TRANSFER_RETRY (R400). -/
def execTransferRetry (col : Nat) (s : State) : Host.Outcome State Fault Refusal := .next (s.retryTransfer col)

/-- The spares in use on a pseudo-channel (R401). -/
def Column.spares (c : Column) (pch : Nat) : Nat := c.spuse.toNat / 4 ^ pch % 4

/-- A transfer of a row line that has failed for good (R400): a read delivers poison, to what waits for it, and leaves the
array as it is; a write has written poison. -/
def State.lostTransfer (s : State) (col line dir : Nat) : State :=
  let k := memKey col (32 * line) / 32
  if dir = 0 then { s with readPsn := mapSet s.readPsn k false } else { s with memPsn := setIns s.memPsn k }

/-- A lane test after a fourth failed attempt (R400): the lane is swapped for a spare and a fifth attempt made, or the line
is delivered as poison. -/
def State.testLane (s : State) (col lane : Nat) : State :=
  match (s.column col).toTest with
  | none => s
  | some (pch, line, tries, beat) =>
    let s := (s.modColumn col fun c => { c with retry := c.retry.erase (pch, line, tries, beat) }).upkeep col 6
    let log (s : State) (n kind : Nat) : State := s.transferLog col line (lane % 256) n (beat / 2 % 4) (beat % 2) kind
    let lost (s : State) : State := s.lostTransfer col line (beat % 2)
    if 2 ≤ (s.column col).spares pch then log (lost s) 4 3
    else
      let s := s.modColumn col fun c => { c with spuse := c.spuse + BitVec.ofNat 32 (4 ^ pch) }
      let s := if Config.freeBit s.fresh then log s 5 2 else log ((lost s).upkeep col 5) 5 3
      s.drewFresh

/-- The meaning of LANE_TEST (R400): a lane is one of 64 data lanes or the parity lane. -/
def execLaneTest (col lane : Nat) (s : State) : Host.Outcome State Fault Refusal :=
  .next (if 64 < lane then s else s.testLane col lane)

/-- A bus that falls due for retraining (R403): put off while a transfer of its pseudo-channel is in flight, but once, and
never within 2^22 clk of the last. -/
def State.retrain (s : State) (col bus : Nat) : State :=
  let c := s.column col
  let last := mapGetD c.trained bus 0
  if 8 ≤ bus ∨ (last ≠ 0 ∧ s.cycOf col + 1 < last + 2 ^ 22) then s
  else if (c.retry.any fun t => t.1 == bus) && !c.due.contains bus then
    s.modColumn col fun c => { c with due := setIns c.due bus }
  else s.modColumn col fun c => { c with trained := mapSet c.trained bus (s.cycOf col + 1), due := setDel c.due bus }

/-- The meaning of RETRAINING (R403): it changes no data. -/
def execRetraining (col bus : Nat) (s : State) : Host.Outcome State Fault Refusal := .next (s.retrain col bus)

/-! ### Flows and links -/

/-- The meaning of FLOW_ESCAPE (R404): a blocked flow takes the escape channel; nothing is reordered or dropped. -/
def execFlowEscape (flow : Nat) (s : State) : Host.Outcome State Fault Refusal :=
  .next { s with dev := { s.dev with flows := setIns s.dev.flows flow } }

/-- The meaning of LINK_LEVEL_RETRY (R404): it changes only rate. -/
def execLinkLevelRetry (link : Nat) (s : State) : Host.Outcome State Fault Refusal :=
  .next { s with dev := { s.dev with retries := mapSet s.dev.retries link (mapGetD s.dev.retries link 0 + 1) } }

/-- The meaning of WATIK_LINK_TRAINING (R11, R373): the two ends of one of the 18 ports agree new keys. -/
def execWatikLinkTraining (port : Nat) (s : State) : Host.Outcome State Fault Refusal :=
  let (k, t) := s.takeId
  .next (if 18 ≤ port then s else { t with dev := { t.dev with linkKeys := mapSet t.dev.linkKeys port k } })

/-! ### Throttles -/

/-- A tower's throttle level raised by as much as it takes (R222): how much the draw falls with a level is not stated, so
how far is a free choice among the higher levels (log 6, DESIGN CHOICE). -/
def State.raiseThrottle (s : State) (t : Nat) : State :=
  let h := s.dev.mxthr.getD t 0
  let up := if 7 ≤ h then h else h + 1 + (s.freeW 0).toNat % (7 - h)
  ({ s with dev := { s.dev with mxthr := s.dev.mxthr.set t up } } : State).drewFresh

/-- When a tower's draw was last too high for its level to fall (R222). -/
def State.markDraw (s : State) (t : Nat) : State :=
  { s with dev := { s.dev with calm := s.dev.calm.set t (s.cycOf (32 * t)) } }

/-- The meaning of THROTTLE_RAISE (R222): a draw above 4,700 W (log 72, DEDUCED). -/
def execThrottleRaise (tower draw : Nat) (s : State) : Host.Outcome State Fault Refusal :=
  .next (if 4700 < draw ∧ tower < 4 then (s.raiseThrottle tower).markDraw tower else s)

/-- The meaning of THROTTLE_LOWER (R222): one step for each 2^16 clk of draw below 4,600 W. -/
def execThrottleLower (tower draw : Nat) (s : State) : Host.Outcome State Fault Refusal :=
  .next (if 4 ≤ tower then s
    else if 4600 ≤ draw then s.markDraw tower
    else if s.cycOf (32 * tower) < s.dev.calm.getD tower 0 + 2 ^ 16 then s
    else
      let s := s.markDraw tower
      { s with dev := { s.dev with mxthr := s.dev.mxthr.set tower (s.dev.mxthr.getD tower 0 - 1) } })

/-- The meaning of THERMAL_THROTTLE (R383): a tower at 100 °C is throttled, and THERM raised (R374). -/
def execThermalThrottle (tower : Nat) (s : State) : Host.Outcome State Fault Refusal :=
  .next (if 4 ≤ tower then s else (s.raiseThrottle tower).raiseVector 4)

/-- The meaning of THERMAL_HALT (R383): every column stands still until a cold reset. The event is logged, in a log of its own:
those of R401 have no KIND for it; READ_LOG gives it (log 64, DEDUCED). -/
def execThermalHalt (s : State) : Host.Outcome State Fault Refusal :=
  let s := (List.range 128).foldl (fun s c => s.modColumn c fun k => { k with halted := true }) s
  let s := { s with
    warps := mapAll s.warps fun _ x => { x with halted := true }
    dev := { s.dev with halted := true, thermLog := s.dev.thermLog ++ [s.cycOf 0] } }
  .next (s.raiseVector 4)

end Sys2Proof.Machine
end

