-- ==== Sys2Proof/Machine/Device.lean ====
section
/-! DEFINITION. What the host and the management controller do: reset and boot (R378-R381), the firmware mailbox (R382),
the context-management interface (R359-R369, R284, R373), the launch queues' registers (R135), interrupts (R374), the host
apertures (R372), the management messages (R377) and attestation (R380). -/

namespace Sys2Proof.Machine

open Sys2Proof

/-! ### Reset and boot -/

/-- A column after a cold reset: the configuration record says whether it is live and which spares it uses (R379)
(log 33, DESIGN CHOICE). -/
def Column.coldReset (c : Column) : Column := { Column.reset with live := c.live, spuse := c.spmap, spmap := c.spmap }

/-- A cold reset (R18, R378, R381): everything of the device returns to its reset value but its flash and what the arrays
hold; every key is gone, and slot 0 has a new one (R367). The host and the peers go on
(log 33, DESIGN CHOICE). -/
def State.coldReset (s : State) : State :=
  let (k, s) := s.takeId
  { State.reset with
    agenda := s.agenda, fresh := s.fresh, nextId := s.nextId, columns := mapAll s.columns fun _ c => c.coldReset
    dev := { Dev.reset with flash := s.dev.flash }, keys := [(0, (0, 2 * k))], pairsIn := s.pairsIn, mem := s.mem
    keyTag := s.keyTag, memPsn := s.memPsn, host := s.host, hostPsn := s.hostPsn, peer := s.peer, peerPsn := s.peerPsn, errs := s.errs
    msgs := s.msgs }

/-- The meaning of COLD_RESET. -/
def execColdReset (s : State) : Host.Outcome State Fault Refusal := .next s.coldReset

/-- A number that stands for the bytes of an image. -/
def imageId (bs : List Byte) : Nat := leNat bs + 256 ^ bs.length

/-- The identity of the keys that a device derives from its unclonable response and the helper data of a record (R379), and of
those that the record's certificate carries (log 14, DESIGN CHOICE). -/
def derivedKeys (record : Nat) : Nat := Config.digest 13 record + 1
def certifiedKeys (record : Nat) : Nat := Config.digest 14 record + 1

/-- Do both signatures of an image verify, and of the record its certificate, which matches the derived keys (R378, R379,
R382)? -/
def Image.genuine (x : Image) : Bool :=
  Config.digest 9 (16 * imageId x.bytes + x.index) == 1
    && (x.index != 0 || certifiedKeys (imageId x.bytes) == derivedKeys (imageId x.bytes))

/-- The configuration record in flash, and the firmware images there (R378). -/
def Dev.record (d : Dev) : Image := { index := 0, bytes := mapGetD d.flash 0 [], verified := false }
def Dev.firmware (d : Dev) : List Image :=
  (d.flash.filter fun kv => kv.1 != 0).map fun kv => { index := kv.1, bytes := kv.2, verified := false }

/-- What a configuration record holds (R379), in a layout that the specification does not give: the security version, the
serial number, whether a column is live, the spares a column uses, and the energy weights (log 14, DESIGN CHOICE). -/
def Image.version (x : Image) : Word := BitVec.ofNat 32 (Config.digest 5 (imageId x.bytes))
def Image.serial (x : Image) : Nat := Config.digest 10 (imageId x.bytes)
def Image.names (x : Image) (col : Nat) : Bool := Config.digest 11 (128 * imageId x.bytes + col) == 1
def Image.spares (x : Image) (col : Nat) : Word := BitVec.ofNat 32 (Config.digest 12 (128 * imageId x.bytes + col) % 2 ^ 16)
def Image.weights (x : Image) : Nat := Config.digest 15 (imageId x.bytes)

/-- The columns as the record gives them (R19, R379, R401). -/
def State.bootColumns (s : State) (x : Image) : State :=
  (List.range 128).foldl (fun s c => s.modColumn c fun k =>
    { k with live := x.names c, spuse := x.spares c, spmap := x.spares c }) s

/-- The measurement blocks that stand once the record is verified (R380): mask ROM, record, no image yet, the live columns, the
security version. -/
def Image.measured (x : Image) : List (List Nat) :=
  [[Config.digest 1 0], [Config.digest 2 (imageId x.bytes)], [], (List.range 128).filter x.names, [x.version.toNat]]

/-- The first boot stage (R378, R379, R381): the record is verified and taken, and the identity derived. -/
def State.bootRecord (s : State) : State :=
  let x := s.dev.record
  let s := s.bootColumns x
  { s with dev := { s.dev with
      bootst := 1, fwver := x.version, serial := x.serial, identity := derivedKeys (imageId x.bytes), measured := x.measured
      weights := x.weights } }

/-- The third boot stage (R378, R380, R381): the firmware is verified, measured and started. -/
def State.bootFirmware (s : State) : State :=
  { s with dev := { s.dev with
      bootst := 3, measured := s.dev.measured.set 2 (s.dev.firmware.map fun x => Config.digest 3 (imageId x.bytes)) } }

/-- The recovery state (R378). -/
def State.recover (s : State) : State := { s with dev := { s.dev with bootst := 0xF, fwver := 0 } }

/-- A boot stage ended (R378, R381): the next stage's code, or the recovery state where the record, its certificate or an image
does not verify, or where the stage itself failed (log 5, DESIGN CHOICE). -/
def State.endStage (s : State) (ok : Bool) : State :=
  if 4 ≤ s.dev.bootst then s
  else if !ok then s.recover
  else match s.dev.bootst with
    | 0 => if s.dev.record.genuine then s.bootRecord else s.recover
    | 2 => if s.dev.firmware.all Image.genuine then s.bootFirmware else s.recover
    | n => { s with dev := { s.dev with bootst := n + 1 } }

/-- The meaning of BOOT_STAGE_END. -/
def execBootStageEnd (ok : Bool) (s : State) : Host.Outcome State Fault Refusal := .next (s.endStage ok)

/-- The meaning of POWER_LOSS (R382): what the device holds is lost as at a reset; a COMMIT is whole or has not been. -/
def execPowerLoss (s : State) : Host.Outcome State Fault Refusal := .next s.coldReset

/-- Is the device up (R378, R381): does the host see more than BOOTST and the mailbox? -/
def State.up (s : State) : Bool := s.dev.bootst == 4

/-! ### The firmware mailbox -/

/-- A mailbox command ended (R382): its result, the number of images staged, and FWMB outside the recovery state. -/
def State.endFirmware (s : State) (cmd : Word) (result : Nat) : State :=
  let stat := BitVec.ofNat 32 (result * 2 ^ 8 + s.dev.staged.length % 256 * 2 ^ 16)
  let s := { s with dev := { s.dev with fwcmd := cmd, fwstat := stat } }
  if s.dev.bootst = 0xF then s else s.raiseVector 5

/-- STAGE (R382): the image is read from host memory. -/
def State.stageImage (s : State) (image : Nat) : State :=
  let d := s.dev
  let cmd := BitVec.ofNat 32 (1 + 256 * image)
  let n := d.fwlen.toNat
  let others := d.staged.filter fun x => x.index != image
  let room := (others.map fun x => x.bytes.length).sum + n
  if 15 < image ∨ d.fwaddr.toNat % 4096 ≠ 0 ∨ 64 * 2 ^ 20 < n ∨ 64 * 2 ^ 20 < room then s.endFirmware cmd 2
  else
    let a := d.fwaddr.toNat
    if s.hostPsn.any fun l => decide (a < 32 * l + 32) && decide (32 * l < a + n) then s.endFirmware cmd 3
    else
      let new : Image := { index := image, bytes := cellsGet s.host a n, verified := false }
      ({ s with dev := { d with staged := others ++ [new] } } : State).endFirmware cmd 0

/-- The meaning of STAGE. -/
def execStage (image : Nat) (s : State) : Host.Outcome State Fault Refusal := .next (s.stageImage image)

/-- VERIFY (R382), with the word written to FWCMD: an image that fails is dropped (log 62, DEDUCED). -/
def State.verifyImages (s : State) (cmd : Word) : State :=
  let good := s.dev.staged.filter Image.genuine
  let result := if good.length = s.dev.staged.length then 0 else 4
  ({ s with dev := { s.dev with staged := good.map fun x => { x with verified := true } } } : State).endFirmware cmd result

/-- The meaning of VERIFY. -/
def execVerify (s : State) : Host.Outcome State Fault Refusal := .next (s.verifyImages 2)

/-- Is some context live? -/
def State.anyLive (s : State) : Bool := s.contexts.any fun kv => kv.2.live

/-- COMMIT (R382), with the word written to FWCMD: whether the flash can be written is the world's doing, a free choice (log
6, DESIGN CHOICE). -/
def State.commitImages (s : State) (cmd : Word) : State :=
  let good := s.dev.staged.filter fun x => x.verified
  if s.dev.bootst ≠ 0xF ∧ s.anyLive then s.endFirmware cmd 7
  else if good.isEmpty then s.endFirmware cmd 5
  else if Config.freeBit s.fresh then s.drewFresh.endFirmware cmd 6
  else
    let flash := good.foldl (fun m x => mapSet m x.index x.bytes) s.dev.flash
    (({ s with dev := { s.dev with flash := flash } } : State).endFirmware cmd 0).drewFresh

/-- The meaning of COMMIT. -/
def execCommit (s : State) : Host.Outcome State Fault Refusal := .next (s.commitImages 3)
/-- The meaning of RESET (R382): a cold reset. -/
def execReset (s : State) : Host.Outcome State Fault Refusal := .next s.coldReset
/-- The meaning of DISCARD (R382). -/
def execDiscard (s : State) : Host.Outcome State Fault Refusal :=
  .next (({ s with dev := { s.dev with staged := [] } } : State).endFirmware 5 0)

/-- A write to FWCMD (R6, R382): its bits 31:16 read zero, and a command that sets one fails (log 62, DEDUCED). -/
def State.firmwareCommand (s : State) (v : Word) : State :=
  let cmd := v &&& 0xFFFF
  if v.toNat / 2 ^ 16 ≠ 0 then s.endFirmware cmd 2
  else match v.toNat % 256, v.toNat / 256 with
    | 1, image => s.stageImage image
    | 2, _ => s.verifyImages cmd
    | 3, _ => s.commitImages cmd
    | 4, _ => s.coldReset
    | 5, _ => ({ s with dev := { s.dev with staged := [] } } : State).endFirmware cmd 0
    | _, _ => s.endFirmware cmd 2

/-! ### Context management -/

/-- A context-management command ended (R360, R374). -/
def State.endManage (s : State) (code asid result : Nat) : State :=
  ({ s with dev := { s.dev with
      cmcmd := BitVec.ofNat 32 (code + asid % 8192 * 2 ^ 16), cmstat := BitVec.ofNat 32 (result * 2 ^ 8), busy := none } } :
    State).raiseVector 3

/-- Is another command under way than this one (R360)? -/
def Dev.occupied (d : Dev) (code asid : Nat) : Bool :=
  match d.busy with
  | some b => b.code != code || b.asid != asid
  | none => false

/-- The arguments of a command: those it was written with, where it is under way (R360). -/
def Dev.args (d : Dev) (code asid : Nat) : Busy :=
  match d.busy with
  | some b => b
  | none => { code := code, asid := asid, arg0 := d.cmarg0, arg1 := d.cmarg1, arg2 := d.cmarg2 }

/-- The first check of a command that fails, in the order of the result codes (R360) (log 31, DEDUCED). -/
def failing (asid : Nat) (checks : List (Bool × Nat)) : Option (Bool × Nat) :=
  ((decide (8192 ≤ asid), 2) :: checks).find? fun c => c.1

/-- A command carried out where the interface answers (R378) and is free of another (R360), with its result; one that fails
changes nothing. -/
def State.manage (s : State) (code asid : Nat) (checks : List (Bool × Nat)) (f : State → State) : State :=
  if !s.up || s.dev.occupied code asid then s
  else match failing asid checks with
    | some (_, result) => s.endManage code asid result
    | none => (f s).endManage code asid 0

/-- Does a warp of a context hold accesses of a committed run back, which are already placed (R326, R353, R362)? -/
def State.holdsAccess (s : State) (asid : Nat) : Bool :=
  s.warps.any fun kv => s.asidOf kv.2 == asid && (kv.2.rest.isSome
    || kv.2.pend.any fun p => !p.ready && (match p.fx with | .load _ _ _ _ => true | _ => false))

/-- A command that changes what accesses of a context reach (R362, R366): it stays under way, BUSY, while such accesses placed
before it are held back (log 103, DESIGN CHOICE). -/
def State.remap (s : State) (code asid : Nat) (checks : List (Bool × Nat)) (f : State → State) : State :=
  if s.up && !s.dev.occupied code asid && (failing asid checks).isNone && s.holdsAccess asid then
    { s with dev := { s.dev with
        cmcmd := BitVec.ofNat 32 (code + asid % 8192 * 2 ^ 16), busy := some (s.dev.args code asid) } }
  else s.manage code asid checks f

/-- Is an ASID not live (R360, result 4)? -/
def State.dead (s : State) (asid : Nat) : Bool := !(s.ctx asid).live

/-- Has a context a grid that has not retired? -/
def State.hasGrid (s : State) (asid : Nat) : Bool := s.grids.any fun kv => kv.2.asid == asid && kv.2.state != .retired

/-- Has a context a warp on a column, resident or to return there? -/
def State.onColumn (s : State) (asid col : Nat) : Bool := s.warps.any fun kv => kv.2.col == col && s.asidOf kv.2 == asid

/-- Runs in flight of a context discarded: they may hold accesses through the entry that changes (R362). -/
def State.discardRuns (s : State) (asid : Nat) : State :=
  { s with warps := mapAll s.warps fun _ x => if x.run.isSome && s.asidOf x == asid then x.discard else x }

/-- L1 lines and TLB entries of a context dropped where a test on logical column, offset and length says so; dirty lines are
written back first (R362, R366). -/
def State.dropMapped (s : State) (asid : Nat) (hit : Nat → Nat → Nat → Nat → Bool) : State :=
  let s := { s with columns := mapAll s.columns fun p c => { c with
    tlb := c.tlb.filter fun e => !(e.asid == asid && hit p e.lcol (e.page * 2 ^ e.shift) (2 ^ e.shift)) } }
  let gone (k : Nat) (e : L1Line) : Bool := e.asid == asid && hit (k / 4) e.lcol (64 * e.vline) 64
  let s := s.cores.foldl (fun s kv => (kv.2.l1.filter (gone kv.1)).foldl (fun s e => s.writeBack (kv.1 / 4) e) s) s
  { s with cores := mapAll s.cores fun k c => { c with l1 := c.l1.filter fun e => !gone k e } }

/-- CREATE (R360): the ASID is live with reset state. -/
def State.createCtx (s : State) (asid : Nat) : State :=
  s.manage 1 asid [((s.ctx asid).closed, 3), ((s.ctx asid).live, 4)] fun s =>
    s.modCtx asid fun _ => { Context.empty with live := true }

/-- The meaning of CREATE. -/
def execCreate (asid : Nat) (s : State) : Host.Outcome State Fault Refusal := .next (s.createCtx asid)

/-- The sectors of some key slots dropped in every column, written back where they are dirty (R369). -/
def State.dropSlots (s : State) (asid : Nat) (slot : Nat → Bool) : State :=
  s.columns.foldl (fun s kv =>
    (kv.2.sectors.filter fun x => !x.host && slot x.slot).foldl (fun s x => s.dropSector asid kv.1 x) s) s

/-- DESTROY (R360, R369, R376): nothing of the context is left for another that takes its ASID (R331, R357). -/
def State.destroyCtx (s : State) (asid : Nat) : State :=
  s.manage 2 asid [(s.hasGrid asid, 1), (s.dead asid, 4)] fun s =>
    let s := s.dropMapped asid fun _ _ _ _ => true
    let s := { s with cores := mapAll s.cores fun _ c => { c with left := c.left.filter fun kv => kv.2.1 != asid } }
    let mine (n : Nat) : Bool := ((mapGet s.keys n).map Prod.fst) == some asid && n != 0
    let s := s.dropSlots asid mine
    let s := { s with keys := s.keys.filter fun kv => kv.1 == 0 || kv.2.1 != asid
                      grids := s.grids.filter fun kv => kv.2.asid != asid
                      rounds := s.rounds.filter fun kv => kv.2.asid != asid
                      merges := s.merges.filter fun kv => kv.2.asid != asid
                      copies := s.copies.filter fun kv => kv.2.asid != asid }
    s.modCtx asid fun c => { Context.empty with meters := c.meters, closed := true }

/-- The meaning of DESTROY. -/
def execDestroy (asid : Nat) (s : State) : Host.Outcome State Fault Refusal := .next (s.destroyCtx asid)

/-- A column map with one entry set or removed (R360, R408): a logical column mapped anew takes the last place, unless it
names the same column as before. -/
def Context.mapTo (c : Context) (l : Nat) (p : Option Nat) : Context :=
  match p with
  | none => { c with map := c.map.filter fun e => e.1 != l }
  | some q =>
    if c.pcol l = some q then c else { c with map := (c.map.filter fun e => e.1 != l) ++ [(l, q)] }

/-- Is a column live (R19)? -/
def State.columnLive (s : State) (c : Nat) : Bool := decide (c < 128) && (s.column c).live && (s.column c).failed == 0

/-- MAPCOL (R360, R362). -/
def State.mapColumn (s : State) (asid : Nat) : State :=
  let a := (s.dev.args 3 asid).arg0
  let l := a.toNat % 256
  let p := a.toNat / 2 ^ 8 % 128
  let valid := bit a 15
  s.remap 3 asid
    [(decide (a.toNat / 2 ^ 16 ≠ 0) || l == 255 || (valid && !s.columnLive p), 2), (s.dead asid, 4)] fun s =>
      let s := (s.discardRuns asid).dropMapped asid fun _ k _ _ => k == l
      s.modCtx asid fun c => c.mapTo l (if valid then some p else none)

/-- The meaning of MAPCOL. -/
def execMapcol (asid : Nat) (s : State) : Host.Outcome State Fault Refusal := .next (s.mapColumn asid)

/-- SETROOT (R360, R362, R363): the physical form, or the logical one (log 34, DEDUCED). -/
def State.setRoot (s : State) (asid : Nat) : State :=
  let a := (s.dev.args 4 asid).arg0
  let root := (s.dev.args 4 asid).arg1.toNat
  let p := a.toNat % 128
  let l := a.toNat / 2 ^ 16 % 256
  let logical := bit a 31
  let roots := (s.ctx asid).lroots
  let known := roots.any fun r => r.1 == p && r.2.1 == l
  let full := decide (8 ≤ (roots.filter fun r => r.1 == p).length)
  let reserved := decide (a.toNat / 2 ^ 32 ≠ 0) || decide (a.toNat / 2 ^ 24 % 128 ≠ 0) || decide (a.toNat / 2 ^ 7 % 512 ≠ 0)
    || (!logical && l != 0)
  s.remap 4 asid
    [(reserved || decide (2 ^ 34 ≤ root) || root % 4096 != 0 || (logical && (l == 255 || (root != 0 && !known && full))), 2),
     (s.dead asid, 4)] fun s =>
      let s := (s.discardRuns asid).dropMapped asid fun _ k _ _ => if logical then k == l else (s.ctx asid).pcol k == some p
      s.modCtx asid fun c =>
        if logical then
          let rest := c.lroots.filter fun r => !(r.1 == p && r.2.1 == l)
          { c with lroots := if root = 0 then rest else rest ++ [(p, l, root)] }
        else { c with roots := mapSet c.roots p root }

/-- The meaning of SETROOT. -/
def execSetroot (asid : Nat) (s : State) : Host.Outcome State Fault Refusal := .next (s.setRoot asid)

/-- INVAL (R366). -/
def State.invalidate (s : State) (asid : Nat) : State :=
  let args := s.dev.args 5 asid
  let l := args.arg0.toNat % 256
  let lo := args.arg1.toNat
  let n := args.arg2.toNat
  s.remap 5 asid [(decide (args.arg0.toNat / 2 ^ 8 ≠ 0), 2), (s.dead asid, 4)] fun s =>
    (s.discardRuns asid).dropMapped asid fun _ k o len =>
      (l == 255 || k == l) && (n == 0 || (decide (o < lo + n) && decide (lo < o + len)))

/-- The meaning of INVAL. -/
def execInval (asid : Nat) (s : State) : Host.Outcome State Fault Refusal := .next (s.invalidate asid)

/-- The command under way ended, where nothing holds it up any more (R360, R362). -/
def State.endBusy (s : State) : State :=
  match s.dev.busy with
  | none => s
  | some b =>
    if b.code = 3 then s.mapColumn b.asid
    else if b.code = 4 then s.setRoot b.asid
    else s.invalidate b.asid

/-- KEYLOAD (R360, R369): a key is its identity: that of the key material, or a new one drawn by the device. Slot 0 is the
device's (R367) (log 60, DEDUCED). -/
def State.loadKey (s : State) (asid : Nat) : State :=
  let a := s.dev.cmarg0
  let slot := a.toNat % 4096
  let other := slot == 0 || (match mapGet s.keys slot with | some k => k.1 != asid | none => false)
  s.manage 6 asid [(decide (a.toNat / 2 ^ 17 ≠ 0) || decide (a.toNat / 2 ^ 12 % 16 ≠ 0), 2), (s.dead asid, 4), (other, 5)] fun s =>
    let s := s.dropSlots asid fun n => n == slot
    let (k, s) := s.takeId
    { s with keys := mapSet s.keys slot (asid, if bit a 16 then 2 * k else 2 * s.dev.cmkey.toNat + 1) }

/-- The meaning of KEYLOAD. -/
def execKeyload (asid : Nat) (s : State) : Host.Outcome State Fault Refusal := .next (s.loadKey asid)

/-- SETSCHED (R284, R360). -/
def State.setSched (s : State) (asid : Nat) : State :=
  let a := s.dev.cmarg0
  let p := a.toNat % 128
  let e := a.toNat / 2 ^ 8 % 16
  let keep : BitVec 128 := ~~~(0x3FF ||| (0x3FF <<< 48))
  s.manage 7 asid [(decide (a.toNat / 2 ^ 12 ≠ 0) || bit a 7, 2), (s.dead asid, 4)] fun s =>
    s.modCtx asid fun c => { c with sched := mapSet c.sched (16 * p + e) ((s.dev.cmarg2 ++ s.dev.cmarg1) &&& keep) }

/-- The meaning of SETSCHED. -/
def execSetsched (asid : Nat) (s : State) : Host.Outcome State Fault Refusal := .next (s.setSched asid)

/-- PAIR (R360, R373). -/
def State.setPair (s : State) (asid : Nat) : State :=
  let a := s.dev.cmarg0
  let d := a.toNat % 512
  s.manage 8 asid
    [(decide (a.toNat / 2 ^ 32 ≠ 0) || decide (a.toNat / 2 ^ 29 % 4 ≠ 0) || decide (a.toNat / 2 ^ 9 % 128 ≠ 0) || decide (287 < d), 2),
     (s.dead asid, 4)] fun s =>
      s.modCtx asid fun c =>
        { c with pairs := if bit a 31 then mapSet c.pairs d (a.toNat / 2 ^ 16 % 8192) else mapErase c.pairs d }

/-- The meaning of PAIR. -/
def execPair (asid : Nat) (s : State) : Host.Outcome State Fault Refusal := .next (s.setPair asid)

/-- SAVEAREA (R360, R361). -/
def State.setSave (s : State) (asid : Nat) : State :=
  let a := s.dev.cmarg0
  let p := a.toNat % 128
  let slot := a.toNat / 2 ^ 16 % 4096
  let pa := s.dev.cmarg1.toNat
  let bound := slot != 0 && (match mapGet s.keys slot with | some k => k.1 == asid | none => false)
  s.manage 9 asid
    [(s.onColumn asid p, 1),
     (decide (a.toNat / 2 ^ 28 ≠ 0) || decide (a.toNat / 2 ^ 7 % 512 ≠ 0) || decide (pa % 2 ^ 21 ≠ 0)
       || decide (2 ^ 34 < pa + 96 * 2 ^ 20), 2), (s.dead asid, 4), (!bound, 5)] fun s =>
      s.modCtx asid fun c => { c with save := mapSet c.save p (pa, slot) }

/-- The meaning of SAVEAREA. -/
def execSavearea (asid : Nat) (s : State) : Host.Outcome State Fault Refusal := .next (s.setSave asid)

/-- PRIVAREA (R147, R360). -/
def State.setPrivate (s : State) (asid : Nat) : State :=
  let a := s.dev.cmarg0
  let p := a.toNat % 128
  let off := s.dev.cmarg1.toNat
  let len := s.dev.cmarg2.toNat
  s.manage 10 asid
    [(s.onColumn asid p, 1),
     (decide (a.toNat / 2 ^ 7 ≠ 0) || decide (off % 2 ^ 16 ≠ 0) || decide (len % 2 ^ 16 ≠ 0) || decide (2 ^ 48 < off + len), 2),
     (s.dead asid, 4)] fun s =>
      s.modCtx asid fun c => { c with priv := mapSet c.priv p (off, len) }

/-- The meaning of PRIVAREA. -/
def execPrivarea (asid : Nat) (s : State) : Host.Outcome State Fault Refusal := .next (s.setPrivate asid)

/-- A write to CMCMD, ignored while a command is under way (R360) (log 31, DEDUCED). -/
def State.manageCommand (s : State) (v : Word) : State :=
  let asid := v.toNat / 2 ^ 16
  if s.dev.busy.isSome then s
  else if v.toNat / 2 ^ 29 ≠ 0 ∨ v.toNat / 2 ^ 8 % 256 ≠ 0 then s.manage (v.toNat % 256) (asid % 8192) [(true, 2)] id
  else match v.toNat % 256 with
    | 1 => s.createCtx asid
    | 2 => s.destroyCtx asid
    | 3 => s.mapColumn asid
    | 4 => s.setRoot asid
    | 5 => s.invalidate asid
    | 6 => s.loadKey asid
    | 7 => s.setSched asid
    | 8 => s.setPair asid
    | 9 => s.setSave asid
    | 10 => s.setPrivate asid
    | n => s.manage n asid [(true, 2)] id

/-! ### Registers -/

/-- WDOGD written (R360). -/
def State.writeWdogd (s : State) (v : Word) : State :=
  if s.up then { s with dev := { s.dev with wdogd := if v = 0 then 1 else v } } else s

/-- The meaning of WDOGD_WRITE. -/
def execWdogdWrite (v : Word) (s : State) : Host.Outcome State Fault Refusal := .next (s.writeWdogd v)

/-- A queue changed. -/
def State.modQueue (s : State) (q : Nat) (f : Queue → Queue) : State :=
  if 16 ≤ q ∨ !s.up then s else { s with dev := { s.dev with queues := s.dev.queues.set q (f (s.dev.queue q)) } }

/-- A queue after a write of QCTL (R135) (log 59, DEDUCED). -/
def Queue.control (k : Queue) (v : Word) : Queue :=
  let v := v &&& 0x1FFF00F1
  let asid := v.toNat / 2 ^ 16
  if bit k.qctl 0 then
    if v ||| 1 ≠ k.qctl then k
    else if bit v 0 then { k with qhead := 0, qtail := 0, qdone := 0 }
    else { k with qctl := v }
  else if !bit v 0 then { k with qctl := v }
  else if 12 ≤ v.toNat / 16 % 16 then k
  else { k with qctl := v, qhead := 0, qtail := 0, qdone := 0, asid := some asid, n := if k.asid = some asid then k.n else 0 }

/-- The meaning of QCTL_WRITE. -/
def execQctlWrite (q : Nat) (v : Word) (s : State) : Host.Outcome State Fault Refusal :=
  .next (s.modQueue q fun k => k.control v)

/-- The meaning of QTAIL_WRITE (R136). -/
def execQtailWrite (q : Nat) (v : Word) (s : State) : Host.Outcome State Fault Refusal :=
  .next (s.modQueue q fun k => { k with qtail := v })

/-- A write to a register of queue `q` (R135). -/
def State.writeQueue (s : State) (q off : Nat) (v : Addr) : State :=
  s.modQueue q fun k =>
    match off with
    | 0x00 => if bit k.qctl 0 then k else { k with qbase := v }
    | 0x08 => k.control (loWord v)
    | 0x0C => { k with qtail := loWord v }
    | 0x18 => if bit k.qctl 0 then k else { k with qcmpl := v }
    | _ => k

/-- An aperture after a write to one of its registers (R372). -/
def Aperture.write (a : Aperture) (off : Nat) (v : Addr) : Aperture :=
  match off with
  | 0x00 =>
    let x := loWord v &&& 0x1FFFFF07
    { a with ctl := if bit x 2 then x &&& ~~~0x8000 else x }
  | 0x08 => { a with off := v &&& ~~~0xFFFF }
  | 0x10 => { a with len := v }
  | 0x18 => { a with win := v }
  | _ => a

/-- A write to the MSI-X table (R374): address, data, and the mask of a vector; unmasking sends what is pending. -/
def State.writeMsix (s : State) (v off : Nat) (x : Word) : State :=
  let (a, d) := s.dev.msix.getD v (0, 0)
  let put (p : Addr × Word) : State := { s with dev := { s.dev with msix := s.dev.msix.set v p } }
  match off with
  | 0 => put (pair x (hiWord a), d)
  | 4 => put (pair (loWord a) x, d)
  | 8 => put (a, x)
  | _ => ({ s with dev := { s.dev with msixMask := s.dev.msixMask.set v (bit x 0) } } : State).trySend v

/-- A write to IRQST or IRQEN (R374). Their bits 31:6 are reserved. -/
def State.writeIrq (s : State) (enable : Bool) (v : Word) : State :=
  if enable then
    let s := { s with dev := { s.dev with irqen := v &&& 0x3F } }
    (List.range 6).foldl (fun s k => s.trySend k) s
  else
    let pend := (List.range 8).map fun k => s.dev.msixPend.getD k false && !bit v k
    { s with dev := { s.dev with irqst := s.dev.irqst &&& ~~~v, irqSent := s.dev.irqSent &&& ~~~v, msixPend := pend } }

/-- A host write to a register of the PCIe space (R5, R135, R360, R372, R374, R382). A read-only register, and an address
with no register, ignores it; before the device is up, and in the recovery state, only the mailbox answers (R378). An access
is of the whole register at its own address, of CMKEY in pieces of 8 bytes (log 101, DESIGN CHOICE). -/
def State.writeRegister (s : State) (addr : Nat) (v : Addr) : State :=
  let d := s.dev
  if addr = 0x1000 then s.firmwareCommand (loWord v)
  else if addr = 0x1008 then { s with dev := { d with fwaddr := v } }
  else if addr = 0x1010 then { s with dev := { d with fwlen := loWord v } }
  else if !s.up then s
  else if addr = 0x100 then s.writeIrq false (loWord v)
  else if addr = 0x104 then s.writeIrq true (loWord v)
  else if 0x2000 ≤ addr ∧ addr < 0x2080 then s.writeMsix ((addr - 0x2000) / 16) (addr % 16) (loWord v)
  else if 0x10000 ≤ addr ∧ addr < 0x10400 then s.writeQueue ((addr - 0x10000) / 64) (addr % 64) v
  else if addr = 0x20000 then s.manageCommand (loWord v)
  else if addr = 0x20008 then { s with dev := { d with cmarg0 := v } }
  else if addr = 0x20010 then { s with dev := { d with cmarg1 := v } }
  else if addr = 0x20018 then { s with dev := { d with cmarg2 := v } }
  else if addr = 0x20024 then s.writeWdogd (loWord v)
  else if 0x20040 ≤ addr ∧ addr < 0x20080 ∧ addr % 8 = 0 then
    let lo := 8 * (addr - 0x20040)
    let x := (d.cmkey &&& ~~~((0xFFFFFFFFFFFFFFFF : BitVec 512) <<< lo)) ||| (v.setWidth 512 <<< lo)
    { s with dev := { d with cmkey := x } }
  else if 0x30000 ≤ addr ∧ addr < 0x30800 then
    let a := (addr - 0x30000) / 32
    match d.aps[a]? with
    | some p => { s with dev := { d with aps := d.aps.set a (p.write (addr % 32) v) } }
    | none => s
  else s

/-- The meaning of REGISTER_WRITE. -/
def execRegisterWrite (addr : Nat) (v : Addr) (s : State) : Host.Outcome State Fault Refusal := .next (s.writeRegister addr v)

/-- What a host read of a register of a queue gives (R135). -/
def Queue.read (k : Queue) (off : Nat) : Addr :=
  match off with
  | 0x00 => k.qbase
  | 0x08 => k.qctl.setWidth 64
  | 0x0C => k.qtail.setWidth 64
  | 0x10 => k.qhead.setWidth 64
  | 0x18 => k.qcmpl
  | 0x20 => k.qdone.setWidth 64
  | _ => 0

/-- What a host read of a register of an aperture gives (R372). -/
def Aperture.read (a : Aperture) (off : Nat) : Addr :=
  match off with
  | 0x00 => a.ctl.setWidth 64
  | 0x08 => a.off
  | 0x10 => a.len
  | 0x18 => a.win
  | _ => 0

/-- What a host read in a column's logs gives (R401): eight bytes of a ring, or a count. -/
def Column.readLog (c : Column) (off : Nat) : Addr :=
  let half (m : AMap (BitVec 128)) (o : Nat) : Addr := (mapGetD m (o / 16) 0 >>> (8 * (o % 16))).setWidth 64
  if off < 0x400 then half c.clog off
  else if off < 0x800 then half c.tlog (off - 0x400)
  else match off with
    | 0x800 => c.clcnt.setWidth 64
    | 0x804 => c.tlcnt.setWidth 64
    | 0x808 => c.spuse.setWidth 64
    | 0x80C => c.secnt.setWidth 64
    | _ => 0

/-- What a host read of a dword of the MSI-X table gives (R374). -/
def Dev.readMsix (d : Dev) (v off : Nat) : Addr :=
  let (a, x) := d.msix.getD v (0, 0)
  match off with
  | 0 => (loWord a).setWidth 64
  | 4 => (hiWord a).setWidth 64
  | 8 => x.setWidth 64
  | _ => if d.msixMask.getD v false then 1 else 0

/-- What a host read of a register of the PCIe space gives (R5, R6, R135, R360, R372, R374, R381, R382, R401). A write-only
register, a reserved field and an address with no register read zero; before the device is up, and in the recovery state, so
does everything but BOOTST and the mailbox (R378). An access is of the whole register (log 101, DESIGN CHOICE). -/
def State.register (s : State) (addr : Nat) : Addr :=
  let d := s.dev
  if addr = 0 then BitVec.ofNat 64 d.bootst
  else if addr = 0x1000 then d.fwcmd.setWidth 64
  else if addr = 0x1008 then d.fwaddr
  else if addr = 0x1010 then d.fwlen.setWidth 64
  else if addr = 0x1014 then d.fwstat.setWidth 64
  else if addr = 0x1018 then d.fwver.setWidth 64
  else if !s.up then 0
  else if addr = 0x100 then (d.irqst &&& 0x3F).setWidth 64
  else if addr = 0x104 then d.irqen.setWidth 64
  else if 0x2000 ≤ addr ∧ addr < 0x2080 then d.readMsix ((addr - 0x2000) / 16) (addr % 16)
  else if addr = 0x2800 then BitVec.ofNat 64 ((List.range 8).map fun k => if d.msixPend.getD k false then 2 ^ k else 0).sum
  else if 0x10000 ≤ addr ∧ addr < 0x10400 then (d.queue ((addr - 0x10000) / 64)).read (addr % 64)
  else if addr = 0x20000 then d.cmcmd.setWidth 64
  else if addr = 0x20008 then d.cmarg0
  else if addr = 0x20010 then d.cmarg1
  else if addr = 0x20018 then d.cmarg2
  else if addr = 0x20020 then (d.cmstat ||| (if d.busy.isSome then 1 else 0)).setWidth 64
  else if addr = 0x20024 then d.wdogd.setWidth 64
  else if 0x30000 ≤ addr ∧ addr < 0x30800 then ((d.aps[(addr - 0x30000) / 32]?).map fun a => a.read (addr % 32)).getD 0
  else if 0x40000 ≤ addr ∧ addr < 0xC0000 then (s.column ((addr - 0x40000) / 0x1000)).readLog (addr % 0x1000)
  else 0

/-- A host read of a register answered. -/
def State.readRegister (s : State) (addr : Nat) : State := s.send (.read (s.register addr) false)

/-! ### Apertures -/

/-- Bytes read or written by the host at some places (R372), at most eight of them: what it reads carries its poison (R394); a
dirty line of an L1 is written back first (R276) (log 61, DEDUCED). -/
def State.hostTransfer (s : State) (col : Nat) (ls : List Loc) (write : Bool) (data : List Byte) (put : State → State) : State :=
  let s := (lineLocs ls).foldl (fun s l => match l with | .mem c _ _ => s.flushLine c l | _ => s) s
  if write then
    let bs := (ls.zip data).map fun p => { loc := p.1, va := 0, byte := p.2, poison := false : ByteW }
    let t := (s.writeBytes col bs).releaseHost col
    put { t with hostCopy := t.hostCopy.filter fun kv => kv.1 / 2 ^ 47 != col }
  else
    let got := ls.map (s.readLoc col)
    (put s).send (.read (BitVec.ofNat 64 (leNat (got.map Prod.fst))) (got.any Prod.snd))

/-- The bytes of one host access: one to eight of them, written or, as many, read (log 61, DEDUCED). -/
def accessBytes (data : List Byte) : List Byte := if data = [] then [0] else data.take 8

/-- A host access through an aperture of a context (R372): refused or faulting, it changes nothing. -/
def State.aperture (s : State) (ap off : Nat) (write : Bool) (data : List Byte) : State :=
  let bs := accessBytes data
  match s.dev.aps[ap]? with
  | none => s.send .error
  | some a =>
    let l := a.ctl.toNat / 2 ^ 8 % 256
    let asid := a.ctl.toNat / 2 ^ 16 % 8192
    if !s.up || !bit a.ctl 0 || bit a.ctl 2 || (write && !bit a.ctl 1) || decide (a.len.toNat < off + bs.length)
        || !(s.ctx asid).live || l == 255 then s.send .error
    else
      let ptr := BitVec.ofNat 64 (l * 2 ^ 48 + (a.off.toNat + off) % 2 ^ 48)
      let col := ((s.ctx asid).pcol l).getD 128
      let t := s.walkBytes asid col ptr bs.length
      match t.enginePlaces col asid 0 ptr bs.length { read := !write, write := write } with
      | .error _ => s.send .error
      | .ok ls =>
        t.hostTransfer 128 ls write bs fun s =>
          (s.engineTouch col asid (ptr.toNat % 2 ^ 48) ls write).meter asid col 7 bs.length

/-- The meaning of HOST_APERTURE_ACCESS (log 61, DEDUCED). -/
def execHostApertureAccess (ap off : Nat) (write : Bool) (data : List Byte) (s : State) : Host.Outcome State Fault Refusal :=
  .next (s.aperture ap off write data)

/-- The sectors at a physical address of a column that are under another key slot than 0, written back and dropped (R368). -/
def State.dropForeign (s : State) (col addr : Nat) : State :=
  ((s.column col).sectors.filter fun x => x.addr == addr && !x.host && x.slot != 0).foldl (fun s x =>
    s.dropSector (((mapGet s.keys x.slot).map Prod.fst).getD 0) col x) s

/-- A host access through the table aperture whose window holds them (R372): DRAM under key slot 0. A sector of
another slot goes (R368); what the array gives is corrected, and may have to wait (R399, R411). -/
def State.tableAperture (s : State) (off : Nat) (write : Bool) (data : List Byte) : State :=
  let bs := accessBytes data
  match s.dev.aps.find? fun a => bit a.ctl 0 && bit a.ctl 2 && decide (a.win.toNat ≤ off)
      && decide (off + bs.length ≤ a.win.toNat + a.len.toNat) with
  | none => s.send .error
  | some a =>
    let col := a.ctl.toNat / 2 ^ 8 % 128
    let pa := a.off.toNat + (off - a.win.toNat)
    if !s.up || (write && !bit a.ctl 1) || decide (2 ^ 34 < pa + bs.length) then s.send .error
    else
      let ls := (List.range bs.length).map fun i => Loc.mem col (pa + i) 0
      let s := ((s.dropForeign col (pa / 1024)).dropForeign col ((pa + bs.length - 1) / 1024)).arrayRead ls
      s.hostTransfer 128 ls write bs fun s => if write then ls.foldl (fun s l => s.shootL1 col 0 l true) s else s

/-- The meaning of TABLE_APERTURE_ACCESS. -/
def execTableApertureAccess (off : Nat) (write : Bool) (data : List Byte) (s : State) : Host.Outcome State Fault Refusal :=
  .next (s.tableAperture off write data)

/-! ### Management messages -/

/-- The meaning of GET_CONTEXTS (R377): the live ASIDs, then the closed blocks not collected, each list with its length. -/
def execGetContexts (s : State) : Host.Outcome State Fault Refusal :=
  let live := (s.contexts.filter fun kv => kv.2.live).map Prod.fst
  let closed := (s.contexts.filter fun kv => kv.2.closed).map Prod.fst
  .next (s.send (.words (live.length :: live ++ (closed.length :: closed))))

/-- A sample of a context's ten meters on a column (R376): CYC, then the meters. -/
def State.sample (s : State) (asid col : Nat) : List Nat :=
  s.cycOf col :: (List.range 10).map fun n => (mapGetD (s.ctx asid).meters (16 * col + n) 0).toNat

/-- The meaning of READ_METERS (R377), answered with code 2 where the columns are out of range (log 102, DESIGN CHOICE). -/
def execReadMeters (asid col n : Nat) (s : State) : Host.Outcome State Fault Refusal :=
  .next (if n = 0 ∨ 16 < n ∨ 128 < col + n then s.send (.status 2)
    else s.send (.words ((List.range n).flatMap fun i => s.sample asid (col + i))))

/-- The meaning of COLLECT (R377): the closed block of all columns, which it frees. A block that is not closed is answered
with code 2 (log 102, DESIGN CHOICE). -/
def execCollect (asid : Nat) (s : State) : Host.Outcome State Fault Refusal :=
  .next (if !(s.ctx asid).closed then s.send (.status 2)
    else
      (s.modCtx asid fun c => { c with closed := false, meters := [] }).send
        (.words ((List.range 128).flatMap (s.sample asid))))

/-- The meaning of SET_BUDGET (R145, R377), answered with code 0, or 2 where there is no such tower (log 102, DESIGN CHOICE). -/
def execSetBudget (tower v : Nat) (s : State) : Host.Outcome State Fault Refusal :=
  .next (if 4 ≤ tower then s.send (.status 2)
    else ({ s with dev := { s.dev with octbud := s.dev.octbud.set tower v } } : State).send (.status 0))

/-- The meaning of SET_THROTTLE (R222, R377), answered in the same way (log 102, DESIGN CHOICE). -/
def execSetThrottle (tower v : Nat) (s : State) : Host.Outcome State Fault Refusal :=
  .next (if 4 ≤ tower ∨ 7 < v then s.send (.status 2)
    else ({ s with dev := { s.dev with mxthr := s.dev.mxthr.set tower v } } : State).send (.status 0))

/-- The meaning of READ_LOG (R377, R401): the counts of a column's logs, then entries of each; code 2 where there is no such
column (log 102, DESIGN CHOICE). The thermal halts that the device has logged (R383) follow (log 64, DEDUCED). -/
def execReadLog (col first n : Nat) (s : State) : Host.Outcome State Fault Refusal :=
  let c := s.column col
  let ring (m : AMap (BitVec 128)) : List Nat := (List.range (min n 64)).map fun i => (mapGetD m ((first + i) % 64) 0).toNat
  .next (if 128 ≤ col then s.send (.status 2)
    else s.send (.words ([c.clcnt.toNat, c.tlcnt.toNat] ++ ring c.clog ++ ring c.tlog ++ s.dev.thermLog)))

/-- The meaning of BOOT_STATUS (R377, R381). -/
def execBootStatus (s : State) : Host.Outcome State Fault Refusal := .next (s.send (.words [s.dev.bootst]))

/-! ### Attestation -/

/-- The measurement blocks of the device (R380), as one number. -/
def State.measurements (s : State) : Nat := s.dev.measured.flatten.foldl (fun a x => Config.digest 4 (2 ^ 512 * a + x)) 0

/-- Is the device attested to: once its identity is derived, and not in the recovery state (R378, R379)? -/
def State.attests (s : State) : Bool := s.dev.bootst != 0 && s.dev.bootst != 0xF

/-- A measurement block given by its index, 1 to 5 (R380). -/
def State.measurement (s : State) (n : Nat) : State :=
  match n with
  | 0 => s
  | k + 1 => match s.dev.measured[k]? with
    | some b => if s.attests then s.send (.words b) else s
    | none => s

/-- The meaning of SPDM_REQUEST (R380): one response with both signatures of the identity keys over the same transcript hash. -/
def execSpdmRequest (nonce : Nat) (s : State) : Host.Outcome State Fault Refusal :=
  .next (if !s.attests then s
    else
      let t := Config.digest 6 (2 ^ 512 * s.measurements + nonce)
      ({ s with dev := { s.dev with spdm := s.dev.spdm + 1 } } : State).send
        (.signed t (Config.digest 7 (2 ^ 512 * s.dev.identity + t)) (Config.digest 8 (2 ^ 512 * s.dev.identity + t))))

/-! ### Peers -/

/-- Is a transfer of a peer covered by a mutual pairing (R373)? -/
def State.paired (s : State) (i : Inbound) : Bool :=
  (s.ctx i.asid).live && s.mutual i.asid i.peer == some i.pasid

/-- A contributor's gang as a station of this device knows it. -/
def Inbound.gangNo (i : Inbound) (gang : Nat) : Nat := 2 ^ 64 * (i.peer + 1) + gang

/-- A merge command of a peer refused, or performed with code 0 (R343). -/
def State.answer (s : State) (i : Inbound) (m : MergeCmd) (code tile : Nat) : State :=
  s.send (.mergeEnd i.peer code (cidOf m.w0) tile 0)

/-- One tile that a peer's PUT brings (R333, R340, R343); none where the landing has no room for it now (R332). A tile that
comes without its bytes is one whose source faulted. -/
def State.stagePeer (s : State) (i : Inbound) (m : MergeCmd) (st : Nat) : Option State :=
  let c := cidOf m.w0
  let tile := putT0 m.w0 + m.done
  match s.openRound i.asid st (refId m.ref) with
  | none => some (s.answer i m 1 tile)
  | some (n, r) =>
    match r.refusal { m with gang := i.gangNo m.gang } true with
    | some (code, t) => some (s.answer i m code t)
    | none =>
      if i.data.length ≠ tileBytes r.bf16 then
        some (s.modRound n fun r => r.faultCont c (i.gangNo m.gang) i.rstrt)
      else if c ≠ r.head ∧ (mapGet (r.contributor c).tiles tile).isNone ∧ s.landingFree st < tileBytes r.bf16 then none
      else
        let s := s.modRound n fun r => r.modCont c fun k =>
          (k.bind (i.gangNo m.gang) i.rstrt).stage tile r.bf16 (i.data.map fun b => (b, i.psn)) (c == r.head)
        some (if m.done + 1 = putNt m.w0 then s.answer i m 0 0 else s)

/-- A tile or a marker of a peer at a station of this device (R340); none where it must come again. A marker that comes
poisoned is one whose command faulted in its queue (R409). -/
def State.mergePeer (s : State) (i : Inbound) (m : MergeCmd) : Option State :=
  match s.peerStation i.asid m.ref with
  | none => some (s.answer i m 1 0)
  | some st =>
    if !s.reachable st then some (s.answer i m 11 0)
    else match m.op with
      | .put => s.stagePeer i m st
      | .endGroup =>
        some (match s.openRound i.asid st (refId m.ref) with
          | none => s.answer i m 1 0
          | some (n, r) =>
            match r.refusal { m with gang := i.gangNo m.gang } false with
            | some (code, t) => s.answer i m code t
            | none => if i.psn then s.modRound n fun r => r.faultCont (cidOf m.w0) (i.gangNo m.gang) i.rstrt
              else (s.modRound n fun r => r.modCont (cidOf m.w0) fun k =>
                let k := k.bind (i.gangNo m.gang) i.rstrt
                { k with ended := true, scale := some (measureGroup r.bf16 r.t r.limit k) }).answer i m 0 0)
      | .drop =>
        some (match s.findRound i.asid st (refId m.ref) with
          | none => s.answer i m 1 0
          | some (n, r) => (s.dropRound n r).answer i m 0 0)
      | _ => some (s.send .error)

/-- The wait of a peer's warp at a station of this device (R347): answered at once, or kept with the round. -/
def State.waitPeer (s : State) (i : Inbound) (ref : Addr) (warp gang : Nat) : State :=
  let tell (fate : Nat) : State := s.send (.mergeFate i.peer warp fate)
  match s.peerStation i.asid ref with
  | none => tell 7
  | some st =>
    if !s.reachable st then tell 7
    else match s.findRound i.asid st (refId ref) with
      | none => tell 7
      | some (n, r) =>
        if r.cont.any fun c => c.2.held && (c.2.gang.map Prod.fst) == some (i.gangNo gang) then tell 8
        else if r.state = .done then tell (2 + r.scope)
        else s.modRound n fun r => { r with waiters := r.waiters ++ [(i.peer, warp)] }

/-- The word a station of this device gives to a peer's MRG.STAT (R348). -/
def State.statPeer (s : State) (i : Inbound) (ref : Addr) (sub : Nat) : State :=
  s.send (.mergeWord i.peer (match s.peerStation i.asid ref with
    | some st => if s.reachable st then s.mergeStat i.asid st (refId ref) sub else 0
    | none => 0))

/-- A read or a write of a peer performed (R323). -/
def State.accessPeer (s : State) (i : Inbound) : State :=
  let col := ((s.ctx i.asid).pcol (i.ptr.toNat / 2 ^ 48 % 256)).getD 128
  let s := s.walkBytes i.asid col i.ptr i.data.length
  if bit i.ptr 63 then s.send .error
  else match s.enginePlaces col i.asid 0 i.ptr i.data.length { read := !i.write, write := i.write } with
    | .error _ => s.send .error
    | .ok ls =>
      let off := i.ptr.toNat % 2 ^ 48
      if i.write then s.engineWrite col i.asid off ls (i.data.map fun b => (b, i.psn))
      else
        let got := s.engineRead col ls
        (s.engineTouch col i.asid off ls false).send (.flits (got.map fun b => b.1.toNat) (got.any Prod.snd))

/-- A transfer of a peer performed, or refused (R323, R337, R340, R373). -/
def State.receive (s : State) (n : Nat) : State :=
  match mapGet s.inbound n with
  | none => s
  | some i =>
    let t := { s with inbound := mapErase s.inbound n }
    if !t.paired i then t.send .error
    else match i.ask with
      | .none => t.accessPeer i
      | .cmd m => (t.mergePeer i m).getD s
      | .notice gang retired =>
        { t with rounds := mapAll t.rounds fun _ r =>
            if r.asid = i.asid then { r with cont := mapAll r.cont fun _ k => k.noticed (i.gangNo gang) retired } else r }
      | .wait ref warp gang => t.waitPeer i ref warp gang
      | .stat ref sub => t.statPeer i ref sub

/-- The meaning of WATIK_RECEIVE. -/
def execWatikReceive (n : Nat) (s : State) : Host.Outcome State Fault Refusal := .next (s.receive n)

end Sys2Proof.Machine
end

