-- ==== Sys2Proof/Machine/Time.lean ====
section
/-! DEFINITION. Time (R18, R78, R375). -/

namespace Sys2Proof.Machine

open Sys2Proof

/-- The ENERGY meter of a context at a column after `n` clocks of one kind of work (R375)
(log 15, DESIGN CHOICE). -/
def State.energy (s : State) (kind asid col n : Nat) : State :=
  s.meter asid col 9 (Config.energy s.dev.weights kind col asid (s.cycOf col) n)

/-- SLOTCLK of a context counted in the window of its column (R375). -/
def State.countSlot (s : State) (asid col n : Nat) : State :=
  s.modColumn col fun c => { c with slotWin := mapSet c.slotWin asid (mapGetD c.slotWin asid 0 + n) }

/-- The end of a column's windows of 2^16 clk within the next `n` clocks (R375): its idle draw is shared by SLOTCLK, and what no
context takes is attributed to none (log 15, DESIGN CHOICE). -/
def State.shareIdle (s : State) (col n : Nat) : State :=
  let now := s.cycOf col
  if now / 2 ^ 16 = (now + n) / 2 ^ 16 then s
  else
    let win := (s.column col).slotWin
    let total := (win.map Prod.snd).sum
    let idle := Config.energy s.dev.weights 4 col 0 now (2 ^ 16)
    let share (k : Nat) : Nat := idle * k / total
    let s := win.foldl (fun s kv => s.meter kv.1 col 9 (share kv.2)) s
    s.modColumn col fun c =>
      { c with slotWin := [], spare := c.spare + BitVec.ofNat 64 (idle - (win.map fun kv => share kv.2).sum) }

/-- The blocks with a command in an engine, one for each context (R375). -/
def State.engineBlocks (s : State) (k : Core) : List (Nat × Block) :=
  k.engine.foldl (fun acc m =>
    match s.block m.block with
    | some b =>
      let asid := (((s.gang b.gang).bind fun g => s.grid g.grid).map Grid.asid).getD 0
      if acc.any fun e => e.1 == asid then acc else acc ++ [(asid, b)]
    | none => acc) []

/-- A column's meters after `n` clocks (R375): a slot held, and an engine with work, each count for their contexts; these,
and copies and merge commands on their way, draw energy. -/
def State.countClocks (s : State) (n : Nat) : State :=
  let s := s.cores.foldl (fun s kv =>
    let col := kv.1 / 4
    let s := kv.2.slots.foldl (fun s k => match k.holder.bind s.warp with
      | some x => ((s.meter (s.asidOf x) col 0 n).countSlot (s.asidOf x) col n).energy 0 (s.asidOf x) col n
      | none => s) s
    (s.engineBlocks kv.2).foldl (fun s e => (s.meter e.1 col 1 (n * e.2.oct)).energy 1 e.1 col n) s) s
  let s := s.copies.foldl (fun s kv => if kv.2.stage = 2 then s else s.energy 2 kv.2.asid kv.2.col n) s
  s.merges.foldl (fun s kv => s.energy 3 kv.2.asid kv.2.col n) s

/-- On how many of the next `n` clocks is a warp ready (R78), where nothing but time passes: from now, or from the clock that
its wait names. -/
def State.readyClocks (s : State) (n w : Nat) (x : Warp) : Nat :=
  let now := s.cycOf x.col
  let named : Option Nat := match x.wait with
    | .sleep t => some t
    | .cwait _ h => (s.copyOf x h).bind fun c => c.2.promise
    | _ => none
  let ready (k : Nat) : Bool := ({ s with cyc := s.cyc.map fun c => c + k } : State).isReady w x
  match (0 :: (named.map fun t => t - now).toList).find? ready with
  | some k => n - k
  | none => 0

/-- The monopoly counts after `n` clocks (R78): those of holders beside whom another warp of the slot is ready. -/
def State.countMono (s : State) (n : Nat) : State :=
  s.cores.foldl (fun s kv =>
    let col := kv.1 / 4
    let core := kv.1 % 4
    s.modCore col core fun c =>
      { c with slots := (List.range 4).map fun k =>
          let q := c.slots.getD k Slot.idle
          let others := (s.slotWarps col core k).filter fun w => some w.1 != q.holder
          if q.holder.isNone then q
          else { q with mono := q.mono + others.foldl (fun m w => max m (s.readyClocks n w.1 w.2)) 0 } }) s

/-- `n` clocks pass (R18): every column's CYC advances, what counts clocks counts them, dirty host bytes that have stood
2^16 clk are written back (R252), and a context-management command that waited goes on (R362)
(log 2, DESIGN CHOICE) (log 72, DEDUCED). -/
def State.tick (s : State) (n : Nat) : State :=
  let s := (s.countClocks n).countMono n
  let s := s.columns.foldl (fun s kv => s.shareIdle kv.1 n) s
  let s : State := { s with cyc := s.cyc.map fun c => c + n }
  s.writeBackDue.endBusy

end Sys2Proof.Machine
end

