-- ==== Sys2Proof/Machine/Dispatch.lean ====
section
/-! DEFINITION. The dispatcher: one arm for each constructor of Instr, each one call of its meaning. -/

namespace Sys2Proof.Machine

/-- What an instruction or an event does to the machine. -/
def exec (i : Instr) (s : State) : Host.Outcome State Fault Refusal :=
  match i with
  | .nopShort f => Sys2Proof.Machine.execNopShort f s
  | .nop f => Sys2Proof.Machine.execNop f s
  | .ifBlock f => Sys2Proof.Machine.execIf f s
  | .elseBlock f => Sys2Proof.Machine.execElse f s
  | .endifShort f => Sys2Proof.Machine.execEndifShort f s
  | .endif f => Sys2Proof.Machine.execEndif f s
  | .loopShort f => Sys2Proof.Machine.execLoopShort f s
  | .loop f => Sys2Proof.Machine.execLoop f s
  | .endloop f => Sys2Proof.Machine.execEndloop f s
  | .brk f => Sys2Proof.Machine.execBrk f s
  | .cont f => Sys2Proof.Machine.execCont f s
  | .exitShort f => Sys2Proof.Machine.execExitShort f s
  | .exit f => Sys2Proof.Machine.execExit f s
  | .jmp f => Sys2Proof.Machine.execJmp f s
  | .call f => Sys2Proof.Machine.execCall f s
  | .ret f => Sys2Proof.Machine.execRet f s
  | .yieldShort f => Sys2Proof.Machine.execYieldShort f s
  | .yield f => Sys2Proof.Machine.execYield f s
  | .sleep f => Sys2Proof.Machine.execSleep f s
  | .iaddShort f => Sys2Proof.Machine.execIaddShort f s
  | .iadd f => Sys2Proof.Machine.execIadd f s
  | .isubShort f => Sys2Proof.Machine.execIsubShort f s
  | .isub f => Sys2Proof.Machine.execIsub f s
  | .imulShort f => Sys2Proof.Machine.execImulShort f s
  | .imul f => Sys2Proof.Machine.execImul f s
  | .imulhShort f => Sys2Proof.Machine.execImulhShort f s
  | .imulh f => Sys2Proof.Machine.execImulh f s
  | .imad f => Sys2Proof.Machine.execImad f s
  | .iminShort f => Sys2Proof.Machine.execIminShort f s
  | .imin f => Sys2Proof.Machine.execImin f s
  | .imaxShort f => Sys2Proof.Machine.execImaxShort f s
  | .imax f => Sys2Proof.Machine.execImax f s
  | .iabsShort f => Sys2Proof.Machine.execIabsShort f s
  | .iabs f => Sys2Proof.Machine.execIabs f s
  | .inegShort f => Sys2Proof.Machine.execInegShort f s
  | .ineg f => Sys2Proof.Machine.execIneg f s
  | .lea f => Sys2Proof.Machine.execLea f s
  | .isad f => Sys2Proof.Machine.execIsad f s
  | .dp4 f => Sys2Proof.Machine.execDp4 f s
  | .dp2 f => Sys2Proof.Machine.execDp2 f s
  | .icmp f => Sys2Proof.Machine.execIcmp f s
  | .iaddx f => Sys2Proof.Machine.execIaddx f s
  | .andShort f => Sys2Proof.Machine.execAndShort f s
  | .and f => Sys2Proof.Machine.execAnd f s
  | .orShort f => Sys2Proof.Machine.execOrShort f s
  | .or f => Sys2Proof.Machine.execOr f s
  | .xorShort f => Sys2Proof.Machine.execXorShort f s
  | .xor f => Sys2Proof.Machine.execXor f s
  | .andnShort f => Sys2Proof.Machine.execAndnShort f s
  | .andn f => Sys2Proof.Machine.execAndn f s
  | .notShort f => Sys2Proof.Machine.execNotShort f s
  | .not f => Sys2Proof.Machine.execNot f s
  | .shlShort f => Sys2Proof.Machine.execShlShort f s
  | .shl f => Sys2Proof.Machine.execShl f s
  | .shrShort f => Sys2Proof.Machine.execShrShort f s
  | .shr f => Sys2Proof.Machine.execShr f s
  | .sarShort f => Sys2Proof.Machine.execSarShort f s
  | .sar f => Sys2Proof.Machine.execSar f s
  | .rotlShort f => Sys2Proof.Machine.execRotlShort f s
  | .rotl f => Sys2Proof.Machine.execRotl f s
  | .bfe f => Sys2Proof.Machine.execBfe f s
  | .bfi f => Sys2Proof.Machine.execBfi f s
  | .popcShort f => Sys2Proof.Machine.execPopcShort f s
  | .popc f => Sys2Proof.Machine.execPopc f s
  | .clzShort f => Sys2Proof.Machine.execClzShort f s
  | .clz f => Sys2Proof.Machine.execClz f s
  | .brevShort f => Sys2Proof.Machine.execBrevShort f s
  | .brev f => Sys2Proof.Machine.execBrev f s
  | .sel f => Sys2Proof.Machine.execSel f s
  | .movShort f => Sys2Proof.Machine.execMovShort f s
  | .mov f => Sys2Proof.Machine.execMov f s
  | .plop f => Sys2Proof.Machine.execPlop f s
  | .pmov f => Sys2Proof.Machine.execPmov f s
  | .vote f => Sys2Proof.Machine.execVote f s
  | .sread f => Sys2Proof.Machine.execSread f s
  | .swrite f => Sys2Proof.Machine.execSwrite f s
  | .packShort f => Sys2Proof.Machine.execPackShort f s
  | .pack f => Sys2Proof.Machine.execPack f s
  | .unpkShort f => Sys2Proof.Machine.execUnpkShort f s
  | .unpk f => Sys2Proof.Machine.execUnpk f s
  | .prmt f => Sys2Proof.Machine.execPrmt f s
  | .faddShort f => Sys2Proof.Machine.execFaddShort f s
  | .fadd f => Sys2Proof.Machine.execFadd f s
  | .fsubShort f => Sys2Proof.Machine.execFsubShort f s
  | .fsub f => Sys2Proof.Machine.execFsub f s
  | .fmulShort f => Sys2Proof.Machine.execFmulShort f s
  | .fmul f => Sys2Proof.Machine.execFmul f s
  | .ffma f => Sys2Proof.Machine.execFfma f s
  | .fminShort f => Sys2Proof.Machine.execFminShort f s
  | .fmin f => Sys2Proof.Machine.execFmin f s
  | .fmaxShort f => Sys2Proof.Machine.execFmaxShort f s
  | .fmax f => Sys2Proof.Machine.execFmax f s
  | .fabsShort f => Sys2Proof.Machine.execFabsShort f s
  | .fabs f => Sys2Proof.Machine.execFabs f s
  | .fnegShort f => Sys2Proof.Machine.execFnegShort f s
  | .fneg f => Sys2Proof.Machine.execFneg f s
  | .fcmp f => Sys2Proof.Machine.execFcmp f s
  | .fclass f => Sys2Proof.Machine.execFclass f s
  | .frndShort f => Sys2Proof.Machine.execFrndShort f s
  | .frnd f => Sys2Proof.Machine.execFrnd f s
  | .fdivShort f => Sys2Proof.Machine.execFdivShort f s
  | .fdiv f => Sys2Proof.Machine.execFdiv f s
  | .fsqrtShort f => Sys2Proof.Machine.execFsqrtShort f s
  | .fsqrt f => Sys2Proof.Machine.execFsqrt f s
  | .fsclShort f => Sys2Proof.Machine.execFsclShort f s
  | .fscl f => Sys2Proof.Machine.execFscl f s
  | .fdot2 f => Sys2Proof.Machine.execFdot2 f s
  | .cvt f => Sys2Proof.Machine.execCvt f s
  | .cvts f => Sys2Proof.Machine.execCvts f s
  | .qpk f => Sys2Proof.Machine.execQpk f s
  | .qupk f => Sys2Proof.Machine.execQupk f s
  | .rcpShort f => Sys2Proof.Machine.execRcpShort f s
  | .rcp f => Sys2Proof.Machine.execRcp f s
  | .rsqShort f => Sys2Proof.Machine.execRsqShort f s
  | .rsq f => Sys2Proof.Machine.execRsq f s
  | .sqrtShort f => Sys2Proof.Machine.execSqrtShort f s
  | .sqrt f => Sys2Proof.Machine.execSqrt f s
  | .exp2Short f => Sys2Proof.Machine.execExp2Short f s
  | .exp2 f => Sys2Proof.Machine.execExp2 f s
  | .log2Short f => Sys2Proof.Machine.execLog2Short f s
  | .log2 f => Sys2Proof.Machine.execLog2 f s
  | .sinShort f => Sys2Proof.Machine.execSinShort f s
  | .sin f => Sys2Proof.Machine.execSin f s
  | .cosShort f => Sys2Proof.Machine.execCosShort f s
  | .cos f => Sys2Proof.Machine.execCos f s
  | .tanhShort f => Sys2Proof.Machine.execTanhShort f s
  | .tanh f => Sys2Proof.Machine.execTanh f s
  | .sigmShort f => Sys2Proof.Machine.execSigmShort f s
  | .sigm f => Sys2Proof.Machine.execSigm f s
  | .erfShort f => Sys2Proof.Machine.execErfShort f s
  | .erf f => Sys2Proof.Machine.execErf f s
  | .geluShort f => Sys2Proof.Machine.execGeluShort f s
  | .gelu f => Sys2Proof.Machine.execGelu f s
  | .mupd f => Sys2Proof.Machine.execMupd f s
  | .lsck f => Sys2Proof.Machine.execLsck f s
  | .lsupd f => Sys2Proof.Machine.execLsupd f s
  | .gnrm f => Sys2Proof.Machine.execGnrm f s
  | .ld f => Sys2Proof.Machine.execLd f s
  | .st f => Sys2Proof.Machine.execSt f s
  | .ldlShort f => Sys2Proof.Machine.execLdlShort f s
  | .ldl f => Sys2Proof.Machine.execLdl f s
  | .stlShort f => Sys2Proof.Machine.execStlShort f s
  | .stl f => Sys2Proof.Machine.execStl f s
  | .ldkShort f => Sys2Proof.Machine.execLdkShort f s
  | .ldk f => Sys2Proof.Machine.execLdk f s
  | .pref f => Sys2Proof.Machine.execPref f s
  | .cctl f => Sys2Proof.Machine.execCctl f s
  | .phase f => Sys2Proof.Machine.execPhase f s
  | .fence f => Sys2Proof.Machine.execFence f s
  | .cpart f => Sys2Proof.Machine.execCpart f s
  | .atom f => Sys2Proof.Machine.execAtom f s
  | .acas f => Sys2Proof.Machine.execAcas f s
  | .afadd f => Sys2Proof.Machine.execAfadd f s
  | .red f => Sys2Proof.Machine.execRed f s
  | .patom f => Sys2Proof.Machine.execPatom f s
  | .xch f => Sys2Proof.Machine.execXch f s
  | .xred f => Sys2Proof.Machine.execXred f s
  | .pld f => Sys2Proof.Machine.execPld f s
  | .pst f => Sys2Proof.Machine.execPst f s
  | .ptrc f => Sys2Proof.Machine.execPtrc f s
  | .shfl f => Sys2Proof.Machine.execShfl f s
  | .bset f => Sys2Proof.Machine.execBset f s
  | .bperm f => Sys2Proof.Machine.execBperm f s
  | .redx f => Sys2Proof.Machine.execRedx f s
  | .cpy f => Sys2Proof.Machine.execCpy f s
  | .cpy2 f => Sys2Proof.Machine.execCpy2 f s
  | .cpyz f => Sys2Proof.Machine.execCpyz f s
  | .cwait f => Sys2Proof.Machine.execCwait f s
  | .bzero f => Sys2Proof.Machine.execBzero f s
  | .bcopy f => Sys2Proof.Machine.execBcopy f s
  | .bcmp f => Sys2Proof.Machine.execBcmp f s
  | .bfence f => Sys2Proof.Machine.execBfence f s
  | .cpyx f => Sys2Proof.Machine.execCpyx f s
  | .mma f => Sys2Proof.Machine.execMma f s
  | .mmat f => Sys2Proof.Machine.execMmat f s
  | .mzero f => Sys2Proof.Machine.execMzero f s
  | .mldz f => Sys2Proof.Machine.execMldz f s
  | .mst f => Sys2Proof.Machine.execMst f s
  | .mfence f => Sys2Proof.Machine.execMfence f s
  | .mwait f => Sys2Proof.Machine.execMwait f s
  | .mstat f => Sys2Proof.Machine.execMstat f s
  | .mrgOpen f => Sys2Proof.Machine.execMrgOpen f s
  | .mrgPut f => Sys2Proof.Machine.execMrgPut f s
  | .mrgEnd f => Sys2Proof.Machine.execMrgEnd f s
  | .mrgWait f => Sys2Proof.Machine.execMrgWait f s
  | .mrgStat f => Sys2Proof.Machine.execMrgStat f s
  | .mrgRank f => Sys2Proof.Machine.execMrgRank f s
  | .mrgDrop f => Sys2Proof.Machine.execMrgDrop f s
  | .bar f => Sys2Proof.Machine.execBar f s
  | .gbar f => Sys2Proof.Machine.execGbar f s
  | .arrv f => Sys2Proof.Machine.execArrv f s
  | .waitb f => Sys2Proof.Machine.execWaitb f s
  | .launch f => Sys2Proof.Machine.execLaunch f s
  | .tape f => Sys2Proof.Machine.execTape f s
  | .gwait f => Sys2Proof.Machine.execGwait f s
  | .trap f => Sys2Proof.Machine.execTrap f s
  | .tret f => Sys2Proof.Machine.execTret f s
  | .chkerr f => Sys2Proof.Machine.execChkerr f s
  | .rdctr f => Sys2Proof.Machine.execRdctr f s
  | .bkptShort f => Sys2Proof.Machine.execBkptShort f s
  | .bkpt f => Sys2Proof.Machine.execBkpt f s
  | .sysr f => Sys2Proof.Machine.execSysr f s
  | .sysw f => Sys2Proof.Machine.execSysw f s
  | .unassignedOpcode w => Sys2Proof.Machine.execUnassignedOpcode w s
  | .runCommit w => Sys2Proof.Machine.execRunCommit w s
  | .longLatencyArrival w n => Sys2Proof.Machine.execLongLatencyArrival w n s
  | .watchdogLimit col core slot => Sys2Proof.Machine.execWatchdogLimit col core slot s
  | .sleepEnd w => Sys2Proof.Machine.execSleepEnd w s
  | .exchangeComplete w => Sys2Proof.Machine.execExchangeComplete w s
  | .exchangeTimeout w => Sys2Proof.Machine.execExchangeTimeout w s
  | .barrierObjectArrive n => Sys2Proof.Machine.execBarrierObjectArrive n s
  | .copyPromiseExpire w => Sys2Proof.Machine.execCopyPromiseExpire w s
  | .copyPerform col => Sys2Proof.Machine.execCopyPerform col s
  | .bankCommandPerform col n => Sys2Proof.Machine.execBankCommandPerform col n s
  | .mmaPerform col core => Sys2Proof.Machine.execMmaPerform col core s
  | .mzeroPerform col core => Sys2Proof.Machine.execMzeroPerform col core s
  | .mldzPerform col core => Sys2Proof.Machine.execMldzPerform col core s
  | .mstPerform col core => Sys2Proof.Machine.execMstPerform col core s
  | .roundOpen n => Sys2Proof.Machine.execRoundOpen n s
  | .stageTiles n => Sys2Proof.Machine.execStageTiles n s
  | .measureContributor n => Sys2Proof.Machine.execMeasureContributor n s
  | .contributorCommit col asid round => Sys2Proof.Machine.execContributorCommit col asid round s
  | .roundDrop n => Sys2Proof.Machine.execRoundDrop n s
  | .mergeTileSend col => Sys2Proof.Machine.execMergeTileSend col s
  | .mergeGangNotice col gang => Sys2Proof.Machine.execMergeGangNotice col gang s
  | .partitionChange col => Sys2Proof.Machine.execPartitionChange col s
  | .hostRecordAccept q => Sys2Proof.Machine.execHostRecordAccept q s
  | .blockRetire b => Sys2Proof.Machine.execBlockRetire b s
  | .preemptionRequest gang => Sys2Proof.Machine.execPreemptionRequest gang s
  | .gangResume gang => Sys2Proof.Machine.execGangResume gang s
  | .swapOut w => Sys2Proof.Machine.execSwapOut w s
  | .swapIn w => Sys2Proof.Machine.execSwapIn w s
  | .gangRelaunch gang => Sys2Proof.Machine.execGangRelaunch gang s
  | .columnFailure col kind => Sys2Proof.Machine.execColumnFailure col kind s
  | .hostWritebackTimeout col => Sys2Proof.Machine.execHostWritebackTimeout col s
  | .bootStageEnd ok => Sys2Proof.Machine.execBootStageEnd ok s
  | .qctlWrite q v => Sys2Proof.Machine.execQctlWrite q v s
  | .qtailWrite q v => Sys2Proof.Machine.execQtailWrite q v s
  | .wdogdWrite v => Sys2Proof.Machine.execWdogdWrite v s
  | .registerWrite addr v => Sys2Proof.Machine.execRegisterWrite addr v s
  | .stage image => Sys2Proof.Machine.execStage image s
  | .hostApertureAccess ap off write data => Sys2Proof.Machine.execHostApertureAccess ap off write data s
  | .tableApertureAccess off write data => Sys2Proof.Machine.execTableApertureAccess off write data s
  | .watikReceive n => Sys2Proof.Machine.execWatikReceive n s
  | .rebalanceWindowEnd col => Sys2Proof.Machine.execRebalanceWindowEnd col s
  | .patrolScrub col line => Sys2Proof.Machine.execPatrolScrub col line s
  | .transferRetry col => Sys2Proof.Machine.execTransferRetry col s
  | .laneTest col lane => Sys2Proof.Machine.execLaneTest col lane s
  | .retraining col bus => Sys2Proof.Machine.execRetraining col bus s
  | .flowEscape flow => Sys2Proof.Machine.execFlowEscape flow s
  | .throttleRaise tower draw => Sys2Proof.Machine.execThrottleRaise tower draw s
  | .throttleLower tower draw => Sys2Proof.Machine.execThrottleLower tower draw s
  | .thermalThrottle tower => Sys2Proof.Machine.execThermalThrottle tower s
  | .create asid => Sys2Proof.Machine.execCreate asid s
  | .destroy asid => Sys2Proof.Machine.execDestroy asid s
  | .mapcol asid => Sys2Proof.Machine.execMapcol asid s
  | .setroot asid => Sys2Proof.Machine.execSetroot asid s
  | .inval asid => Sys2Proof.Machine.execInval asid s
  | .keyload asid => Sys2Proof.Machine.execKeyload asid s
  | .setsched asid => Sys2Proof.Machine.execSetsched asid s
  | .pair asid => Sys2Proof.Machine.execPair asid s
  | .savearea asid => Sys2Proof.Machine.execSavearea asid s
  | .privarea asid => Sys2Proof.Machine.execPrivarea asid s
  | .readMeters asid col n => Sys2Proof.Machine.execReadMeters asid col n s
  | .collect asid => Sys2Proof.Machine.execCollect asid s
  | .setBudget tower v => Sys2Proof.Machine.execSetBudget tower v s
  | .setThrottle tower v => Sys2Proof.Machine.execSetThrottle tower v s
  | .readLog col first n => Sys2Proof.Machine.execReadLog col first n s
  | .spdmRequest nonce => Sys2Proof.Machine.execSpdmRequest nonce s
  | .linkLevelRetry link => Sys2Proof.Machine.execLinkLevelRetry link s
  | .watikLinkTraining port => Sys2Proof.Machine.execWatikLinkTraining port s
  | .cxlCacheSnoop line invalidate => Sys2Proof.Machine.execCxlCacheSnoop line invalidate s
  | .commandGridAccept => Sys2Proof.Machine.execCommandGridAccept s
  | .gangPlace => Sys2Proof.Machine.execGangPlace s
  | .thermalHalt => Sys2Proof.Machine.execThermalHalt s
  | .coldReset => Sys2Proof.Machine.execColdReset s
  | .verify => Sys2Proof.Machine.execVerify s
  | .commit => Sys2Proof.Machine.execCommit s
  | .reset => Sys2Proof.Machine.execReset s
  | .discard => Sys2Proof.Machine.execDiscard s
  | .getContexts => Sys2Proof.Machine.execGetContexts s
  | .bootStatus => Sys2Proof.Machine.execBootStatus s
  | .powerLoss => Sys2Proof.Machine.execPowerLoss s

end Sys2Proof.Machine
end

