-- ==== Sys2Proof/Machine/Upset.lean ====
section
/-! DEFINITION. What the world does to the machine (log 8, DESIGN CHOICE): errors of storage that a code corrects or that stand
uncorrected (R399, R400, R409), stores of the host and of peers, and what peers send. Each names what it strikes; one that
strikes nothing changes nothing. -/

namespace Sys2Proof.Machine

open Sys2Proof

/-! ### Registers -/

/-- Lanes with one more poisoned (R394). -/
def Lanes.strike (l : Lanes) (t : Nat) : Lanes := { l with poison := l.poison ||| BitVec.ofNat 64 (2 ^ (t % 64)) }

/-- A warp with an error in its registers, as they stand and as its run in flight has them. -/
def State.strikeRegs (s : State) (w : Nat) (f : Regs → Regs) : State :=
  s.modWarp w fun x => { x with regs := f x.regs, run := x.run.map fun r => { r with work := f r.work } }

/-- An error in one lane of a V register, of a C entry, or in an S register, in the SRAM or in a save area (R409). -/
def Regs.strikeV (r : Regs) (n t : Nat) : Regs :=
  { r with v := mapAll r.v fun k v => if k = n then { v with lanes := v.lanes.strike t } else v }

def Regs.strikeC (r : Regs) (k t : Nat) : Regs :=
  match r.c[k]? with
  | some e => { r with c := r.c.set k { e with lanes := e.lanes.strike t } }
  | none => r

def Regs.strikeS (r : Regs) (n : Nat) : Regs :=
  match r.s[n]? with
  | some v => { r with s := r.s.set n { v with poison := true } }
  | none => r

/-- A parity error that a run in flight meets (R409): the run is discarded and executed again, with no trap and no bit of
CIR. -/
def State.strikeRun (s : State) (w : Nat) : State :=
  match s.warp w with
  | some _ => s.discardRun w
  | none => s

/-- The second evaluation of the nth result of a run in protected mode made to differ (R90). -/
def State.strikeResult (s : State) (w n : Nat) : State :=
  s.modWarp w fun x => { x with run := x.run.map fun r =>
    { r with cmp := r.cmp.zipIdx.map fun e => if e.2 = n then (e.1.1, e.1.2 + 1) else e.1 } }

/-! ### Caches and memories -/

/-- An error in the nth line of an L1 (R409): a clean line goes and is fetched again; a dirty one is poisoned. -/
def State.strikeL1 (s : State) (col core n : Nat) : State :=
  match (s.core col core).l1[n]? with
  | none => s
  | some e =>
    if e.dirty then
      ((s.markLine col e.ploc true).markLine col (e.ploc.plus 32) true).modCore col core fun c =>
        { c with l1 := c.l1.set n { e with psn := true } }
    else s.modCore col core fun c => { c with l1 := c.l1.eraseIdx n }

/-- A row line of a column cache poisoned (R409): what the levels below the L1s hold of it. -/
def State.strikeBelow (s : State) (col pa slot : Nat) : State :=
  let k := memKey col pa / 32
  match mapGet s.below (k / 2) with
  | some (bs, tags, psn) => { s with below := mapSet s.below (k / 2) (bs, tags, psn.set (k % 2) true) }
  | none => s.markLine col (.mem col pa slot) true

/-- An error in a row line of the nth sector of a column cache (R409): a clean sector, or a clean host line of one, goes and is
fetched again; dirty bytes are poisoned. -/
def State.strikeSector (s : State) (col n line : Nat) : State :=
  match (s.column col).sectors[n]? with
  | none => s
  | some x =>
    let pa := 1024 * x.addr + 32 * (line % 32)
    let s := if x.dirty then s else s.modColumn col fun c => { c with sectors := c.sectors.eraseIdx n }
    match x.host, mapGet s.hostCopy (hostKey col pa) with
    | true, some h =>
      if h.dirty = 0 then { s with hostCopy := mapErase s.hostCopy (hostKey col pa) }
      else if h.dirty / 2 ^ (pa % 64) % 2 ^ 32 = 0 then s
      else s.markLine col (.host pa) true
    | true, none => s
    | false, _ => if x.dirty then s.strikeBelow col pa x.slot else s

/-- An error in the array (R399): in one symbol, or in more of a line. A second error on one line leaves more than one
symbol bad. -/
def State.strikeArray (s : State) (col line sym pat : Nat) : State :=
  let k := memKey col (32 * line) / 32
  if 128 ≤ col ∨ 2 ^ 29 ≤ line ∨ (sym ≠ 255 ∧ (32 ≤ sym ∨ pat = 0 ∨ 256 ≤ pat)) then s
  else { s with errs := mapSet s.errs k (if (mapGet s.errs k).isSome ∨ sym = 255 then (255, 0) else (sym, pat)) }

/-- The first attempt of a transfer of a line fails at a beat (R400); its pseudo-channel is that of R410, whose bus no lane
test holds (R411). A line of a sector that the cache holds is not read, and has not been written back; and one that nothing
has stored is not written (log 9, DEDUCED). -/
def State.failTransfer (s : State) (col line beat dir : Nat) : State :=
  if 128 ≤ col ∨ 2 ^ 29 ≤ line ∨ 4 ≤ beat ∨ 2 ≤ dir ∨ s.holdsSector col (32 * line) ∨ (s.column col).awaits line
    ∨ (dir = 1 ∧ (mapGet s.keyTag (memKey col (32 * line) / 32)).isNone) then s
  else (s.modColumn col fun c => { c with retry := c.retry ++ [(lineChannel line, line, 1, 2 * beat + dir)] }).upkeep col 5

/-! ### Engines and the scheduler -/

/-- The address of a fault that no access made: the specification gives none, and it is a free value. -/
def State.faultAddr (s : State) : Addr := pair (s.freeW 0) (s.freeW 1)

/-- The matrix command that an engine performs or is about to, treated as faulted at its first unit, or at the first that it
has not performed (R225, R409) (log 104, DESIGN CHOICE). -/
def State.strikeMatrix (s : State) (col core : Nat) : State :=
  match s.nextMat col core with
  | none => s
  | some m =>
    let t := s.tileOfCmd m
    let t := if m.op = .mldz ∧ m.next = 0 then t.begun ((s.recordOfBlock m.block).slot m.slotA) else t
    ((s.modCore col core fun k => { k with engine := k.engine.erase m }).matFault m t m.next s.faultAddr).drewFresh

/-- A copy or bank command in its queue, treated as faulted in the same way (R322, R409). A BFENCE, which has no unit, is done
with (log 104, DESIGN CHOICE). -/
def State.strikeCopy (s : State) (n : Nat) : State :=
  match mapGet s.copies n with
  | none => s
  | some c =>
    if c.stage = 2 then s
    else if c.op = .bfence then ({ s with copies := mapErase s.copies n } : State).continueRest c.warp
    else (s.endCopy n { c with fault := some (0, s.faultAddr) }).drewFresh

/-- The handle of a copy or bank command that is performed and not yet reported: the command is treated as faulted at its
first unit (R324, R409). -/
def State.strikeHandle (s : State) (n : Nat) : State :=
  match mapGet s.copies n with
  | none => s
  | some c =>
    if c.stage ≠ 2 ∨ c.fault.isSome then s
    else ({ s with copies := mapSet s.copies n { c with fault := some (0, s.faultAddr), done := 0 } } : State).drewFresh

/-- The contributor of a PUT or an END that faulted in its queue marked at its station, or at a peer's, unless the command is
refused there for another reason, whose code and tile are then given (R343). -/
def State.faultAtStation (s : State) (m : MergeCmd) : State × Nat × Nat :=
  let tile := if m.op = .put then putT0 m.w0 + m.done else 0
  if refRem m.ref then
    match s.mutual m.asid (refPeer m.ref) with
    | some pasid => (s.faultPeer m pasid, 5, tile)
    | none => (s, 11, 0)
  else match s.mergeStation m with
    | .error code => (s, code, tile)
    | .ok st => match s.openRound m.asid st (refId m.ref) with
      | none => (s, 1, tile)
      | some (k, r) => match r.refusal m (m.op == .put) with
        | some (code, t) => (s, code, t)
        | none => (s.modRound k fun r => r.faultCont (cidOf m.w0) m.gang (s.willHold m.gang), 5, tile)

/-- What becomes of a merge command that faulted in its queue (R343): an OPEN's TOT is taken to have faulted, any other's
source. -/
def State.faultMerge (s : State) (m : MergeCmd) : State × Nat × Nat :=
  match m.op with
  | .put => s.faultAtStation m
  | .endGroup => s.faultAtStation m
  | .openRound => (s, 8, 0)
  | .rank => (s, 5, 0)
  | .drop => (s, 5, 0)

/-- A merge command in the outbound queue, treated as faulted in the same way (R343, R409)
(log 104, DESIGN CHOICE). -/
def State.strikeMerge (s : State) (n : Nat) : State :=
  match mapGet s.merges n with
  | none => s
  | some m =>
    if m.total ≤ m.done then s
    else
      let (t, code, tile) := s.faultMerge m
      let cont := if m.op = .put ∨ m.op = .endGroup then cidOf m.w0 else 0
      ((t.refuse m code cont tile (if code == 5 || code == 8 then s.faultAddr else 0)).endMerge m).drewFresh

/-- An error in a scheduler's copy of a record (R409): the grid ends with an error, one whose launch is held once it is accepted
(R391). -/
def State.strikeRecord (s : State) (g : Nat) : State :=
  match s.grid g with
  | some x => match x.state with
    | .pending | .command => s.endGrid g
    | .held => s.modGrid g fun x => { x with rcd := { x.rcd with bytes := [] } }
    | _ => s
  | none => s

/-- An error in a record of a wake stack, or of a held push (R409): the grid that it becomes ends with an error, as one whose
record could not be read. -/
def State.strikeWake (s : State) (asid n : Nat) : State :=
  s.modCtx asid fun c => { c with stack := c.stack.zipIdx.map fun e => if e.2 = n then ([], e.1.2) else e.1 }

def Held.struck (h : Held) : Held :=
  match h with
  | .push _ ind => .push [] ind
  | .launch g => .launch g
  | .drain => .drain
  | .clear => .clear

def State.strikePush (s : State) (gang n : Nat) : State :=
  s.modGang gang fun k => { k with held := k.held.zipIdx.map fun e => if e.2 = n then e.1.struck else e.1 }

/-! ### The host and peers -/

/-- The host stores bytes of one line of its memory, which it does once no column holds the line (R371): poison comes with
them (R394). -/
def State.hostStores (s : State) (pa : Nat) (bs : List Byte) (poison : Bool) : State :=
  if 2 ^ 52 ≤ pa + bs.length ∨ pa / 64 ≠ (pa + bs.length - 1) / 64 ∨ (s.hostCopy.any fun kv => kv.1 % 2 ^ 47 == pa / 64) then s
  else
    let lines := (List.range bs.length).map fun i => (pa + i) / 32
    let s := { s with host := cellsSet s.host pa bs }
    if poison then { s with hostPsn := lines.foldl setIns s.hostPsn }
    else { s with hostPsn := s.hostPsn.filter fun l => !decide ((lines.filter (· == l)).length = 32) }

/-- A peer stores bytes of its own memory. -/
def State.peerStores (s : State) (dev asid ptr : Nat) (bs : List Byte) (poison : Bool) : State :=
  (s.writeBytes 128 ((List.range bs.length).map fun i =>
    { loc := .peer dev asid (ptr + i), va := 0, byte := bs.getD i 0, poison := poison : ByteW }))

/-- What the world does (log 8, DESIGN CHOICE). -/
def State.upset (s : State) (u : Upset) : State :=
  match u with
  | .corrected col => s.modColumn col fun c => { c with secnt := if c.secnt = 0xFFFFFFFF then c.secnt else c.secnt + 1 }
  | .symbol col line sym pat => s.strikeArray col line sym pat
  | .transfer col line beat dir => s.failTransfer col line beat dir
  | .lane w reg t => s.strikeRegs w fun r => r.strikeV reg t
  | .entry w k t => s.strikeRegs w fun r => r.strikeC k t
  | .scalar w n => s.strikeRegs w fun r => r.strikeS n
  | .disagree w n => s.strikeResult w n
  | .journal w => s.strikeRun w
  | .l1Line col core n => s.strikeL1 col core n
  | .sector col n line => s.strikeSector col n line
  | .scratchpad col line => if line < 2 ^ 19 then s.markLine col (.spad col (32 * line)) true else s
  | .landing round cont tile line => s.modRound round fun r =>
      let l := 128 * tile + line
      if r.state ≠ .opened ∨ r.t ≤ tile ∨ tileBytes r.bf16 ≤ 32 * line then r
      else if cont = r.k then { r with psn := setIns r.psn l }
      else { r with cont := mapAll r.cont fun c k =>
        if c = cont ∧ (mapGet k.tiles tile).isSome then { k with psn := setIns k.psn l } else k }
  | .tile b z => s.modBlock b fun b => { b with tiles := match b.tiles[z]? with
      | some t => b.tiles.set z { t with psn := true }
      | none => b.tiles }
  | .tlbEntry col n => s.modColumn col fun c => { c with tlb := c.tlb.eraseIdx n }
  | .prediction col core n => s.modCore col core fun c => { c with pred := mapErase c.pred n }
  | .matrixQueue col core => s.strikeMatrix col core
  | .copyQueue n => s.strikeCopy n
  | .handle n => s.strikeHandle n
  | .mergeQueue n => s.strikeMerge n
  | .record g => s.strikeRecord g
  | .wakeEntry asid n => s.strikeWake asid n
  | .heldPush gang n => s.strikePush gang n
  | .hostStore pa bs poison => s.hostStores pa bs poison
  | .peerStore dev asid ptr bs poison => s.peerStores dev asid ptr bs poison
  | .peerPairs dev pasid asid => { s with pairsIn := match asid with
      | some a => mapSet s.pairsIn (dev * 8192 + pasid) a
      | none => mapErase s.pairsIn (dev * 8192 + pasid) }
  | .peerSends i =>
    let (k, s) := s.takeId
    { s with inbound := mapSet s.inbound k i }
  | .mergeAnswer n code cont tile addr => s.mergeAnswered n code cont tile addr
  | .mergeFate w fate => s.modWarp w fun x => match x.wait with
      | .mrgWait d ref 0 => if refRem ref ∧ 1 ≤ fate ∧ fate ≤ 8 then { x with wait := .mrgWait d ref fate } else x
      | _ => x
  | .flowEmpty flow => { s with dev := { s.dev with flows := setDel s.dev.flows flow } }
  | .registerRead addr => s.readRegister addr
  | .measurement n => s.measurement n

end Sys2Proof.Machine
end

