-- ==== Sys2Proof/Machine/Turn.lean ====
section
/-! DEFINITION. One turn of the machine: a warp issues, an agent acts, time passes, or the world strikes (log 1 and log 8,
DESIGN CHOICE); which turn comes when the agenda names none; and how a word comes to stand where the next instruction is
fetched (log 5, DESIGN CHOICE). -/

namespace Sys2Proof.Machine

open Sys2Proof

/-! ### A warp's turn -/

/-- The next instruction of a warp that holds its slot: fetched, decoded, and executed, or trapped (R54, R105). -/
def State.issueNext (s : State) (w : Nat) (x : Warp) : Host.Outcome State Fault Refusal :=
  match s.nextInstr x with
  | .word i => exec i { (s.touchCode x) with cur := some w }
  | .bad => .next (s.trapAtPc w { code := 0x10, info := 0, addr := 0 })
  | .fault c => .next (s.trapAtPc w c)

/-- A warp's turn (R76, R77). It acts where it wins its slot: a wait that is over ends; a run that has ended waits for its
commit; otherwise it issues. -/
def State.issueTurn (s : State) (w : Nat) : Host.Outcome State Fault Refusal :=
  match s.warp w with
  | none => .next s
  | some x =>
    if s.winner x.col x.core x.slot ≠ some w then .next s
    else if x.wait ≠ .none then .next (s.endWait w)
    else if (x.run.bind Run.ended).isSome then .next s
    else
      let s := s.settleArrivals.giveSlot w x
      match s.warp w with
      | some x => s.issueNext w x
      | none => .next s

/-- Is an instruction an event of another agent? -/
def isEvent (i : Instr) : Bool :=
  match i with
  | .unassignedOpcode _ => false
  | _ => i.encoded.isNone

/-- What was done, unless it met a row line under retry: then it waits, and nothing of it takes place (R411). -/
def State.unlessBlocked (s : State) (o : Host.Outcome State Fault Refusal) : Host.Outcome State Fault Refusal :=
  match o with
  | .next t => if t.blocked && !s.blocked then .next s else .next t
  | .fault f => .fault f
  | .refused r => .refused r

/-- One turn. -/
def State.act (s : State) (t : Turn) : Host.Outcome State Fault Refusal :=
  match t with
  | .issue w => s.unlessBlocked (s.issueTurn w)
  | .event i => if isEvent i then s.unlessBlocked (exec i s) else .next s
  | .clocks n => .next (s.tick n)
  | .upset u => .next (s.upset u)

/-! ### The turn that comes when the agenda is empty -/

/-- The columns and cores that hold anything. -/
def State.busyCores (s : State) : List (Nat × Nat) := s.cores.map fun kv => (kv.1 / 4, kv.1 % 4)

/-- The events of agents other than warps that may be due, in the order they are tried (log 1, DESIGN CHOICE). -/
def State.dueEvents (s : State) : List Instr :=
  let warps := s.warps.map Prod.fst
  let cols := (s.copies.map fun kv => kv.2.col) ++ (s.merges.map fun kv => kv.2.col)
  let early : List (List Instr) :=
    [[.bootStageEnd true], warps.map .runCommit, warps.map .exchangeComplete, warps.map .exchangeTimeout,
     s.arrivals.map fun kv => .barrierObjectArrive kv.1,
     s.merges.flatMap fun kv => [.roundOpen kv.1, .stageTiles kv.1, .measureContributor kv.1, .roundDrop kv.1],
     s.notices.map fun q => .mergeGangNotice q.1 q.2.1,
     s.rounds.map fun kv => .contributorCommit kv.2.col kv.2.asid kv.2.id, cols.map .mergeTileSend, cols.map .copyPerform,
     s.copies.map fun kv => .bankCommandPerform kv.2.col kv.1]
  let late : List (List Instr) :=
    [s.busyCores.flatMap fun c => [.mmaPerform c.1 c.2, .mzeroPerform c.1 c.2, .mldzPerform c.1 c.2, .mstPerform c.1 c.2],
     s.busyCores.flatMap fun c => (List.range 4).map fun k => .watchdogLimit c.1 c.2 k,
     s.columns.map fun kv => .partitionChange kv.1, warps.map .swapOut, warps.map .swapIn,
     s.inbound.map fun kv => .watikReceive kv.1, s.blocks.map fun kv => .blockRetire kv.1,
     (List.range 16).map .hostRecordAccept, [.commandGridAccept], s.gangs.map fun kv => .gangResume kv.1,
     s.gangs.map fun kv => .gangRelaunch kv.1, [.gangPlace], warps.map .sleepEnd, warps.map .copyPromiseExpire]
  early.flatten ++ late.flatten

/-- Does an event change the machine? -/
def State.changedBy (s : State) (i : Instr) : Bool :=
  match s.unlessBlocked (exec i s) with
  | .next t => t != s
  | .fault _ | .refused _ => false

/-- The warps that win their slots. -/
def State.winners (s : State) : List Nat :=
  s.busyCores.flatMap (fun c => (List.range 4).filterMap fun k => s.winner c.1 c.2 k)
    ++ ((s.warps.filter fun kv => mapGet s.cores (4 * kv.2.col + kv.2.core) = none).filterMap fun kv =>
      s.winner kv.2.col kv.2.core kv.2.slot)

/-- A result that can arrive. -/
def State.lateResult (s : State) : Option Instr :=
  s.warps.findSome? fun kv => (kv.2.pend.find? fun p => p.ready && !p.here).map fun p => .longLatencyArrival kv.1 p.id

/-- The turns taken when the agenda is empty (log 1, DESIGN CHOICE): an event that is due, or else a winner of a slot, chosen
in rotation, with a clock and a result that can arrive after it, or else a result, or else a clock. -/
def State.autoTurns (s : State) : List Turn :=
  match s.dueEvents.find? s.changedBy with
  | some i => [.event i]
  | none =>
    let ws := s.winners
    match ws[s.fresh / freshStep % ws.length]? with
    | some w => [.issue w, .clocks 1] ++ (s.lateResult.map Turn.event).toList
    | none => match s.lateResult with
      | some i => [.event i]
      | none => [.clocks 1]

/-- What a turn leaves, with every slot arbitrated (R77). -/
def arbitrated (o : Host.Outcome State Fault Refusal) : Host.Outcome State Fault Refusal :=
  match o with
  | .next t => .next t.arbitrate
  | .fault f => .fault f
  | .refused r => .refused r

/-- The agenda's first turn, or the one that comes when it is empty. -/
def State.takeTurn (s : State) : Host.Outcome State Fault Refusal :=
  match s.agenda with
  | t :: rest => arbitrated (({ s with agenda := rest } : State).act t)
  | [] => match s.autoTurns with
    | t :: rest => arbitrated (({ s with agenda := rest } : State).act t)
    | [] => .next s

/-! ### A word at the place of the next fetch -/

/-- The places of the `n` bytes that the first turn of the agenda fetches, where it is a warp's that will issue. -/
def State.fetchSite (s : State) (n : Nat) : Option (Warp × List Loc) :=
  match s.agenda with
  | .issue w :: _ =>
    match s.warp w with
    | none => none
    | some x =>
      let pc := x.theRun.work.pc
      if s.winner x.col x.core x.slot ≠ some w || x.wait != Wait.none || (x.run.bind Run.ended).isSome || pc.toNat % 4 != 0
          || decide (pc.toNat / 2 ^ 48 ≠ 0) then none
      else match s.places x.col x.core (s.asidOf x) true (selfPtr pc) n 0 { exec := true } with
        | .ok ps => some (x, ps.map Place.loc)
        | .error _ => none
  | _ => none

/-- A machine with one warp about to issue at code address 0 of column 0: a live context, one gang of one block, and a page
of the column where its code lies (log 5, DESIGN CHOICE). -/
def State.withWarp (s : State) : State :=
  let r := Record.empty
  let (g, s) := s.takeId
  let (k, s) := s.takeId
  let (b, s) := s.takeId
  let (w, s) := s.takeId
  let grid : Grid := { newGrid 1 1 r.bytes 0 with rcd := r, next := 1, tvec := [(0, 0)], tframe := [(0, 0)] }
  let gang : Gang :=
    { grid := g, index := 0, columns := [0], m := 1, size := 1, base := 0, pool := [], gbar := [], held := [],
      lnum := [], relaunch := 0, peers := [], state := .running }
  let block : Block :=
    { gang := k, g := 0, col := 0, core := 0, nwarp := 1, oct := 8, tiles := List.replicate 4 Tile.clear, bar := [],
      poison := false, lost := false, retired := false, counted := [], queue := [] }
  let page : TlbEntry :=
    { asid := 1, lcol := 0, page := 0, shift := 16, base := 2 ^ 20, host := false, slot := 1, read := true, write := true
      exec := true, kind := 0 }
  let x := { newWarp r 0 0 0 0 b 0 0 with regs := { (newWarp r 0 0 0 0 b 0 0).regs with pc := 0 } }
  let column := { Column.reset with tlb := [page] }
  { s with
    agenda := [.issue w], columns := mapSet s.columns 0 column, cores := mapSet s.cores 0 Core.idle
    warps := mapSet s.warps w x, blocks := mapSet s.blocks b block, gangs := mapSet s.gangs k gang
    grids := mapSet s.grids g grid, contexts := mapSet s.contexts 1 { Context.empty with live := true, map := [(0, 0)] }
    keys := mapSet s.keys 1 (1, 1), dev := { s.dev with bootst := 4 } }

/-- Some bytes of code stored at the place of the next fetch, which alone is fetched there. -/
def State.putCode (s : State) (bs : List Byte) : State :=
  match s.fetchSite bs.length with
  | some (x, ls) =>
    let s := (ls.zip bs).foldl (fun s p => s.putByte x.col p.1 p.2) s
    { s with oldWords := s.oldWords.filter fun o => !ls.any fun l => o.place == l.word }
  | none => s

/-- The bytes of an instruction whose bits are `w`, of which the table gives `nbits`: each word little-endian, up to the
longest instruction (R38). -/
def codeBytes (nbits w : Nat) : List Byte := (tableWords 5 (w % 2 ^ nbits)).flatMap fun v => leBytes 4 v.toNat

/-- The machine with an instruction where its next step fetches one (log 5, DESIGN CHOICE). -/
def State.placeCode (s : State) (nbits w : Nat) : State :=
  let bs := codeBytes nbits w
  (if (s.fetchSite bs.length).isSome then s else s.withWarp).putCode bs

end Sys2Proof.Machine
end

