-- ==== Sys2Proof/Machine/Step.lean ====
section
/-! DEFINITION. The step of the machine, and the state with an instruction placed where the step fetches its next one. -/

namespace Sys2Proof.Machine

/-- One step: the turn that the agenda names, or the one that comes when it names none (log 1, DESIGN CHOICE). -/
def step (s : State) : Host.Outcome State Fault Refusal := s.takeTurn

/-- `s` with the instruction whose bits are `w` where the next step fetches (log 5, DESIGN CHOICE). -/
def State.withFetchWord (s : State) (nbits w : Nat) : State := s.placeCode nbits w

end Sys2Proof.Machine
end

