-- ==== Sys2Proof/Safety.lean ====
section
/-! DEFINITION. What counts as a safe run: every step answers a next state, and every memory keeps its canonical form, so
that equal memories are equal data. -/

namespace Sys2Proof

open Sys2Proof.Machine

/-- The form every state of a run has. Every memory is canonical: column memory, the scratchpads, host memory and peers'
memory; a host line that a column holds has 64 bytes and is listed once; and there are as many clocks, queues, apertures,
towers and vectors as the device has (R9, R18, R135, R145, R222, R372, R374). -/
structure Canonical (s : State) : Prop where
  mem  : Memory.wf s.mem = true
  spad : Memory.wf s.spad = true
  host : Memory.wf s.host = true
  peer : Memory.wf s.peer = true
  copies : ∀ kv ∈ s.hostCopy, kv.2.bytes.length = 64
  rising : s.hostCopy.Pairwise fun a b => a.1 < b.1
  clocks : s.cyc.length = 128
  queues : s.dev.queues.length = 16
  apertures : s.dev.aps.length = 64
  towers : s.dev.octbud.length = 4 ∧ s.dev.mxthr.length = 4 ∧ s.dev.calm.length = 4
  vectors : s.dev.msix.length = 8 ∧ s.dev.msixMask.length = 8 ∧ s.dev.msixPend.length = 8

/-- A step answers a next state: no fault and no refusal. -/
def GoesOn (s : State) : Prop := ∃ t, step s = .next t

/-- Every state that a run from `s` of `n` steps passes through is canonical, and the run reaches its end. -/
def SafeRun : Nat → State → Prop
  | 0, s => Canonical s
  | n + 1, s => Canonical s ∧ ∃ t, step s = .next t ∧ SafeRun n t

/-! ### When an instruction issues normally -/

/-- The warp that issues. -/
def Issuing (s : State) (w : Nat) (x : Warp) : Prop := s.cur = some w ∧ s.warp w = some x

/-- The conditions under which the gate lets an instruction of an opcode take effect: no result that must still arrive first
(R100), nothing that its warp's last run has still to perform before it (R326, R353), room in the run (R56), some active thread
(R85), no hazard where they are detected (R103), and no stall where a read waits (R103). -/
def Opens (c : Cx) (op : Opcode) : Prop :=
  (∀ p ∈ c.x.pend, p.window ≠ 0 ∨ p.here = true) ∧ c.behindRest (opClass op) = false ∧ c.r.count < 24
    ∧ ((opClass op).store = true → c.r.stores < 4) ∧ c.act ≠ 0
    ∧ (c.mode = 1 → c.hazard (op.spec c.f) (opClass op).readsD = none)
    ∧ (c.mode = 2 → c.stalls (op.spec c.f) (opClass op).readsD = none)

/-- An instruction that the gate has let pass: its dead reads are noted (R97), and a pending result whose destination it
writes is contested (R103); in compatible mode there is neither. -/
def passed (c : Cx) (op : Opcode) : Cx :=
  { c with
    x := if c.mode = 2 then c.x else { c.x with pend := c.x.pend.map fun p => { p with touched := p.touched ++ c.overwrites (op.spec c.f) p } }
    r := if c.mode = 2 then c.r
      else ((c.r.deadRead c.f.da c.f.a c.f.aw.count).deadRead c.f.db c.f.b c.f.bw.count).deadRead c.f.dc c.f.c
        c.f.cw.count }

/-- An instruction past the gate, as its warp issues it. -/
def atIssue (s : State) (w : Nat) (x : Warp) (op : Opcode) (f : Fields) : Cx := passed (s.cx w x f) op

/-- The state an instruction leaves from what its body answers. -/
def completes (c : Cx) (x : Warp) (op : Opcode) : State := c.finish op (x.pend.map Pending.id)

/-- The physical registers of a bank that an instruction may take (R97). -/
def freeIn (c : Cx) (bank : Nat) : List Nat :=
  (List.range emergencyAt).filter fun i => !(c.s.physUsed c.x.col c.x.core bank c.w c.r).contains i

/-- Room for `n` V registers: in compatible mode none is allocated; otherwise the run may allocate them, every bank has
them, and no older warp waits swapped out (R97, R98). -/
def Roomy (c : Cx) (n : Nat) : Prop :=
  c.mode = 2 ∨ (c.r.allocs + n ≤ 32 ∧ (∀ bank < 4, n ≤ (freeIn c bank).length)
    ∧ c.s.olderOut c.x = false)

/-! ### What a destination receives -/

/-- What a V register holds in a thread: its value and its poison. -/
def vRead (r : Run) (v t : Nat) : Option (Word × Bool) :=
  (mapGet r.work.v v).map fun g => (g.lanes.val.getD t 0, bit g.lanes.poison t)

/-- A cache entry or latch that is valid and holds some lanes in the threads of a mask. -/
def EntryHolds (e : Entry) (mask : Mask) (l : Lanes) : Prop :=
  e.valid = true ∧ ∀ t < 64, bit mask t = true →
    e.lanes.val.getD t 0 = l.val.getD t 0 ∧ bit e.lanes.poison t = bit l.poison t

/-- The number of V registers a result of `n` registers takes. -/
def groupSize (c : Cx) (n : Nat) : Nat := match c.f.d with | .v _ => n | _ => 0

/-- What an instruction's destination, its KEEP entry and its latch receive of a result (R50, R93, R95, R97, R99), and that
nothing else of its run changes but which physical registers it has taken and frees. A V register of the group keeps its
old lanes in the threads that are not written; in compatible mode a register at or above the register count takes nothing
(R104). -/
structure Received (c c' : Cx) (latch : Option Nat) (mask : Mask) (vals : List Lanes) : Prop where
  /-- Only the run changes. -/
  onlyRun : ∃ r', c' = { c with r := r' }
  /-- Of the run, only its V, S, C and home registers, its latches, and what stands for physical registers. -/
  run : c'.r = { c.r with work := { c.r.work with v := c'.r.work.v, s := c'.r.work.s, c := c'.r.work.c,
                                                  home := c'.r.work.home }
                          allocs := c'.r.allocs, freed := c'.r.freed, dead := c'.r.dead, sAt := c'.r.sAt
                          latch := c'.r.latch }
  group : ∀ d, c.f.d = .v d → ∀ j < vals.length, (c.mode ≠ 2 ∨ (mapGet c.r.work.v (d.toNat + j)).isSome) →
    ∀ t < 64, bit mask t = true → vRead c'.r (d.toNat + j) t
      = some ((vals.getD j Lanes.zero).val.getD t 0, bit (vals.getD j Lanes.zero).poison t)
  lanes : ∀ u t, t < 64 → bit mask t = false → (mapGet c.r.work.v u).isSome → vRead c'.r u t = vRead c.r u t
  others : ∀ u, (∀ d, c.f.d = .v d → ∀ j < vals.length, u ≠ d.toNat + j) →
    mapGet c'.r.work.v u = mapGet c.r.work.v u
  scalars : c'.r.work.s = match c.f.d with
    | .s d => if mask = 0 then c.r.work.s else
        (List.range vals.length).foldl (fun s j => s.set (d.toNat + j) (vals.getD j Lanes.zero).first) c.r.work.s
    | _ => c.r.work.s
  entries : ∃ e k, (∀ d, c.f.d = .c d → EntryHolds e mask (vals.getD 0 Lanes.zero))
    ∧ (c.f.keep = true → EntryHolds k mask (vals.getD 0 Lanes.zero))
    ∧ c'.r.work.c =
        (fun l : List Entry => if c.f.keep then l.set c.f.kc.toNat k else l)
          (match c.f.d with | .c d => c.r.work.c.set d.toNat e | _ => c.r.work.c)
  latches : match latch with
    | some k => if c.f.uni then c'.r.latch = c.r.latch
        else ∃ e, EntryHolds e mask (vals.getD 0 Lanes.zero) ∧ c'.r.latch = c.r.latch.set k e
    | none => c'.r.latch = c.r.latch

/-- Does a result of an instruction that comes later stand to be awaited: has it a register to write in some thread, a
KEEP entry, a latch, or another effect, or can it come only once its run has committed (R82, R100)? -/
def awaited (c : Cx) (latch : Option Nat) (mask : Mask) (fx : PendFx) (ready : Bool) : Bool :=
  (mask != 0 && (match c.f.d with | .v _ | .s _ | .c _ => true | _ => false)) || c.f.keep || (latch.isSome && !c.f.uni)
    || fx != .none || !ready

/-- The result that an instruction awaits (R100): what it will write and where, in which threads, and how many
instructions may execute before it, which is the instruction's lookahead. -/
def awaitedResult (c : Cx) (latch : Option Nat) (mask : Mask) (vals : List Lanes) (fx : PendFx) (ready : Bool) : Pending :=
  { id := c.s.nextId, dst := c.f.d, count := vals.length, vals := vals, mask := mask, uni := c.f.uni
    latch := if c.f.uni then none else latch, keep := if c.f.keep then some c.f.kc.toNat else none, window := c.f.la.toNat
    ready := ready, here := false, ofRun := true, outer := false, contested := [], touched := [], fx := fx, pc := c.pc }

/-- What a long-latency instruction leaves (R97, R100): its result pending, its V destination registers taken and holding
their old values, nothing else changed. -/
structure Awaits (c c' : Cx) (latch : Option Nat) (mask : Mask) (vals : List Lanes) (fx : PendFx) (ready : Bool) : Prop where
  pending : ∃ r', c' = { c with
    s := { c.s with nextId := c.s.nextId + 1 }, r := r'
    x := if awaited c latch mask fx ready then { c.x with pend := c.x.pend ++ [awaitedResult c latch mask vals fx ready] } else c.x }
  run : c'.r = { c.r with work := { c.r.work with v := c'.r.work.v }, allocs := c'.r.allocs, freed := c'.r.freed,
                          dead := c'.r.dead }
  group : ∀ d, c.f.d = .v d → ∀ j < vals.length, c.mode ≠ 2 → (mapGet c'.r.work.v (d.toNat + j)).isSome
  lanes : ∀ u t, t < 64 → (mapGet c.r.work.v u).isSome → vRead c'.r u t = vRead c.r u t
  others : ∀ u, (∀ d, c.f.d = .v d → ∀ j < vals.length, u ≠ d.toNat + j) →
    mapGet c'.r.work.v u = mapGet c.r.work.v u

/-- No byte of a host line that a column holds has become dirty, and those that are dirty are as they were. -/
def NoneDirtied (s t : State) : Prop :=
  ∀ kv ∈ t.hostCopy, ∀ i < 64, kv.2.dirty.testBit i = true →
    ∃ q ∈ s.hostCopy, q.1 = kv.1 ∧ q.2.dirty.testBit i = true ∧ q.2.bytes.getD i 0 = kv.2.bytes.getD i 0

/-- Every byte of host memory is as it was, or has been written back from a copy of its line that a column held dirty
(R252). -/
def WrittenBack (s t : State) : Prop :=
  ∀ pa, cellGet t.host pa = cellGet s.host pa ∨ ∃ kv ∈ s.hostCopy,
    kv.1 % 2 ^ 47 = pa / 64 ∧ kv.2.dirty.testBit (pa % 64) = true ∧ cellGet t.host pa = kv.2.bytes.getD (pa % 64) 0

/-- A state that a warp's instruction left: every byte of every memory is as before, nothing of another warp, of the
gangs, the grids, the merge rounds or the engines' commands has changed, and nothing of the device; but an instruction that
meets the arrays and the caches may find errors there, which may raise an interrupt (R374, R399), and may make a column write
back dirty bytes of a host line (R285). -/
structure OnlyIssued (s t : State) (w : Nat) (reads : Bool := false) : Prop where
  mem : t.mem = s.mem
  spad : t.spad = s.spad
  host : Memory.wf s.host = true → Memory.wf t.host = true ∧ WrittenBack s t
  unread : reads = false → t.host = s.host
  dirtied : NoneDirtied s t
  peer : t.peer = s.peer
  gangs : t.gangs = s.gangs
  grids : t.grids = s.grids
  rounds : t.rounds = s.rounds
  copies : t.copies = s.copies
  merges : t.merges = s.merges
  others : ∀ v, v ≠ w → t.warp v = s.warp v
  dev : reads = false → t.dev = s.dev

/-! ### The shapes of instructions -/

/-- An instruction whose result is there at once. -/
structure Now where
  instr : Fields → Instr
  op : Opcode
  /-- What the encoding needs of the machine to be legal. -/
  pre : Cx → Bool := noPre
  /-- What else it needs to run. -/
  ok : Cx → Prop := fun _ => True
  /-- The instruction when its operands have been read. -/
  base : Cx → Cx
  /-- The latch it writes. -/
  latch : Option Nat
  /-- The threads in which its destination is written. -/
  mask : Cx → Mask
  /-- The registers of its result. -/
  vals : Cx → List Lanes

/-- The instruction completes with its result received, and does nothing else. -/
def Now.Holds (k : Now) : Prop :=
  ∀ (s : State) (w : Nat) (x : Warp) (f : Fields), Issuing s w x → k.pre (s.cx w x f) = true → Opens (s.cx w x f) k.op →
    k.ok (atIssue s w x k.op f) →
    Roomy (k.base (atIssue s w x k.op f)) (groupSize (atIssue s w x k.op f) (k.vals (atIssue s w x k.op f)).length) →
    ∃ c, Received (k.base (atIssue s w x k.op f)) c k.latch (k.mask (atIssue s w x k.op f)) (k.vals (atIssue s w x k.op f))
      ∧ OnlyIssued s (completes c x k.op) w ∧ exec (k.instr f) s = .next (completes c x k.op)

/-- A long-latency instruction. -/
structure Later where
  instr : Fields → Instr
  op : Opcode
  pre : Cx → Bool := noPre
  ok : Cx → Prop := fun _ => True
  base : Cx → Cx
  latch : Option Nat
  mask : Cx → Mask
  vals : Cx → List Lanes
  /-- What its arrival does besides writing registers. -/
  fx : Cx → PendFx := fun _ => .none
  /-- Can it arrive before its run commits? -/
  ready : Cx → Bool := fun _ => true
  /-- What the instruction leaves in its run beside the result it awaits; the first argument is the instruction as it
  issued. -/
  rest : Cx → Cx → Cx := fun _ c => c
  /-- Does it read the arrays? -/
  reads : Bool := false

/-- The instruction completes with its result awaited; no byte of memory changes. -/
def Later.Holds (k : Later) : Prop :=
  ∀ (s : State) (w : Nat) (x : Warp) (f : Fields), Issuing s w x → k.pre (s.cx w x f) = true → Opens (s.cx w x f) k.op →
    k.ok (atIssue s w x k.op f) →
    Roomy (k.base (atIssue s w x k.op f)) (groupSize (atIssue s w x k.op f) (k.vals (atIssue s w x k.op f)).length) →
    ∃ c, Awaits (k.base (atIssue s w x k.op f)) c k.latch (k.mask (atIssue s w x k.op f)) (k.vals (atIssue s w x k.op f))
        (k.fx (atIssue s w x k.op f)) (k.ready (atIssue s w x k.op f))
      ∧ OnlyIssued s (completes (k.rest (atIssue s w x k.op f) c) x k.op) w k.reads
      ∧ exec (k.instr f) s = .next (completes (k.rest (atIssue s w x k.op f) c) x k.op)

/-- An instruction that takes no register for its effect. -/
structure Direct where
  instr : Fields → Instr
  op : Opcode
  pre : Cx → Bool := noPre
  ok : Cx → Prop := fun _ => True
  /-- The instruction after its effect. -/
  after : Cx → Cx
  /-- Does it read the arrays? -/
  reads : Bool := false

/-- The instruction completes with its effect; no byte of memory changes. -/
def Direct.Holds (k : Direct) : Prop :=
  ∀ (s : State) (w : Nat) (x : Warp) (f : Fields), Issuing s w x → k.pre (s.cx w x f) = true → Opens (s.cx w x f) k.op →
    k.ok (atIssue s w x k.op f) →
    OnlyIssued s (completes (k.after (atIssue s w x k.op f)) x k.op) w k.reads
      ∧ exec (k.instr f) s = .next (completes (k.after (atIssue s w x k.op f)) x k.op)

/-- An instruction that writes a predicate (R99, R177, R395): in a vector form each guarded thread's, with 0 where the
thread's operands are poisoned; in a uniform form every active thread's. -/
structure Sets where
  instr : Fields → Instr
  op : Opcode
  ok : Cx → Prop := fun _ => True
  args : Cx → List Arg
  /-- The threads whose bit is written. -/
  mask : Cx → Mask := fun c => if c.f.uni then (if c.grd = 0 then 0 else c.act) else c.grd
  value : Cx → Nat → Bool

/-- A predicate register after some threads of it are written; P7 is never written. -/
def predWritten (c : Cx) (mask : Mask) (value : Nat → Bool) (p' : List Mask) : Prop :=
  match c.f.d with
  | .p n => if n = 7 then p' = c.r.work.p
      else ∃ q : Mask, p' = c.r.work.p.set n.toNat q
        ∧ ∀ t < 64, bit q t = if bit mask t then value t else bit (c.r.work.p.getD n.toNat 0) t
  | _ => p' = c.r.work.p

/-- The instruction completes with its predicate written, and does nothing else. -/
def Sets.Holds (k : Sets) : Prop :=
  ∀ (s : State) (w : Nat) (x : Warp) (f : Fields), Issuing s w x → Opens (s.cx w x f) k.op →
    k.ok (atIssue s w x k.op f) →
    let c := atIssue s w x k.op f
    let psn := c.poisoned (k.args c)
    ∃ p', predWritten c (k.mask c)
        (fun t => if f.uni then psn == 0 && k.value c t else !bit psn t && k.value c t) p'
      ∧ OnlyIssued s (completes ((c.consume psn).modWork fun r => { r with p := p' }) x k.op) w
      ∧ exec (k.instr f) s = .next (completes ((c.consume psn).modWork fun r => { r with p := p' }) x k.op)

/-! ### The arithmetic instructions -/

/-- An instruction that consumes its operands and computes `n` registers in each thread it acts for (R169, R395). -/
def computes (instr : Fields → Instr) (op : Opcode) (n : Cx → Nat) (args : Cx → List Arg) (value : Cx → Nat → List Word)
    (ok : Cx → Prop := fun _ => True) (pre : Cx → Bool := noPre) (latch : Option Nat := some 0) : Now :=
  { instr := instr, op := op, pre := pre, ok := ok, base := fun c => c.consume (c.poisoned (args c)), latch := latch
    mask := Cx.lanes, vals := fun c => c.rows (n c) (c.poisoned (args c)) (value c) }

/-- The same of a long-latency instruction: its latch is L1. -/
def computesLater (instr : Fields → Instr) (op : Opcode) (args : Cx → List Arg) (value : Cx → Nat → List Word) : Later :=
  { instr := instr, op := op, base := fun c => c.consume (c.poisoned (args c)), latch := some 1, mask := Cx.lanes
    vals := fun c => c.rows 1 (c.poisoned (args c)) (value c) }

/-- A and B in the instruction's type. -/
def operandsAB (c : Cx) : List Arg := [c.argA c.f.ty.regs c.f.ty, c.argB c.f.ty.regs c.f.ty]

/-- An integer instruction of A and B (R174): each element computed exactly, then narrowed. -/
def onInts (instr : Fields → Instr) (op : Opcode) (g : Int → Int → Int) : Now :=
  computes instr op (fun c => c.f.ty.regs) operandsAB fun c t =>
    groupWords c.f.ty.elemBits c.f.ty.regs
      ((List.zipWith g (c.intA t) (c.intB t)).map (narrow c.f.ty.isSigned c.f.sat c.f.ty.elemBits))

/-- An integer instruction of A. -/
def onInt (instr : Fields → Instr) (op : Opcode) (g : Int → Int) : Now :=
  computes instr op (fun c => c.f.ty.regs) (fun c => [c.argA c.f.ty.regs c.f.ty]) fun c t =>
    groupWords c.f.ty.elemBits c.f.ty.regs
      (((c.intA t).map g).map (narrow c.f.ty.isSigned c.f.sat c.f.ty.elemBits))

/-- An instruction that adds to C an exact total over the elements of A and B (R174, R176). -/
def totals (instr : Fields → Instr) (op : Opcode) (g : Int → Int → Int) : Now :=
  computes instr op (fun _ => 1) (fun c => [c.argA 1 c.f.ty, c.argB 1 c.f.ty, c.argC 1 (wideOf c.f.ty)]) fun c t =>
    [BitVec.ofNat 32 (narrow c.f.ty.isSigned c.f.sat 32
      ((List.zipWith g (c.intA t) (c.intB t)).foldl (· + ·) (c.intC t)))]

/-- The integer arithmetic instructions in every form (R174). -/
def arithmeticTable : List Now :=
  [onInts .iadd .iadd (· + ·), onInts .iaddShort .iadd (· + ·), onInts .isub .isub (· - ·),
   onInts .isubShort .isub (· - ·), onInts .imul .imul (· * ·), onInts .imulShort .imul (· * ·),
   onInts .imulh .imulh fun a b => (a * b) / 2 ^ 32, onInts .imulhShort .imulh fun a b => (a * b) / 2 ^ 32,
   onInts .imin .imin fun a b => if b < a then b else a, onInts .iminShort .imin fun a b => if b < a then b else a,
   onInts .imax .imax fun a b => if a < b then b else a, onInts .imaxShort .imax fun a b => if a < b then b else a,
   onInt .iabs .iabs fun a => (a.natAbs : Int), onInt .iabsShort .iabs fun a => (a.natAbs : Int),
   onInt .ineg .ineg fun a => -a, onInt .inegShort .ineg fun a => -a, totals .imad .imad (· * ·)]

/-- LEA and IADDX (R175). -/
def addressTable : List Now :=
  [computes .lea .lea (fun _ => 2) (fun c => [c.argA 2 .n64, c.argB 1 c.f.ty, c.argC 1 .n32]) fun c t =>
     let index := readInt c.f.ty.isSigned 32 (c.word (c.argB 1 c.f.ty) t 0).toNat
     let sum : Addr := c.word64 (c.argA 2 .n64) t + BitVec.ofInt 64 (index * 2 ^ ((c.word (c.argC 1 .n32) t 0).toNat % 32))
     [loWord sum, hiWord sum],
   computes .iaddx .iaddx (fun _ => 2) (fun c => [c.argA 1 .n32, c.argB 1 .n32, c.argC 1 .n32]) fun c t =>
     let sum := (c.word (c.argA 1 .n32) t 0).toNat + (c.word (c.argB 1 .n32) t 0).toNat
       + (c.word (c.argC 1 .n32) t 0).toNat % 2
     [BitVec.ofNat 32 sum, BitVec.ofNat 32 (sum / 2 ^ 32)]]

/-- ISAD, DP4 and DP2 (R176). -/
def totalTable : List Now :=
  [totals .isad .isad fun a b => ((a - b).natAbs : Int), totals .dp4 .dp4 (· * ·), totals .dp2 .dp2 (· * ·)]

/-- A bitwise instruction of A and B (R179). -/
def onBits (instr : Fields → Instr) (op : Opcode) (g : Word → Word → Word) : Now :=
  computes instr op (fun c => c.f.ty.regs) operandsAB fun c t =>
    List.zipWith g (c.words (c.argA c.f.ty.regs c.f.ty) t) (c.words (c.argB c.f.ty.regs c.f.ty) t)

/-- The B operand of a shift (R179): an amount for each element of a packed type, one amount otherwise. -/
def shiftArg (c : Cx) : Arg := c.argB 1 (if c.f.ty.elemBits < 32 then c.f.ty else .n32)

/-- A shift or rotation (R179): the amounts are reduced modulo the width under .WRAP. -/
def shifts (instr : Fields → Instr) (op : Opcode) (g : Nat → Nat → Nat → Nat) : Now :=
  computes instr op (fun c => c.f.ty.regs) (fun c => [c.argA c.f.ty.regs c.f.ty, shiftArg c]) fun c t =>
    let w := c.f.ty.elemBits
    let amounts := if w < 32 then c.elems (shiftArg c) t else [(c.word (shiftArg c) t 0).toNat]
    groupWords w c.f.ty.regs (List.zipWith (fun x k => g w x (if c.f.x = 1 then k % w else k))
      (c.elems (c.argA c.f.ty.regs c.f.ty) t) amounts)

/-- An instruction on the elements of A that keeps their width. -/
def onElems (instr : Fields → Instr) (op : Opcode) (g : Nat → Nat → Nat) : Now :=
  computes instr op (fun c => c.f.ty.regs) (fun c => [c.argA c.f.ty.regs c.f.ty]) fun c t =>
    groupWords c.f.ty.elemBits c.f.ty.regs ((c.elems (c.argA c.f.ty.regs c.f.ty) t).map (g c.f.ty.elemBits))

/-- An instruction that counts bits of A (R180). -/
def counts (instr : Fields → Instr) (op : Opcode) (g : Nat → Nat → Nat) : Now :=
  computes instr op (fun _ => 1) (fun c => [c.argA c.f.ty.regs c.f.ty]) fun c t =>
    [BitVec.ofNat 32 (g c.f.ty.elemBits ((c.elems (c.argA c.f.ty.regs c.f.ty) t).getD 0 0))]

/-- The type of PACK and UNPK: B32 is read as N16x2 (R183). -/
def packTy (c : Cx) : Ty := if c.f.ty = .b32 then .n16x2 else c.f.ty

/-- The type of the elements PACK narrows: twice as wide. -/
def packFrom (c : Cx) : Ty :=
  if (packTy c).isSigned then (if (packTy c).elemBits = 8 then .s16x2 else .s32)
  else (if (packTy c).elemBits = 8 then .n16x2 else .n32)

/-- PACK (R183). -/
def packs (instr : Fields → Instr) : Now :=
  computes instr .pack (fun _ => 1) (fun c => [c.argA 1 (packFrom c), c.argB 1 (packFrom c)]) fun c t =>
    let ty := packTy c
    [fromElems ty.elemBits ((c.elems (c.argA 1 (packFrom c)) t ++ c.elems (c.argB 1 (packFrom c)) t).map fun x =>
      narrow ty.isSigned c.f.sat ty.elemBits (readInt ty.isSigned (2 * ty.elemBits) x))]

/-- UNPK (R183). -/
def unpacks (instr : Fields → Instr) : Now :=
  computes instr .unpk (fun _ => 1) (fun c => [c.argA 1 (packTy c), c.argB 1 .n32]) fun c t =>
    let ty := packTy c
    [BitVec.ofInt 32 (readInt ty.isSigned ty.elemBits
      (elem ty.elemBits (c.word (c.argA 1 ty) t 0) ((c.word (c.argB 1 .n32) t 0).toNat % (32 / ty.elemBits))))]

/-- The logic and shift instructions in every form (R179). -/
def logicTable : List Now :=
  [onBits .and .and (· &&& ·), onBits .andShort .and (· &&& ·), onBits .or .or (· ||| ·), onBits .orShort .or (· ||| ·),
   onBits .xor .xor (· ^^^ ·), onBits .xorShort .xor (· ^^^ ·), onBits .andn .andn fun a b => a &&& ~~~b,
   onBits .andnShort .andn fun a b => a &&& ~~~b,
   computes .not .not (fun c => c.f.ty.regs) (fun c => [c.argA c.f.ty.regs c.f.ty]) fun c t =>
     (c.words (c.argA c.f.ty.regs c.f.ty) t).map fun x => ~~~x,
   computes .notShort .not (fun c => c.f.ty.regs) (fun c => [c.argA c.f.ty.regs c.f.ty]) fun c t =>
     (c.words (c.argA c.f.ty.regs c.f.ty) t).map fun x => ~~~x,
   shifts .shl .shl shiftLeft, shifts .shlShort .shl shiftLeft, shifts .shr .shr shiftRight,
   shifts .shrShort .shr shiftRight, shifts .sar .sar shiftArith, shifts .sarShort .sar shiftArith,
   shifts .rotl .rotl rotateLeft, shifts .rotlShort .rotl rotateLeft, onElems .brev .brev reverseBits,
   onElems .brevShort .brev reverseBits]

/-- The counting and bit-field instructions in every form (R180). -/
def countTable : List Now :=
  [counts .popc .popc countOnes, counts .popcShort .popc countOnes, counts .clz .clz leadingZeros,
   counts .clzShort .clz leadingZeros,
   computes .bfe .bfe (fun _ => 1) (fun c => [c.argA 1 c.f.ty, c.argB 1 c.f.ty, c.argC 1 c.f.ty]) fun c t =>
     [extractField c.f.ty.isSigned (c.word (c.argA 1 c.f.ty) t 0) ((c.word (c.argB 1 c.f.ty) t 0).toNat % 256)
       (min ((c.word (c.argC 1 c.f.ty) t 0).toNat % 256) 32)],
   computes .bfi .bfi (fun _ => 1) (fun c => [c.argA 1 .b32, c.argB 1 .b32, c.argC 1 .b32]) fun c t =>
     [insertField (c.word (c.argA 1 .b32) t 0) (c.word (c.argB 1 .b32) t 0) (c.word (c.argC 1 .b32) t 0)]]

/-- PACK, UNPK and PRMT in every form (R183). -/
def packTable : List Now :=
  [packs .pack, packs .packShort, unpacks .unpk, unpacks .unpkShort,
   computes .prmt .prmt (fun _ => 1) (fun c => [c.argA 1 .b32, c.argB 1 .b32, c.argC 1 .b32]) fun c t =>
     [fromElems 8 (permuteFrom (c.word (c.argA 1 .b32) t 0) (c.word (c.argB 1 .b32) t 0) (c.word (c.argC 1 .b32) t 0)
       4 0 0)]]

/-! ### The floating-point instructions -/

/-- A floating instruction of A and B (R185, R186). -/
def onFloats (instr : Fields → Instr) (op : Opcode) (g : Cx → Fmt → Nat → Nat → Nat) : Now :=
  computes instr op (fun _ => 1) (fun c => [c.argA 1 c.f.ty, c.argB 1 c.f.ty]) fun c t =>
    [c.flWord c.f.ty (List.zipWith (g c (fmtOf c.f.ty)) (c.flA t) (c.flB t))]

/-- FNEG and FABS (R187). -/
def signs (instr : Fields → Instr) (op : Opcode) (abs : Bool) : Now :=
  computes instr op (fun _ => 1) (fun c => [c.argA 1 c.f.ty]) fun c t =>
    [fromElems (fmtOf c.f.ty).width ((c.elems (c.argA 1 c.f.ty) t).map ((fmtOf c.f.ty).modify abs (!abs)))]

/-- FRND (R188). -/
def rounds (instr : Fields → Instr) : Now :=
  computes instr .frnd (fun _ => 1) (fun c => [c.argA 1 c.f.ty]) fun c t =>
    [c.flWord c.f.ty ((c.flA t).map ((fmtOf c.f.ty).toIntegral c.f.rnd))]

/-- FSCL (R185). -/
def scales (instr : Fields → Instr) : Now :=
  computes instr .fscl (fun _ => 1) (fun c => [c.argA 1 c.f.ty, c.argB 1 .s32]) fun c t =>
    [c.flWord c.f.ty ((c.flA t).map fun x =>
      (fmtOf c.f.ty).scale c.f.rnd c.f.sat x (c.word (c.argB 1 .s32) t 0).toInt)]

/-- The short-latency floating-point instructions in every form (R184-R188). -/
def floatTable : List Now :=
  [onFloats .fadd .fadd fun c f a b => f.add c.f.rnd c.f.sat a b,
   onFloats .faddShort .fadd fun c f a b => f.add c.f.rnd c.f.sat a b,
   onFloats .fsub .fsub fun c f a b => f.add c.f.rnd c.f.sat a (f.modify false true b),
   onFloats .fsubShort .fsub fun c f a b => f.add c.f.rnd c.f.sat a (f.modify false true b),
   onFloats .fmul .fmul fun c f a b => f.mul c.f.rnd c.f.sat a b,
   onFloats .fmulShort .fmul fun c f a b => f.mul c.f.rnd c.f.sat a b,
   onFloats .fmin .fmin fun _ f a b => f.minMax false a b, onFloats .fminShort .fmin fun _ f a b => f.minMax false a b,
   onFloats .fmax .fmax fun _ f a b => f.minMax true a b, onFloats .fmaxShort .fmax fun _ f a b => f.minMax true a b,
   signs .fneg .fneg false, signs .fnegShort .fneg false, signs .fabs .fabs true, signs .fabsShort .fabs true,
   rounds .frnd, rounds .frndShort, scales .fscl, scales .fsclShort,
   computes .ffma .ffma (fun _ => 1) (fun c => [c.argA 1 c.f.ty, c.argB 1 c.f.ty, c.argC 1 c.f.ty]) fun c t =>
     let f := fmtOf c.f.ty
     [c.flWord c.f.ty (List.zipWith (fun p x => sumProducts f f c.f.rnd c.f.sat [p] x)
       ((c.flA t).zip (c.flB t)) (c.fl (c.argC 1 c.f.ty) false false t))],
   computes .fdot2 .fdot2 (fun _ => 1) (fun c => [c.argA 1 c.f.ty, c.argB 1 c.f.ty, c.argC 1 .f32]) fun c t =>
     [c.flWord .f32 [sumProducts (fmtOf c.f.ty) fp32 c.f.rnd c.f.sat ((c.flA t).zip (c.flB t))
       ((c.fl (c.argC 1 .f32) false false t).getD 0 0)]]]

/-- The source type of CVT (R190), where its SUB names one. -/
def cvtFrom (c : Cx) : Ty := (cvtSource c.f.sub).getD .f32

/-- The elements a register of a format slot holds. -/
def slotCount (c : Cx) : Nat := 32 / slotBits c.slot.fmt

/-- The conversions (R163-R168, R190-R193), the special registers (R113) and the pointer instructions (R301) that write
registers. -/
def convertTable : List Now :=
  [computes .cvt .cvt (fun c => cvtCount c.f.ty (cvtFrom c) * c.f.ty.elemBits / 32)
     (fun c => [c.argA (cvtCount c.f.ty (cvtFrom c) * (cvtFrom c).elemBits / 32) (cvtFrom c)])
     (fun c t => groupWords c.f.ty.elemBits (cvtCount c.f.ty (cvtFrom c) * c.f.ty.elemBits / 32)
       ((c.elems (c.argA (cvtCount c.f.ty (cvtFrom c) * (cvtFrom c).elemBits / 32) (cvtFrom c)) t).map
         (convertElem c.ftz c.f.sat c.f.rnd (cvtFrom c) c.f.ty)))
     (ok := fun c => (cvtSource c.f.sub).isSome),
   computes .cvts .cvts slotCount (fun c => [c.argA 1 .b32])
     (fun c t => (List.range (slotCount c)).map fun i =>
       let x := elem (slotBits c.slot.fmt) (c.word (c.argA 1 .b32) t 0) i
       BitVec.ofNat 32 (fp32.flush c.ftz (scaledUp c.slot
         (slotVal c.slot.fmt (if c.slot.fmt = 5 then x else (fmtCode c.slot.fmt).flush c.ftz x) 0))))
     (ok := fun c => c.f.sub = 0) (pre := preCvts),
   computes .cvts .cvts (fun _ => 1) (fun c => [c.argA (slotCount c) .f32])
     (fun c t => [fromElems (slotBits c.slot.fmt) ((c.words (c.argA (slotCount c) .f32) t).map fun x =>
       let y := encodeSlot c.slot 0 (fp32.flush c.ftz x.toNat)
       if c.slot.fmt = 5 then y else (fmtCode c.slot.fmt).flush c.ftz y)])
     (ok := fun c => c.f.sub ≠ 0) (pre := preCvts),
   computes .qpk .qpk (fun _ => 1) (fun c => [c.argA (quantCount c.slot.fmt) .f32, c.argB 1 .s32])
     (fun c t => [fromElems (slotBits c.slot.fmt) ((c.words (c.argA (quantCount c.slot.fmt) .f32) t).map fun x =>
       encodeSlot c.slot (zeroPoint c.slot.fmt (c.word (c.argB 1 .s32) t 0)) (fp32.flush c.ftz x.toNat))])
     (pre := preQuant fun c => c.f.aw.count),
   computes .sread .sread (fun c => c.f.ty.regs) (fun _ => []) fun c t =>
     [loWord (c.specialReg c.f.x.toNat t), hiWord (c.specialReg c.f.x.toNat t)]]

/-- The column field of a thread's pointer (R238). -/
def ptrCol (c : Cx) (t : Nat) : Nat := (c.word64 (c.argA 2 .b64) t).toNat / 2 ^ 48 % 256

/-- A pointer as two words. -/
def twoWords (x : Addr) : List Word := [loWord x, hiWord x]

/-- PTRC where it writes registers (R301), by its SUB. -/
def pointerTable : List Now :=
  [computes .ptrc .ptrc (fun _ => 1) (fun c => [c.argA 2 .b64]) (fun c t => [BitVec.ofNat 32 (ptrCol c t)])
     (ok := fun c => c.f.sub = 0) (latch := none),
   computes .ptrc .ptrc (fun _ => 2) (fun c => [c.argA 2 .b64, c.argB 1 .s32])
     (fun c t => twoWords (setCol (c.word64 (c.argA 2 .b64) t) (c.word (c.argB 1 .s32) t 0).toNat))
     (ok := fun c => c.f.sub = 1) (latch := none),
   computes .ptrc .ptrc (fun _ => 2) (fun c => [c.argA 2 .b64])
     (fun c t => twoWords (c.word64 (c.argA 2 .b64) t &&& 0x0000FFFFFFFFFFFF))
     (ok := fun c => c.f.sub = 2) (latch := none),
   computes .ptrc .ptrc (fun _ => 2) (fun c => [c.argA 2 .b64, c.argB 2 .b64])
     (fun c t => twoWords ((c.word64 (c.argA 2 .b64) t &&& 0xFFFF000000000000)
       ||| (c.word64 (c.argB 2 .b64) t &&& 0x0000FFFFFFFFFFFF)))
     (ok := fun c => c.f.sub = 3) (latch := none),
   computes .ptrc .ptrc (fun _ => 2) (fun c => [c.argA 2 .b64])
     (fun c t => twoWords (if ptrCol c t = 0xFF then setCol (c.word64 (c.argA 2 .b64) t)
       (((c.s.ctx c.asid).coll c.x.col).getD 0xFF) else c.word64 (c.argA 2 .b64) t))
     (ok := fun c => c.f.sub = 5) (latch := none)]

/-- QUPK (R193): the reserved code of TRN2 decodes 0, and its run sets TRN at its commit (R155). -/
def unquantizes : Now :=
  let base (c : Cx) : Cx :=
    if c.slot.fmt == 8 && (threads c.lanes).any fun t =>
        (List.range (quantCount c.slot.fmt)).any fun i => elem 2 (c.word (c.argA 1 .b32) t 0) i == 2
    then { c with r := { c.r with cmds := c.r.cmds ++ [.trn] } } else c
  { instr := .qupk, op := .qupk, latch := some 0, mask := Cx.lanes
    pre := preQuant fun c => if c.f.d = .zero then quantCount c.slot.fmt else c.f.dw.count
    base := fun c => (base c).consume (c.poisoned [c.argA 1 .b32, c.argB 1 .s32])
    vals := fun c => c.rows (quantCount c.slot.fmt) (c.poisoned [c.argA 1 .b32, c.argB 1 .s32]) fun t =>
      (List.range (quantCount c.slot.fmt)).map fun i =>
        BitVec.ofNat 32 (fp32.flush c.ftz (scaledUp c.slot (slotVal c.slot.fmt
          (elem (slotBits c.slot.fmt) (c.word (c.argA 1 .b32) t 0) i)
          (zeroPoint c.slot.fmt (c.word (c.argB 1 .s32) t 0))))) }

/-- SEL (R181, R395): the condition is consumed, the operand chosen is passed with its poison. -/
def selects : Now :=
  let cond (c : Cx) : Arg := c.argC 1 .b32
  { instr := .sel, op := .sel, base := fun c => c.consume (c.poisoned [cond c]), latch := some 0, mask := Cx.lanes
    vals := fun c => c.rowsPsn c.f.ty.regs fun t =>
      (if c.word (cond c) t 0 = 0 then c.wordsPsn (c.argB c.f.ty.regs c.f.ty) t
        else c.wordsPsn (c.argA c.f.ty.regs c.f.ty) t).map fun p => (p.1, p.2 || bit (c.poisoned [cond c]) t) }

/-- MOV (R181, R394): it passes its operand with its poison; a uniform one takes the lowest guarded thread's. -/
def moves (instr : Fields → Instr) : Now :=
  { instr := instr, op := .mov, base := id, latch := some 0, mask := Cx.lanes
    vals := fun c => c.rowsPsn c.f.ty.regs fun t =>
      c.wordsPsn (c.argA c.f.ty.regs c.f.ty) (if c.f.uni then (lowest c.grd).getD 0 else t) }

/-- The threads whose predicates a VOTE sees (R112): in protected mode the primaries (R89). -/
def voters (c : Cx) : Mask := if c.prot then maskOf fun t => t % 2 == 0 && bit c.grd t else c.grd

/-- The voters whose predicate is 1. -/
def ayes (c : Cx) : Mask := voters c &&& (match c.f.a with | .p n => c.r.work.pred n.toNat | _ => 0)

/-- A VOTE that writes S registers (R112). -/
def votes (sub : BitVec 6) (words : Cx → List Word) : Now :=
  { instr := .vote, op := .vote, ok := fun c => c.f.sub = sub, base := id, latch := none, mask := fun _ => 1
    vals := fun c => (words c).map fun w => { val := List.replicate 64 w, poison := 0 } }

/-- The instructions that choose, move or count without computing (R112, R181, R193). -/
def moveTable : List Now :=
  [selects, moves .mov, moves .movShort, unquantizes,
   votes 2 fun c => twoWords ((threads (ayes c)).foldl (fun m t => m ||| maskBit (c.index t)) 0),
   votes 4 fun c => [BitVec.ofNat 32 (popCount (ayes c))],
   votes 5 fun c => [match lowest (ayes c) with | some t => BitVec.ofNat 32 (c.index t) | none => 0xFFFFFFFF]]

/-! ### The predicate instructions -/

/-- The thread an instruction reads for a thread's predicate: thread 0 in a uniform form. -/
def readBy (c : Cx) (t : Nat) : Nat := if c.f.uni then 0 else t

/-- The instructions that write a predicate from their operands (R177, R182, R187, R205, R301). -/
def predicateTable : List Sets :=
  [{ instr := .icmp, op := .icmp, args := operandsAB
     value := fun c t =>
       let a := (c.intA (readBy c t)).getD 0 0
       let b := (c.intB (readBy c t)).getD 0 0
       compareCode c.f.sub.toNat (if a < b then -1 else if a = b then 0 else 1) },
   { instr := .fcmp, op := .fcmp, args := fun c => [c.argA 1 c.f.ty, c.argB 1 c.f.ty]
     value := fun c t => floatCompare c.f.sub.toNat
       ((fp32.val ((c.flA (readBy c t)).getD 0 0)).cmp (fp32.val ((c.flB (readBy c t)).getD 0 0))) },
   { instr := .fclass, op := .fclass, args := fun c => [c.argA 1 .f32, c.argB 1 .s32]
     value := fun c t => bit (c.word (c.argB 1 .s32) (readBy c t) 0)
       (fp32.classBit (c.word (c.argA 1 .f32) (readBy c t) 0).toNat) },
   { instr := .plop, op := .plop, args := fun c => [c.argA 1 .s32, c.argB 1 .s32]
     value := fun c t => plopOp c.f.sub.toNat (c.word (c.argA 1 .s32) (readBy c t) 0 != 0)
       (c.word (c.argB 1 .s32) (readBy c t) 0 != 0) },
   { instr := .pmov, op := .pmov, ok := fun c => c.f.ty.is64 = false, args := fun c => [c.argA c.f.ty.regs c.f.ty]
     value := fun c t => c.word (c.argA c.f.ty.regs c.f.ty) (readBy c t) 0 != 0 },
   { instr := .pmov, op := .pmov, ok := fun c => c.f.ty.is64 = true, args := fun c => [c.argA c.f.ty.regs c.f.ty]
     value := fun c t => bit (c.word64 (c.argA c.f.ty.regs c.f.ty) (readBy c t)) (c.index t) },
   { instr := .lsck, op := .lsck, args := fun c => [c.argA c.f.aw.count c.f.ty, c.argC 1 .s32]
     value := fun c t => c.word (c.argC 1 .s32) (readBy c t) 0 != 0
       || (c.elems (c.argA c.f.aw.count c.f.ty) (readBy c t)).any fun x =>
         match (fmtOf c.f.ty).val x with | .nan | .inf _ => true | .fin _ _ _ => false },
   { instr := .ptrc, op := .ptrc, ok := fun c => c.f.sub = 4, args := fun c => [c.argA 2 .b64]
     value := fun c t => ptrCol c (readBy c t) == 0xFF },
   { instr := .ptrc, op := .ptrc, ok := fun c => c.f.sub = 6, args := fun c => [c.argA 2 .b64]
     value := fun c t => decide ((c.word64 (c.argA 2 .b64) (readBy c t)).toNat / 2 ^ 56 = 0)
       && (ptrCol c (readBy c t) == 0xFF || ((c.s.ctx c.asid).pcol (ptrCol c (readBy c t))).isSome) }]

/-- A VOTE that writes a predicate in every guarded thread (R112). -/
def votesFlag (sub : BitVec 6) (outcome : Cx → Bool) : Sets :=
  { instr := .vote, op := .vote, ok := fun c => c.f.sub = sub, args := fun _ => [], mask := Cx.grd
    value := fun c _ => outcome c }

/-- The votes that write a predicate (R112): all, none, all or none. -/
def voteTable : List Sets :=
  [votesFlag 0 fun c => ayes c == voters c, votesFlag 1 fun c => popCount (ayes c) == 0,
   votesFlag 3 fun c => popCount (ayes c) == 0 || ayes c == voters c]

/-! ### The long-latency arithmetic instructions -/

/-- A special function in both forms (R194-R198). -/
def special (instr : Fields → Instr) (op : Opcode) (g : Sfu) : Later :=
  computesLater instr op (fun c => [c.argA 1 .f32]) fun c t => [c.flWord .f32 ((c.flA t).map (g.eval c.f.sat))]

/-- FDIV (R189). -/
def divides (instr : Fields → Instr) : Later :=
  computesLater instr .fdiv (fun c => [c.argA 1 c.f.ty, c.argB 1 c.f.ty]) fun c t =>
    [c.flWord c.f.ty (List.zipWith (fp32.div c.f.rnd c.f.sat) (c.flA t) (c.flB t))]

/-- FSQRT (R189). -/
def squareRoots (instr : Fields → Instr) : Later :=
  computesLater instr .fsqrt (fun c => [c.argA 1 c.f.ty]) fun c t =>
    [c.flWord c.f.ty ((c.flA t).map (fp32.sqrt c.f.rnd c.f.sat))]

/-- Division, square root, the special functions and GNRM in every form (R189, R194-R198, R208). -/
def slowTable : List Later :=
  [divides .fdiv, divides .fdivShort, squareRoots .fsqrt, squareRoots .fsqrtShort, special .rcp .rcp .rcp,
   special .rcpShort .rcp .rcp, special .rsq .rsq .rsq, special .rsqShort .rsq .rsq, special .sqrt .sqrt .sqrt,
   special .sqrtShort .sqrt .sqrt, special .exp2 .exp2 .exp2, special .exp2Short .exp2 .exp2,
   special .log2 .log2 .log2, special .log2Short .log2 .log2, special .sin .sin .sin, special .sinShort .sin .sin,
   special .cos .cos .cos, special .cosShort .cos .cos, special .tanh .tanh .tanh, special .tanhShort .tanh .tanh,
   special .sigm .sigm .sigm, special .sigmShort .sigm .sigm, special .erf .erf .erf, special .erfShort .erf .erf,
   special .gelu .gelu .gelu, special .geluShort .gelu .gelu,
   computesLater .gnrm .gnrm (fun c => [c.argA c.f.aw.count c.f.ty, c.argC 1 .f32]) fun c t =>
     [BitVec.ofNat 32 ((c.elems (c.argA c.f.aw.count c.f.ty) t).foldl (fun sum x =>
       let y := if c.f.ty = .f32 then flushed c.ftz x
         else (fmtOf c.f.ty).convert fp32 .rne false ((fmtOf c.f.ty).flush c.ftz x)
       flushed c.ftz (add32 sum (flushed c.ftz (mul32 y y)))) (flushed c.ftz (c.word (c.argC 1 .f32) t 0).toNat))]]

/-! ### The structural instructions -/

/-- The conditions under which the gate admits a structural instruction, which acts with no thread active too (R85). -/
def Admits (c : Cx) (op : Opcode) : Prop :=
  (∀ p ∈ c.x.pend, p.window ≠ 0 ∨ p.here = true) ∧ c.behindRest (opClass op) = false ∧ c.r.count < 24
    ∧ ((opClass op).store = true → c.r.stores < 4)
    ∧ (c.act ≠ 0 → (c.mode = 1 → c.hazard (op.spec c.f) (opClass op).readsD = none)
      ∧ (c.mode = 2 → c.stalls (op.spec c.f) (opClass op).readsD = none))

/-- A structural instruction that the gate has admitted. -/
def admitted (c : Cx) (op : Opcode) : Cx := if c.act = 0 then c else passed c op

/-- A structural instruction: what it makes of each thread's counter, of the marks and the depths, and where it goes on. -/
structure Structural where
  instr : Fields → Instr
  op : Opcode
  ok : Cx → Prop := fun _ => True
  counter : Cx → Nat → Nat
  mark : Cx → Mask := fun _ => 0
  depth : Cx → Nat := fun c => c.r.work.depth
  ldep : Cx → Nat := fun c => c.r.work.ldep
  goesTo : Cx → Addr := Cx.nxt

/-- The instruction completes with those counters, marks and depths, and changes no other register. -/
def Structural.Holds (k : Structural) : Prop :=
  ∀ (s : State) (w : Nat) (x : Warp) (f : Fields), Issuing s w x → Admits (s.cx w x f) k.op →
    let c := admitted (s.cx w x f) k.op
    k.ok c → ∃ nc : List (BitVec 8), (∀ t < 64, nc.getD t 255 = BitVec.ofNat 8 (k.counter c t))
      ∧ let d := ({ c with nxt := k.goesTo c } : Cx).modWork fun r =>
          { r with nc := nc, mark := k.mark c, depth := k.depth c, ldep := k.ldep c }
        OnlyIssued s (completes d x k.op) w ∧ exec (k.instr f) s = .next (completes d x k.op)

/-- A thread's counter. -/
def counterOf (c : Cx) (t : Nat) : Nat := c.r.work.ncOf t

/-- A thread's counter after the marked threads have exited (R85). -/
def exitedOf (c : Cx) (t : Nat) : Nat := if bit c.r.work.mark t then 255 else counterOf c t

/-- Is some thread's counter zero? -/
def someActive (counter : Nat → Nat) : Bool := (List.range 64).any fun t => counter t == 0

/-- No nesting overflow (R88): a level is free, and every counter can be raised. -/
def canNest (c : Cx) : Prop := c.r.work.depth ≠ 127 ∧ ∀ t < 64, counterOf c t ≠ 127 ∧ counterOf c t ≠ 254

/-- IF's counters (R85). -/
def ifCounter (c : Cx) (t : Nat) : Nat :=
  if counterOf c t = 0 then (if bit c.structPred t then 0 else 1) else incNc (counterOf c t)

/-- ELSE's counters (R85). -/
def elseCounter (c : Cx) (t : Nat) : Nat :=
  if exitedOf c t = 0 then 1 else if exitedOf c t = 1 then 0 else exitedOf c t

/-- ENDIF's counters (R85). -/
def endifCounter (c : Cx) (t : Nat) : Nat :=
  if 1 ≤ exitedOf c t ∧ exitedOf c t ≤ 254 then exitedOf c t - 1 else exitedOf c t

/-- ENDLOOP's counters while it decides (R85). -/
def againCounter (c : Cx) (t : Nat) : Nat := if exitedOf c t = 1 then 0 else exitedOf c t

/-- ENDLOOP's counters when the loop ends (R85). -/
def leaveCounter (c : Cx) (t : Nat) : Nat :=
  let n := againCounter c t
  if n = 128 then 0 else if 2 ≤ n ∧ n ≤ 254 then n - 1 else n

/-- ENDIF in either form. -/
def endsIf (instr : Fields → Instr) : Structural :=
  { instr := instr, op := .endif, ok := fun c => c.r.work.depth ≠ 0, counter := endifCounter
    depth := fun c => c.r.work.depth - 1 }

/-- LOOP in either form. -/
def opensLoop (instr : Fields → Instr) : Structural :=
  { instr := instr, op := .loop, ok := canNest
    counter := fun c t => if counterOf c t = 0 then 0 else incNc (counterOf c t)
    mark := fun c => c.r.work.mark, depth := fun c => c.r.work.depth + 1, ldep := fun c => c.r.work.ldep + 1 }

/-- BRK and CONT: an active thread whose predicate is 1 takes a counter. -/
def leaves (instr : Fields → Instr) (op : Opcode) (value : Cx → Nat) : Structural :=
  { instr := instr, op := op, ok := fun c => c.r.work.ldep ≠ 0, mark := fun c => c.r.work.mark
    counter := fun c t => if counterOf c t = 0 ∧ bit c.structPred t = true then value c else counterOf c t }

/-- EXIT in either form: outside every structure an active thread exits; inside one it is marked. -/
def exits (instr : Fields → Instr) : Structural :=
  { instr := instr, op := .exit
    counter := fun c t => if c.r.work.depth = 0 ∧ counterOf c t = 0 then 255 else counterOf c t
    mark := fun c => if c.r.work.depth = 0 then c.r.work.mark else c.r.work.mark ||| c.r.work.active }

/-- The structural instructions (R85). ENDLOOP goes back to its loop while a thread is active in it; a loop depth of 0 there
has no stated predecessor (log 18, DESIGN CHOICE). -/
def structuralTable : List Structural :=
  [{ instr := .ifBlock, op := .ifBlock, ok := canNest, counter := ifCounter, mark := fun c => c.r.work.mark
     depth := fun c => c.r.work.depth + 1
     goesTo := fun c => if someActive (ifCounter c) then c.nxt else c.target },
   { instr := .elseBlock, op := .elseBlock, ok := fun c => c.r.work.depth ≠ 0, counter := elseCounter
     goesTo := fun c => if someActive (elseCounter c) then c.nxt else c.target },
   endsIf .endif, endsIf .endifShort, opensLoop .loop, opensLoop .loopShort,
   leaves .brk .brk fun c => 128 + c.f.x.toNat, leaves .cont .cont fun c => c.f.x.toNat + 1,
   { instr := .endloop, op := .endloop, ok := fun c => c.r.work.depth ≠ 0
     counter := fun c t => if someActive (againCounter c) then againCounter c t else leaveCounter c t
     depth := fun c => if someActive (againCounter c) then c.r.work.depth else c.r.work.depth - 1
     ldep := fun c => if someActive (againCounter c) then c.r.work.ldep
       else if c.r.work.ldep = 0 then (c.s.freeW 0).toNat % 256 else c.r.work.ldep - 1
     goesTo := fun c => if someActive (againCounter c) then c.target else c.nxt },
   exits .exit, exits .exitShort]

/-! ### Control -/

/-- An instruction that ends its run in some way where a thread is guarded. -/
def endsRun (instr : Fields → Instr) (op : Opcode) (e : Cx → RunEnd) : Direct :=
  { instr := instr, op := op, after := fun c => if c.grd = 0 then c else c.endIn (e c) }

/-- A barrier (R115): exits first, then, where a thread is left active, its run ends in an arrival. -/
def arrivesAt (instr : Fields → Instr) (op : Opcode) (e : Cx → RunEnd) : Direct :=
  { instr := instr, op := op
    after := fun c => if c.grd = 0 then c
      else if (c.modWork Regs.applyExit).r.work.active = 0 then c.modWork Regs.applyExit
      else (c.modWork Regs.applyExit).endIn (e c) }

/-- NOP, YIELD, SLEEP, the jumps, the barriers, TRAP and TRET, and BKPT where it resumes (R105, R108, R109, R111, R115, R124,
R126): TRET belongs to a handler. -/
def controlTable : List Direct :=
  [{ instr := .nop, op := .nop, after := id }, { instr := .nopShort, op := .nop, after := id },
   { instr := .jmp, op := .jmp, after := fun c => if c.grd = 0 then c else { c with nxt := c.target } },
   { instr := .call, op := .call
     after := fun c => if c.grd = 0 then c else match c.f.d with
       | .s d => { c.writeS d.toNat [⟨loWord c.nxt, false⟩, ⟨hiWord c.nxt, false⟩] with nxt := c.target }
       | _ => c },
   { instr := .ret, op := .ret
     after := fun c => if c.grd = 0 then c
       else if c.poisoned [c.argA 2 .b64] = 0 then { c with nxt := c.word64 (c.argA 2 .b64) 0 }
       else c.consume (c.poisoned [c.argA 2 .b64]) },
   endsRun .yield .yield fun _ => .yield, endsRun .yieldShort .yield fun _ => .yield,
   { instr := .sleep, op := .sleep
     after := fun c => if c.grd = 0 then c
       else if c.poisoned [c.argA 2 .b64] = 0 then c.endIn (.sleep (some (c.word64 (c.argA 2 .b64) 0).toNat))
       else c.consume (c.poisoned [c.argA 2 .b64]) },
   arrivesAt .bar .bar fun c => .bar (c.f.x.toNat % 16), arrivesAt .gbar .gbar fun c => .gbar (c.f.x.toNat % 16),
   endsRun .trap .trap fun c => .trap (c.f.x.toNat % 256),
   { endsRun .tret .tret fun _ => .tret with ok := fun c => c.grd ≠ 0 → c.x.hmode = true }]

/-! ### Commands that a run queues -/

/-- A uniform instruction with a poisoned operand (R395): the poison is consumed, its `n` result registers are poisoned,
and nothing is queued. -/
def declined (c : Cx) (as : List Arg) (n : Nat) : Cx :=
  match c.f.d with
  | .s d => (c.consume (c.poisoned as)).writeS d.toNat
      ((List.range n).map fun j => { val := c.s.freeW (2048 + j), poison := true })
  | _ => c.consume (c.poisoned as)

/-- The same of an instruction whose results come at its run's commit (R60, R395): they are poisoned there. -/
def declinedLate (c : Cx) (as : List Arg) (n : Nat) : Cx :=
  match c.f.d with
  | .s d => (c.consume (c.poisoned as)).queue (.poisoned d.toNat n)
  | _ => c.consume (c.poisoned as)

/-- A uniform instruction (R45, R395): nothing without a guarded thread, declined where an operand is poisoned, and its
effect otherwise. `check` is what R54 and the instruction's own rule ask for then; `late` says that its results come at the
commit. -/
def commands (instr : Fields → Instr) (op : Opcode) (as : Cx → List Arg) (n : Nat) (effect : Cx → Cx)
    (check : Cx → Prop := fun _ => True) (when_ : Cx → Prop := fun _ => True) (pre : Cx → Bool := noPre)
    (late : Bool := false) : Direct :=
  { instr := instr, op := op, pre := pre
    ok := fun c => when_ c ∧ (c.grd ≠ 0 → c.poisoned (as c) = 0 → check c)
    after := fun c => if c.grd = 0 then c else if c.poisoned (as c) = 0 then effect c
      else if late then declinedLate c (as c) n else declined c (as c) n }

/-- The words of a system register (R130). -/
def systemWords (c : Cx) : List Word :=
  if systemWidth c.f.x.toNat = some 64 then [loWord (c.system c.f.x.toNat), hiWord (c.system c.f.x.toNat)]
  else [loWord (c.system c.f.x.toNat)]

/-- Is the system register 64 bits wide? -/
def wideSystem (c : Cx) : Bool := systemWidth c.f.x.toNat = some 64

/-- A barrier-object instruction has met the pool: its 16 bytes are counted (R375). -/
def objectMet (c : Cx) : Cx := { c with s := c.s.meter c.asid c.x.col 6 16 }

/-- The instructions of registers, phases, fences and launches that act once for the warp (R113, R118, R121, R122, R128,
R130, R206, R255, R294-R296). -/
def commandTable : List Direct :=
  [commands .phase .phase (fun c => if c.f.sub = 1 then [] else [c.argA 1 .s32]) 0
     fun c => c.queue (.phase (c.f.sub == 1) (c.word (c.argA 1 .s32) 0 0)),
   commands .fence .fence (fun _ => []) 0 fun c =>
     (if c.f.sub.toNat = 0 then
         ({ c with s := c.s.acquire c.x.col c.x.core c.scope, r := { c.r with fenced := max c.r.fenced 1 } } : Cx).acquires
       else if c.f.sub.toNat = 1 then ({ c with s := c.s.acquire c.x.col c.x.core c.scope } : Cx).acquires
       else c.releases).queue (.fence c.f.sub.toNat c.scope),
   commands .cpart .cpart (fun c => [c.argA 1 .s32]) 0 (fun c => c.queue (.cpart (c.word (c.argA 1 .s32) 0 0).toNat))
     fun c => (c.word (c.argA 1 .s32) 0 0).toNat % 4 = 0 ∧ (c.word (c.argA 1 .s32) 0 0).toNat ≤ 12
       ∧ c.s.foreignGrid c.asid c.x.col = false,
   commands .sysr .sysr (fun _ => []) 0 (fun c => c.putS (systemWords c))
     fun c => c.f.x.toNat < 5 ∨ c.x.rest = none,
   commands .sysw .sysw (fun c => [if wideSystem c then c.argA 2 .b64 else c.argA 1 .b32]) 0 fun c =>
     c.queue (.sysreg c.f.x.toNat (if wideSystem c then c.word64 (c.argA 2 .b64) 0
       else (c.word (c.argA 1 .b32) 0 0).setWidth 64)),
   { instr := .swrite, op := .swrite
     after := fun c =>
       let t := if c.f.uni then 0 else (lowest c.grd).getD 0
       if c.grd = 0 then c
       else if c.poisonAt (c.argA 1 .b32) t then c.consume 1
       else c.queue (.sreg c.f.x.toNat (c.word (c.argA 1 .b32) t 0)) },
   commands .lsupd .lsupd (fun c => [c.argA 1 .s32]) 2 fun c =>
     let l := c.loss.step (c.word (c.argA 1 .s32) 0 0 != 0) (c.s.freeW 4000)
     match c.f.d with
     | .s d => (c.putS [l.scale, l.stat]).queue (.lsupd d.toNat (c.word (c.argA 1 .s32) 0 0 != 0))
     | _ => c,
   commands .chkerr .chkerr (fun c => [c.argA 2 .b64]) 2
     (fun c =>
       let v := (c.s.ctx c.asid).cirAt c.x.col
       match c.f.d with
       | .s d => (c.putS [loWord v, hiWord v]).queue (.chkerr d.toNat (c.word64 (c.argA 2 .b64) 0))
       | _ => c)
     fun c => ((c.s.recOf c.x).rstrt && ((c.s.blockOf c.x).map Block.poison).getD false) = false,
   commands .arrv .arrv (fun c => c.poolArgs ++ [c.argD 1 .n32]) 0
     (fun c => match c.objectPlace with
       | .ok (_, .spad col off) =>
         (if bit c.f.x 1 then (objectMet c).releases else objectMet c).queue (.arrv col off
           (if c.f.d = Sel.zero then 1 else (objectMet c).word (c.argD 1 .n32) 0 0)
           (if bit c.f.x 1 then some c.scope else none))
       | _ => c)
     fun c => ∃ p, c.objectPlace = .ok p,
   commands .launch .launch (fun c => [c.argA 2 .b64]) 1
     (fun c => (if c.engineOrd.rel then c.releases else c).queue (.launch c.dreg (c.word64 (c.argA 2 .b64) 0)
       (if c.engineOrd.rel then some c.engineOrd.scope else none)))
     (fun c => ((c.s.gridOf c.x).map Grid.depth).getD 0 ≠ 10 ∧ (c.word64 (c.argA 2 .b64) 0).toNat % 256 = 0) (late := true),
   commands .tape .tape (fun c => [c.argA 2 .b64]) 1
     (fun c => c.queue (.tape 0 (bit c.f.x 0) c.dreg (c.word64 (c.argA 2 .b64) 0)))
     (fun c => ((c.s.gridOf c.x).map Grid.depth).getD 0 ≠ 10 ∧ (c.word64 (c.argA 2 .b64) 0).toNat % 256 = 0)
     (fun c => c.f.sub = 0) (late := true),
   commands .tape .tape (fun _ => []) 2 (fun c => c.queue (.tape 1 false c.dreg 0)) (when_ := fun c => c.f.sub = 1),
   commands .tape .tape (fun _ => []) 1 (fun c => c.queue (.tape 2 false c.dreg 0)) (when_ := fun c => c.f.sub = 2)]

/-- The waits that end a run (R119, R123, R233, R324, R347): what they wait for is entered when the run has committed. -/
def waitTable : List Direct :=
  [commands .waitb .waitb (fun c => c.poolArgs ++ [c.argD 1 .n32]) 0
     (fun c => match c.objectPlace with
       | .ok (_, .spad col off) =>
         (objectMet c).endIn (.waitb col off
           ((objectMet c).word (c.argD 1 .n32) 0 0)
           (if bit c.f.x 0 then some c.scope else none))
       | _ => c)
     fun c => ∃ p, c.objectPlace = .ok p,
   commands .cwait .cwait (fun c => [c.argA 1 .b32]) 1 fun c => match c.f.d with
     | .s d => c.endIn (.cwait d.toNat (c.word (c.argA 1 .b32) 0 0))
     | _ => c,
   commands .gwait .gwait (fun c => [c.argA 1 .b32]) 1 fun c => c.endIn (.gwait c.dreg (c.word (c.argA 1 .b32) 0 0)),
   commands .mwait .mwait (fun c => [c.argA 1 .n32]) 0 (fun c => c.endIn (.mwait (c.word (c.argA 1 .n32) 0 0)))
     (when_ := fun c => c.r.work.mark = 0 ∧ c.r.work.nc.any (fun n => n != 0) = false),
   commands .mrgWait .mrgWait (fun c => [c.argA 2 .b64]) 1
     (fun c => match c.f.d with
       | .s d => c.endIn (.mrgWait d.toNat c.ref)
       | _ => c)
     fun c => badRef c.ref = false]

/-! ### Copies, matrix and merge commands -/

/-- A copy or bank command (R317-R319): queued where its pointers, its words and its length pass. -/
def copies (instr : Fields → Instr) (op : Opcode) (as : Cx → List Arg) (chk : Cx → CopyCheck) (cmd : Cx → CopyCmd) :
    Direct :=
  commands instr op as 4 (fun c => c.queue (.copy (cmd c)))
    (fun c => (chk c).fault (((c.s.gangOf c.x).map Gang.size).getD 1) = none) (late := true)

/-- Pointer A. -/
def ptrA (c : Cx) : Addr := c.word64 (c.argA 2 .b64) 0
/-- Pointer B. -/
def ptrB (c : Cx) : Addr := c.word64 (c.argB 2 .b64) 0

/-- A copy of one row of the length in the first word of C. -/
def oneRow (c : Cx) (op : CopyOp) (bank : Bool) (k : Arg) : CopyCmd :=
  { c.copyCmd op bank with dst := ptrA c, len := (c.word k 0 0).toNat, row := (c.word k 0 0).toNat }

/-- BCOPY and BCMP. -/
def bankPair (instr : Fields → Instr) (op : Opcode) (kind : CopyOp) : Direct :=
  copies instr op (fun c => [c.argA 2 .b64, c.argB 2 .b64, c.argC 1 .n32])
    (fun c => { bank := true, ptrs := [ptrA c, ptrB c], aligned := [(c.word (c.argC 1 .n32) 0 0).toNat] })
    fun c => { oneRow c kind true (c.argC 1 .n32) with src := ptrB c }

/-- The copy and bank commands (R317, R323, R326). -/
def copyTable : List Direct :=
  [copies .cpy .cpy (fun c => [c.argA 2 .b64, c.argB 2 .b64, c.argC 2 .b32])
     (fun c => { ptrs := [ptrA c, ptrB c], barrier := [c.word (c.argC 2 .b32) 0 1]
                 aligned := [(c.word (c.argC 2 .b32) 0 0).toNat] })
     fun c => { oneRow c .cpy false (c.argC 2 .b32) with src := ptrB c, barrier := c.word (c.argC 2 .b32) 0 1 },
   copies .cpy2 .cpy2 (fun c => [c.argA 2 .b64, c.argB 2 .b64, c.argC 8 .b32])
     (fun c =>
       let k (j : Nat) : Word := c.word (c.argC 8 .b32) 0 j
       { ptrs := [ptrA c, ptrB c], barrier := [k 4], zeros := [k 5, k 6, k 7]
         aligned := [(k 0).toNat, (k 2).toNat, (k 3).toNat], room := decide ((k 0).toNat * (k 1).toNat < 2 ^ 32) })
     fun c =>
       let k (j : Nat) : Word := c.word (c.argC 8 .b32) 0 j
       { oneRow c .cpy2 false (c.argC 8 .b32) with
         src := ptrB c, len := (k 0).toNat * (k 1).toNat, dstride := (k 2).toNat, sstride := (k 3).toNat
         barrier := k 4 },
   copies .cpyz .cpyz (fun c => [c.argA 2 .b64, c.argC 2 .b32])
     (fun c => { ptrs := [ptrA c], barrier := [c.word (c.argC 2 .b32) 0 1]
                 aligned := [(c.word (c.argC 2 .b32) 0 0).toNat] })
     fun c => { oneRow c .cpyz false (c.argC 2 .b32) with barrier := c.word (c.argC 2 .b32) 0 1 },
   copies .cpyx .cpyx (fun c => [c.argA 2 .b64, c.argB 2 .b64, c.argC 4 .b32])
     (fun c =>
       let k (j : Nat) : Word := c.word (c.argC 4 .b32) 0 j
       { ptrs := [ptrA c, ptrB c], barrier := [k 1], link := [k 2], zeros := [k 3], aligned := [(k 0).toNat] })
     fun c => { oneRow c .cpyx false (c.argC 4 .b32) with
                src := ptrB c, barrier := c.word (c.argC 4 .b32) 0 1, link := c.word (c.argC 4 .b32) 0 2 },
   copies .bzero .bzero (fun c => [c.argA 2 .b64, c.argC 1 .n32])
     (fun c => { bank := true, ptrs := [ptrA c], aligned := [(c.word (c.argC 1 .n32) 0 0).toNat] })
     fun c => oneRow c .bzero true (c.argC 1 .n32),
   bankPair .bcopy .bcopy .bcopy, bankPair .bcmp .bcmp .bcmp,
   commands .bfence .bfence (fun _ => []) 0 fun c => c.queue (.copy (c.copyCmd .bfence true))]

/-- All threads active and none marked (R87). -/
def wholeWarp (c : Cx) : Prop := c.r.work.mark = 0 ∧ c.r.work.nc.any (fun n => n != 0) = false

/-- Descriptors that pass R214: no code of its fields, and their places inside. -/
def DescriptorsPass (c : Cx) (ds : List (Desc × List Nat × Layout)) : Prop :=
  lowestCode (ds.flatMap fun d => d.2.1.map fun k => (k, d.1.addr)) = none
    ∧ (ds.findSome? fun d => c.descPlace d.1 d.2.2) = none

/-- A matrix command of an instruction, as its run queues it. -/
def matrixCmd (c : Cx) (op : MatOp) (a b : List Word) : QCmd :=
  .mat { op := op, tile := c.tile, descA := a, descB := b, slotA := c.f.x.toNat % 8, slotB := c.f.x.toNat / 8 % 8
         ord := c.matrixOrd, warp := c.w, block := c.x.block, batch := 0, next := 0, pc := c.pc }

/-- MMA and MMAT (R211, R213, R214, R228). -/
def multiplies (instr : Fields → Instr) (op : Opcode) (kind : MatOp) (pre : Cx → Bool) : Direct :=
  commands instr op (fun c => [c.argA 4 .b32, c.argB 4 .b32]) 0
    (fun c => c.queue (matrixCmd c kind (c.words (c.argA 4 .b32) 0) (c.words (c.argB 4 .b32) 0)))
    (fun c =>
      let da := descOf (c.words (c.argA 4 .b32) 0)
      let db := descOf (c.words (c.argB 4 .b32) 0)
      let chunk := ((matPair (kind == .mmat) c.slotA.fmt c.slotB.fmt).map Prod.fst).getD 16
      let two (k : Nat) : List Nat := if badK chunk k c.slotA c.slotB || da.k != db.k then [2] else []
      let la := c.slotA.layout da.k 192 (!da.ori)
      let lb := c.slotB.layout db.k 128 db.ori
      DescriptorsPass c [(da, da.codes true la ++ two da.k, la), (db, db.codes true lb ++ two db.k, lb)])
    wholeWarp pre

/-- MLDZ and MST (R214, R230, R231). -/
def movesTile (instr : Fields → Instr) (op : Opcode) (kind : MatOp) : Direct :=
  commands instr op (fun c => [c.argA 4 .b32]) 0 (fun c => c.queue (matrixCmd c kind (c.words (c.argA 4 .b32) 0) []))
    (fun c =>
      let d := descOf (c.words (c.argA 4 .b32) 0)
      let l := c.slotA.tileLayout d.ori
      DescriptorsPass c [(d, d.codes false l ++ (if d.k = 0 then [] else [2]), l)])
    wholeWarp preTile

/-- The matrix commands and MFENCE (R228-R232). -/
def matrixTable : List Direct :=
  [multiplies .mma .mma .mma preMma, multiplies .mmat .mmat .mmat preMmat,
   commands .mzero .mzero (fun _ => []) 0 (fun c => c.queue (matrixCmd c .mzero [] [])) (when_ := wholeWarp),
   movesTile .mldz .mldz .mldz, movesTile .mst .mst .mst,
   commands .mfence .mfence (fun _ => []) 1 (fun c => match c.f.d with | .s d => c.queue (.mfence d.toNat) | _ => c)
     (when_ := wholeWarp),
   { instr := .mstat, op := .mstat, ok := fun c => wholeWarp c ∧ c.grd = 0, after := id }]

/-- A merge command (R342): queued where its reference and its words pass. -/
def merges (instr : Fields → Instr) (op : Opcode) (as : Cx → List Arg) (checks : Cx → List (Bool × Cause))
    (cmd : Cx → QCmd) : Direct :=
  commands instr op as 0 (fun c => c.queue (cmd c)) fun c => mergeFault (c.refCheck :: checks c) = none

/-- The words of MRG.OPEN that must be zero or in range (R342). -/
def badOpen (l w : Word) : Bool :=
  decide (w.toNat / 2 ^ 25 ≠ 0) || decide (w.toNat / 2 ^ 22 % 4 ≠ 0) || decide (w.toNat / 2 ^ 13 % 8 ≠ 0)
    || openK w == 0 || decide (4096 < openK w) || badLimit l

/-- The words of MRG.PUT that must be zero or in range (R342). -/
def badPut (w : Word) : Bool :=
  bit w 31 || decide (w.toNat / 2 ^ 22 % 4 ≠ 0) || decide (w.toNat / 2 ^ 12 % 16 ≠ 0) || decide (64 < putT0 w + putNt w)

/-- The merge commands (R342-R346). -/
def mergeTable : List Direct :=
  [merges .mrgOpen .mrgOpen (fun c => [c.argA 2 .b64, c.argB 2 .b64, c.argC 2 .b32])
     (fun c => [(c.s.stationOf c.asid c.x.col c.ref != some c.x.col, mergeCause 0x11),
       (badOpen (c.word (c.argC 2 .b32) 0 0) (c.word (c.argC 2 .b32) 0 1), mergeCause 0x12),
       (decide ((ptrB c).toNat / 2 ^ 56 ≠ 0), { code := 0x21, info := 0, addr := ptrB c }),
       (decide ((ptrB c).toNat % 256 ≠ 0), misaligned (ptrB c))])
     fun c => c.mergeCmd .openRound (ptrB c) (c.word (c.argC 2 .b32) 0 0) (c.word (c.argC 2 .b32) 0 1),
   merges .mrgPut .mrgPut (fun c => [c.argA 2 .b64, c.argB 2 .b64, c.argC 1 .b32])
     (fun c => [(badPut (c.word (c.argC 1 .b32) 0 0), mergeCause 0x12),
       (badCopyPtr false (ptrB c), { code := 0x21, info := 0, addr := ptrB c }),
       (decide ((ptrB c).toNat % 256 ≠ 0), misaligned (ptrB c))])
     fun c => c.mergeCmd .put (ptrB c) (c.word (c.argC 1 .b32) 0 0) 0,
   merges .mrgEnd .mrgEnd (fun c => [c.argA 2 .b64, c.argB 1 .n32])
     (fun c => [(decide ((c.word (c.argB 1 .n32) 0 0).toNat / 2 ^ 12 ≠ 0), mergeCause 0x12)])
     fun c => c.mergeCmd .endGroup 0 (c.word (c.argB 1 .n32) 0 0) 0,
   merges .mrgRank .mrgRank (fun c => [c.argA 2 .b64, c.argB 1 .n32])
     (fun c => [(decide ((c.word (c.argB 1 .n32) 0 0).toNat / 2 ^ 8 ≠ 0), mergeCause 0x12)])
     fun c => c.mergeCmd .rank 0 (c.word (c.argB 1 .n32) 0 0) 0,
   merges .mrgDrop .mrgDrop (fun c => [c.argA 2 .b64]) (fun _ => []) fun c => c.mergeCmd .drop 0 0 0]

/-! ### Memory -/

/-- How many bytes an access asks its address to be a multiple of, by axis (R239, R272, R281). -/
def axisUnit (c : Cx) : Nat := match c.axis with | 0 => 4 | 1 => 1 | _ => 2

/-- The threads whose address is poisoned (R394). -/
def badAddress (c : Cx) : Mask := c.poisoned c.addrArgs

/-- The accesses of LD and ST: their bytes along the axis, translated (R289). -/
def memAccesses (c : Cx) (need : Need) : List Access × List (Nat × Cause) :=
  c.accesses (c.actors (badAddress c)) c.memAddr (!c.touchKind.noL1 && c.axis == 0) c.bytesD c.axis (axisUnit c) need

/-- What a load's registers receive: each thread the words its own access read, and, where its address was poisoned, poison
(R289, R394). -/
def loaded (c : Cx) (psn : Mask) (got : List (Nat × List (Byte × Bool))) : List Lanes :=
  c.rowsPsn c.f.dw.count fun t =>
    if bit psn t then List.replicate c.f.dw.count (0, true)
    else match got.find? fun g => g.1 == c.lead t with
      | some g => wordsOf c.f.dw.count g.2
      | none => []

/-- LD before it reads: the poison of its address is consumed, and an acquire is made (R255). -/
def ldBegins (c : Cx) : Cx := (c.consume (badAddress c)).acquiring

/-- A load of some accesses: no fault among them, no bank command that a BFENCE of its run holds it behind, and then each
thread's bytes: those of the latest buffered store of its own run that wrote the address, or of memory (R80). -/
def loads (instr : Fields → Instr) (op : Opcode) (accs : Cx → List Access × List (Nat × Cause)) (psn : Cx → Mask)
    (begins : Cx → Cx) (key : Place → Nat) (t : Cx → Touch) (when_ : Cx → Prop := fun _ => True) : Later :=
  { instr := instr, op := op, ok := fun c => when_ c ∧ (accs c).2 = [] ∧ (begins c).fencedBank = false
    base := fun c => (begins c).readNoted key (accs c).1 (t c), latch := some 2, mask := Cx.lanes
    vals := fun c => loaded ((begins c).readNoted key (accs c).1 (t c)) (psn c) ((begins c).loadAll key (accs c).1 (t c)).got
    reads := true }

/-- A load that a BFENCE of its run holds behind bank commands (R326): its result cannot come before those are performed, and
what it will read is noted. -/
def loadsBehind (instr : Fields → Instr) (op : Opcode) (accs : Cx → List Access × List (Nat × Cause)) (psn : Cx → Mask)
    (begins : Cx → Cx) (key : Place → Nat) (t : Cx → Touch) (when_ : Cx → Prop := fun _ => True) : Later :=
  { instr := instr, op := op, ok := fun c => when_ c ∧ (accs c).2 = [] ∧ (begins c).fencedBank = true
    base := fun c => (begins c).touchAll ((accs c).1.flatMap Access.ps) (t c), latch := some 2, mask := Cx.lanes
    vals := fun c => List.replicate c.f.dw.count Lanes.zero
    fx := fun c => .load c.r.bfenceAt none (psn c) ((begins c).loadBehind key (accs c).1), ready := fun _ => false, reads := true }

/-- A load in both ways. -/
def bothLoads (instr : Fields → Instr) (op : Opcode) (accs : Cx → List Access × List (Nat × Cause)) (psn : Cx → Mask)
    (begins : Cx → Cx) (key : Place → Nat) (t : Cx → Touch) (when_ : Cx → Prop := fun _ => True) : List Later :=
  [loads instr op accs psn begins key t when_, loadsBehind instr op accs psn begins key t when_]

/-- The private accesses of LDL and STL (R278, R290). -/
def ownAccesses (c : Cx) (need : Need) : List Access × List (Nat × Cause) :=
  c.privAccesses (c.actors (c.poisoned [c.argB 1 .n32])) c.f.dw.count need

/-- The threads whose offset in B is poisoned. -/
def badOffset (c : Cx) : Mask := c.poisoned [c.argB 1 .n32]

/-- LDL in either form. -/
def loadsOwn (instr : Fields → Instr) : List Later :=
  bothLoads instr .ldl (fun c => ownAccesses c { read := true }) badOffset (fun c => c.consume (badOffset c)) Place.priv
    fun _ => { priv := true }

/-- LDK's limits (R291). -/
def constLimits (c : Cx) : List (Nat × Cause) :=
  (c.actors (badOffset c)).filterMap fun t => (c.constFault (c.offset t) c.bytesD).map fun k => (t, k)

/-- LDK of the constant bank (R291). -/
def loadsConst (instr : Fields → Instr) : List Later :=
  bothLoads instr .ldk
    (fun c => c.accesses (c.actors (badOffset c)) (fun t => (c.s.recOf c.x).const + BitVec.ofNat 64 (c.offset t)) true
      c.bytesD 0 1 { read := true })
    badOffset (fun c => c.consume (badOffset c)) Place.va (fun _ => {})
    fun c => c.f.sub ≠ 1 ∧ constLimits c = []

/-- LDK of the scheduler's copy of the launch record (R291). -/
def loadsRecord (instr : Fields → Instr) : Later :=
  { instr := instr, op := .ldk, ok := fun c => c.f.sub = 1 ∧ constLimits c = []
    base := fun c => c.consume (badOffset c), latch := some 2, mask := Cx.lanes
    vals := fun c => loaded (c.consume (badOffset c)) (badOffset c) ((c.actors (badOffset c)).map fun t =>
      (t, (List.range c.bytesD).map fun i => ((c.s.recOf c.x).bytes.getD (c.offset t + i) 0, false))) }

/-- The pool accesses of PLD and PST (R308, R309). -/
def windowAccesses (c : Cx) : List Access × List (Nat × Cause) :=
  c.poolAccesses (c.actors (c.poisoned c.poolArgs)) c.bytesD 4

/-- An access of the pool counted (R375). -/
def poolMet (c : Cx) (n : Nat) (accs : List Access) : Cx :=
  { c with s := c.s.meter c.asid c.x.col 6 (n * accs.length) }

/-- A load of the pool once its accesses are counted, with what a fence makes it rest on (R255). -/
def poolRead (c : Cx) : Cx :=
  let d := c.consume (c.poisoned c.poolArgs)
  let e := poolMet d c.bytesD (windowAccesses c).1
  { e with r := { e.r with late := e.r.late ++ (d.loadAll Place.pool (windowAccesses c).1 {}).rest } }

/-- PLD (R309): where its run has acquired behind a load that waits for bank commands, it waits for them too (R268); the model
then ends the run before a PLD of an object at which the run arrives (log 86, DESIGN CHOICE). -/
def poolLoads : List Later :=
  [{ instr := .pld, op := .pld, ok := fun c => (windowAccesses c).2 = [] ∧ c.r.behind = false, base := poolRead, latch := some 2
     mask := Cx.lanes
     vals := fun c => loaded (poolRead c) (c.poisoned c.poolArgs)
       ((c.consume (c.poisoned c.poolArgs)).loadAll Place.pool (windowAccesses c).1 {}).got },
   { instr := .pld, op := .pld
     ok := fun c => (windowAccesses c).2 = [] ∧ c.r.behind = true ∧ c.meetsArrival (windowAccesses c).1 = false
     base := fun c => poolMet (c.consume (c.poisoned c.poolArgs)) c.bytesD (windowAccesses c).1, latch := some 2, mask := Cx.lanes
     vals := fun c => List.replicate c.f.dw.count Lanes.zero
     fx := fun c => .load c.r.bfenceAt none (c.poisoned c.poolArgs) (c.loadBehind Place.pool (windowAccesses c).1)
     ready := fun _ => false }]

/-- The loads (R289-R291, R309). -/
def loadTable : List Later :=
  bothLoads .ld .ld (fun c => memAccesses c { read := true }) badAddress ldBegins Place.va Cx.touchKind
    ++ loadsOwn .ldl ++ loadsOwn .ldlShort ++ loadsConst .ldk ++ loadsConst .ldkShort
    ++ [loadsRecord .ldk, loadsRecord .ldkShort] ++ poolLoads

/-- What a store adds to its run (R80, R289): its bytes, which no memory holds before the commit. -/
def buffers (c : Cx) (d : Arg) (key : Place → Nat) (accs : List Access) (priv pool : Bool) (rel : Option Nat) (k : Touch) :
    BufStore :=
  { bytes := c.storeBytes d key accs, so := !pool && accs.any fun a => a.ps.any fun p => p.kind == 1, priv := priv
    rel := rel, pool := pool, colAx := k.colAx, stream := k.stream, noL1 := k.noL1, zero := false
    after := c.r.cmds.length, pc := c.pc }

/-- The leaves of some accesses held by the columns' TLBs (R363). -/
def noted (c : Cx) (accs : List Access) : Cx :=
  let leaves := accs.flatMap fun a => a.ps.filterMap Place.leaf
  { c with s := leaves.foldl (fun s (pe : Nat × TlbEntry) => s.fillTlb pe.1 pe.2) c.s }

/-- STL in either form. -/
def storesOwn (instr : Fields → Instr) : Direct :=
  { instr := instr, op := .stl, ok := fun c => (ownAccesses c { write := true }).2 = [], reads := true
    after := fun c =>
      let accs := (ownAccesses c { write := true }).1
      let d := noted (c.consume (badOffset c)) accs
      d.buffer (buffers d (c.argD c.f.dw.count .b32) Place.priv accs true false none {})
        (d.compared d.lanes (fun t => BitVec.ofNat 64 (d.offset t)) (d.words (c.argD c.f.dw.count .b32))) }

/-- The stores, whose bytes are buffered in their run (R289, R290, R309); PREF and CCTL (R292, R293). -/
def storeTable : List Direct :=
  [{ instr := .st, op := .st, ok := fun c => (memAccesses c { write := true }).2 = [], reads := true
     after := fun c =>
       let accs := (memAccesses c { write := true }).1
       let d := noted (c.consume (badAddress c)) accs
       let d := if c.f.x.toNat % 4 = 1 then d.releases else d
       d.buffer (buffers d (c.argD c.f.dw.count c.f.ty) Place.va accs false false
           (if c.f.x.toNat % 4 = 1 then some c.scope else none) c.touchKind)
         (d.compared d.lanes d.memAddr (d.words (c.argD c.f.dw.count c.f.ty))) },
   storesOwn .stl, storesOwn .stlShort,
   { instr := .pst, op := .pst, ok := fun c => (windowAccesses c).2 = []
     after := fun c =>
       let accs := (windowAccesses c).1
       let d := poolMet (c.consume (c.poisoned c.poolArgs)) c.bytesD accs
       d.buffer (buffers d (c.argD c.f.dw.count c.f.ty) Place.pool accs false true none {})
         (d.compared d.lanes (fun t => pair (BitVec.ofNat 32 (d.offset t)) (d.word (d.argA 1 .n32) t 0))
           (d.words (c.argD c.f.dw.count c.f.ty))) },
   { instr := .pref, op := .pref, reads := true
     after := fun c =>
       (c.consume (badAddress c)).touchAll ((c.accesses (c.actors (badAddress c)) c.memAddr
         (!c.touchKind.noL1 && c.axis == 0) 1 0 1 { read := true }).1.flatMap Access.ps) c.touchKind },
   { instr := .cctl, op := .cctl, ok := fun c => c.f.sub.toNat < 4
     after := fun c => (c.consume (badAddress c)).queue (.cctl c.f.sub.toNat
       ((c.actors (badAddress c)).filterMap fun t => c.cctlLine (c.memAddr t))) }]

/-- What a CCTL on the column cache needs of its addresses: CCZERO must be able to write (R293). -/
def cctlAccesses (c : Cx) : List Access × List (Nat × Cause) :=
  c.accesses (c.actors (badAddress c)) c.memAddr true 1 0 1
    (if c.f.sub.toNat = 8 then { write := true } else { read := true })

/-- The sectors of a CCTL, each once. -/
def cctlPlaces (c : Cx) : List Place :=
  ((cctlAccesses c).1.flatMap Access.ps).foldl
    (fun acc p => if acc.any fun q => q.va / 1024 == p.va / 1024 then acc else acc ++ [p]) []

/-- CCTL on the column cache (R293): it is performed after the commit, and CCZERO forwards its zeros within the run. -/
def sectorOperation : Direct :=
  { instr := .cctl, op := .cctl, reads := true, ok := fun c => 4 ≤ c.f.sub.toNat ∧ (cctlAccesses c).2 = []
    after := fun c =>
      let ps := cctlPlaces c
      let d := c.consume (badAddress c)
      let d : Cx := { d with s := (ps.filterMap Place.leaf).foldl (fun s (pe : Nat × TlbEntry) => s.fillTlb pe.1 pe.2) d.s }
      let zeros : BufStore :=
        { bytes := ps.flatMap sectorZeros, so := ps.any fun p => p.kind == 1, priv := false, rel := none, pool := false
          colAx := false, stream := false, noL1 := false, zero := true, after := d.r.cmds.length, pc := d.pc }
      (if c.f.sub.toNat = 8 then d.buffer zeros [] else d).queue
        (.cctl c.f.sub.toNat (ps.map fun p => (p.lcol, p.off, p.loc))) }

/-! ### Atomics and exchanges -/

/-- The threads in which an atomic performs nothing. -/
def atomIdle (kind : AtomKind) (regs : Nat) (pool : Bool) (c : Cx) : Mask :=
  c.atomStop (if pool then c.poolArgs else c.addrArgs) kind regs

/-- The accesses of an atomic (R297, R311). -/
def atomAccesses (kind : AtomKind) (regs : Nat) (pool : Bool) (c : Cx) : List Access × List (Nat × Cause) :=
  if pool then c.poolAccesses (c.actors (atomIdle kind regs pool c)) c.atomBytes c.atomBytes
  else c.accesses (c.actors (atomIdle kind regs pool c)) c.memAddr false c.atomBytes 0 c.atomBytes
    { read := true, write := true }

/-- The address of a thread's atomic, as protected mode compares it (R90). -/
def atomAddr (pool : Bool) (c : Cx) (t : Nat) : Addr :=
  if pool then pair (BitVec.ofNat 32 (c.offset t)) (c.word (c.argA 1 .n32) t 0) else c.memAddr t

/-- An atomic before its poison is consumed: a pool access is counted. -/
def atomMet (kind : AtomKind) (regs : Nat) (pool : Bool) (c : Cx) : Cx :=
  if pool then poolMet c c.atomBytes (atomAccesses kind regs pool c).1 else c

/-- An atomic once its poison is consumed. -/
def atomConsumed (kind : AtomKind) (regs : Nat) (pool : Bool) (c : Cx) : Cx :=
  (atomMet kind regs pool c).consume (atomIdle kind regs pool c ||| (atomMet kind regs pool c).dataPoison kind regs)

/-- An atomic that returns its old value (R297, R311): the result is awaited until the commit of its run has performed it. -/
def fetches (instr : Fields → Instr) (op : Opcode) (kind : AtomKind) (regs : Cx → Nat) (pool : Bool) : Later :=
  { instr := instr, op := op, ok := fun c => (atomAccesses kind (regs c) pool c).2 = []
    base := fun c => atomConsumed kind (regs c) pool c, latch := some 2, mask := Cx.lanes
    vals := fun c => (atomConsumed kind (regs c) pool c).rowsPsn (if kind = .acas then regs c / 2 else regs c) fun t =>
      ((atomConsumed kind (regs c) pool c).words ((atomMet kind (regs c) pool c).argD (regs c) c.f.ty) t).map
        fun w => (w, bit (atomIdle kind (regs c) pool c) t)
    ready := fun c => (atomAccesses kind (regs c) pool c).1.isEmpty
    rest := fun c d => (atomMet kind (regs c) pool c).endAtomic d kind (regs c) (atomAccesses kind (regs c) pool c).1
      (atomAddr pool (atomMet kind (regs c) pool c)) }

/-- The atomics that return a value (R297, R299, R311). -/
def atomTable : List Later :=
  [fetches .atom .atom .atom (fun c => c.f.ty.regs) false, fetches .acas .acas .acas (fun c => 2 * c.f.ty.regs) false,
   fetches .afadd .afadd .afadd (fun _ => 1) false, fetches .patom .patom .patom (fun c => c.f.ty.regs) true]

/-- RED (R297): an atomic that returns nothing. -/
def reduces : Direct :=
  { instr := .red, op := .red, ok := fun c => (atomAccesses .red c.f.ty.regs false c).2 = []
    after := fun c => c.endAtomic (atomConsumed .red c.f.ty.regs false c) .red c.f.ty.regs
      (atomAccesses .red c.f.ty.regs false c).1 c.memAddr }

/-- XCH and XRED (R303): the run ends in the exchange; its result is awaited until the members have met. -/
def exchanges (instr : Fields → Instr) (op : Opcode) (red : Bool) (n : Cx → Nat) : Later :=
  { instr := instr, op := op, base := id, latch := some 3, mask := Cx.grd
    vals := fun c => (c.sends (n c)).map fun _ => Lanes.zero, ready := fun _ => false
    rest := fun c d => c.endExchange d red (n c) }

/-- The exchanges. -/
def exchangeTable : List Later :=
  [exchanges .xch .xch false fun c => c.f.aw.count, exchanges .xred .xred true fun c => c.f.ty.regs]

/-! ### Lanes, and results that come later -/

/-- A lane movement (R312-R316): each thread's words are those of the thread `src` names, with their poison. -/
def movesLanes (instr : Fields → Instr) (op : Opcode) (psn : Cx → Mask) (src : Cx → Nat → List (Word × Bool))
    (ok : Cx → Prop := fun _ => True) (pre : Cx → Bool := noPre) : Later :=
  { instr := instr, op := op, pre := pre, ok := ok, base := fun c => c.consume (psn c), latch := some 3, mask := Cx.lanes
    vals := fun c => c.rowsPsn c.f.ty.regs fun t => (src c t).map fun w => (w.1, w.2 || bit (psn c) t) }

/-- SHFL's B operand, signed where it is a distance. -/
def laneArg (c : Cx) : Arg := c.argB 1 (if c.f.sub.toNat = 0 ∨ c.f.sub.toNat = 3 then .n32 else .s32)

/-- The threads whose SHFL consumes a poisoned B: none where the pattern does not read it. -/
def laneBad (c : Cx) : Mask := if c.f.sub.toNat = 4 then 0 else c.poisoned [laneArg c]

/-- The thread a thread's SHFL takes from (R312, R316). -/
def laneFrom (c : Cx) (t : Nat) : Nat :=
  c.laneThread t (c.index t / c.segment * c.segment
    + shuffleLane c.f.sub.toNat c.segment (c.index t % c.segment) (c.word (laneArg c) t 0))

/-- The permutation slot BPERM uses. -/
def slotQ (c : Cx) : QSlot := c.r.work.q.getD (c.f.x.toNat % 4) { words := [], poison := false }

/-- What REDX combines: the A group of each guarded lane of one half (R315, R316). -/
def contributions (c : Cx) (half : Nat) : List (Option (List Word)) :=
  (List.range c.laneCount).map fun i =>
    if bit c.grd (c.laneThread half i) then some (c.words (c.argA c.f.ty.regs c.f.ty) (c.laneThread half i)) else none

/-- A thread's half in protected mode: the primaries reduce among themselves, and so do the shadows. -/
def halfOf (c : Cx) (t : Nat) : Nat := if c.prot && t % 2 == 1 then 1 else 0

/-- The lane instructions (R312, R314-R316). -/
def laneTable : List Later :=
  [movesLanes .shfl .shfl laneBad fun c t => c.wordsPsn (c.argA c.f.ty.regs c.f.ty) (laneFrom c t),
   movesLanes .bperm .bperm (fun c => if (slotQ c).poison then c.lanes else 0)
     (fun c t => c.wordsPsn (c.argA c.f.ty.regs c.f.ty) ((benes (slotQ c).words).getD t 0))
     (fun c => c.slotPending (c.f.x.toNat % 4) = none)
     preUnprotected,
   movesLanes .redx .redx (fun c => c.poisoned [c.argA c.f.ty.regs c.f.ty]) fun c t =>
     (((butterfly c.f.ty c.f.sub.toNat c.laneCount (if c.prot then [16, 8, 4, 2, 1] else [32, 16, 8, 4, 2, 1])
       (contributions c (halfOf c t))).getD (c.index t) none).getD []).map fun w =>
         (w, (threads (c.poisoned [c.argA c.f.ty.regs c.f.ty])).any fun u => !c.prot || u % 2 == t % 2)]

/-- The words BSET loads (R313). -/
def bsetAccesses (c : Cx) : List Access × List (Nat × Cause) :=
  c.accesses (c.actors (badAddress c)) c.memAddr true 64 0 64 { read := true }

/-- A word in every thread. -/
def everywhere (w : Word) (psn : Bool) : Lanes := { val := List.replicate 64 w, poison := if psn then 1 else 0 }

/-- MUPD's step in a thread (R201, R202): its D triple is p, m and v, A is g, and B holds the seven factors. -/
def mupdStep (c : Cx) (t : Nat) : List Nat × Bool × Bool :=
  let w (a : Arg) (j : Nat) : Nat := (c.word a t j).toNat
  adamw c.ftz c.loss (w (c.argD 3 .f32) 0) (w (c.argD 3 .f32) 1) (w (c.argD 3 .f32) 2) (w (c.argA 1 .f32) 0)
    ((List.range 7).map (w (c.argB 7 .f32)))

/-- The threads in which MUPD consumes poison: none while SKIP is set (R201). -/
def mupdBad (c : Cx) : Mask := if bit c.loss.stat 2 then 0 else c.poisoned [c.argA 1 .f32, c.argB 7 .f32, c.argD 3 .f32]

/-- The threads whose MUPD runs. -/
def mupdLive (c : Cx) : List Nat := (threads c.lanes).filter fun t => !bit (mupdBad c) t

/-- How many updates were suppressed (R203); in protected mode a primary and its shadow count once. -/
def mupdCount (c : Cx) : Nat :=
  let supp := (mupdLive c).filter fun t => (mupdStep c t).2.1
  if c.prot then ((List.range 32).filter fun i => supp.any fun t => t / 2 == i).length else supp.length

/-- MRG.STAT's word (R348): 0 of a round that is not there, and of one at a peer without a mutual pairing (R373); at that of a
paired peer's station, what the peer decides is free (log 26, DESIGN CHOICE). -/
def mergeWord (c : Cx) : Word :=
  if refRem c.ref then (if (c.s.mutual c.asid (refPeer c.ref)).isNone then 0 else peerStat (c.s.freeW 0) c.f.sub.toNat)
  else match c.s.stationOf c.asid c.x.col c.ref with
    | none => 0
    | some st => if c.s.reachable st then c.s.mergeStat c.asid st (refId c.ref) c.f.sub.toNat else 0

/-- MRG.STAT of a round of this device behind an order of its run: a load of the round's slot, which must still say at the
commit what it said (R255, R355). -/
def statNoted (c : Cx) : Cx :=
  if 2 ≤ c.r.fenced ∧ refRem c.ref = false then
    { c with r := { c.r with lateStat := c.r.lateStat ++ [(c.ref, c.f.sub.toNat, mergeWord c)] } }
  else c

/-- RDCTR's meter (R129). -/
def meterRead (c : Cx) : Addr := mapGetD (c.s.ctx c.asid).meters (16 * c.x.col + c.f.x.toNat % 32) 0

/-- BSET, MUPD, RDCTR, MSTAT and MRG.STAT (R129, R201-R203, R234, R313, R348); with no thread guarded each writes nothing. -/
def lateTable : List Later :=
  [{ instr := .bset, op := .bset, pre := preUnprotected
     ok := fun c => c.grd ≠ 0 ∧ badAddress c = 0 ∧ (bsetAccesses c).2 = [] ∧ c.fencedBank = false
     base := fun c => c.readNoted Place.va (bsetAccesses c).1 {}, latch := none, mask := fun _ => 0, vals := fun _ => []
     fx := fun c =>
       let ws := wordsOf 11 (((c.loadAll Place.va (bsetAccesses c).1 {}).got.head?.map Prod.snd).getD [])
       .bset (c.f.x.toNat % 4) (ws.map Prod.fst) (ws.any Prod.snd)
     reads := true },
   { instr := .bset, op := .bset, pre := preUnprotected
     ok := fun c => c.grd ≠ 0 ∧ badAddress c = 0 ∧ (bsetAccesses c).2 = [] ∧ c.fencedBank = true
     base := fun c => c.touchAll ((bsetAccesses c).1.flatMap Access.ps) {}, latch := none, mask := fun _ => 0, vals := fun _ => []
     fx := fun c => .load c.r.bfenceAt (some (c.f.x.toNat % 4)) 0 (c.loadBehind Place.va (bsetAccesses c).1)
     ready := fun _ => false, reads := true },
   { instr := .mupd, op := .mupd, base := fun c => c.consume (mupdBad c), latch := none, mask := Cx.lanes
     vals := fun c => c.rowsPsn 4 fun t => (List.range 4).map fun j =>
       (BitVec.ofNat 32 ((mupdStep c t).1.getD j 0),
        bit (mupdBad c) t || (decide (j < 3) && bit c.loss.stat 2 && (c.rd 3 c.f.d .f32 t j).2))
     fx := fun c => .mupd (mupdCount c) ((mupdLive c).any fun t => (mupdStep c t).2.2) },
   { instr := .rdctr, op := .rdctr, ok := fun c => c.grd = 0, base := id, latch := none, mask := fun _ => 0
     vals := fun _ => [Lanes.zero, Lanes.zero] },
   { instr := .rdctr, op := .rdctr, ok := fun c => c.grd ≠ 0, base := id, latch := none, mask := fun _ => 1
     vals := fun c => [everywhere (loWord (meterRead c)) false, everywhere (hiWord (meterRead c)) false] },
   { instr := .mstat, op := .mstat, ok := fun c => wholeWarp c ∧ c.grd ≠ 0, base := id, latch := none, mask := fun _ => 1
     vals := fun _ => List.replicate 4 Lanes.zero, fx := fun c => .mstat c.tile },
   { instr := .mrgStat, op := .mrgStat, ok := fun c => c.grd = 0, base := id, latch := none, mask := fun _ => 0
     vals := fun _ => [Lanes.zero] },
   { instr := .mrgStat, op := .mrgStat, ok := fun c => c.grd ≠ 0 ∧ c.poisoned [c.argA 2 .b64] ≠ 0
     base := fun c => c.consume (c.poisoned [c.argA 2 .b64]), latch := none, mask := fun _ => 1
     vals := fun _ => [everywhere 0 true] },
   { instr := .mrgStat, op := .mrgStat
     ok := fun c => c.grd ≠ 0 ∧ c.poisoned [c.argA 2 .b64] = 0 ∧ badRef c.ref = false ∧ c.r.behind = false
     base := statNoted, latch := none, mask := fun _ => 1, vals := fun c => [everywhere (mergeWord c) false] }]

/-- BSET with no thread guarded, or with a poisoned address, which it consumes. -/
def bsetNothing : Direct :=
  { instr := .bset, op := .bset, pre := preUnprotected, ok := fun c => c.grd = 0 ∨ badAddress c ≠ 0
    after := fun c => if c.grd = 0 then c else c.consume (badAddress c) }

/-! ### Breakpoints -/

/-- BKPT where it does nothing: no thread guarded, or the breakpoint that TRET resumed at, whose skip is then used up
(R111, R126). -/
def passesBreak (instr : Fields → Instr) : Direct :=
  { instr := instr, op := .bkpt, ok := fun c => c.grd = 0 ∨ (c.x.bskip = some c.pc ∧ c.r.skipped = false)
    after := fun c => if c.grd = 0 then c else { c with r := { c.r with skipped := true } } }

/-- BKPT in both forms. -/
def breakTable : List Direct := [passesBreak .bkpt, passesBreak .bkptShort]

/-! ### The gate -/

/-- The checks of an encoding that need the machine (R54, R164, R192, R214, R316). -/
def machineCheck : Opcode → Cx → Bool
  | .cvts => preCvts
  | .qpk => preQuant fun c => c.f.aw.count
  | .qupk => preQuant fun c => if c.f.d = .zero then quantCount c.slot.fmt else c.f.dw.count
  | .mma => preMma
  | .mmat => preMmat
  | .mldz | .mst => preTile
  | .bset | .bperm => preUnprotected
  | _ => noPre

/-- The instructions that act with no thread active: the structural ones, and BKPT, which looks at its own guard (R85,
R111). -/
def actsAlways : Opcode → Bool
  | .ifBlock | .elseBlock | .endif | .loop | .brk | .cont | .endloop | .exit | .bkpt => true
  | _ => false

/-- An encoded instruction of an opcode, in the form its fields name, as a warp issues it. -/
def Encoded (i : Instr) (op : Opcode) (f : Fields) : Prop := i.encoded = some (op, f) ∧ op.instr f = i

/-- What a synchronous trap of an issuing instruction leaves: its run discarded, and the trap taken with the run's first
instruction as the resume point (R81, R124). -/
def trapped (s : State) (w : Nat) (c : Cx) (k : Cause) (mask : Mask) : State :=
  ((s.walked w k).discardRun w).takeTrap w k mask c.pc c.r.startPc false (k.code == 2)

/-- No result stands in the way of the next instruction (R100). -/
def NoneDue (c : Cx) : Prop := ∀ p ∈ c.x.pend, p.window ≠ 0 ∨ p.here = true

/-- Room in the run (R56). -/
def HasRoom (c : Cx) (op : Opcode) : Prop := c.r.count < 24 ∧ ((opClass op).store = true → c.r.stores < 4)

/-- Where an instruction that passes the gate begins: it waits for no result, and for nothing that its warp's last run has
still to perform (R326, R353). -/
def Gated (s : State) (w : Nat) (x : Warp) (op : Opcode) (f : Fields) : Prop :=
  Issuing s w x ∧ machineCheck op (s.cx w x f) = true ∧ NoneDue (s.cx w x f) ∧ (s.cx w x f).behindRest (opClass op) = false

/-! ### Instructions that fault -/

/-- A synchronous fault of an instruction: its cause, and the threads it names, where it meets one. -/
structure Faulting where
  instr : Fields → Instr
  op : Opcode
  pre : Cx → Bool := noPre
  fault : Cx → Option (Cause × Mask)

/-- The instruction traps with its fault, and its run is discarded (R81, R392). -/
def Faulting.Holds (k : Faulting) : Prop :=
  ∀ (s : State) (w : Nat) (x : Warp) (f : Fields), Issuing s w x → k.pre (s.cx w x f) = true → Opens (s.cx w x f) k.op →
    ∀ c m, k.fault (atIssue s w x k.op f) = some (c, m) → exec (k.instr f) s = .next (trapped s w (s.cx w x f) c m)

/-- The fault that an instruction reports of those its threads met (R273, R392): a uniform one names every active thread. -/
def reported (c : Cx) (fs : List (Nat × Cause)) : Option (Cause × Mask) :=
  (worst fs).map fun k => (k.1, if c.f.uni then c.act else k.2)

/-- A fault of some accesses. -/
def accessFault (instr : Fields → Instr) (op : Opcode) (accs : Cx → List Access × List (Nat × Cause)) : Faulting :=
  { instr := instr, op := op, fault := fun c => reported c (accs c).2 }

/-- LDK's faults (R291): an offset past its bank first, then those of its accesses. -/
def constFaults (instr : Fields → Instr) : Faulting :=
  { instr := instr, op := .ldk
    fault := fun c => match reported c (constLimits c) with
      | some k => some k
      | none => if c.f.sub = 1 then none
        else reported c (c.accesses (c.actors (badOffset c)) (fun t => (c.s.recOf c.x).const + BitVec.ofNat 64 (c.offset t))
          true c.bytesD 0 1 { read := true }).2 }

/-- The faults of the memory instructions (R273, R291, R308). -/
def accessFaultTable : List Faulting :=
  [accessFault .ld .ld fun c => memAccesses c { read := true }, accessFault .st .st fun c => memAccesses c { write := true },
   accessFault .ldl .ldl fun c => ownAccesses c { read := true },
   accessFault .ldlShort .ldl fun c => ownAccesses c { read := true },
   accessFault .stl .stl fun c => ownAccesses c { write := true },
   accessFault .stlShort .stl fun c => ownAccesses c { write := true },
   constFaults .ldk, constFaults .ldkShort, accessFault .pld .pld windowAccesses, accessFault .pst .pst windowAccesses,
   { instr := .cctl, op := .cctl, fault := fun c => if c.f.sub.toNat < 4 then none else reported c (cctlAccesses c).2 },
   accessFault .atom .atom fun c => atomAccesses .atom c.f.ty.regs false c,
   accessFault .acas .acas fun c => atomAccesses .acas (2 * c.f.ty.regs) false c,
   accessFault .afadd .afadd fun c => atomAccesses .afadd 1 false c,
   accessFault .red .red fun c => atomAccesses .red c.f.ty.regs false c,
   accessFault .patom .patom fun c => atomAccesses .patom c.f.ty.regs true c]

/-- A fault of a uniform instruction whose operands are there and not poisoned (R45, R395): it names every active thread. -/
def commandFault (instr : Fields → Instr) (op : Opcode) (as : Cx → List Arg) (fault : Cx → Option Cause)
    (pre : Cx → Bool := noPre) : Faulting :=
  { instr := instr, op := op, pre := pre
    fault := fun c => if c.grd = 0 ∨ c.poisoned (as c) ≠ 0 then none else (fault c).map fun k => (k, c.act) }

/-- The fault of a copy command (R319). -/
def copyFault (c : Cx) (k : CopyCheck) : Option Cause := k.fault (((c.s.gangOf c.x).map Gang.size).getD 1)

/-- The fault of a record pointer (R121): the depth, then the alignment. -/
def recordFault (c : Cx) : Option Cause :=
  if ((c.s.gridOf c.x).map Grid.depth).getD 0 = 10 then some { code := 0x15, info := 10, addr := 0 }
  else if (c.word64 (c.argA 2 .b64) 0).toNat % 256 ≠ 0 then some (misaligned (c.word64 (c.argA 2 .b64) 0)) else none

/-- The fault of a barrier object's place (R120). -/
def objectFault (c : Cx) : Option Cause := match c.objectPlace with | .error e => some e | .ok _ => none

/-- The fault of some descriptors (R214): the lowest code of their fields, then their places. -/
def descriptorFault (c : Cx) (ds : List (Desc × List Nat × Layout)) : Option Cause :=
  match lowestCode (ds.flatMap fun d => d.2.1.map fun k => (k, d.1.addr)) with
  | some (k, a) => some { code := 0x30, info := BitVec.ofNat 32 k, addr := a }
  | none => ds.findSome? fun d => c.descPlace d.1 d.2.2

/-- The faults of the commands: CPART (R296), LAUNCH and TAPE.PUSH (R121), the barrier objects (R120), copies between columns
and in a bank (R319), the descriptors of MST and MLDZ (R214), and the references of merges (R342). -/
def commandFaultTable : List Faulting :=
  [commandFault .cpart .cpart (fun c => [c.argA 1 .s32]) fun c =>
     let v := (c.word (c.argA 1 .s32) 0 0).toNat
     if v % 4 ≠ 0 ∨ 12 < v then some { code := 0x29, info := 1, addr := 0 }
     else if c.s.foreignGrid c.asid c.x.col then some { code := 0x29, info := 2, addr := 0 } else none,
   commandFault .launch .launch (fun c => [c.argA 2 .b64]) recordFault,
   { commandFault .tape .tape (fun c => [c.argA 2 .b64]) recordFault with
     fault := fun c => if c.f.sub = 0 then (commandFault .tape .tape (fun c => [c.argA 2 .b64]) recordFault).fault c else none },
   commandFault .arrv .arrv (fun c => c.poolArgs ++ [c.argD 1 .n32]) objectFault,
   commandFault .waitb .waitb (fun c => c.poolArgs ++ [c.argD 1 .n32]) objectFault,
   commandFault .cpyz .cpyz (fun c => [c.argA 2 .b64, c.argC 2 .b32]) fun c => copyFault c
     { ptrs := [ptrA c], barrier := [c.word (c.argC 2 .b32) 0 1], aligned := [(c.word (c.argC 2 .b32) 0 0).toNat] },
   commandFault .cpy .cpy (fun c => [c.argA 2 .b64, c.argB 2 .b64, c.argC 2 .b32]) fun c => copyFault c
     { ptrs := [ptrA c, ptrB c], barrier := [c.word (c.argC 2 .b32) 0 1], aligned := [(c.word (c.argC 2 .b32) 0 0).toNat] },
   commandFault .bzero .bzero (fun c => [c.argA 2 .b64, c.argC 1 .n32]) fun c => copyFault c
     { bank := true, ptrs := [ptrA c], aligned := [(c.word (c.argC 1 .n32) 0 0).toNat] },
   commandFault .bcopy .bcopy (fun c => [c.argA 2 .b64, c.argB 2 .b64, c.argC 1 .n32]) fun c => copyFault c
     { bank := true, ptrs := [ptrA c, ptrB c], aligned := [(c.word (c.argC 1 .n32) 0 0).toNat] },
   { commandFault .mst .mst (fun c => [c.argA 4 .b32]) (fun _ => none) preTile with
     fault := fun c =>
       let d := descOf (c.words (c.argA 4 .b32) 0)
       let l := c.slotA.tileLayout d.ori
       if c.r.work.mark ≠ 0 ∨ (c.r.work.nc.any fun n => n != 0) = true then none
       else (commandFault .mst .mst (fun c => [c.argA 4 .b32]) fun c =>
         descriptorFault c [(d, d.codes false l ++ (if d.k = 0 then [] else [2]), l)]).fault c },
   { commandFault .mldz .mldz (fun c => [c.argA 4 .b32]) (fun _ => none) preTile with
     fault := fun c =>
       let d := descOf (c.words (c.argA 4 .b32) 0)
       let l := c.slotA.tileLayout d.ori
       if c.r.work.mark ≠ 0 ∨ (c.r.work.nc.any fun n => n != 0) = true then none
       else (commandFault .mldz .mldz (fun c => [c.argA 4 .b32]) fun c =>
         descriptorFault c [(d, d.codes false l ++ (if d.k = 0 then [] else [2]), l)]).fault c },
   commandFault .mrgEnd .mrgEnd (fun c => [c.argA 2 .b64, c.argB 1 .n32]) fun c => mergeFault
     [c.refCheck, (decide ((c.word (c.argB 1 .n32) 0 0).toNat / 2 ^ 12 ≠ 0), mergeCause 0x12)],
   commandFault .mrgRank .mrgRank (fun c => [c.argA 2 .b64, c.argB 1 .n32]) fun c => mergeFault
     [c.refCheck, (decide ((c.word (c.argB 1 .n32) 0 0).toNat / 2 ^ 8 ≠ 0), mergeCause 0x12)],
   commandFault .mrgDrop .mrgDrop (fun c => [c.argA 2 .b64]) fun c => mergeFault [c.refCheck],
   commandFault .mrgWait .mrgWait (fun c => [c.argA 2 .b64]) fun c => mergeFault [c.refCheck]]

/-! ### Traps -/

/-- The places of a trap frame at a pointer, as a warp meets them (R124). -/
def frameAt (s : State) (x : Warp) (ptr : Addr) (need : Need) : Except Cause (List Place) :=
  s.places x.col x.core (s.asidOf x) true ptr 128 0 need

/-- A trap that reaches the handler: the warp is not in it, it has one, and the frame can be written (R124). -/
def Delivers (s : State) (x : Warp) (ps : List Place) : Prop :=
  x.hmode = false ∧ s.tvecOf x ≠ 0 ∧ frameAt s x (s.framePtr x) { write := true } = .ok ps

/-- A warp once another party has written some bytes: a run of its that read one of them with an SO load is to be discarded
(R245). -/
def toldSo (bs : List ByteW) (x : Warp) : Warp := { x with run := x.run.map fun r => r.struck bs }

/-- Some bytes stored at some places, without poison. -/
def storedAt (ps : List Place) (bs : List Byte) : List ByteW :=
  (ps.zip bs).map fun p => { loc := p.1.loc, va := 0, byte := p.2, poison := false }

/-- The cell of a memory that a location names. -/
def cellOf : Loc → Nat × Nat
  | .mem c pa _ => (0, memKey c pa)
  | .host pa => (1, pa)
  | .spad c o => (2, spadKey c o)
  | .peer d a p => (3, peerKey d a p)

/-- Two locations of one line of column memory are named under one key (R367). -/
def SameKey (s : State) (l m : Loc) : Prop :=
  match l, m with
  | .mem c pa k, .mem d qa j => memKey c pa / 32 = memKey d qa / 32 → s.keyOf k = s.keyOf j
  | _, _ => True

/-- The byte that some bytes, written in order, leave in the cell of a location; none where none of them is written there. -/
def lastByte (bs : List ByteW) (l : Loc) : Option Byte :=
  (bs.reverse.find? fun b => cellOf b.loc == cellOf l).map ByteW.byte

/-- Every location a party of a column reads holds the last of some bytes written there, and what it held before where none
was, as far as it is named under the key the bytes are written with. -/
def Stores (s t : State) (viewer : Nat) (bs : List ByteW) : Prop :=
  ∀ l, (∀ b ∈ bs, SameKey s b.loc l) → (t.readLoc viewer l).1 = (lastByte bs l).getD (s.readLoc viewer l).1

/-- A run that has ended in some way and that nothing holds back from its commit: not a wait (R82, R219, R245, R320), not a
disagreement in protected mode (R90), not an overwritten SO load (R245), not a load that an order of the commit overtakes
(R255), not a scale mismatch (R218); and no arrival stands to be performed before it (R243). -/
def Committing (s : State) (w : Nat) (x : Warp) (r : Run) (e : RunEnd) : Prop :=
  s.warp w = some x ∧ x.run = some r ∧ r.ended = some e ∧ x.resident = true ∧ s.mustWait w x r = false
    ∧ (∀ p ∈ r.cmp, p.1 = p.2) ∧ r.soHit = false ∧ s.overtaken x r = false ∧ s.arrivals = []
    ∧ ∃ m, countMats (s.recOf x) r.cmds (((s.blockOf x).map Block.counted).getD []) = .ok m

/-- A warp after its run has committed: the run's registers are its own (R79). -/
def settledWarp (x : Warp) (r : Run) : Warp :=
  { x with regs := r.settled, run := none, pend := x.pend.map Pending.settled, bskip := none, soTries := 0, begun := true }

/-- Bits `lo` to `lo + n - 1` of some bytes, the first lowest. -/
def bitsOf (bs : List Byte) (lo n : Nat) : Nat := leNat bs / 2 ^ lo % 2 ^ n

/-! ### Events -/

/-- An instruction that completes with a next state of which something holds. -/
def Answers (i : Instr) (s : State) (p : State → Prop) : Prop := ∃ t, exec i s = .next t ∧ p t

/-- A warp to which no event waits to be delivered at its run boundary (R393). -/
def Calm (x : Warp) : Prop := x.swapReq = false ∧ x.retired = false ∧ x.colFail = [] ∧ x.wdog = false

/-- Every byte of every memory reads as before. -/
def SameBytes (s t : State) : Prop := t.mem = s.mem ∧ t.spad = s.spad ∧ t.host = s.host ∧ t.peer = s.peer

/-- Every byte of column memory, of the scratchpads and of peers' memory is as before, and of host memory every one that a
column has not written back (R252, R285). -/
def Unwritten (s t : State) : Prop :=
  t.mem = s.mem ∧ t.spad = s.spad ∧ t.peer = s.peer ∧ (Memory.wf s.host = true → WrittenBack s t)

/-- Nothing of the warps, the blocks, the gangs and the grids has changed. -/
def SameWork (s t : State) : Prop := t.warps = s.warps ∧ t.blocks = s.blocks ∧ t.gangs = s.gangs ∧ t.grids = s.grids

/-- A mailbox command ended (R382): FWCMD and FWSTAT, and FWMB outside the recovery state. -/
def MailboxEnded (s t : State) (cmd : Word) (result : Nat) : Prop :=
  t.dev.fwcmd = cmd ∧ t.dev.fwstat = BitVec.ofNat 32 (result * 2 ^ 8 + t.dev.staged.length % 256 * 2 ^ 16)
    ∧ (s.dev.bootst ≠ 0xF → bit t.dev.irqst 5 = true) ∧ SameBytes s t ∧ SameWork s t

/-- A context-management command ended without an error (R360, R374). -/
def Managed (t : State) (code asid : Nat) : Prop :=
  t.dev.cmcmd = BitVec.ofNat 32 (code + asid % 8192 * 2 ^ 16) ∧ t.dev.cmstat = 0 ∧ bit t.dev.irqst 3 = true

/-- A context that the interface manages (R360, R378): the device is up, and the ASID is live. -/
def Manageable (s : State) (asid : Nat) : Prop := s.dev.bootst = 4 ∧ asid < 8192 ∧ (s.ctx asid).live = true

/-- The machine after a cold start (R18, R367, R378-R381): nothing of the contexts, of their work or of the engines is left,
every CYC is 0, the device's registers hold their reset values, the flash stands, and key slot 0 has a key that no slot had. -/
structure ColdStarted (s t : State) : Prop where
  work : t.warps = [] ∧ t.blocks = [] ∧ t.gangs = [] ∧ t.grids = [] ∧ t.contexts = [] ∧ t.cores = []
  engines : t.rounds = [] ∧ t.copies = [] ∧ t.merges = [] ∧ t.arrivals = [] ∧ t.inbound = [] ∧ t.notices = []
  clocks : t.cyc = List.replicate 128 0
  device : t.dev = { Dev.reset with flash := s.dev.flash }
  keys : t.keys = [(0, (0, 2 * s.nextId))]
  columns : ∀ c, t.column c
    = { Column.reset with live := (s.column c).live, spuse := (s.column c).spmap, spmap := (s.column c).spmap }
  memory : t.mem = s.mem ∧ t.host = s.host ∧ t.peer = s.peer ∧ t.spad = []

/-- A context-management command ended with an error (R360): it has changed nothing. -/
def NotManaged (s t : State) (code asid result : Nat) : Prop :=
  t.dev.cmcmd = BitVec.ofNat 32 (code + asid % 8192 * 2 ^ 16) ∧ t.dev.cmstat = BitVec.ofNat 32 (result * 2 ^ 8)
    ∧ bit t.dev.irqst 3 = true ∧ t.contexts = s.contexts ∧ t.keys = s.keys ∧ SameBytes s t ∧ SameWork s t

/-- No TLB entry and no L1 line of a context is left that a test on logical column, offset and length names (R362, R366). -/
def Forgotten (t : State) (asid : Nat) (hit : Nat → Nat → Nat → Bool) : Prop :=
  (∀ p, ∀ e ∈ (t.column p).tlb, e.asid = asid → hit e.lcol (e.page * 2 ^ e.shift) (2 ^ e.shift) = false)
    ∧ ∀ c, ∀ k < 4, ∀ e ∈ (t.core c k).l1, e.asid = asid → hit e.lcol (64 * e.vline) 64 = false

/-- The runs in flight of a context, and no others, are discarded (R362). -/
def RunsDiscarded (s t : State) (asid : Nat) : Prop :=
  ∀ v x, s.warp v = some x →
    if s.asidOf x = asid ∧ x.run.isSome = true then t.warp v = some x.discard else t.warp v = some x

/-- Every other context is as before. -/
def OtherContexts (s t : State) (asid : Nat) : Prop := ∀ a, a ≠ asid → t.ctx a = s.ctx a

/-- Is a location in a column's memory or scratchpad? -/
def Here : Loc → Prop
  | .mem _ _ _ | .spad _ _ => True
  | _ => False

/-- Every byte of column memory and of the scratchpads is the last of some bytes written there, and what it was where none
was, as far as it is named under the key the bytes are written with. -/
def StoresHere (s t : State) (bs : List ByteW) : Prop :=
  ∀ l, Here l → (∀ b ∈ bs, SameKey s b.loc l) → (t.readLoc 0 l).1 = (lastByte bs l).getD (s.readLoc 0 l).1

/-- Some bytes an engine writes at some places. -/
def writtenAt (ls : List Loc) (bs : List Byte) : List ByteW :=
  (ls.zip bs).map fun p => { loc := p.1, va := 0, byte := p.2, poison := false }

/-- Places that lie all in column memory or all on the host. -/
def OnePlace (ls : List Loc) : Prop := (∀ l ∈ ls, ∃ c pa k, l = .mem c pa k) ∨ ∀ l ∈ ls, ∃ pa, l = .host pa

/-- A host read answered last with some bytes; where no error of the array and no failed read stands, it carries poison where
one of them does (R394), and none besides but that of a line of an L1. -/
def ReadOut (s t : State) (got : List (Byte × Bool)) : Prop :=
  ∃ p, t.msgs.getLast? = some (.read (BitVec.ofNat 64 (leNat (got.map Prod.fst))) p)
    ∧ (s.errs = [] → s.readPsn = [] → (got.any Prod.snd = true → p = true)
      ∧ ((∀ c, ∀ k < 4, ∀ e ∈ (s.core c k).l1, e.psn = false) → p = got.any Prod.snd))

/-- A word of a barrier object (R117): COUNT at 0, ARRIVED at 4, PHASE at 8. -/
def objectWord (s : State) (col off i : Nat) : Word := BitVec.ofNat 32 (leNat (cellsGet s.spad (spadKey col (off + i)) 4))

/-- The members of an exchange that stand arrived: their numbers, warps and arrivals, in ascending order (R302, R303). -/
def arrivedOf (ms : List Member) : List (Nat × Nat × Arrival) :=
  (List.range ms.length).filterMap fun i =>
    match ms[i]? with
    | some m => if m.lost then none else m.warp.bind fun kv => kv.2.arrived.map fun a => (i, kv.1, a)
    | none => none

/-- The command that a core's engine performs next, on a column that works, for the block that the engine serves or for the
first it is to serve, and that waits for no store that precedes it in its run (R209, R219, R269). -/
def Next (s : State) (col core : Nat) (m : MatCmd) (b : Block) : Prop :=
  s.nextMat col core = some m ∧ s.block m.block = some b ∧ (s.column col).failed = 0 ∧ (s.column col).halted = false
    ∧ ((s.core col core).serving = none ∨ (s.core col core).serving = some m.block) ∧ s.matHeld m = false

/-- What a command of a block needs to reach memory: its column, core, context, gang and record. -/
def matCtxOf (s : State) (col core : Nat) (b : Block) : MatCtx :=
  let grid := (s.gang b.gang).bind fun g => s.grid g.grid
  { col := col, core := core, asid := (grid.map Grid.asid).getD 0, gang := b.gang, rcd := (grid.map Grid.rcd).getD Record.empty }

/-- What an engine that has performed a chunk or a line leaves: one tile of the block is `z`, and the command is gone
from the queue where that was the last of its units, or else stands at the next. -/
def UnitDone (s t : State) (col core : Nat) (m : MatCmd) (b : Block) (z : Tile) (units : Nat) : Prop :=
  (t.core col core).engine = (if units ≤ m.next + 1 then (s.core col core).engine.erase m
      else (s.core col core).engine.replace m { m with next := m.next + 1 })
    ∧ ∃ b', t.block m.block = some b' ∧ b'.tiles = b.tiles.set m.tile z

/-- The total of a round after its head contributor's tiles have been added with a scale (R336). -/
def addedTotal (r : Round) (sc : Word) : List (List Word) :=
  (List.range r.t).map fun i => List.zipWith (fun a x => accumulate r.bf16 a x sc) (r.total.getD i [])
    (mapGetD (r.contributor r.head).tiles i (List.replicate 1024 0))

/-- The bytes of a round's total (R338). -/
def totalBytesOf (r : Round) (total : List (List Word)) : List Byte :=
  total.flatMap fun t => t.flatMap fun w => leBytes (elemBytes r.bf16) w.toNat

/-- Every warp that waits for a round of a context at a station knows its fate (R338, R339). -/
def Told (s t : State) (st asid id fate : Nat) : Prop :=
  ∀ v x d ref, s.warp v = some x → x.run = none → x.wait = .mrgWait d ref 0 → s.asidOf x = asid → refId ref = id →
    s.stationOf asid x.col ref = some st → t.warp v = some { x with wait := .mrgWait d ref fate }

/-! ### Encodings written out -/

/-- An extended form that names nothing: every field at its default (R40, R44). -/
def blankExt : Fields :=
  { form := .ext, rb := false, uni := false, gp := 7, la := 0, rnd := .rne, ty := .s32, sub := 0, d := .zero, a := .zero
    b := .zero, c := .zero, dw := .w1, aw := .w1, bw := .w1, cw := .w1, da := false, db := false, dc := false
    keep := false, kc := 0, na := false, nb := false, absa := false, sat := false, x := 0, lit := none }

/-- A short form that names nothing (R41, R43). -/
def blankShort : Fields := { blankExt with form := .short }

end Sys2Proof
end

