-- ==== Sys2Proof/Certificates/Slice0/Obligations.lean ====
section
/-! DEFINITION. The statements about the machine: encodings, the gate, traps, what each instruction does, memory, the commit
of a run, and what the other agents do. Each formalises rules of the specification; a clause that rests on a choice of the
model names its log entry. -/

open Sys2Proof Sys2Proof.Machine

/-! ### The machine -/

/-- What reset leaves (R18, R130, R135, R145, R222, R360, R374, R382): every CYC is 0, no context is live, and the device
registers hold the values their maps give; that MXTHR is 0, for which R222 gives no value, is the model's choice (log 4, DESIGN
CHOICE). -/
def Obligations.ResetLeaves : Prop :=
  (∀ c < 128, State.reset.cycOf c = 0) ∧ (∀ a, (State.reset.ctx a).live = false) ∧ State.reset.warps = []
    ∧ (∀ q < 16, (State.reset.dev.queue q).qbase = 0 ∧ (State.reset.dev.queue q).qctl = 0
        ∧ (State.reset.dev.queue q).qtail = 0 ∧ (State.reset.dev.queue q).qhead = 0
        ∧ (State.reset.dev.queue q).qcmpl = 0 ∧ (State.reset.dev.queue q).qdone = 0)
    ∧ (∀ t < 4, State.reset.dev.octbud.getD t 0 = 1024 ∧ State.reset.dev.mxthr.getD t 1 = 0)
    ∧ State.reset.dev.wdogd = 0x00400000 ∧ State.reset.dev.cmcmd = 0 ∧ State.reset.dev.cmarg0 = 0
    ∧ State.reset.dev.cmarg1 = 0 ∧ State.reset.dev.cmarg2 = 0 ∧ State.reset.dev.cmstat = 0
    ∧ State.reset.dev.irqst = 0 ∧ State.reset.dev.irqen = 0 ∧ State.reset.dev.fwcmd = 0 ∧ State.reset.dev.fwaddr = 0
    ∧ State.reset.dev.fwlen = 0 ∧ State.reset.dev.fwstat = 0
    ∧ (∀ c < 128, (State.reset.column c).cwp = 0 ∧ (State.reset.column c).cph = 0)

/-- The state after reset has the form that every step keeps. -/
def Obligations.CanonicalAtReset : Prop := Canonical State.reset

/-- Every step keeps the canonical form: of the memories, and of the fixed numbers of clocks, queues, apertures, towers and
vectors (R9, R18, R135, R145, R222, R252, R372, R374). -/
def Obligations.StepKeepsCanonical : Prop := ∀ s t : State, Canonical s → step s = .next t → Canonical t

/-- Every step answers a next state: no instruction and no event of another agent stops the machine. -/
def Obligations.EveryStepGoesOn : Prop := ∀ s : State, GoesOn s

/-- A step runs the decoded instruction (R37, R38, R76, R77, R105): where a warp's turn comes, it wins its slot, waits for
nothing and has no ended run, the step is `exec` of what its next words decode to. Around it the arrivals sent are settled
(R243), the slot is handed over (R77), the caches and the grid's code pages note the fetch (R106, R39), and after it every
slot is arbitrated (R77). What needs a row line under retry waits: nothing of it takes place (R411). A misaligned pc or an
illegal encoding is the illegal-instruction trap (R54), a fetch that faults is its trap (R105), and an unassigned opcode the
event of its own (R59). A word fetched is the four bytes that stand at its place, or one that stood there when the grid stored
into it (R39). That turns come from an agenda (log 1, DESIGN CHOICE), that arrivals are settled before an issue (log 57,
DESIGN CHOICE), that a blocked turn leaves the machine as it was (log 9, DEDUCED), and that a code word stored over is kept
beside the new one (log 76) are the model's. -/
def Obligations.StepRunsDecoded : Prop :=
  ∀ (s : State) (w : Nat) (rest : List Turn) (x y : Warp),
    let s0 : State := { s with agenda := rest }
    let s1 := s0.settleArrivals.giveSlot w x
    s.agenda = .issue w :: rest → s.warp w = some x → s0.winner x.col x.core x.slot = some w → x.wait = .none →
    x.run.bind Run.ended = none → s1.warp w = some y →
    let pc := y.theRun.work.pc
    let t : State := { (s1.touchCode y) with cur := some w }
    let runs (o : Host.Outcome State Fault Refusal) : Prop := step s = arbitrated (s0.unlessBlocked o)
    let illegal : State := s1.trapAtPc w { code := 0x10, info := 0, addr := 0 }
    (∀ u : State, s0.unlessBlocked (.next u) = .next (if u.blocked = true ∧ s0.blocked = false then s0 else u))
    ∧ (pc.toNat % 4 ≠ 0 → runs (.next illegal))
    ∧ (pc.toNat % 4 = 0 →
      (∀ c, s1.fetchWords y pc = .error c → runs (.next (s1.trapAtPc w c)))
      ∧ ∀ ws, s1.fetchWords y pc = .ok ws →
        (∀ i, decode (ws.map Prod.fst) = .ok i → runs (exec i t))
        ∧ (decode (ws.map Prod.fst) = .error .unassignedOpcode →
            runs (exec (.unassignedOpcode ((ws.map Prod.fst).headD 0)) t))
        ∧ ∀ r, decode (ws.map Prod.fst) = .error r → r ≠ .unassignedOpcode → runs (.next illegal))
    ∧ ∀ a v p, s1.fetchWord y a = .ok (v, p) → ∃ ps,
        s1.places y.col y.core (s1.asidOf y) true (selfPtr a) 4 0 { exec := true } = .ok (p :: ps)
        ∧ (v = BitVec.ofNat 32 (leNat ((p :: ps).map fun q => (s1.readLoc y.col q.loc).1))
          ∨ ∃ o ∈ s1.oldWords, o.grid = s1.gridId y ∧ o.place = p.loc.word ∧ v = o.word)

/-- The other turns: an event of another agent is `exec` of it, where it does not wait for a row line (R411), `n` clocks raise
every column's CYC by `n` (R18) and write back the host bytes that have then been dirty for 2^16 of them (R252), and an error
of storage strikes (R409): a corrected one is counted, one in a lane of a V register poisons it, and one in a run's journal
discards the run, none of them changing a byte. After a turn every slot is arbitrated, which gives slots to warps and takes
them away, and changes nothing else where no wait at a barrier object is over (R77, R119). That the turns come from an agenda
(log 1, DESIGN CHOICE), that the world's errors are turns of it (log 8, DESIGN CHOICE), and that a blocked turn leaves the
machine as it was (log 9, DEDUCED) are the model's. -/
def Obligations.StepRunsEvents : Prop :=
  ∀ (s : State) (rest : List Turn),
    (∀ t : State, (∀ kv ∈ t.warps, ∀ x, t.warp kv.1 = some x → t.waitOver kv.1 x = true → ∀ c o p a, kv.2.wait ≠ .waitb c o p a) →
      t.arbitrate = { t with cores := t.arbitrate.cores, warps := t.arbitrate.warps, nextId := t.arbitrate.nextId }
      ∧ ∀ w, t.arbitrate.warp w = (t.warp w).map fun x => { x with since := ((t.arbitrate.warp w).map Warp.since).getD 0 })
    ∧ (∀ i, s.agenda = .event i :: rest → i.encoded = none → (∀ v, i ≠ .unassignedOpcode v) →
      let s0 : State := { s with agenda := rest }
      step s = arbitrated (s0.unlessBlocked (exec i s0)))
    ∧ (∀ n, s.agenda = .clocks n :: rest → Canonical s → ∃ t, step s = .next t.endBusy.arbitrate
        ∧ (s.dev.busy = none → t.endBusy = t) ∧ t.agenda = rest
        ∧ t.cyc = s.cyc.map (· + n) ∧ t.mem = s.mem ∧ t.spad = s.spad ∧ t.peer = s.peer ∧ SameWork s t ∧ WrittenBack s t
        ∧ NoneDirtied s t ∧ ∀ kv ∈ t.hostCopy, kv.2.dirty ≠ 0 → t.cycOf (kv.1 / 2 ^ 47) < kv.2.since + 2 ^ 16)
    ∧ ∀ u, s.agenda = .upset u :: rest →
        let t := ({ s with agenda := rest } : State).upset u
        step s = .next t.arbitrate
        ∧ (∀ col, u = .corrected col → t = { s with agenda := rest, columns := t.columns }
            ∧ (t.column col).secnt.toNat = min ((s.column col).secnt.toNat + 1) 0xFFFFFFFF)
        ∧ (∀ w x, u = .journal w → s.warp w = some x → t.warp w = some x.discard ∧ SameBytes s t)
        ∧ ∀ w n k x r, u = .lane w n k → k < 64 → s.warp w = some x → mapGet x.regs.v n = some r →
            SameBytes s t ∧ ∃ y r', t.warp w = some y ∧ mapGet y.regs.v n = some r' ∧ r'.lanes.val = r.lanes.val
              ∧ ∀ j < 64, bit r'.lanes.poison j = (bit r.lanes.poison j || j == k)

/-! ### Encodings -/

/-- Words written out from the encoding tables (R37-R53, R61) decode to the instructions they stand for: NOP in both forms,
IADD.S32 V1, V2, V3 short and extended, IADD V3, V4, a 32-bit literal, a uniform IADD of S registers, LD.B32 V4 from the
pair V6, an exchange of a predicate's IF with a jump, EXIT short and RB, and an unassigned opcode is refused. -/
def Obligations.DecodedWords : Prop :=
  -- NOP, short: B, A and D ZERO (60)
  decode [0b00#2 ++ 60#6 ++ 60#6 ++ 60#6 ++ 0x00#8 ++ 0b0#1 ++ 0b0#1 ++ 0b00#2] = .ok (.nopShort blankShort)
  -- IADD V1, V2, V3, short, with both dead bits
  ∧ decode [0b11#2 ++ 3#6 ++ 2#6 ++ 1#6 ++ 0x10#8 ++ 0b0#1 ++ 0b0#1 ++ 0b00#2]
      = .ok (.iaddShort { blankShort with d := .v 1, a := .v 2, b := .v 3, da := true, db := true })
  -- IADD.S32 V1, V2, V3, extended, negating B, saturating
  ∧ decode [7#3 ++ 0#4 ++ 0b00#2 ++ 0x00#5 ++ 0#6 ++ 0x10#8 ++ 0b0#1 ++ 0b0#1 ++ 0b10#2,
        0b0#1 ++ 0x003#9 ++ 0b00#2 ++ 0x002#9 ++ 0b00#2 ++ 0x001#9,
        0#9 ++ 0b1#1 ++ 0b0#1 ++ 0b1#1 ++ 0b0#1 ++ 0#3 ++ 0b0#1 ++ 0b0#1 ++ 0b0#1 ++ 0b00#2 ++ 0x14C#9 ++ 0b00#2]
      = .ok (.iadd { blankExt with d := .v 1, a := .v 2, b := .v 3, nb := true, sat := true })
  -- MOV.B32 S5, 0x12345678, uniform, extended, with a literal
  ∧ decode [7#3 ++ 0#4 ++ 0b00#2 ++ 0x0E#5 ++ 0#6 ++ 0x2F#8 ++ 0b1#1 ++ 0b0#1 ++ 0b11#2,
        0b0#1 ++ 0x14C#9 ++ 0b00#2 ++ 0x14D#9 ++ 0b00#2 ++ 0x105#9,
        0#9 ++ 0#4 ++ 0#3 ++ 0#3 ++ 0b00#2 ++ 0x14C#9 ++ 0b00#2, 0x12345678#32, 0#32]
      = .ok (.mov { blankExt with uni := true, ty := .b32, d := .s 5, a := .lit, lit := some 0x12345678 })
  -- FADD.BF16x2 V8, V9, V10 under P2, rounding down
  ∧ decode [2#3 ++ 0#4 ++ 0b10#2 ++ 0x09#5 ++ 0#6 ++ 0x40#8 ++ 0b0#1 ++ 0b0#1 ++ 0b10#2,
        0b0#1 ++ 0x00A#9 ++ 0b00#2 ++ 0x009#9 ++ 0b00#2 ++ 0x008#9,
        0#9 ++ 0#4 ++ 0#3 ++ 0#3 ++ 0b00#2 ++ 0x14C#9 ++ 0b00#2]
      = .ok (.fadd { blankExt with gp := 2, ty := .bf16x2, rnd := .rd, d := .v 8, a := .v 9, b := .v 10 })
  -- LD.B32 V4, [V6:V7], lookahead 3
  ∧ decode [7#3 ++ 3#4 ++ 0b00#2 ++ 0x0E#5 ++ 0#6 ++ 0x80#8 ++ 0b0#1 ++ 0b0#1 ++ 0b10#2,
        0b0#1 ++ 0x14C#9 ++ 0b01#2 ++ 0x006#9 ++ 0b00#2 ++ 0x004#9,
        0#9 ++ 0#4 ++ 0#3 ++ 0#3 ++ 0b00#2 ++ 0x14C#9 ++ 0b00#2]
      = .ok (.ld { blankExt with la := 3, ty := .b32, d := .v 4, a := .v 6, aw := .w2 })
  -- EXIT, short, with RB set
  ∧ decode [0b00#2 ++ 60#6 ++ 60#6 ++ 60#6 ++ 0x08#8 ++ 0b0#1 ++ 0b1#1 ++ 0b00#2] = .ok (.exitShort { blankShort with rb := true })
  -- TRAP 9, uniform
  ∧ decode [7#3 ++ 0#4 ++ 0b00#2 ++ 0x00#5 ++ 0#6 ++ 0xF0#8 ++ 0b1#1 ++ 0b0#1 ++ 0b10#2,
        0b0#1 ++ 0x14C#9 ++ 0b00#2 ++ 0x14C#9 ++ 0b00#2 ++ 0x14C#9,
        9#9 ++ 0#4 ++ 0#3 ++ 0#3 ++ 0b00#2 ++ 0x14C#9 ++ 0b00#2]
      = .ok (.trap { blankExt with uni := true, x := 9 })
  -- an opcode that is not assigned, and a reserved selector
  ∧ decode [0b00#2 ++ 60#6 ++ 60#6 ++ 60#6 ++ 0x0F#8 ++ 0b0#1 ++ 0b0#1 ++ 0b00#2] = .error .unassignedOpcode
  ∧ decode [0b00#2 ++ 3#6 ++ 62#6 ++ 1#6 ++ 0x10#8 ++ 0b0#1 ++ 0b0#1 ++ 0b00#2] = .error .reservedSelector

/-- Decoding what is encoded gives the instruction back, whatever words follow it: for every well-formed encoded instruction
with every operand (R37-R53). -/
def Obligations.EncodeDecode : Prop :=
  ∀ (i : Instr) (op : Opcode) (f : Fields) (rest : List Word),
    i.encoded = some (op, f) → i.WellFormed → decode (encode i ++ rest) = .ok i

/-- The decoder answers only well-formed instructions, and the words it read are their encoding: no bit is dropped (R37-R54). -/
def Obligations.DecodeEncode : Prop :=
  ∀ (ws : List Word) (i : Instr), decode ws = .ok i → i.WellFormed ∧ ∃ rest, ws = encode i ++ rest

/-! ### What every instruction meets as it issues -/

/-- An illegal instruction traps (R54, R55, R57, R81): where the encoding is not legal as the machine stands, the run is
discarded and the trap of cause 0x10 is taken, naming every active thread, before any other check. -/
def Obligations.IllegalTraps : Prop :=
  ∀ (s : State) (w : Nat) (x : Warp) (i : Instr) (op : Opcode) (f : Fields), Encoded i op f → Issuing s w x →
    machineCheck op (s.cx w x f) = false →
    exec i s = .next (trapped s w (s.cx w x f) { code := 0x10, info := 0, addr := 0 } (s.cx w x f).act)

/-- The limits of a run (R56, R81) and of its bank (R98). The 25th executed instruction of a run and its 5th store are run
traps, of INFO 1 and 2, in the native modes; in compatible mode the run ends before the instruction. The 33rd register that a
run allocates is the run trap of INFO 3. Where the bank of a register to be allocated has no free one outside the emergency
block, or an older warp waits swapped out, and the block has none for the warp, the run is discarded with its latches, with no
trap and its operand cache as it was, the warp waits, and where it is the privileged one the youngest resident warp that is
younger is to be swapped out. That what the wait is for is noted as it begins is the model's reading: log 105, DEDUCED. -/
def Obligations.RunLimits : Prop :=
  (∀ (s : State) (w : Nat) (x : Warp) (i : Instr) (op : Opcode) (f : Fields), Encoded i op f → Gated s w x op f →
    let c := s.cx w x f
    let info : Nat := if 24 ≤ c.r.count then 1 else 2
    ¬ HasRoom c op →
    (c.mode ≠ 2 → exec i s = .next (trapped s w c { code := 0x11, info := BitVec.ofNat 32 info, addr := 0 } c.act))
    ∧ (c.mode = 2 → ∃ t y, exec i s = .next t ∧ t.warp w = some y ∧ y.run = some { c.r with ended := some .plain }
        ∧ y.regs = x.regs ∧ SameBytes s t))
  ∧ ∀ k ∈ arithmeticTable ++ logicTable ++ floatTable, ∀ (s : State) (w : Nat) (x : Warp) (f : Fields),
    Issuing s w x → k.pre (s.cx w x f) = true → Opens (s.cx w x f) k.op → k.ok (atIssue s w x k.op f) → ∀ d, f.d = .v d →
    (k.vals (atIssue s w x k.op f)).length ≠ 0 →
    let c := k.base (atIssue s w x k.op f)
    c.mode ≠ 2 →
    (32 ≤ c.r.allocs →
      exec (k.instr f) s = .next (trapped c.s w (s.cx w x f) { code := 0x11, info := 3, addr := 0 } c.act))
    ∧ (c.r.allocs < 32 → c.s.olderOut x = true ∨ freeIn c (d.toNat % 4) = [] →
        let priv := c.s.privileged x.col x.core = some w
        (priv → ∀ i < 8, emergencyAt + i ∈ c.s.physUsed x.col x.core (d.toNat % 4) w (some c.r)) →
        c.s.youngestBelow x ≠ some w →
        Answers (k.instr f) s fun t => SameBytes s t
          ∧ (∃ y held older first, t.warp w = some y ∧ y = { x.discard with wait := .pressure (d.toNat % 4) held older first }
              ∧ (∀ e ∈ y.theRun.latch, e.valid = false) ∧ y.theRun.work = x.regs)
          ∧ ∀ v z, v ≠ w → s.warp v = some z →
              ∃ b, t.warp v = some { z with swapReq := z.swapReq || b } ∧ (b = true ↔ priv ∧ c.s.youngestBelow x = some v))

/-- The operand hazards of native-debug mode (R103): with some thread active, the instruction traps with the lowest code it
breaks, and its run is discarded (R81). -/
def Obligations.HazardTraps : Prop :=
  ∀ (s : State) (w : Nat) (x : Warp) (i : Instr) (op : Opcode) (f : Fields) (k : Nat), Encoded i op f → Gated s w x op f →
    let c := s.cx w x f
    HasRoom c op → c.act ≠ 0 → c.mode = 1 → c.hazard (op.spec f) (opClass op).readsD = some k →
    exec i s = .next (trapped s w c { code := 0x12, info := BitVec.ofNat 32 k, addr := 0 } c.act)

/-- Which codes a native-debug instruction meets (R103), and that the lowest is reported: 1 for a source that a pending
result covers, 2 for a write of what one covers, 3 and 4 for an invalid latch or cache entry, 5 for a V register that is not
live. -/
def Obligations.HazardCodes : Prop :=
  ∀ (c : Cx) (o : OpSpec) (readsD : Bool),
    let meets (k : Nat) : Prop :=
      (k = 1 ∧ ∃ q ∈ sources o c.f readsD, ∃ p ∈ c.x.pend, p.coversRead q.1 q.2 = true)
      ∨ (k = 2 ∧ ∃ p ∈ c.x.pend, c.writeHit o p = true)
      ∨ (k = 3 ∧ ∃ q ∈ sources o c.f readsD, (∀ p ∈ c.x.pend, p.coversRead q.1 q.2 = false) ∧ ∃ n, q.1 = .l n
          ∧ (c.r.latch.getD n.toNat { valid := false, lanes := Lanes.zero }).valid = false)
      ∨ (k = 4 ∧ ∃ q ∈ sources o c.f readsD, (∀ p ∈ c.x.pend, p.coversRead q.1 q.2 = false) ∧ ∃ n, q.1 = .c n
          ∧ (c.r.work.c.getD n.toNat { valid := false, lanes := Lanes.zero }).valid = false)
      ∨ (k = 5 ∧ ∃ q ∈ sources o c.f readsD, (∀ p ∈ c.x.pend, p.coversRead q.1 q.2 = false) ∧ ∃ n, q.1 = .v n
          ∧ ∃ j < q.2, mapGet c.r.work.v (n.toNat + j) = none)
    ∀ k, c.hazard o readsD = some k ↔ meets k ∧ ∀ j < k, ¬ meets j

/-- With no thread active an instruction that is not structural is fetched, counted and decoded, and has no effect (R55,
R56, R87): it completes, and nothing but its run's count, pc and end has changed. -/
def Obligations.NoThreadNoEffect : Prop :=
  ∀ (s : State) (w : Nat) (x : Warp) (i : Instr) (op : Opcode) (f : Fields), Encoded i op f → Gated s w x op f →
    HasRoom (s.cx w x f) op → (s.cx w x f).act = 0 → actsAlways op = false →
    OnlyIssued s (completes (s.cx w x f) x op) w ∧ exec i s = .next (completes (s.cx w x f) x op)

/-- The instruction after a window does not issue until the result has arrived (R100): the oldest result whose window is over
and whose data has not come arrives where it is ready (the model takes the arrival as its own step, log 1, DESIGN CHOICE);
otherwise nothing happens, but that a run ends which holds the BFENCE its own load waits for (log 86, DESIGN CHOICE). The pc
stays. -/
def Obligations.ResultsArriveFirst : Prop :=
  ∀ (s : State) (w : Nat) (x : Warp) (i : Instr) (op : Opcode) (f : Fields) (p : Pending), Encoded i op f →
    Issuing s w x → machineCheck op (s.cx w x f) = true → (x.pend.find? fun p => p.window == 0 && !p.here) = some p →
    let behind := p.ofRun = true ∧ ∃ k slot psn got, p.fx = .load k slot psn got
    (p.ready = true → exec i s = .next (s.arrival w p.id))
    ∧ (p.ready = false → ¬ behind → exec i s = .next s)
    ∧ (p.ready = false → behind →
        exec i s = .next (s.setWarp w { x with run := some { x.theRun with ended := some .plain } }))

/-- What an arrival does (R100, R102), where no run is in flight: the destination group and the KEEP entry of a result that is
ready and not contested hold it in the threads of its mask; its window stays open as long as it has instructions left; no
other register but a home register, no byte of memory and no other warp changes. Of a result that was pending at a trap, the
cache entries are those that the trap saved, in the save area too (R124, R126, R361). -/
def Obligations.ArrivalWrites : Prop :=
  ∀ (s : State) (w : Nat) (x : Warp) (p : Pending), s.warp w = some x → (x.pend.find? fun q => q.id == p.id) = some p →
    p.ready = true → p.here = false → p.contested = [] → p.fx = .none → p.ofRun = false → x.run = none →
    (∀ q ∈ x.pend, q.closed = false) →
    let entries (y : Warp) : List Entry := if p.outer then (y.saved.map Saved.c).getD [] else y.regs.c
    Answers (.longLatencyArrival w p.id) s fun t => ∃ y, t.warp w = some y
      ∧ t.spad = s.spad ∧ t.host = s.host ∧ t.peer = s.peer ∧ (p.outer = false ∨ x.saved = none → t.mem = s.mem)
      ∧ y = { x with regs := y.regs, saved := y.saved
                     pend := (x.pend.map fun q => if q.id = p.id then { p with here := true } else q).filter fun q => !q.closed }
      ∧ (if p.outer then y.regs.c = x.regs.c ∧ y.saved = x.saved.map (fun v => { v with c := entries y }) else y.saved = x.saved)
      ∧ (∀ v, v ≠ w → t.warp v = s.warp v)
      ∧ (∀ d, p.dst = .s d → ∀ j < p.count, d.toNat + j < x.regs.s.length →
          y.regs.s.getD (d.toNat + j) SVal.zero = (p.vals.getD j Lanes.zero).first)
      ∧ (∀ d, p.dst = .v d → ∀ j < p.count, ∀ g, mapGet x.regs.v (d.toNat + j) = some g →
          ∃ h, mapGet y.regs.v (d.toNat + j) = some h ∧ h.phys = g.phys ∧ ∀ t < 64,
            h.lanes.val.getD t 0 = (if bit p.mask t then (p.vals.getD j Lanes.zero).val.getD t 0 else g.lanes.val.getD t 0)
            ∧ bit h.lanes.poison t = (if bit p.mask t then bit (p.vals.getD j Lanes.zero).poison t else bit g.lanes.poison t))
      ∧ (∀ n, (∀ d, p.dst = .v d → ∀ j < p.count, n ≠ d.toNat + j) → mapGet y.regs.v n = mapGet x.regs.v n)
      ∧ (∀ d, p.dst = .c d → p.count = 1 → ∀ e, (entries y)[d.toNat]? = some e →
          EntryHolds e p.mask (p.vals.getD 0 Lanes.zero))
      ∧ (∀ k, p.keep = some k → ∀ e, (entries y)[k]? = some e → EntryHolds e p.mask (p.vals.getD 0 Lanes.zero))
      ∧ (entries y).length = (entries x).length
      ∧ (∀ n, (∀ d, p.dst = .c d → n ≠ d.toNat) → p.keep ≠ some n → (entries y)[n]? = (entries x)[n]?)
      ∧ (∀ n, (∀ d, p.dst = .s d → ∀ j < p.count, n ≠ d.toNat + j) → y.regs.s[n]? = x.regs.s[n]?)
      ∧ y.regs = { x.regs with v := y.regs.v, s := y.regs.s, c := y.regs.c, home := y.regs.home }

/-- The end of an instruction that has executed (R56, R75, R96, R100): it is counted, the pc moves on, the windows open before
it shrink by one, and those that are over and whose data has come close; the run ends where it has ended by its own effect,
where RB is set, where the opcode ends a run, where every thread has exited, and, in compatible mode, after 24 instructions.
Registers change only where a window closes that the program has written in (R103). -/
def Obligations.InstructionEnds : Prop :=
  ∀ (c : Cx) (x : Warp) (op : Opcode), ∃ y r, (completes c x op).warp c.w = some y ∧ y.run = some r
    ∧ r.count = c.r.count + 1
    ∧ (r.ended.isSome = true ↔ c.r.ended.isSome = true ∨ c.f.rb = true ∨ (opClass op).ends = true
        ∨ (∀ n ∈ c.r.work.nc, n = 255) ∨ (c.mode = 2 ∧ c.r.count = 23))
    ∧ r = { c.r with work := r.work, count := r.count, ended := r.ended, cmp := r.cmp, lastPc := c.pc
                     stores := if (opClass op).store then c.r.stores + 1 else c.r.stores, cold := (opClass op).waits }
    ∧ r.work = { c.r.work with pc := c.nxt, v := r.work.v, s := r.work.s, c := r.work.c, home := r.work.home }
    ∧ y = { c.x with run := some r, pend := y.pend, regs := { c.x.regs with v := y.regs.v, s := y.regs.s, c := y.regs.c
                                                                            home := y.regs.home } }
    ∧ (let shrunk := c.x.pend.map fun p =>
          { p with window := if (x.pend.map Pending.id).contains p.id then p.window - 1 else p.window }
       y.pend = shrunk.filter (fun p => !(p.here && p.window == 0))
       ∧ ((∀ p ∈ shrunk, p.here = true → p.window = 0 → p.contested = [] ∧ p.touched = []) →
            r.work = { c.r.work with pc := c.nxt } ∧ y.regs = c.x.regs))
    ∧ SameBytes c.s (completes c x op) ∧ ∀ v, v ≠ c.w → (completes c x op).warp v = c.s.warp v

/-- IF and LOOP that would pass a limit raise the nesting-overflow trap, ELSE, ENDIF, ENDLOOP at depth 0 and BRK and CONT
outside a loop the illegal-convergence trap, and so does a matrix instruction with some thread active and one that is disabled
or marked to exit (R86, R87, R88). That TMASK names the threads whose counters would pass the limit, or the active ones, is
R392's 'threads to which the cause applies' as the model reads it: log 30, DEDUCED. -/
def Obligations.StructureTraps : Prop :=
  ∀ (s : State) (w : Nat) (x : Warp) (i : Instr) (op : Opcode) (f : Fields), Encoded i op f → Gated s w x op f →
    HasRoom (s.cx w x f) op →
    let c := s.cx w x f
    (c.act ≠ 0 → (c.mode = 1 → c.hazard (op.spec f) (opClass op).readsD = none)
      ∧ (c.mode = 2 → c.stalls (op.spec f) (opClass op).readsD = none)) →
    let stop (code info : Nat) (mask : Mask) : Prop :=
      exec i s = .next (trapped s w c { code := code, info := BitVec.ofNat 32 info, addr := 0 } mask)
    (op = .ifBlock ∨ op = .loop →
      (c.r.work.depth = 127 → stop 0x13 127 c.act)
      ∧ (c.r.work.depth ≠ 127 → (∃ t < 64, counterOf c t = 127 ∨ counterOf c t = 254) →
          ∃ mask, (∀ t < 64, bit mask t = true ↔ counterOf c t = 127 ∨ counterOf c t = 254)
            ∧ stop 0x13 c.r.work.depth mask))
    ∧ (op = .elseBlock ∨ op = .endif ∨ op = .endloop → c.r.work.depth = 0 → stop 0x14 1 c.act)
    ∧ (op = .brk ∨ op = .cont → c.r.work.ldep = 0 → stop 0x14 2 c.act)
    ∧ (op ∈ [.mma, .mmat, .mzero, .mldz, .mst, .mfence, .mwait, .mstat] → c.act ≠ 0 → ¬ wholeWarp c → stop 0x14 3 c.act)
    ∧ (op = .tret → c.act ≠ 0 → c.grd ≠ 0 → c.x.hmode = false → stop 0x10 0 c.act)

/-- BKPT traps where a thread is guarded and its skip is not armed (R111): the run is discarded, TPC names the BKPT, RPC the
run's first instruction, and BSKIP is 1; a vector BKPT names its guarded threads, a uniform one the active ones (R392). -/
def Obligations.BreakpointTraps : Prop :=
  ∀ (s : State) (w : Nat) (x : Warp) (f : Fields), Gated s w x .bkpt f → HasRoom (s.cx w x f) .bkpt →
    let c := s.cx w x f
    (c.mode = 1 → c.hazard (Opcode.spec .bkpt f) false = none) → (c.mode = 2 → c.stalls (Opcode.spec .bkpt f) false = none) →
    c.grd ≠ 0 → ¬ (x.bskip = some c.pc ∧ c.r.skipped = false) →
    let t : State := (s.discardRun w).takeTrap w { code := 2, info := 0, addr := 0 } (if f.uni then c.act else c.grd) c.pc
      c.r.startPc false true
    exec (.bkpt f) s = .next t ∧ exec (.bkptShort f) s = .next t

/-- UNASSIGNED_OPCODE (R54, R59): the illegal-instruction trap of the next instruction of the issuing warp, in every mode and
with no thread active; its run is discarded (R81). -/
def Obligations.UnassignedTraps : Prop :=
  ∀ (s : State) (w : Nat) (x : Warp) (v : Word), Issuing s w x →
    exec (.unassignedOpcode v) s = .next ((s.discardRun w).takeTrap w { code := 0x10, info := 0, addr := 0 }
      x.theRun.work.active x.theRun.work.pc x.theRun.startPc false false)

/-- A memory instruction whose accesses fault traps with the fault that R273 puts first, of its lowest thread, and names the
threads that met that kind, or, in a uniform form, the active ones (R81, R273, R392). -/
def Obligations.AccessFaultsTrap : Prop := ∀ k ∈ accessFaultTable, k.Holds

/-- A command whose operands fail its checks traps as it issues and queues nothing (R120, R121, R214, R296, R319, R342). -/
def Obligations.CommandFaultsTrap : Prop := ∀ k ∈ commandFaultTable, k.Holds

/-! ### Traps and commits -/

/-- Taking a trap that reaches the handler (R124): the frame is written, C, NC, D, LDEP and the exit marks are saved, every
counter but 255 becomes 0, the marks, D and LDEP are cleared, every cache entry is invalid, HMODE is 1 and the pc is TVEC; V,
S, P and Q registers are as before, and of every other warp only a run that read a byte of the frame with an SO load is told
(R245); what was pending comes to the registers that were saved (R126). What is saved stands in the warp's save record too
(R361). -/
def Obligations.TrapEntry : Prop :=
  ∀ (s : State) (w : Nat) (x : Warp) (ps : List Place) (k : Cause) (mask : Mask) (tpc rpc : Addr) (irrv bskip : Bool),
    s.warp w = some x → Delivers s x ps →
    let frame := frameBytes k mask tpc rpc irrv bskip (s.cycOf x.col) x.regs.depth x.regs.ldep
    let t := s.takeTrap w k mask tpc rpc irrv bskip
    let saved : Saved := { c := x.regs.c, nc := x.regs.nc, depth := x.regs.depth, ldep := x.regs.ldep, mark := x.regs.mark
                           tpc := tpc, frame := s.framePtr x }
    ∃ y, t.warp w = some y
      ∧ t = ((s.storeThrough x.col x.core (s.asidOf x) ps (storedAt ps frame)).saveTrap x saved).setWarp w y
      ∧ (∀ v, v ≠ w → t.warp v = (s.warp v).map (toldSo (storedAt ps frame)))
      ∧ y = { x with regs := y.regs, hmode := true, bskip := none, wait := .none
                     pend := x.pend.map fun p => { p with outer := true }, saved := some saved }
      ∧ y.regs.v = x.regs.v ∧ y.regs.s = x.regs.s ∧ y.regs.p = x.regs.p ∧ y.regs.q = x.regs.q ∧ y.regs.home = x.regs.home
      ∧ y.regs.nc.length = x.regs.nc.length
      ∧ (∀ (n : Nat) (a : BitVec 8), x.regs.nc[n]? = some a → y.regs.nc[n]? = some (if a = 255 then 255 else 0))
      ∧ y.regs.c.length = x.regs.c.length
      ∧ (∀ (n : Nat) (e : Entry), x.regs.c[n]? = some e → y.regs.c[n]? = some { e with valid := false })
      ∧ y.regs.mark = 0 ∧ y.regs.depth = 0 ∧ y.regs.ldep = 0 ∧ y.regs.pc = s.tvecOf x

/-- The trap frame (R125): 128 bytes, with each field in its bits and every other bit 0. -/
def Obligations.FrameLayout : Prop :=
  ∀ (k : Cause) (mask : Mask) (tpc rpc : Addr) (irrv bskip : Bool) (cyc depth ldep : Nat),
    k.code < 2 ^ 16 → cyc < 2 ^ 64 → depth < 2 ^ 8 → ldep < 2 ^ 8 →
    let bs := frameBytes k mask tpc rpc irrv bskip cyc depth ldep
    bs.length = 128 ∧ bitsOf bs 0 16 = k.code ∧ bitsOf bs 16 4 = k.code / 16 % 16 ∧ bitsOf bs 20 1 = bskip.toNat
      ∧ bitsOf bs 21 1 = irrv.toNat ∧ bitsOf bs 22 10 = 0 ∧ bitsOf bs 32 32 = k.info.toNat ∧ bitsOf bs 64 64 = tpc.toNat
      ∧ bitsOf bs 128 64 = rpc.toNat ∧ bitsOf bs 192 64 = k.addr.toNat ∧ bitsOf bs 256 64 = mask.toNat
      ∧ bitsOf bs 320 64 = cyc ∧ bitsOf bs 384 32 = 0 ∧ bitsOf bs 416 8 = depth ∧ bitsOf bs 424 8 = ldep
      ∧ bitsOf bs 432 592 = 0

/-- A trap that cannot reach the handler (R124): in the handler, or with a frame that cannot be written, the warp's grid ends
with an error; with TVEC 0 it does with an error that carries the cause. -/
def Obligations.DoubleTrap : Prop :=
  ∀ (s : State) (w : Nat) (x : Warp) (g : Gang) (k : Cause) (mask : Mask) (tpc rpc : Addr) (irrv bskip : Bool),
    s.warp w = some x → s.gangOf x = some g →
    let t := s.takeTrap w k mask tpc rpc irrv bskip
    (x.hmode = true ∨ (s.tvecOf x ≠ 0 ∧ ∃ c, frameAt s x (s.framePtr x) { write := true } = .error c) → t = s.endGrid g.grid)
    ∧ (x.hmode = false → s.tvecOf x = 0 →
        t = (s.modGrid g.grid fun d => { d with cause := some k.code }).endGrid g.grid)

/-- A run that has ended commits (R79, R80): its registers become the warp's, its dead reads end registers (R97), an end in
YIELD or a W instruction leaves no cache entry valid (R96), and its buffered bytes reach memory in program order; of every other
warp only a run that read one of them with an SO load is told (R245). This run queues no command, and orders nothing (R255). -/
def Obligations.RunCommits : Prop :=
  ∀ (s : State) (w : Nat) (x : Warp) (r : Run), Canonical s → Committing s w x r .plain → Calm x → r.cmds = [] →
    (∀ b ∈ r.stbuf, b.rel = none) → r.fenced ≠ 3 → r.settled.allExited = false →
    Answers (.runCommit w) s fun t => t.warp w = some (settledWarp x r)
      ∧ (∀ v, v ≠ w → t.warp v = (s.warp v).map (toldSo (r.stbuf.flatMap BufStore.bytes)))
      ∧ Stores s t x.col (r.stbuf.flatMap BufStore.bytes)
      ∧ (∀ n, mapGet r.settled.v n = if r.dead.contains n then none else mapGet r.work.v n)
      ∧ r.settled.c = r.work.c.map (fun e => { e with valid := e.valid && !r.cold })
      ∧ r.settled = { r.work with v := r.settled.v, c := r.settled.c }

/-- A run that must not commit (R79, R82, R90, R218, R245, R255): while something holds it back, or while the warp is not on its
core, nothing happens; a disagreement of a protected run kills its gang and sets the CIR bit; an overwritten SO load discards
it, and so does a byte that a load read behind an order of the run and that has changed since (log 79, DEDUCED); a scale
mismatch of its matrix commands discards it and traps. The TMASK and INFO of that trap (R392) are the model's reading: log 30,
DEDUCED. -/
def Obligations.RunHeldBack : Prop :=
  ∀ (s : State) (w : Nat) (x : Warp) (r : Run) (e : RunEnd), s.warp w = some x → x.run = some r → r.ended = some e →
    (x.resident = false ∨ s.mustWait w x r = true → exec (.runCommit w) s = .next s)
    ∧ (x.resident = true → s.mustWait w x r = false → s.arrivals = [] →
      (∀ b, s.blockOf x = some b → ∀ p ∈ r.cmp, p.1 ≠ p.2 →
        exec (.runCommit w) s = .next (((s.setCir (s.asidOf x) x.col 1).discardRun w).killGang b.gang))
      ∧ ((∀ p ∈ r.cmp, p.1 = p.2) →
        let discarded (y : Warp) : Prop := Answers (.runCommit w) s fun t => t.warp w = some y ∧ SameBytes s t
          ∧ ∀ v, v ≠ w → t.warp v = s.warp v
        (r.soHit = true → discarded { x.discard with soTries := x.soTries + 1 })
        ∧ (r.soHit = false → s.overtaken x r = true → discarded x.discard)
        ∧ (r.soHit = false → s.overtaken x r = false →
          ∀ k pc, countMats (s.recOf x) r.cmds (((s.blockOf x).map Block.counted).getD []) = .error (k, pc) →
            exec (.runCommit w) s = .next ((s.discardRun w).takeTrap w { code := 0x31, info := BitVec.ofNat 32 k, addr := 0 }
              (BitVec.allOnes 64) pc r.startPc false false))))

/-- How a run that stored and queued nothing ends (R75, R109, R124, R126): YIELD releases the slot, SLEEP and the other W
instructions wait, TRAP enters the handler after its run, and TRET leaves it: the state saved at entry is back, as the warp's
save record holds it, or, where another warp has written the record since, as it was saved (log 35, DEDUCED); HMODE is 0, and
RPC and BSKIP are those the frame holds, where the entry wrote it. -/
def Obligations.RunEnds : Prop :=
  ∀ (s : State) (w : Nat) (x : Warp) (r : Run) (e : RunEnd), Committing s w x r e → Calm x → r.cmds = [] → r.stbuf = [] →
    r.settled.allExited = false →
    let after (y : Warp) (t : State) : Prop := t.warp w = some y ∧ SameBytes s t ∧ ∀ v, v ≠ w → t.warp v = s.warp v
    let resumed (y : Warp) (t : State) : Prop := t.warp w = some y ∧ Unwritten s t ∧ ∀ v, v ≠ w → t.warp v = s.warp v
    let y := settledWarp x r
    let waits (k : Wait) : Prop := Answers (.runCommit w) s (after { y with wait := k, waitPc := r.lastPc })
    (e = .yield → Answers (.runCommit w) s (after { y with yielded := true }))
    ∧ (∀ k, e = .sleep (some k) → waits (.sleep k))
    ∧ (∀ d h, e = .cwait d h → waits (.cwait d h))
    ∧ (∀ n, e = .mwait n → waits (.mwait n))
    ∧ (∀ d a, e = .mrgWait d a → waits (.mrgWait d a 0))
    ∧ (∀ d h, e = .gwait d h → waits (.gwait d h (s.grantFate (s.asidOf x) h)))
    ∧ (∀ col off p q, e = .waitb col off p q → waits (.waitb col off p q))
    ∧ (∀ c ps, e = .trap c → r.fenced ≠ 3 → Delivers s y ps → Answers (.runCommit w) s fun t => t.warp w = some { y with
        regs := y.regs.handler (s.tvecOf x), hmode := true, bskip := none, wait := .none
        pend := y.pend.map fun p => { p with outer := true }
        saved := some { c := y.regs.c, nc := y.regs.nc, depth := y.regs.depth, ldep := y.regs.ldep, mark := y.regs.mark
                        tpc := r.lastPc, frame := s.framePtr x } })
    ∧ (∀ v ps, e = .tret → r.fenced ≠ 3 → x.saved = some v → frameAt s x v.frame { read := true } = .ok ps →
        let at_ (i n : Nat) : Nat := leNat (((ps.drop i).take n).map fun p => (s.readLoc x.col p.loc).1)
        let back (u : Saved) : Warp := { y with
          regs := { y.regs with c := u.c, nc := u.nc, depth := u.depth, ldep := u.ldep, mark := u.mark
                                pc := BitVec.ofNat 64 (at_ 16 8) }
          pend := y.pend.map fun p => { p with outer := false }
          saved := none, hmode := false, bskip := if (at_ 2 1).testBit 4 then some v.tpc else none }
        let mine : Prop := mapGet s.records (recordKey (s.asidOf x) x.col x.core x.wcore) = some x.holder
        let area := mapGet (s.ctx (s.asidOf x)).save x.col
        (¬ mine ∨ area = none → (∃ n ∈ v.nc, n ≠ 255) → Answers (.runCommit w) s (resumed (back v)))
        ∧ ∀ pa slot, mine → area = some (pa, slot) →
            let record (i n : Nat) : List Byte := (List.range n).map fun k =>
              (s.readLoc x.col (.mem x.col (pa + (warpRecord x.core x.wcore + i) + k) slot)).1
            (∃ n ∈ record 0x10940 64, n ≠ 255) → Answers (.runCommit w) s fun t => ∃ es : List Entry,
              resumed (back { v with
                c := es, nc := record 0x10940 64, mark := BitVec.ofNat 64 (leNat (record 0x10980 8))
                depth := leNat (record 0x10988 1), ldep := leNat (record 0x10989 1) }) t
              ∧ es.length = v.c.length ∧ ∀ k < 8, ∀ d, es[k]? = some d → d.valid = (leNat (record 0x1098B 1)).testBit k
                ∧ ∀ i < 64, d.lanes.val.getD i 0 = BitVec.ofNat 32 (leNat (record (0x10000 + 256 * k + 4 * i) 4)))

/-! ### What each instruction does -/

/-- The integer arithmetic instructions complete with the exact result, wrapped or clamped once (R174). -/
def Obligations.ArithmeticCompletes : Prop := ∀ k ∈ arithmeticTable, k.Holds

/-- LEA and IADDX complete with their sums (R175). -/
def Obligations.AddressSumsComplete : Prop := ∀ k ∈ addressTable, k.Holds

/-- ISAD, DP4 and DP2 complete with their exact total, wrapped or clamped once (R176). -/
def Obligations.TotalsComplete : Prop := ∀ k ∈ totalTable, k.Holds

/-- The logic and shift instructions complete with their results (R179). -/
def Obligations.LogicCompletes : Prop := ∀ k ∈ logicTable, k.Holds

/-- The counting and bit-field instructions complete with their results (R180). -/
def Obligations.BitCountsComplete : Prop := ∀ k ∈ countTable, k.Holds

/-- PACK, UNPK and PRMT complete with their elements moved (R183). -/
def Obligations.PackingCompletes : Prop := ∀ k ∈ packTable, k.Holds

/-- The short-latency floating-point instructions complete with their rounded results (R184-R188). -/
def Obligations.FloatingCompletes : Prop := ∀ k ∈ floatTable, k.Holds

/-- The conversions, SREAD and the forms of PTRC that write registers complete (R113, R163-R168, R190-R193, R301). -/
def Obligations.ConversionsComplete : Prop := (∀ k ∈ convertTable, k.Holds) ∧ ∀ k ∈ pointerTable, k.Holds

/-- SEL, MOV, QUPK and the votes that write S registers complete (R112, R155, R181, R193, R394, R395). -/
def Obligations.MovesComplete : Prop := ∀ k ∈ moveTable, k.Holds

/-- The instructions that write a predicate complete with it (R112, R177, R182, R187, R205, R301). -/
def Obligations.PredicatesComplete : Prop := (∀ k ∈ predicateTable, k.Holds) ∧ ∀ k ∈ voteTable, k.Holds

/-- Division, square root, the special functions and GNRM complete with their results awaited (R100, R189, R194-R198, R208);
the special functions' last bits follow the model's precision (log 20, DESIGN CHOICE). -/
def Obligations.SlowArithmeticCompletes : Prop := ∀ k ∈ slowTable, k.Holds

/-- The structural instructions change counters, marks and depths as R85 says, and go on where it says (R84-R88). A loop depth
of 0 at ENDLOOP has no stated predecessor (log 18, DESIGN CHOICE). -/
def Obligations.StructuresComplete : Prop := ∀ k ∈ structuralTable, k.Holds

/-- NOP, the jumps, YIELD, SLEEP, the barriers, TRAP, TRET and a BKPT that is skipped complete (R105, R108, R109, R111, R115,
R124, R126). -/
def Obligations.ControlCompletes : Prop := (∀ k ∈ controlTable, k.Holds) ∧ ∀ k ∈ breakTable, k.Holds

/-- The instructions of registers, phases, fences and launches complete: each queues its command for the commit (R113, R118,
R121, R122, R128, R130, R206, R255, R294-R296). -/
def Obligations.CommandsComplete : Prop := ∀ k ∈ commandTable, k.Holds

/-- The waits end their run (R119, R123, R233, R324, R347). -/
def Obligations.WaitsComplete : Prop := ∀ k ∈ waitTable, k.Holds

/-- The copy and bank commands are queued where they pass R319 (R317, R323, R326). -/
def Obligations.CopiesComplete : Prop := ∀ k ∈ copyTable, k.Holds

/-- The matrix commands are queued where they pass R214 (R211-R214, R228-R232). -/
def Obligations.MatrixCommandsComplete : Prop := ∀ k ∈ matrixTable, k.Holds

/-- The merge commands are queued where they pass R342 (R342-R346). -/
def Obligations.MergeCommandsComplete : Prop := ∀ k ∈ mergeTable, k.Holds

/-- The loads complete with what they read awaited: the run's own latest store to each address, or memory (R80, R289-R291,
R309). -/
def Obligations.LoadsComplete : Prop := ∀ k ∈ loadTable, k.Holds

/-- The stores complete with their bytes in the run's buffer and no byte of memory changed; PREF and CCTL complete (R80, R289,
R290, R292, R293, R309). -/
def Obligations.StoresComplete : Prop := (∀ k ∈ storeTable, k.Holds) ∧ sectorOperation.Holds

/-- The atomics and the exchanges end their run and are performed after its commit (R82, R297, R299, R303, R311). -/
def Obligations.AtomicsComplete : Prop := (∀ k ∈ atomTable, k.Holds) ∧ reduces.Holds ∧ ∀ k ∈ exchangeTable, k.Holds

/-- The lane instructions, BSET, MUPD, RDCTR, MSTAT and MRG.STAT complete with their results awaited (R129, R201-R203, R234,
R312-R316, R348). -/
def Obligations.LanesComplete : Prop := (∀ k ∈ laneTable, k.Holds) ∧ (∀ k ∈ lateTable, k.Holds) ∧ bsetNothing.Holds

/-! ### What the other agents do -/

/-- Boot and reset (R18, R378-R382): a cold reset, RESET and a loss of power start the device cold; a boot stage that ends
well is followed by the next, and one that fails by the recovery state. The first stage verifies the record in flash with its
certificate, and takes the live columns, the spares, the serial number, the version, the energy weights and the identity from
it; the third verifies and measures the images. That a cold start keeps the arrays' and the host's bytes is the model's choice
(log 33, DESIGN CHOICE), and so is when a stage ends (log 5, DESIGN CHOICE); what a record holds is uninterpreted (log 14,
DESIGN CHOICE). -/
def Obligations.BootCompletes : Prop :=
  ∀ s : State,
    Answers .coldReset s (ColdStarted s) ∧ Answers .reset s (ColdStarted s) ∧ Answers .powerLoss s (ColdStarted s)
    ∧ (let record := s.dev.record
      let images := s.dev.firmware
      let ends (ok : Bool) (p : State → Prop) : Prop := Answers (.bootStageEnd ok) s fun t =>
        p t ∧ t.contexts = s.contexts ∧ SameBytes s t ∧ SameWork s t
      let failed (t : State) : Prop := t.dev = { s.dev with bootst := 0xF, fwver := 0 } ∧ ∀ c, t.column c = s.column c
      (s.dev.bootst < 4 → ends false failed)
      ∧ (s.dev.bootst = 0 → record.genuine = false → ends true failed)
      ∧ (s.dev.bootst = 0 → record.genuine = true → ends true fun t =>
          t.dev = { s.dev with bootst := 1, fwver := record.version, serial := record.serial
                               identity := derivedKeys (imageId record.bytes), measured := record.measured
                               weights := record.weights }
          ∧ ∀ c < 128, t.column c = { s.column c with live := record.names c, spuse := record.spares c, spmap := record.spares c })
      ∧ (s.dev.bootst = 1 ∨ s.dev.bootst = 3 → ends true fun t => t.dev = { s.dev with bootst := s.dev.bootst + 1 })
      ∧ (s.dev.bootst = 2 → (∃ x ∈ images, x.genuine = false) → ends true failed)
      ∧ (s.dev.bootst = 2 → (∀ x ∈ images, x.genuine = true) → ends true fun t => t.dev = { s.dev with
          bootst := 3, measured := s.dev.measured.set 2 (images.map fun x => Config.digest 3 (imageId x.bytes)) }))
    ∧ ∀ ok, 4 ≤ s.dev.bootst → exec (.bootStageEnd ok) s = .next s

/-- The firmware mailbox (R382): STAGE, VERIFY, COMMIT and DISCARD with their results. Whether a write of the flash succeeds
is a free choice of the model (log 6, DESIGN CHOICE); that VERIFY looks at no image index (log 62, DEDUCED), and that COMMIT
answers 7 rather than 5 where both apply (log 31, DEDUCED), are the model's reading. -/
def Obligations.FirmwareCompletes : Prop :=
  ∀ s : State,
    (∀ image,
      let others := s.dev.staged.filter fun x => x.index != image
      let n := s.dev.fwlen.toNat
      let a := s.dev.fwaddr.toNat
      let fits : Prop := image ≤ 15 ∧ a % 4096 = 0 ∧ n ≤ 64 * 2 ^ 20 ∧ (others.map fun x => x.bytes.length).sum + n ≤ 64 * 2 ^ 20
      let cmd := BitVec.ofNat 32 (1 + 256 * image)
      (¬ fits → Answers (.stage image) s fun t => MailboxEnded s t cmd 2 ∧ t.dev.staged = s.dev.staged)
      ∧ (fits → (∃ l ∈ s.hostPsn, a < 32 * l + 32 ∧ 32 * l < a + n) →
          Answers (.stage image) s fun t => MailboxEnded s t cmd 3 ∧ t.dev.staged = s.dev.staged)
      ∧ (fits → (∀ l ∈ s.hostPsn, ¬ (a < 32 * l + 32 ∧ 32 * l < a + n)) →
          Answers (.stage image) s fun t => MailboxEnded s t cmd 0
            ∧ t.dev.staged = others ++ [{ index := image, bytes := cellsGet s.host a n, verified := false }]))
    ∧ (Answers .verify s fun t =>
        MailboxEnded s t 2 (if s.dev.staged.all Image.genuine then 0 else 4)
        ∧ t.dev.staged = (s.dev.staged.filter Image.genuine).map fun x => { x with verified := true })
    ∧ (s.dev.bootst ≠ 0xF ∧ s.anyLive = true → Answers .commit s fun t => MailboxEnded s t 3 7 ∧ t.dev.flash = s.dev.flash)
    ∧ (s.dev.bootst = 0xF ∨ s.anyLive = false → (∀ x ∈ s.dev.staged, x.verified = false) →
        Answers .commit s fun t => MailboxEnded s t 3 5 ∧ t.dev.flash = s.dev.flash)
    ∧ (s.dev.bootst = 0xF ∨ s.anyLive = false → (∃ x ∈ s.dev.staged, x.verified = true) →
        Answers .commit s fun t => (MailboxEnded s t 3 6 ∧ t.dev.flash = s.dev.flash)
          ∨ (MailboxEnded s t 3 0
              ∧ (∀ x ∈ s.dev.staged, x.verified = true → (∀ y ∈ s.dev.staged, y.index = x.index → y = x) →
                  mapGet t.dev.flash x.index = some x.bytes)
              ∧ ∀ n, (∀ x ∈ s.dev.staged, x.verified = true → x.index ≠ n) → mapGet t.dev.flash n = mapGet s.dev.flash n))
    ∧ (Answers .discard s fun t => MailboxEnded s t 5 0 ∧ t.dev.staged = [])
    -- FWCMD as it is written: its reserved bits fail the command and read zero, the index of the command stays
    ∧ (∀ v : Addr, 2 ^ 16 ≤ (loWord v).toNat →
        Answers (.registerWrite 0x1000 v) s fun t => MailboxEnded s t (loWord v &&& 0xFFFF) 2 ∧ t.dev.staged = s.dev.staged)
    ∧ (∀ (v : Addr) (image : Nat), image < 256 → (loWord v).toNat = 2 + 256 * image →
        Answers (.registerWrite 0x1000 v) s fun t => MailboxEnded s t (loWord v) (if s.dev.staged.all Image.genuine then 0 else 4))
    ∧ ∀ (v : Addr) (image : Nat), image < 256 → (loWord v).toNat = 1 + 256 * image →
        exec (.registerWrite 0x1000 v) s = exec (.stage image) s

/-- The context-management commands (R284, R360-R363, R366, R369, R373, R376) on a device that is up. MAPCOL, SETROOT and
INVAL stay under way, BUSY, while a warp of the context holds accesses back, and end with the arguments they were written with
once none does (log 103, DESIGN CHOICE). The order of the reasons for a refusal (log 31, DEDUCED), and that no KEYLOAD names
slot 0 (log 60, DEDUCED), are the model's reading. -/
def Obligations.ContextsManaged : Prop :=
  ∀ (s : State) (asid : Nat), s.dev.bootst = 4 → asid < 8192 →
    let a := s.dev.cmarg0
    let kept (t : State) : Prop := t.keys = s.keys ∧ Unwritten s t
    let set (t : State) (c : Context) : Prop :=
      t.ctx asid = c ∧ OtherContexts s t asid ∧ t.keys = s.keys ∧ SameBytes s t ∧ SameWork s t
    let keep : BitVec 128 := ~~~(0x3FF ||| (0x3FF <<< 48))
    let entry : BitVec 128 := (s.dev.cmarg2 ++ s.dev.cmarg1) &&& keep
    let args (code : Nat) : Busy := { code := code, asid := asid, arg0 := a, arg1 := s.dev.cmarg1, arg2 := s.dev.cmarg2 }
    -- a command that changes what accesses reach: as it is written, and under way from before
    let remaps (i : Instr) (code : Nat) (p : Busy → State → Prop) : Prop := s.holdsAccess asid = false →
      (s.dev.busy = none → Answers i s (p (args code)))
      ∧ ∀ b, s.dev.busy = some b → b.code = code → b.asid = asid → p b s.endBusy
    let waits (i : Instr) (code : Nat) : Prop := s.holdsAccess asid = true → exec i s = .next { s with dev := { s.dev with
      cmcmd := BitVec.ofNat 32 (code + asid * 2 ^ 16), busy := some (args code) } }
    (s.dev.busy = none →
      -- CREATE
      ((s.ctx asid).closed = true → Answers (.create asid) s fun t => NotManaged s t 1 asid 3)
      ∧ ((s.ctx asid).closed = false → (s.ctx asid).live = true → Answers (.create asid) s fun t => NotManaged s t 1 asid 4)
      ∧ ((s.ctx asid).closed = false → (s.ctx asid).live = false → Answers (.create asid) s fun t =>
          Managed t 1 asid ∧ set t { Context.empty with live := true })
      -- DESTROY
      ∧ (s.hasGrid asid = true → Answers (.destroy asid) s fun t => NotManaged s t 2 asid 1)
      ∧ (s.hasGrid asid = false → (s.ctx asid).live = false → Answers (.destroy asid) s fun t => NotManaged s t 2 asid 4)
      ∧ (s.hasGrid asid = false → (s.ctx asid).live = true → Answers (.destroy asid) s fun t =>
          Managed t 2 asid ∧ (∃ m, t.ctx asid = { Context.empty with meters := m, closed := true }) ∧ Unwritten s t
          ∧ (∀ kv ∈ t.rounds, kv.2.asid ≠ asid) ∧ (∀ kv ∈ t.merges, kv.2.asid ≠ asid) ∧ (∀ kv ∈ t.copies, kv.2.asid ≠ asid)
          ∧ (∀ c, ∀ k < 4, ∀ e ∈ (t.core c k).left, e.2.1 ≠ asid)
          ∧ (∀ k ∈ t.keys, k.1 = 0 ∨ k.2.1 ≠ asid) ∧ Forgotten t asid fun _ _ _ => true))
    ∧ ((s.ctx asid).live = true →
      -- MAPCOL
      (∀ (l p : Nat) (valid : Bool), l < 255 → p < 128 → (valid = true → s.columnLive p = true) →
        remaps (.mapcol asid) 3 fun b t => b.arg0.toNat = l + p * 2 ^ 8 + valid.toNat * 2 ^ 15 →
          Managed t 3 asid ∧ (t.ctx asid).pcol l = (if valid then some p else none)
          ∧ (∀ k, k ≠ l → (t.ctx asid).pcol k = (s.ctx asid).pcol k) ∧ kept t ∧ RunsDiscarded s t asid
          ∧ Forgotten t asid fun k _ _ => k == l)
      ∧ (∀ (l p : Nat) (valid : Bool), l < 255 → p < 128 → (valid = true → s.columnLive p = true) →
          a.toNat = l + p * 2 ^ 8 + valid.toNat * 2 ^ 15 → s.dev.busy = none → waits (.mapcol asid) 3)
      -- SETROOT, physical and logical
      ∧ (∀ p, p < 128 → remaps (.setroot asid) 4 fun b t => b.arg0.toNat = p → b.arg1.toNat < 2 ^ 34 → b.arg1.toNat % 4096 = 0 →
          Managed t 4 asid ∧ (∀ q, mapGet (t.ctx asid).roots q = if q = p then some b.arg1.toNat else mapGet (s.ctx asid).roots q)
          ∧ (t.ctx asid).lroots = (s.ctx asid).lroots ∧ kept t ∧ RunsDiscarded s t asid
          ∧ Forgotten t asid fun k _ _ => (s.ctx asid).pcol k == some p)
      ∧ (∀ p l, p < 128 → l < 255 → remaps (.setroot asid) 4 fun b t =>
          b.arg0.toNat = p + l * 2 ^ 16 + 2 ^ 31 → b.arg1.toNat < 2 ^ 34 → b.arg1.toNat % 4096 = 0 →
          (b.arg1.toNat = 0 ∨ ((s.ctx asid).lroots.filter fun r => r.1 == p).length < 8) →
          Managed t 4 asid ∧ (t.ctx asid).rootOf p l
            = (if b.arg1.toNat = 0 then mapGet (s.ctx asid).roots p else some b.arg1.toNat)
          ∧ (∀ q k, (q, k) ≠ (p, l) → (t.ctx asid).rootOf q k = (s.ctx asid).rootOf q k) ∧ kept t
          ∧ RunsDiscarded s t asid ∧ Forgotten t asid fun k _ _ => k == l)
      ∧ (a.toNat < 128 → s.dev.cmarg1.toNat < 2 ^ 34 → s.dev.cmarg1.toNat % 4096 = 0 → s.dev.busy = none → waits (.setroot asid) 4)
      -- INVAL
      ∧ (∀ l, l < 256 → remaps (.inval asid) 5 fun b t => b.arg0.toNat = l →
          Managed t 5 asid ∧ kept t ∧ RunsDiscarded s t asid
          ∧ Forgotten t asid fun k o len => (l == 255 || k == l) && (b.arg2.toNat == 0
              || (decide (o < b.arg1.toNat + b.arg2.toNat) && decide (b.arg1.toNat < o + len))))
      ∧ (a.toNat < 256 → s.dev.busy = none → waits (.inval asid) 5))
    ∧ (s.dev.busy = none → (s.ctx asid).live = true →
      -- KEYLOAD: the device's own key, the key given, and a slot of another context
      (∀ (slot : Nat) (own : Bool), 0 < slot → slot < 4096 → a.toNat = slot + own.toNat * 2 ^ 16 →
          (∀ k, mapGet s.keys slot = some k → k.1 = asid) → Answers (.keyload asid) s fun t =>
            Managed t 6 asid
            ∧ (∀ n, mapGet t.keys n = if n = slot then some (asid, if own then 2 * s.nextId else 2 * s.dev.cmkey.toNat + 1)
                else mapGet s.keys n) ∧ SameBytes s t ∧ SameWork s t)
      ∧ (∀ (slot : Nat) (own : Bool), slot < 4096 → a.toNat = slot + own.toNat * 2 ^ 16 →
          (slot = 0 ∨ ∃ k, mapGet s.keys slot = some k ∧ k.1 ≠ asid) → Answers (.keyload asid) s fun t => NotManaged s t 6 asid 5)
      -- SETSCHED, PAIR, SAVEAREA, PRIVAREA
      ∧ (∀ p e, p < 128 → e < 16 → a.toNat = p + e * 2 ^ 8 → Answers (.setsched asid) s fun t =>
          Managed t 7 asid ∧ set t { s.ctx asid with sched := mapSet (s.ctx asid).sched (16 * p + e) entry })
      ∧ (∀ d peer, d ≤ 287 → peer < 8192 → a.toNat = d + peer * 2 ^ 16 + 2 ^ 31 → Answers (.pair asid) s fun t =>
          Managed t 8 asid ∧ set t { s.ctx asid with pairs := mapSet (s.ctx asid).pairs d peer })
      ∧ (∀ d, d ≤ 287 → a.toNat = d → Answers (.pair asid) s fun t =>
          Managed t 8 asid ∧ set t { s.ctx asid with pairs := mapErase (s.ctx asid).pairs d })
      ∧ (∀ p slot, p < 128 → 0 < slot → slot < 4096 → a.toNat = p + slot * 2 ^ 16 → s.onColumn asid p = false →
          s.dev.cmarg1.toNat % 2 ^ 21 = 0 → s.dev.cmarg1.toNat + 96 * 2 ^ 20 ≤ 2 ^ 34 →
          (mapGet s.keys slot).map Prod.fst = some asid → Answers (.savearea asid) s fun t =>
            Managed t 9 asid ∧ set t { s.ctx asid with save := mapSet (s.ctx asid).save p (s.dev.cmarg1.toNat, slot) })
      ∧ (∀ p, p < 128 → a.toNat = p → s.onColumn asid p = false → s.dev.cmarg1.toNat % 2 ^ 16 = 0 →
          s.dev.cmarg2.toNat % 2 ^ 16 = 0 → s.dev.cmarg1.toNat + s.dev.cmarg2.toNat ≤ 2 ^ 48 → Answers (.privarea asid) s fun t =>
            Managed t 10 asid
            ∧ set t { s.ctx asid with priv := mapSet (s.ctx asid).priv p (s.dev.cmarg1.toNat, s.dev.cmarg2.toNat) })
      -- a save area or private region under a context's warps is refused
      ∧ (s.onColumn asid (a.toNat % 128) = true →
          (Answers (.savearea asid) s fun t => NotManaged s t 9 asid 1) ∧ Answers (.privarea asid) s fun t => NotManaged s t 10 asid 1))

/-- The management messages (R145, R222, R376, R377, R381, R401) and attestation (R380): each answers, and changes nothing but
what it sets. The result codes, 2 for what is out of range or not closed and 0 for what is set, are the model's (log 102,
DESIGN CHOICE), the thermal halts that READ_LOG gives behind the two logs are the model's reading (log 64, DEDUCED), and
measurements and signatures are uninterpreted (log 14, DESIGN CHOICE). -/
def Obligations.MessagesAnswered : Prop :=
  ∀ s : State,
    let told (m : Msg) : State := { s with msgs := s.msgs ++ [m] }
    let meters (asid col : Nat) : List Nat :=
      s.cycOf col :: (List.range 10).map fun n => (mapGetD (s.ctx asid).meters (16 * col + n) 0).toNat
    let ring (m : AMap (BitVec 128)) (first n : Nat) : List Nat :=
      (List.range (min n 64)).map fun i => (mapGetD m ((first + i) % 64) 0).toNat
    (∀ live closed, live = (s.contexts.filter fun kv => kv.2.live).map Prod.fst →
      closed = (s.contexts.filter fun kv => kv.2.closed).map Prod.fst →
      exec .getContexts s = .next (told (.words (live.length :: live ++ (closed.length :: closed)))))
    ∧ (∀ asid col n, 1 ≤ n → n ≤ 16 → col + n ≤ 128 →
        exec (.readMeters asid col n) s = .next (told (.words ((List.range n).flatMap fun i => meters asid (col + i)))))
    ∧ (∀ asid, (s.ctx asid).closed = true → Answers (.collect asid) s fun t =>
        t.msgs = s.msgs ++ [.words ((List.range 128).flatMap (meters asid))]
        ∧ t.ctx asid = { s.ctx asid with closed := false, meters := [] } ∧ OtherContexts s t asid ∧ SameBytes s t ∧ SameWork s t)
    ∧ (∀ asid, (s.ctx asid).closed = false → exec (.collect asid) s = .next (told (.status 2)))
    ∧ (∀ tower v, tower < 4 → exec (.setBudget tower v) s = .next { told (.status 0) with
        dev := { s.dev with octbud := s.dev.octbud.set tower v } })
    ∧ (∀ tower v, tower < 4 → v ≤ 7 → exec (.setThrottle tower v) s = .next { told (.status 0) with
        dev := { s.dev with mxthr := s.dev.mxthr.set tower v } })
    ∧ (∀ col first n, col < 128 → exec (.readLog col first n) s = .next (told (.words
        ([(s.column col).clcnt.toNat, (s.column col).tlcnt.toNat] ++ ring (s.column col).clog first n
          ++ ring (s.column col).tlog first n ++ s.dev.thermLog))))
    ∧ exec .bootStatus s = .next (told (.words [s.dev.bootst]))
    ∧ ∀ nonce, s.dev.bootst ≠ 0 → s.dev.bootst ≠ 0xF →
        let hash := Config.digest 6 (2 ^ 512 * s.measurements + nonce)
        let text := 2 ^ 512 * s.dev.identity + hash
        exec (.spdmRequest nonce) s = .next { told (.signed hash (Config.digest 7 text) (Config.digest 8 text)) with
          dev := { s.dev with spdm := s.dev.spdm + 1 } }

/-- The host's registers and apertures and the transfers of peers (R5, R6, R135, R136, R323, R360, R372-R374, R378, R382):
what a write of each register does and what a read of it gives, and that an access is performed where its translation leads,
or answered with an error. An access has one to eight bytes through an aperture (log 61, DEDUCED), and is of a whole register
elsewhere (log 101, DESIGN CHOICE). While a context-management command is under way, CMSTAT has bit 0 set and CMCMD takes no
other. -/
def Obligations.HostAccessesComplete : Prop :=
  ∀ s : State, Canonical s →
    let error : State := { s with msgs := s.msgs ++ [.error] }
    let up : Prop := s.dev.bootst = 4
    -- the launch queues
    (∀ q v, q < 16 → up →
      let k := s.dev.queue q
      let v' : Word := v &&& 0x1FFF00F1
      (bit k.qctl 0 = false → bit v 0 = true → v'.toNat / 16 % 16 < 12 → Answers (.qctlWrite q v) s fun t =>
        (t.dev.queue q).qctl = v' ∧ (t.dev.queue q).qhead = 0 ∧ (t.dev.queue q).qtail = 0 ∧ (t.dev.queue q).qdone = 0
        ∧ (t.dev.queue q).qbase = k.qbase ∧ (t.dev.queue q).qcmpl = k.qcmpl ∧ (t.dev.queue q).asid = some (v'.toNat / 2 ^ 16))
      ∧ (bit k.qctl 0 = false → bit v 0 = true → 12 ≤ v'.toNat / 16 % 16 → Answers (.qctlWrite q v) s fun t =>
          t.dev.queue q = k)
      ∧ (bit k.qctl 0 = true → bit v 0 = false → v' ||| 1 = k.qctl → Answers (.qctlWrite q v) s fun t =>
          t.dev.queue q = { k with qctl := v' })
      ∧ (bit k.qctl 0 = true → v' ||| 1 ≠ k.qctl → Answers (.qctlWrite q v) s fun t => t.dev.queue q = k)
      ∧ (Answers (.qtailWrite q v) s fun t => t.dev.queue q = { k with qtail := v })
      ∧ ∀ x : Addr, (bit k.qctl 0 = false → Answers (.registerWrite (0x10000 + 64 * q) x) s fun t =>
            t.dev.queue q = { k with qbase := x })
          ∧ (bit k.qctl 0 = true → Answers (.registerWrite (0x10000 + 64 * q) x) s fun t => t.dev.queue q = k)
          ∧ (∀ off ∈ [0x10, 0x20], exec (.registerWrite (0x10000 + 64 * q + off) x) s = .next s)
          ∧ s.register (0x10000 + 64 * q) = k.qbase ∧ s.register (0x10000 + 64 * q + 0x10) = k.qhead.setWidth 64
          ∧ s.register (0x10000 + 64 * q + 0x20) = k.qdone.setWidth 64)
    -- the other registers
    ∧ (∀ v, up → exec (.wdogdWrite v) s = .next { s with dev := { s.dev with wdogd := if v = 0 then 1 else v } })
    ∧ (∀ v, exec (.registerWrite 0x1008 v) s = .next { s with dev := { s.dev with fwaddr := v } })
    ∧ (∀ v, exec (.registerWrite 0x1010 v) s = .next { s with dev := { s.dev with fwlen := loWord v } })
    ∧ (∀ addr v, ¬ up → addr ≠ 0x1000 → addr ≠ 0x1008 → addr ≠ 0x1010 → exec (.registerWrite addr v) s = .next s)
    ∧ (∀ v, up → exec (.registerWrite 0x20008 v) s = .next { s with dev := { s.dev with cmarg0 := v } })
    ∧ (∀ v, up → Answers (.registerWrite 0x100 v) s fun t => t.dev.irqst = s.dev.irqst &&& ~~~loWord v)
    ∧ (∀ v, up → Answers (.registerWrite 0x104 v) s fun t => t.dev.irqen = loWord v &&& 0x3F)
    ∧ (∀ asid v, up → asid < 8192 → s.dev.busy = none → (loWord v).toNat = 1 + asid * 2 ^ 16 →
        exec (.registerWrite 0x20000 v) s = exec (.create asid) s)
    ∧ (∀ v, up → s.dev.busy.isSome = true → exec (.registerWrite 0x20000 v) s = .next s)
    -- what the host reads
    ∧ (up → s.register 0x100 = (s.dev.irqst &&& 0x3F).setWidth 64 ∧ s.register 0x104 = s.dev.irqen.setWidth 64
        ∧ s.register 0x20020 = (s.dev.cmstat ||| (if s.dev.busy = none then 0 else 1)).setWidth 64
        ∧ s.register 0x20024 = s.dev.wdogd.setWidth 64)
    ∧ (∀ k < 8, s.register (0x20040 + 8 * k) = 0)
    ∧ s.register 0 = BitVec.ofNat 64 s.dev.bootst ∧ s.register 0x1000 = s.dev.fwcmd.setWidth 64
    ∧ s.register 0x1014 = s.dev.fwstat.setWidth 64
    ∧ (∀ addr, ¬ up → addr ≠ 0 → (addr < 0x1000 ∨ 0x101C ≤ addr) → s.register addr = 0)
    -- the apertures of contexts
    ∧ (∀ ap off data a, s.dev.aps[ap]? = some a →
        let bs := accessBytes data
        let l := a.ctl.toNat / 2 ^ 8 % 256
        let asid := a.ctl.toNat / 2 ^ 16 % 8192
        let ptr := BitVec.ofNat 64 (l * 2 ^ 48 + (a.off.toNat + off) % 2 ^ 48)
        let open_ (write : Bool) : Prop := up ∧ bit a.ctl 0 = true ∧ bit a.ctl 2 = false ∧ (write = true → bit a.ctl 1 = true)
          ∧ off + bs.length ≤ a.len.toNat ∧ (s.ctx asid).live = true ∧ l ≠ 255
        (∀ write, ¬ open_ write → exec (.hostApertureAccess ap off write data) s = .next error)
        ∧ ∀ p, (s.ctx asid).pcol l = some p →
            let s1 := s.walkBytes asid p ptr bs.length
            (∀ write c, open_ write → s1.enginePlaces p asid 0 ptr bs.length { read := !write, write := write } = .error c →
              exec (.hostApertureAccess ap off write data) s = .next error)
            ∧ (∀ ls, open_ false → s1.enginePlaces p asid 0 ptr bs.length { read := true } = .ok ls → OnePlace ls →
                Answers (.hostApertureAccess ap off false data) s fun t => Unwritten s t ∧ ReadOut s t (ls.map (s.readLoc 128)))
            ∧ ∀ ls, open_ true → s1.enginePlaces p asid 0 ptr bs.length { write := true } = .ok ls →
                Answers (.hostApertureAccess ap off true data) s fun t =>
                  StoresHere s t (writtenAt ls bs))
    -- the table apertures
    ∧ (∀ off data a, (s.dev.aps.find? fun a => bit a.ctl 0 && bit a.ctl 2 && decide (a.win.toNat ≤ off)
          && decide (off + (accessBytes data).length ≤ a.win.toNat + a.len.toNat)) = some a →
        let bs := accessBytes data
        let col := a.ctl.toNat / 2 ^ 8 % 128
        let pa := a.off.toNat + (off - a.win.toNat)
        let ls := (List.range bs.length).map fun i => Loc.mem col (pa + i) 0
        (∀ write, ¬ up ∨ (write = true ∧ bit a.ctl 1 = false) ∨ 2 ^ 34 < pa + bs.length →
          exec (.tableApertureAccess off write data) s = .next error)
        ∧ (up → pa + bs.length ≤ 2 ^ 34 → Answers (.tableApertureAccess off false data) s fun t =>
            Unwritten s t ∧ ReadOut s t (ls.map (s.readLoc 128)))
        ∧ (up → bit a.ctl 1 = true → pa + bs.length ≤ 2 ^ 34 → Answers (.tableApertureAccess off true data) s fun t =>
            StoresHere s t (writtenAt ls bs)))
    -- a peer's transfers
    ∧ ∀ n i, mapGet s.inbound n = some i →
        let col := ((s.ctx i.asid).pcol (i.ptr.toNat / 2 ^ 48 % 256)).getD 128
        let s1 := s.walkBytes i.asid col i.ptr i.data.length
        (s.paired i = false → exec (.watikReceive n) s = .next { error with inbound := mapErase s.inbound n })
        ∧ ∀ ls, s.paired i = true → i.ask = .none → bit i.ptr 63 = false →
            s1.enginePlaces col i.asid 0 i.ptr i.data.length { read := !i.write, write := i.write } = .ok ls →
            Answers (.watikReceive n) s fun t => t.inbound = mapErase s.inbound n
              ∧ (i.write = true → StoresHere s t (writtenAt ls i.data))
              ∧ (i.write = false → Unwritten s t ∧ t.msgs.getLast?
                = some (.flits (ls.map fun l => (s1.readLoc col l).1.toNat) (ls.any fun l => (s1.readLoc col l).2)))

/-- The device's own maintenance (R222, R252, R286, R371, R373, R374, R383, R399-R404). Whether a retried transfer is correct,
and how far a level rises, are free choices of the model (log 6, DESIGN CHOICE); how poison of a failed transfer stands (log
9, DEDUCED) and the log of a thermal halt (log 64, DEDUCED) are the model's reading. -/
def Obligations.MaintenanceCompletes : Prop :=
  ∀ s : State, Canonical s →
    -- host lines
    (∀ col k line, mapGet s.hostCopy k = some line → k / 2 ^ 47 = col → Answers (.hostWritebackTimeout col) s fun t =>
      mapGet t.hostCopy k = some { line with dirty := 0 }
      ∧ (∀ i < 64, cellGet t.host (64 * (k % 2 ^ 47) + i)
          = if line.dirty.testBit i then line.bytes.getD i 0 else cellGet s.host (64 * (k % 2 ^ 47) + i))
      ∧ t.mem = s.mem ∧ t.spad = s.spad ∧ t.peer = s.peer)
    ∧ (∀ line invalidate, line < 2 ^ 47 → Answers (.cxlCacheSnoop line invalidate) s fun t =>
        t.msgs.getLast? = some (.snoop line (s.hostCopy.any fun kv => kv.1 % 2 ^ 47 == line && kv.2.dirty != 0))
        ∧ (∀ col, (invalidate = true → mapGet t.hostCopy (col * 2 ^ 47 + line) = none)
          ∧ (mapGet s.hostCopy (col * 2 ^ 47 + line) = none → mapGet t.hostCopy (col * 2 ^ 47 + line) = none)
          ∧ (invalidate = false → ∀ x, mapGet s.hostCopy (col * 2 ^ 47 + line) = some x →
              ∃ y, mapGet t.hostCopy (col * 2 ^ 47 + line) = some y ∧ y.bytes = x.bytes ∧ y.dirty = 0))
        ∧ (∀ col x, mapGet s.hostCopy (col * 2 ^ 47 + line) = some x →
            (∀ c y, mapGet s.hostCopy (c * 2 ^ 47 + line) = some y → c ≠ col → y.dirty = 0) →
            ∀ i < 64, cellGet t.host (64 * line + i)
              = if x.dirty.testBit i then x.bytes.getD i 0 else cellGet s.host (64 * line + i))
        ∧ t.mem = s.mem ∧ t.spad = s.spad ∧ t.peer = s.peer)
    -- the rebalancer
    ∧ (∀ col, col < 128 → (s.column col).failed ≠ 2 →
        let c := s.column col
        let busy := c.extremeSlice true
        let idle := c.extremeSlice false
        Answers (.rebalanceWindowEnd col) s fun t => (t.column col).requests = [] ∧ Unwritten s t
          ∧ (c.sliceLoad busy ≤ 2 * c.sliceLoad idle → (t.column col).sit = c.sit)
          ∧ (2 * c.sliceLoad idle < c.sliceLoad busy → (c.requests.map Prod.fst).Nodup → ∃ b, mapGetD c.sit b (b % 8) = busy
              ∧ (∀ d, mapGetD c.sit d (d % 8) = busy → mapGetD c.requests d 0 ≤ mapGetD c.requests b 0)
              ∧ mapGetD (t.column col).sit b (b % 8) = idle
              ∧ (∀ d, d ≠ b → mapGetD (t.column col).sit d (d % 8) = mapGetD c.sit d (d % 8))
              ∧ ∀ x ∈ (t.column col).sectors, (c.slice x.addr).1 ≠ b))
    -- scrubbing, retries, lanes, retraining
    ∧ (∀ col line sym pat, col < 128 → line < 2 ^ 29 → (s.column col).failed ≠ 2 →
        mapGet s.errs (memKey col (32 * line) / 32) = some (sym, pat) → Answers (.patrolScrub col line) s fun t =>
          mapGet t.errs (memKey col (32 * line) / 32) = none ∧ (t.column col).clcnt = (s.column col).clcnt + 1
          ∧ (sym = 255 → (memKey col (32 * line) / 32) ∈ t.memPsn ∧ bit t.dev.irqst 2 = true)
          ∧ (sym ≠ 255 → t.memPsn = s.memPsn) ∧ SameBytes s t)
    ∧ (∀ col line, col < 128 → line < 2 ^ 29 → (s.column col).failed ≠ 2 → mapGet s.errs (memKey col (32 * line) / 32) = none →
        let met : State := if (s.column col).awaits line then { s with blocked := true } else s
        exec (.patrolScrub col line) s = .next (met.upkeep col 8))
    ∧ (∀ col x, (s.column col).retrying = some x → Answers (.transferRetry col) s fun t => SameBytes s t
        ∧ (((t.column col).retry = (s.column col).retry.erase x ∧ (t.column col).tlcnt = (s.column col).tlcnt + 1)
          ∨ ((t.column col).tlcnt = (s.column col).tlcnt
              ∧ (t.column col).retry
                = (s.column col).retry.map fun y => if y = x then (x.1, x.2.1, x.2.2.1 + 1, x.2.2.2) else y)))
    ∧ (∀ col lane x, lane ≤ 64 → (s.column col).toTest = some x → Answers (.laneTest col lane) s fun t =>
        SameBytes s t ∧ (t.column col).retry = (s.column col).retry.erase x
        ∧ (t.column col).tlcnt = (s.column col).tlcnt + 1
        ∧ (2 ≤ (s.column col).spares x.1 → (t.column col).spuse = (s.column col).spuse
            ∧ (x.2.2.2 % 2 = 0 → mapGet t.readPsn (memKey col (32 * x.2.1) / 32) = some false ∧ t.memPsn = s.memPsn)
            ∧ (x.2.2.2 % 2 = 1 → memKey col (32 * x.2.1) / 32 ∈ t.memPsn) ∧ bit t.dev.irqst 2 = true)
        ∧ ((s.column col).spares x.1 < 2 → (t.column col).spuse = (s.column col).spuse + BitVec.ofNat 32 (4 ^ x.1)))
    ∧ (∀ col bus, bus < 8 →
        let last := mapGetD (s.column col).trained bus 0
        let inFlight := ((s.column col).retry.any fun y => y.1 == bus) && !(s.column col).due.contains bus
        (last ≠ 0 → s.cycOf col + 1 < last + 2 ^ 22 → exec (.retraining col bus) s = .next s)
        ∧ (last = 0 ∨ last + 2 ^ 22 ≤ s.cycOf col + 1 →
            (inFlight = true → Answers (.retraining col bus) s fun t => bus ∈ (t.column col).due
              ∧ (t.column col).trained = (s.column col).trained ∧ SameBytes s t)
            ∧ (inFlight = false → Answers (.retraining col bus) s fun t =>
                mapGet (t.column col).trained bus = some (s.cycOf col + 1) ∧ SameBytes s t)))
    -- flows and links
    ∧ (∀ flow, Answers (.flowEscape flow) s fun t => flow ∈ t.dev.flows ∧ SameBytes s t ∧ SameWork s t)
    ∧ (∀ link, Answers (.linkLevelRetry link) s fun t => SameBytes s t ∧ SameWork s t
        ∧ t.dev.retries = mapSet s.dev.retries link (mapGetD s.dev.retries link 0 + 1))
    ∧ (∀ port < 18, Answers (.watikLinkTraining port) s fun t => mapGet t.dev.linkKeys port = some s.nextId
        ∧ SameBytes s t ∧ SameWork s t)
    ∧ (∀ port, 18 ≤ port → exec (.watikLinkTraining port) s = .next s)
    -- throttles
    ∧ (∀ tower < 4,
        let h := s.dev.mxthr.getD tower 0
        let now := s.cycOf (32 * tower)
        let raised (t : State) : Prop := SameBytes s t ∧ SameWork s t
          ∧ (7 ≤ h → t.dev.mxthr.getD tower 0 = h) ∧ (h < 7 → h < t.dev.mxthr.getD tower 0 ∧ t.dev.mxthr.getD tower 0 ≤ 7)
        (∀ draw, 4700 < draw → Answers (.throttleRaise tower draw) s raised)
        ∧ (∀ draw, draw ≤ 4700 → exec (.throttleRaise tower draw) s = .next s)
        ∧ (∀ draw, draw < 4600 → s.dev.calm.getD tower 0 + 2 ^ 16 ≤ now → Answers (.throttleLower tower draw) s fun t =>
            t.dev.mxthr.getD tower 0 = h - 1 ∧ t.dev.calm.getD tower 0 = now ∧ SameBytes s t ∧ SameWork s t)
        ∧ (∀ draw, draw < 4600 → now < s.dev.calm.getD tower 0 + 2 ^ 16 → exec (.throttleLower tower draw) s = .next s)
        ∧ Answers (.thermalThrottle tower) s fun t => raised t ∧ bit t.dev.irqst 4 = true)
    ∧ Answers .thermalHalt s fun t => (∀ c < 128, (t.column c).halted = true)
        ∧ (∀ w x, s.warp w = some x → t.warp w = some { x with halted := true }) ∧ bit t.dev.irqst 4 = true
        ∧ t.dev.halted = true ∧ t.dev.thermLog = s.dev.thermLog ++ [s.cycOf 0] ∧ SameBytes s t

/-- What a merge station does (R331-R339, R341, R346), with commands that order nothing. What lies at a peer is not in the
machine, so that what goes there is a message, which the command then awaits the answer of: log 26, DESIGN CHOICE. The model's
readings behind other clauses: the order in which notices of gangs' ends are taken, and DROP of a done round (log 36), when a
waiter learns its fate (log 70), and to whom a refusal is told and when a chunk is read (log 71), all DEDUCED. -/
def Obligations.MergingCompletes : Prop :=
  ∀ (s : State), Canonical s →
    let quiet (m : MergeCmd) : Prop := m.ord.acq = false ∧ m.ord.rel = false
    -- a round opens with the total it has read
    (∀ n m st ls,
      let half := bit m.w1 24
      let bytes := openT m.w1 * tileBytes half
      let s1 := s.walkBytes m.asid st m.src bytes
      s.mergeHeld m = false → mapGet s.merges n = some m → m.op = .openRound → quiet m → s.mergeStation m = .ok st →
      s.openRound m.asid st (refId m.ref) = none → (s.rounds.filter fun kv => kv.2.col == st).length < 64 →
      2 * bytes ≤ s.landingFree st →
      s1.enginePlaces st m.asid m.gang m.src bytes { read := true, write := true } = .ok ls →
      (∀ l ∈ ls, (∃ pa k, l = .mem st pa k) ∨ ∃ pa, l = .host pa) → (∀ l ∈ ls, (s1.readLoc st l).2 = false) →
      Answers (.roundOpen n) s fun t => Unwritten s t ∧ mapGet t.merges m.id = none ∧ ∃ r, mapGet t.rounds s.nextId = some r
        ∧ r.col = st ∧ r.asid = m.asid ∧ r.id = refId m.ref ∧ r.state = .opened ∧ r.bf16 = half ∧ r.t = openT m.w1
        ∧ r.k = openK m.w1 ∧ r.limit = m.w0 ∧ r.scope = m.ord.scope ∧ r.cont = [] ∧ r.head = 0 ∧ r.nDone = 0 ∧ r.nRej = 0
        ∧ r.nScaled = 0 ∧ r.total = (List.range (openT m.w1)).map (tileOf (elemsOf half (ls.map (s1.readLoc st)))))
    -- a tile is read chunk by chunk at the issuing column, and staged; the last one ends its PUT
    ∧ (∀ n m st k r,
        let c := cidOf m.w0
        let tile := putT0 m.w0 + m.done
        let places := placesOrFault (s.tileByte m) (m.chunk r.bf16)
        mapGet s.merges n = some m → m.op = .put → m.done < m.sent → quiet m → s.mergeStation m = .ok st →
        s.openRound m.asid st (refId m.ref) = some (k, r) → mapGet s.rounds k = some r → r.refusal m true = none →
        (c = r.head ∨ (mapGet (r.contributor c).tiles tile).isSome = true ∨ tileBytes r.bf16 ≤ s.landingFree st) →
        (∀ e, places = .error e → Answers (.stageTiles n) s fun t => SameBytes s t ∧ mapGet t.merges m.id = none
          ∧ ∃ r', mapGet t.rounds k = some r' ∧ (r'.contributor c).faulted = true)
        ∧ ∀ ls, places = .ok ls →
          let s1 := s.walkBytes m.asid m.col (m.src + BitVec.ofNat 64 (m.at_ r.bf16)) ls.length
          let got := m.part ++ ls.map (s1.readLoc m.col)
          (got.length < tileBytes r.bf16 → Answers (.stageTiles n) s fun t => Unwritten s t
            ∧ mapGet t.merges m.id = some { m with part := got } ∧ t.rounds = s.rounds)
          ∧ (tileBytes r.bf16 ≤ got.length → Answers (.stageTiles n) s fun t => Unwritten s t
            ∧ mapGet t.merges m.id = (if m.done + 1 = putNt m.w0 then none else some { m with done := m.done + 1, part := [] })
            ∧ ∃ r', mapGet t.rounds k = some r' ∧ (r'.contributor c).gang.isSome = true
              ∧ ((r.contributor c).gang = none → (r'.contributor c).gang.map Prod.fst = some m.gang)
              ∧ (∀ i, mapGet (r'.contributor c).tiles i = if i = tile then some (elemsOf r.bf16 got)
                  else mapGet (r.contributor c).tiles i)
              ∧ (r'.contributor c).poison = ((r.contributor c).poison || got.any Prod.snd)
              ∧ (∀ d, d ≠ c → r'.contributor d = r.contributor d) ∧ r'.total = r.total ∧ r'.head = r.head))
    -- a marker for a peer's station is sent on to it, under the mutual pairing of its context
    ∧ (∀ n m pasid, mapGet s.merges n = some m → m.op = .endGroup → m.done < m.sent → s.mergeBehind m = false →
        refRem m.ref = true → s.mutual m.asid (refPeer m.ref) = some pasid →
        Answers (.measureContributor n) s fun t => mapGet t.merges m.id = some { m with done := m.done + 1, part := [] }
          ∧ t.msgs = s.msgs ++ [.merge (refPeer m.ref) pasid { m with part := [] } [] false (s.willHold m.gang)]
          ∧ SameBytes s t)
    -- an END closes and measures its contributor
    ∧ (∀ n m st k r,
        let c := cidOf m.w0
        mapGet s.merges n = some m → m.op = .endGroup → m.done < m.sent → quiet m → s.mergeBehind m = false →
        s.mergeStation m = .ok st → s.openRound m.asid st (refId m.ref) = some (k, r) → mapGet s.rounds k = some r →
        r.refusal m false = none →
        Answers (.measureContributor n) s fun t => SameBytes s t ∧ mapGet t.merges m.id = none
          ∧ ∃ r', mapGet t.rounds k = some r' ∧ (r'.contributor c).ended = true
            ∧ (r'.contributor c).gang.map Prod.fst = some m.gang ∧ (r'.contributor c).tiles = (r.contributor c).tiles
            ∧ (r'.contributor c).scale = some (measureGroup r.bf16 r.t r.limit (r.contributor c))
            ∧ (∀ d, d ≠ c → r'.contributor d = r.contributor d) ∧ r'.total = r.total ∧ r'.head = r.head)
    -- the head contributor commits or is rejected, and after the last one the total is written
    ∧ (∀ col asid round n r,
        let sc := (r.contributor r.head).commitScale
        let total := match sc with | some x => addedTotal r x | none => r.total
        let bytes := totalBytesOf r total
        s.openRound asid col round = some (n, r) → mapGet s.rounds n = some r → r.headReady = true → s.reachable col = true →
        let counted (q : Round) : Prop := q.head = r.head + 1 ∧ q.nDone = (if sc.isSome then r.nDone + 1 else r.nDone)
          ∧ q.nRej = (if sc.isSome then r.nRej else r.nRej + 1)
          ∧ q.nScaled = (if sc = none ∨ sc = some 0x3F800000 then r.nScaled else r.nScaled + 1)
        (r.head + 1 ≠ r.k → Answers (.contributorCommit col asid round) s fun t => SameBytes s t
          ∧ ∃ q, mapGet t.rounds n = some q ∧ counted q ∧ q.state = .opened ∧ q.total = total
              ∧ q.cont = mapErase r.cont r.head)
        ∧ (∀ place : Nat → List Loc, r.head + 1 = r.k →
          (∀ i < bytes.length / 32, ((s.writeLines r.advance i).walkBytes asid col
              (r.tot + BitVec.ofNat 64 (32 * i)) 32).totalLine r i = .ok (place i)) →
          Answers (.contributorCommit col asid round) s fun t =>
          StoresHere s t ((List.range (bytes.length / 32)).flatMap fun i => writtenAt (place i) ((bytes.drop (32 * i)).take 32))
          ∧ Told s t col asid round (2 + r.scope) ∧ ∃ q, mapGet t.rounds n = some q ∧ counted q ∧ q.state = .done))
    -- a round is dropped
    ∧ (∀ n m st k r, mapGet s.merges n = some m → m.op = .drop → m.done < m.sent → s.mergeStation m = .ok st →
        s.findRound m.asid st (refId m.ref) = some (k, r) →
        Answers (.roundDrop n) s fun t => mapGet t.rounds k = none ∧ mapGet t.merges m.id = none ∧ SameBytes s t
          ∧ Told s t st m.asid (refId m.ref) 1 ∧ ∀ j, j ≠ k → mapGet t.rounds j = mapGet s.rounds j)
    -- the outbound queue sends
    ∧ (∀ col m, (s.column col).failed ≠ 2 → (s.column col).halted = false →
        (∀ kv ∈ s.merges, kv.2.col = col → kv.2.op ≠ .rank) → s.nextTransfer col = some m →
        Answers (.mergeTileSend col) s fun t => mapGet t.merges m.id = some { m with sent := m.done + 1 }
          ∧ (∀ j, j ≠ m.id → mapGet t.merges j = mapGet s.merges j) ∧ SameBytes s t)
    -- a station learns of a gang's end
    ∧ ∀ col gang q, (s.notices.find? fun q => q.1 == col && q.2.1 == gang) = some q →
        Answers (.mergeGangNotice col gang) s fun t => t.notices = s.notices.erase q ∧ SameBytes s t
          ∧ ∀ n r c k, mapGet s.rounds n = some r → r.col = col → mapGet r.cont c = some k →
            ∃ r' k', mapGet t.rounds n = some r' ∧ mapGet r'.cont c = some k' ∧ r'.total = r.total
              ∧ (∀ rstrt, k.gang = some (gang, rstrt) →
                  (q.2.2 = true → k' = { k with released := true }) ∧ (q.2.2 = false → rstrt = false → k' = k)
                  ∧ (q.2.2 = false → rstrt = true → k' = Contributor.fresh))
              ∧ (k.gang.map Prod.fst ≠ some gang → k' = k)

/-- What the copy engine, the bank logic, the matrix engine and the cache's partition do (R209, R215, R216, R224, R225,
R228-R231, R296, R321, R322, R325, R326, R353): any chunk of a copy, any unit of BZERO, any chunk of MMA and MMAT, any line of
MLDZ and MST, each an event of its own, which makes its walks first. What a run has behind its BFENCE and CPART, and when that
follows, is the model's reading of R326 and R353: log 47, DEDUCED, and for the loads among it log 86, DESIGN CHOICE. So are
the runs that hold the partition: log 37, DEDUCED. -/
def Obligations.EnginesComplete : Prop :=
  ∀ s : State, Canonical s →
    let works (col : Nat) : Prop := (s.column col).failed ≠ 2 ∧ (s.column col).halted = false
    -- a chunk of CPY, CPY2, CPYX and of CPYZ
    (∀ col k c b, s.copyHeld c = false → (mapFind s.copies fun _ c => c.col == col && !c.bank && c.stage != 2 && s.gangRuns c.gang) = some (k, c) →
      works col → c.done < c.len → c.done % 256 = 0 → (c.stage = 0 → c.ord.acq = false) →
      (c.len ≤ c.done + 256 → bit c.barrier 31 = false ∧ c.ord.rel = false) → s.block c.block = some b → b.retired = false →
      let idx := (List.range (min 256 (c.len - c.done))).map (c.done + ·)
      let c' := if c.len ≤ c.done + 256 then { c with done := c.len, stage := 2 } else { c with done := c.done + 256, stage := 1 }
      let s1 := (s.walkSide c false idx).walkSide c true idx
      (∀ src dst, c.op = .cpy ∨ c.op = .cpy2 ∨ c.op = .cpyx → placesOrFault (s1.copyByte c false) idx = .ok src →
        placesOrFault (s1.copyByte c true) idx = .ok dst →
        Answers (.copyPerform col) s fun t => mapGet t.copies k = some c'
          ∧ StoresHere s t (writtenAt dst (src.map fun l => (s1.readLoc col l).1)))
      ∧ (∀ dst, c.op = .cpyz → placesOrFault (s1.copyByte c true) idx = .ok dst →
          Answers (.copyPerform col) s fun t => mapGet t.copies k = some c'
            ∧ StoresHere s t (writtenAt dst (List.replicate idx.length 0)))
      ∧ ∀ e, c.op = .cpy ∨ c.op = .cpy2 ∨ c.op = .cpyx → placesOrFault (s1.copyByte c false) idx = .error e →
          Answers (.copyPerform col) s fun t => SameBytes s t
            ∧ mapGet t.copies k = some { c with fault := some (e.code, e.addr), stage := 2 })
    -- BFENCE, with what its warp's run has behind it, and a unit of BZERO and of BCOPY
    ∧ (∀ col n c, mapGet s.copies n = some c → c.col = col → c.bank = true → c.stage ≠ 2 → s.gangRuns c.gang = true → works col →
        s.bankReady n c = true → s.copyHeld c = false →
        (c.op = .bfence → exec (.bankCommandPerform col n) s
          = .next (({ s with copies := mapErase s.copies n } : State).continueRest c.warp))
        ∧ ∀ ls b, c.done < c.len → (c.stage = 0 → c.ord.acq = false) →
            (c.len ≤ c.done + 1024 → c.ord.rel = false) → s.block c.block = some b → b.retired = false →
            let s1 := s.walkUnit c (c.done / 1024)
            s1.bankUnit c true (c.done / 1024) = .ok ls →
            let unit (bs : List Byte) : Prop := Answers (.bankCommandPerform col n) s fun t =>
              mapGet t.copies n
                = some { c with done := c.done + 1024, stage := if c.len ≤ c.done + 1024 then 2 else 1 }
              ∧ StoresHere s t (writtenAt ls bs)
            (c.op = .bzero → unit (List.replicate 1024 0))
            ∧ ∀ src, c.op = .bcopy → s1.bankUnit c false (c.done / 1024) = .ok src →
                unit (src.map fun l => (s1.readLoc col l).1))
    -- the matrix engine
    ∧ (∀ col core m b z, Next s col core m b → b.tiles[m.tile]? = some z →
        let c := matCtxOf s col core b
        let da := descOf m.descA
        let db := descOf m.descB
        let sa := c.rcd.slot m.slotA
        let sb := c.rcd.slot m.slotB
        let walked (ch : Nat) : State :=
          (s.matWalk c da (chunkPieces da sa (!da.ori) 192 ch m.next)).matWalk c db (chunkPieces db sb db.ori 128 ch m.next)
        let line := s.matWalk c da (da.pieces m.next 0 ((lineCount m).2 * slotBits sa.fmt / 8))
        let orders (units : Nat) : Prop := (m.next = 0 → m.ord.acq = false) ∧ (units ≤ m.next + 1 → m.ord.rel = false)
        (m.op = .mma ∨ m.op = .mmat → z.flt = true → Answers (.mmaPerform col core) s fun t =>
          UnitDone s t col core m b z 0 ∧ SameBytes s t)
        ∧ (∀ ch int as bs, m.op = .mma ∨ m.op = .mmat → z.flt = false → orders (da.k / ch) →
            matPair (m.op == .mmat) sa.fmt sb.fmt = some (ch, int) →
            let s1 := walked ch
            s1.chunkOf c da sa (!da.ori) 192 ch m.next = .ok as → s1.chunkOf c db sb db.ori 128 ch m.next = .ok bs →
            Answers (.mmaPerform col core) s fun t => Unwritten s t ∧ ∃ z', UnitDone s t col core m b z' (da.k / ch)
              ∧ (z'.mode, z'.prod) = m.counts c.rcd (z.mode, z.prod) ∧ z'.flt = false
              ∧ z'.psn = (z.psn || (as ++ bs).any MatElem.psn)
              ∧ ∀ i < 192, ∀ j < 128,
                let row (l : List MatElem) (p : Nat) : List FVal := ((l.drop (p * ch)).take ch).map MatElem.v
                let pairs := (row as i).zip (row bs j)
                (int = true → z'.at_ i j
                  = BitVec.ofInt 48 ((z.at_ i j).toInt + (pairs.map fun p => p.1.int * p.2.int).sum))
                ∧ (int = false → z'.at_ i j = BitVec.ofNat 48 (add32 ((z.at_ i j).toNat % 2 ^ 32) (chunkTerm pairs))))
        ∧ (∀ ch int e, m.op = .mma ∨ m.op = .mmat → z.flt = false → orders (da.k / ch) →
            matPair (m.op == .mmat) sa.fmt sb.fmt = some (ch, int) → (walked ch).chunkOf c da sa (!da.ori) 192 ch m.next = .error e →
            Answers (.mmaPerform col core) s fun t => SameBytes s t ∧ ∃ z', UnitDone s t col core m b z' 0
              ∧ z'.elems = z.elems ∧ z'.flt = true ∧ z'.fltAt = m.next)
        ∧ (m.op = .mzero → Answers (.mzeroPerform col core) s fun t =>
            UnitDone s t col core m b Tile.clear 0 ∧ SameBytes s t)
        ∧ (∀ es : List MatElem, m.op = .mldz → m.next < (lineCount m).1 → orders (lineCount m).1 →
            line.matLine c m m.next = .ok es →
            let z0 := if m.next = 0 then z.begun sa else z
            Answers (.mldzPerform col core) s fun t => Unwritten s t ∧ ∃ z', UnitDone s t col core m b z' (lineCount m).1
              ∧ (z'.mode, z'.prod, z'.flt, z'.ovf) = (z0.mode, z0.prod, z0.flt, z0.ovf)
              ∧ z'.psn = (z0.psn || es.any MatElem.psn)
              ∧ (∀ i < (lineCount m).2, ∀ e, es[i]? = some e →
                z'.at_ (linePlace da.ori m.next i).1 (linePlace da.ori m.next i).2
                  = if sa.fmt = 5 then BitVec.ofInt 48 e.v.int
                    else BitVec.ofNat 48 ((fmtCode sa.fmt).convert fp32 .rne false e.raw))
              ∧ ∀ i < 192, ∀ j < 128, (if da.ori then j else i) ≠ m.next → z'.at_ i j = z.at_ i j)
        ∧ (m.op = .mst → z.flt = true → Answers (.mstPerform col core) s fun t =>
            UnitDone s t col core m b z 0 ∧ SameBytes s t)
        ∧ (∀ ls, m.op = .mst → z.flt = false → orders (lineCount m).1 → line.mstPlaces c m m.next = .ok ls →
            Answers (.mstPerform col core) s fun t => UnitDone s t col core m b z (lineCount m).1
              ∧ StoresHere s t (writtenAt ls ((List.range (lineCount m).2).flatMap fun i =>
                    leBytes (slotBits sa.fmt / 8)
                      (encodeVal sa 0 (z.value (linePlace da.ori m.next i).1 (linePlace da.ori m.next i).2))))))
    -- the partition
    ∧ ∀ col v w rest, (s.column col).parts = (v, w) :: rest → v ≤ 12 → (s.column col).cwp ≤ 12 → s.poolHeld col w = false → s.beforePart w = false →
        exec (.partitionChange col) s = .next ((s.nextPart col).continueRest w) ∧ ((∀ x, s.warp w = some x → x.rest = none) →
        (∀ kv ∈ s.arrivals, kv.2.2.1 ≠ col) →
        Answers (.partitionChange col) s fun t => (t.column col).cwp = v ∧ (t.column col).parts = rest
          ∧ (∀ c o, o < 2 ^ 24 → cellGet t.spad (spadKey c o)
              = if c = col ∧ min v (s.column col).cwp * 2 ^ 20 ≤ o ∧ o < max v (s.column col).cwp * 2 ^ 20 then 0
                else cellGet s.spad (spadKey c o))
          ∧ t.mem = s.mem ∧ t.peer = s.peer ∧ WrittenBack s t ∧ SameWork s t)

/-- The events of warps (R78, R98, R100, R109, R118, R119, R303, R304, R324, R361): a forced yield, the ends of waits,
exchanges, swap-out and swap-in. When an exchange completes and what its members then hold (log 58), and what a warp takes
back from its own copy where its record has no place for it or another warp has written that since (log 35), are the model's
readings, DEDUCED; that an arrival is an event of its own is log 57, DESIGN CHOICE. -/
def Obligations.WarpEventsComplete : Prop :=
  ∀ s : State, Canonical s →
    -- the watchdog
    (∀ col core slot w x limit,
      let k := (s.core col core).slots.getD slot Slot.idle
      k.holder = some w → s.warp w = some x → s.watchdogFor w x = some limit → limit ≤ k.mono → Calm x →
      (x.run.isSome = true → Answers (.watchdogLimit col core slot) s fun t =>
        t.warp w = some { x with wdog := true } ∧ (∀ v, v ≠ w → t.warp v = s.warp v) ∧ SameBytes s t)
      ∧ (x.run = none → x.begun = true → x.wait = .none → x.resident = true → x.arrived = none → x.rest = none →
        Answers (.watchdogLimit col core slot) s fun t =>
          t.warp w = some { x with yielded := true } ∧ bit ((t.ctx (s.asidOf x)).cirAt x.col) 2 = true
          ∧ (∀ v, v ≠ w → t.warp v = s.warp v) ∧ SameBytes s t))
    -- the end of a sleep, and a promise that has passed
    ∧ (∀ w x k, s.warp w = some x → Calm x → x.wait = .sleep k → x.resident = true → k ≤ s.cycOf x.col →
        Answers (.sleepEnd w) s fun t => t.warp w = some { x with wait := .none } ∧ (∀ v, v ≠ w → t.warp v = s.warp v)
          ∧ SameBytes s t)
    ∧ (∀ w x d h k c p ps, s.warp w = some x → Calm x → x.wait = .cwait d h → s.copyOf x h = some (k, c) → c.stage ≠ 2 →
        c.fault = none → c.promise = some p → p ≤ s.cycOf x.col → Delivers s x ps →
        x.resident = true →
        let frame := frameBytes { code := 0x34, info := BitVec.ofNat 32 c.done, addr := 0 } x.regs.active x.waitPc x.waitPc
          false false (s.cycOf x.col) x.regs.depth x.regs.ldep
        Answers (.copyPromiseExpire w) s fun t => mapGet t.copies k = some { c with promise := none }
          ∧ (∃ y, t.warp w = some y ∧ y.hmode = true ∧ y.wait = .none ∧ y.regs = x.regs.handler (s.tvecOf x)
              ∧ y.saved.map Saved.tpc = some x.waitPc)
          ∧ ∀ v, v ≠ w → t.warp v = (s.warp v).map (toldSo (storedAt ps frame)))
    -- an arrival on a barrier object
    ∧ (∀ n g col off k, mapGet s.arrivals n = some (g, col, off, k) →
        (∀ kv ∈ s.arrivals, kv.1 ≠ n → (kv.2.2.1, kv.2.2.2.1) ≠ (col, off)) → (∀ kv ∈ s.warps, Calm kv.2) →
        (s.column col).failed ≠ 2 → (∀ i < 16, s.spadForeign col (off + i) = false) →
        let word (i : Nat) : Word := objectWord s col off i
        let full : Prop := word 0 ≤ word 4 + k
        Answers (.barrierObjectArrive n) s fun t => t.arrivals = mapErase s.arrivals n
          ∧ objectWord t col off 0 = word 0
          ∧ (full → objectWord t col off 4 = 0 ∧ objectWord t col off 8 = word 8 + 1)
          ∧ (¬ full → objectWord t col off 4 = word 4 + k ∧ objectWord t col off 8 = word 8)
          ∧ (∀ a, (a < spadKey col off + 4 ∨ spadKey col off + 12 ≤ a) → cellGet t.spad a = cellGet s.spad a)
          ∧ (∀ w x p acq, s.warp w = some x → x.resident = true → x.wait = .waitb col off p acq → objectWord t col off 8 ≠ p →
              t.warp w = some { x with wait := .none }))
    -- exchanges
    ∧ (∀ w x, s.warp w = some x → x.arrived.isSome = true → (∀ m ∈ s.members x, m.lost = true ∨ m.sent.isSome = true) →
        let ms := s.members x
        let live := arrivedOf ms
        (live.map fun q => q.2.1).Nodup → (∀ q ∈ live, ∀ y, s.warp q.2.1 = some y → Calm y) →
        ∀ ref, live.head? = some ref → (∀ q ∈ live, ref.2.2.agrees q.2.2 = true) →
        (ref.2.2.red = true ∨ ref.2.2.f.sub ≠ 3 ∨ ref.2.2.f.x.toNat % 256 < ms.length) →
        Answers (.exchangeComplete w) s fun t => SameBytes s t ∧ ∀ q ∈ live, ∀ y, s.warp q.2.1 = some y →
          t.warp q.2.1 = some { y with
            arrived := none, xcount := (y.xcount + 1) % 2 ^ 32
            pend := y.pend.map fun p =>
              if p.id = q.2.2.pend then { p with vals := exchangeResult ms q.2.2 q.1, ready := true } else p })
    ∧ (∀ w x a, s.warp w = some x → x.arrived = some a → x.resident = true → a.since + 2 ^ 20 ≤ s.cycOf x.col →
        (∃ m ∈ s.members x, m.lost = false ∧ m.sent = none) →
        exec (.exchangeTimeout w) s = .next ((((s.discardRun w).modWarp w fun y =>
            { y with arrived := none, pend := y.pend.filter fun p => p.id != a.pend }).takeTrap w
          { code := 0x41, info := BitVec.ofNat 32 (a.q % 2 ^ 32), addr := 0 } x.regs.active a.pc a.pc true false).boundary w))
    -- swap-out and swap-in
    ∧ (∀ w x, s.warp w = some x → x.swapReq = true → x.resident = true → x.rest = none → x.pend = [] →
        Answers (.swapOut w) s fun t => t.warp w = some { x with run := none, swapped := true, swapReq := false }
          ∧ mapGet t.records (recordKey (s.asidOf x) x.col x.core x.wcore) = some x.holder
          ∧ ∀ v, v ≠ w → t.warp v = s.warp v)
    ∧ ∀ w x, s.warp w = some x → Calm x → s.mayReturn w x = true → Answers (.swapIn w) s fun t =>
        let bs := (s.recordRead x 0x10000 0xA80).1
        (∃ y, t.warp w = some y ∧ y.resident = true ∧ y.run = x.run
          ∧ (bs = [] → y.wait = x.wait ∧ y.regs = { x.regs with v := y.regs.v }
            ∧ ∀ n, (mapGet y.regs.v n).map VReg.lanes = (mapGet x.regs.v n).map VReg.lanes)
          ∧ (bs ≠ [] → y.wait = x.wait.restore (((bs.drop 0x998).take 16).map Prod.fst)
            ∧ y.regs.pc = BitVec.ofNat 64 (recordNat bs 0x9A8 8) ∧ y.regs.mark = BitVec.ofNat 64 (recordNat bs 0x980 8)
            ∧ y.regs.depth = recordNat bs 0x988 1 ∧ y.hmode = (recordNat bs 0x98A 1).testBit 0
            ∧ (∀ i, i < x.regs.s.length → (y.regs.s.map SVal.val)[i]? = some (BitVec.ofNat 32 (recordNat bs (0x800 + 4 * i) 4)))
            ∧ ∀ n < 256, (recordNat bs 0x9B0 32).testBit n = true → (mapGet y.regs.v n).map (fun q => q.lanes.val)
                = some ((List.range 64).map fun i => BitVec.ofNat 32 (recordNat (s.recordRead x (256 * n) 256).1 (4 * i) 4))))
        ∧ (∀ v, v ≠ w → t.warp v = s.warp v) ∧ (x.saved = none → Unwritten s t)

/-- The scheduler (R74, R133-R149, R396, R397) and a column's failure (R405, R406): grids accepted, gangs placed, pre-empted,
resumed and relaunched, blocks retired. That a pre-emption discards the runs in flight, and that it does nothing while some
warp of the gang has a part of a committed run still to perform, is the model's reading, log 48, DEDUCED. So are the order in
which grids leave the command queues (log 54), what a resumed gang comes back to (log 67) and what a relaunch keeps (log 69),
all DEDUCED. -/
def Obligations.SchedulingCompletes : Prop :=
  ∀ s : State, Canonical s →
    let inGang (x : Warp) (g : Nat) : Prop := (s.blockOf x).map Block.gang = some g
    -- a host record that is valid and names no dispatch table and no parent
    (∀ q asid ls, q < 16 →
      let k := s.dev.queue q
      let handle := 2 ^ 31 + q * 2 ^ 27 + k.n % 2 ^ 27
      let ptr := k.qbase + BitVec.ofNat 64 (256 * (k.qhead.toNat % k.size))
      let col := ((s.ctx asid).pcol (ptr.toNat / 2 ^ 48 % 256)).getD 0
      let s1 := s.walkBytes asid col ptr 256
      let bs := ls.map fun l => (s1.readLoc 128 l).1
      let r := recordOf bs
      k.asid = some asid → bit k.qctl 0 = true → k.qhead ≠ k.qtail → (s.ctx asid).live = true → s.pendingCount asid 0 < 1024 →
      s.commandWaits asid 0 = false → s.gridByHandle asid handle = none → bit ptr 63 = false →
      s1.enginePlaces col asid 0 ptr 256 { read := true } = .ok ls →
      (∀ l ∈ ls, (s1.readLoc 128 l).2 = false) → badRecord bs = false → r.disp = 0 → r.parent = 0 →
      Answers (.hostRecordAccept q) s fun t => (t.dev.queue q).qhead = k.qhead + 1 ∧ SameBytes s t
        ∧ ∃ g x, t.grid g = some x ∧ x.asid = asid ∧ x.handle = handle ∧ x.rcd = r ∧ x.state = .pending ∧ x.depth = 0
            ∧ x.parent = none ∧ x.prio = r.prio ∧ x.bucket = 0xFFFFFFFF ∧ x.spad = r.shp ∧ x.next = 0 ∧ x.error = false)
    -- a grid in a command queue, the one accepted first
    ∧ (∀ g x, s.grid g = some x → x.state = .command → s.pendingCount x.asid 0 < 1024 →
        (∀ kv ∈ s.grids, kv.2.state = .command → s.pendingCount kv.2.asid 0 < 1024 → kv = (g, x) ∨ x.order < kv.2.order) →
        Answers .commandGridAccept s fun t => t.grid g = some { x with state := .pending }
          ∧ (∀ h, h ≠ g → t.grid h = s.grid h) ∧ SameBytes s t)
    -- a gang placed, block by block
    ∧ (∀ q y k passed, s.failedPred = none →
        (s.readyGrids.find? fun kv => !kv.2.judged && (s.emptied.site kv.2.asid kv.2.rcd).isNone) = none →
        s.firstFit s.waiting 0 [] = some (q, .place k, passed) → s.grid q.grid = some y →
        let g := q.grid
        let x := q.x
        Answers .gangPlace s fun t =>
          (∃ gg, t.gang s.nextId = some gg ∧ gg.grid = g ∧ gg.index = x.next
            ∧ gg.columns = (List.range (gangColumns x.rcd.gang)).map (k.col + ·) ∧ gg.base = k.base
            ∧ gg.size = x.rcd.gang ∧ gg.state = .running)
          ∧ (∃ y', t.grid g = some y' ∧ y'.next = y.next + 1)
          ∧ ∀ i < x.rcd.gang, ∃ b ∈ t.blocks, b.2.gang = s.nextId ∧ b.2.g = i ∧ b.2.col = k.col + i / perColumn x.rcd.gang
              ∧ b.2.core = coreOf x.rcd.gang k.base i ∧ b.2.tiles = List.replicate 4 Tile.clear)
    -- a block that is not the last of its gang
    ∧ (∀ b k, s.block b = some k → k.retired = false → (∀ kv ∈ s.warps, kv.2.block = b → kv.2.retired = true) →
        (∀ m ∈ (s.core k.col k.core).engine, m.block ≠ b) → k.queue = [] →
        (∃ kv ∈ s.blocks, kv.1 ≠ b ∧ kv.2.gang = k.gang ∧ kv.2.retired = false ∧ kv.2.lost = false) →
        Answers (.blockRetire b) s fun t => t.block b = some { k with retired := true, tiles := [], bar := [] }
          ∧ (∀ kv ∈ t.warps, kv.2.block ≠ b) ∧ ∀ c, c ≠ b → t.block c = s.block c)
    -- pre-emption and its end
    ∧ (∀ g k, s.gang g = some k → k.state = .running → (∃ kv ∈ s.gangWarps g, kv.2.rest.isSome = true) →
        exec (.preemptionRequest g) s = .next s)
    ∧ (∀ g k, s.gang g = some k → k.state = .running → (∀ kv ∈ s.gangWarps g, kv.2.rest = none) →
      Answers (.preemptionRequest g) s fun t =>
        (t.gang g).map Gang.state = some .preempted
        ∧ ∀ w x, s.warp w = some x → inGang x g → ∃ y, t.warp w = some y ∧ y.halted = true
            ∧ (x.swapped = false → y.run = none))
    ∧ (∀ g k x q passed, s.gang g = some k → s.grid k.grid = some x → k.state = .preempted →
        s.firstFit s.waiting 0 [] = some (q, .resume g, passed) → (∀ kv ∈ s.warps, Calm kv.2) →
        (∃ kv ∈ s.blocks, kv.2.gang = g ∧ kv.2.retired = false ∧ kv.2.lost = false) → Answers (.gangResume g) s fun t =>
          (t.gang g).map Gang.state = some .running
          ∧ ∀ w y, s.warp w = some y → inGang y g → ∃ z, t.warp w = some z ∧ z.halted = false
            ∧ (y.retired = false → z.swapped = false))
    -- a relaunch
    ∧ (∀ g k x q passed site, s.gang g = some k → s.grid k.grid = some x → k.state = .killed →
        s.firstFit s.waiting 0 [] = some (q, .relaunch g site, passed) →
        Answers (.gangRelaunch g) s fun t => ∃ k', t.gang g = some k'
          ∧ k'.state = .running ∧ k'.relaunch = k.relaunch + 1
          ∧ k'.columns = (List.range (gangColumns x.rcd.gang)).map (site.col + ·) ∧ k'.base = site.base ∧ k'.held = []
          ∧ k'.index = k.index ∧ k'.grid = k.grid)
    -- the failure of a column that holds no block
    ∧ ∀ col kind, col < 128 → (s.column col).live = true → (kind = 1 ∨ kind = 2) → (s.column col).failed < kind →
        (∀ kv ∈ s.blocks, kv.2.col ≠ col) → Answers (.columnFailure col kind) s fun t =>
          (t.column col).failed = kind ∧ bit t.dev.irqst 1 = true ∧ Unwritten s t ∧ SameWork s t
          ∧ (∀ k, (∀ c < 4, ∀ e ∈ (s.core col c).l1, e.dirty = false) →
              (s.modColumn col fun c => { c with failed := kind }).logColumn col = some k →
              (t.column k).clcnt = (s.column k).clcnt + 1)
          ∧ ∀ k < 4, (t.core col k).l1 = []
end

