-- ==== Sys2Proof/Laws/Cells.lean ====
section
/-! SUPPORT. The canonical form of a memory: every write keeps it, a byte written reads back, every other byte reads as
before, and memories that read alike are equal. -/

namespace Sys2Proof.Machine

open Sys2Proof

/-- A lower bound of a memory's addresses may be lowered. -/
theorem cellsFrom_le {m : List Host.Cell} {lo lo' : Nat} (h : cellsFrom lo m = true) (hle : lo' ≤ lo) :
    cellsFrom lo' m = true := by
  cases m with
  | nil => rfl
  | cons x r =>
    simp only [cellsFrom, Bool.and_eq_true, decide_eq_true_eq] at h ⊢
    exact ⟨⟨Nat.le_trans hle h.1.1, h.1.2⟩, h.2⟩

/-- A byte written keeps the canonical form above a lower bound of its address. -/
theorem cellsFrom_cellSet (v : Byte) : ∀ (m : List Host.Cell) (lo k : Nat), cellsFrom lo m = true → lo ≤ k →
    cellsFrom lo (cellSet m k v) = true
  | [], lo, k, _, hk => by
    unfold cellSet
    split
    · rfl
    · simp_all [cellsFrom]
  | (a, b) :: r, lo, k, h, hk => by
    have h0 := h
    simp only [cellsFrom, Bool.and_eq_true, decide_eq_true_eq] at h
    unfold cellSet
    split
    · split
      · exact h0
      · rename_i hka hv
        simp only [cellsFrom, Bool.and_eq_true, decide_eq_true_eq]
        exact ⟨⟨hk, by simpa using hv⟩, ⟨hka, h.1.2⟩, h.2⟩
    · split
      · rename_i hak
        split
        · exact cellsFrom_le h.2 (by omega)
        · rename_i hv
          simp only [cellsFrom, Bool.and_eq_true, decide_eq_true_eq]
          exact ⟨⟨hk, by simpa using hv⟩, hak ▸ h.2⟩
      · simp only [cellsFrom, Bool.and_eq_true, decide_eq_true_eq]
        exact ⟨h.1, cellsFrom_cellSet v r (a + 1) k h.2 (by omega)⟩

/-- A byte written keeps a memory canonical. -/
theorem wf_cellSet {m : List Host.Cell} (h : Memory.wf m = true) (k : Nat) (v : Byte) :
    Memory.wf (cellSet m k v) = true := cellsFrom_cellSet v m 0 k h (Nat.zero_le k)

/-- Bytes written keep a memory canonical. -/
theorem wf_cellsSet : ∀ (bs : List Byte) {m : List Host.Cell} (a : Nat), Memory.wf m = true →
    Memory.wf (cellsSet m a bs) = true
  | [], _, _, h => h
  | b :: r, _, a, h => wf_cellsSet r (a + 1) (wf_cellSet h a b)

/-- Bytes written one by one keep a memory canonical. -/
theorem wf_foldl_cellSet {α : Type} (key : α → Nat) (val : α → Byte) : ∀ (l : List α) {m : List Host.Cell},
    Memory.wf m = true → Memory.wf (l.foldl (fun m x => cellSet m (key x) (val x)) m) = true
  | [], _, h => h
  | x :: r, _, h => wf_foldl_cellSet key val r (wf_cellSet h (key x) (val x))

/-- Cells removed keep the canonical form. -/
theorem cellsFrom_filter (p : Host.Cell → Bool) : ∀ (m : List Host.Cell) (lo : Nat), cellsFrom lo m = true →
    cellsFrom lo (m.filter p) = true
  | [], _, _ => rfl
  | (a, b) :: r, lo, h => by
    simp only [cellsFrom, Bool.and_eq_true, decide_eq_true_eq] at h
    have hr := cellsFrom_filter p r (a + 1) h.2
    simp only [List.filter]
    split
    · simp only [cellsFrom, Bool.and_eq_true, decide_eq_true_eq]
      exact ⟨h.1, hr⟩
    · exact cellsFrom_le hr (by omega)

/-- Cells removed keep a memory canonical. -/
theorem wf_filter {m : List Host.Cell} (h : Memory.wf m = true) (p : Host.Cell → Bool) :
    Memory.wf (m.filter p) = true := cellsFrom_filter p m 0 h

/-- A memory lists nothing below its lower bound. -/
theorem cellGet_below : ∀ {m : List Host.Cell} {lo k : Nat}, cellsFrom lo m = true → k < lo → cellGet m k = 0
  | [], _, _, _, _ => rfl
  | (a, b) :: r, lo, k, h, hk => by
    simp only [cellsFrom, Bool.and_eq_true, decide_eq_true_eq] at h
    unfold cellGet
    rw [if_neg (by omega), if_pos (by omega)]

/-- What a memory reads at any address after one byte is written. -/
theorem cellGet_cellSet (v : Byte) : ∀ (m : List Host.Cell) (lo k j : Nat), cellsFrom lo m = true → lo ≤ k →
    cellGet (cellSet m k v) j = if j = k then v else cellGet m j
  | [], _, k, j, _, _ => by
    unfold cellSet
    by_cases hj : j = k
    · split <;> simp_all [cellGet]
    · have hj' : ¬k = j := fun e => hj e.symm
      split <;> simp_all [cellGet]
  | (a, b) :: r, lo, k, j, h, hk => by
    have h0 := h
    simp only [cellsFrom, Bool.and_eq_true, decide_eq_true_eq] at h
    unfold cellSet
    split
    · rename_i hka
      split
      · rename_i hv
        split
        · rename_i hj
          subst hj
          unfold cellGet
          rw [if_neg (by omega), if_pos hka, hv]
        · rfl
      · by_cases hj : j = k
        · subst hj; simp [cellGet]
        · rw [if_neg hj]
          conv => lhs; unfold cellGet
          rw [if_neg (fun e => hj e.symm)]
          split
          · unfold cellGet
            rw [if_neg (by omega), if_pos (by omega)]
          · rfl
    · rename_i hka
      split
      · rename_i hak
        subst hak
        split
        · rename_i hv
          by_cases hj : j = a
          · subst hj; rw [if_pos rfl, hv]; exact cellGet_below h.2 (by omega)
          · rw [if_neg hj]
            conv => rhs; unfold cellGet
            rw [if_neg (fun e => hj e.symm)]
            split
            · exact cellGet_below h.2 (by omega)
            · rfl
        · by_cases hj : j = a
          · subst hj; simp [cellGet]
          · have hj' : ¬a = j := fun e => hj e.symm
            simp [cellGet, hj, hj']
      · rename_i hak
        have ih := cellGet_cellSet v r (a + 1) k j h.2 (by omega)
        by_cases haj : a = j
        · subst haj; simp [cellGet, hak]
        · simp only [cellGet, if_neg haj, ih]
          by_cases hlt : j < a
          · rw [if_pos hlt, if_pos hlt, if_neg (by omega)]
          · rw [if_neg hlt, if_neg hlt]

/-- A byte written reads back. -/
theorem cellGet_cellSet_same {m : List Host.Cell} (h : Memory.wf m = true) (k : Nat) (v : Byte) :
    cellGet (cellSet m k v) k = v := by
  rw [cellGet_cellSet v m 0 k k h (Nat.zero_le k), if_pos rfl]

/-- A byte written leaves every other byte. -/
theorem cellGet_cellSet_ne {m : List Host.Cell} (h : Memory.wf m = true) {k j : Nat} (v : Byte) (hj : j ≠ k) :
    cellGet (cellSet m k v) j = cellGet m j := by
  rw [cellGet_cellSet v m 0 k j h (Nat.zero_le k), if_neg hj]

/-- Bytes written leave every byte outside their run. -/
theorem cellGet_cellsSet_outside : ∀ (bs : List Byte) {m : List Host.Cell} (a j : Nat), Memory.wf m = true →
    (j < a ∨ a + bs.length ≤ j) → cellGet (cellsSet m a bs) j = cellGet m j
  | [], _, _, _, _, _ => rfl
  | b :: r, m, a, j, h, ho => by
    rw [List.length_cons] at ho
    rw [cellsSet, cellGet_cellsSet_outside r (a + 1) j (wf_cellSet h a b) (by omega)]
    exact cellGet_cellSet_ne h b (by omega)

/-- Bytes written read back. -/
theorem cellGet_cellsSet_inside : ∀ (bs : List Byte) {m : List Host.Cell} (a i : Nat), Memory.wf m = true →
    i < bs.length → cellGet (cellsSet m a bs) (a + i) = bs.getD i 0
  | [], _, _, _, _, hi => absurd hi (by simp)
  | b :: r, m, a, 0, h, _ => by
    rw [cellsSet, cellGet_cellsSet_outside r (a + 1) (a + 0) (wf_cellSet h a b) (by omega)]
    simpa using cellGet_cellSet_same h a b
  | b :: r, m, a, i + 1, h, hi => by
    rw [cellsSet, show a + (i + 1) = a + 1 + i by omega,
      cellGet_cellsSet_inside r (a + 1) i (wf_cellSet h a b) (by simpa using hi)]
    simp

/-- Canonical memories that read alike are equal. -/
theorem cells_ext : ∀ (m n : List Host.Cell) (lo : Nat), cellsFrom lo m = true → cellsFrom lo n = true →
    (∀ k, cellGet m k = cellGet n k) → m = n
  | [], [], _, _, _, _ => rfl
  | [], (a, b) :: r, lo, _, hn, he => by
    simp only [cellsFrom, Bool.and_eq_true, decide_eq_true_eq] at hn
    have := he a
    simp [cellGet] at this
    simp [← this] at hn
  | (a, b) :: r, [], lo, hm, _, he => by
    simp only [cellsFrom, Bool.and_eq_true, decide_eq_true_eq] at hm
    have := he a
    simp [cellGet] at this
    simp [this] at hm
  | (a, b) :: r, (c, d) :: q, lo, hm, hn, he => by
    simp only [cellsFrom, Bool.and_eq_true, decide_eq_true_eq] at hm hn
    have hac : a = c := by
      have ha := he a
      have hc := he c
      simp only [cellGet, if_true] at ha hc
      rcases Nat.lt_trichotomy a c with h | h | h
      · rw [if_neg (by omega), if_pos h] at ha
        simp [ha] at hm
      · exact h
      · rw [if_neg (by omega), if_pos h] at hc
        simp [← hc] at hn
    subst hac
    have hbd : b = d := by simpa [cellGet] using he a
    subst hbd
    have hr : r = q := cells_ext r q (a + 1) hm.2 hn.2 fun k => by
      by_cases hk : k < a + 1
      · rw [cellGet_below hm.2 hk, cellGet_below hn.2 hk]
      · have := he k
        simpa [cellGet, show a ≠ k by omega, show ¬ k < a by omega] using this
    rw [hr]

/-- Canonical memories that read alike are equal data. -/
theorem wf_ext {m n : List Host.Cell} (hm : Memory.wf m = true) (hn : Memory.wf n = true)
    (h : ∀ k, cellGet m k = cellGet n k) : m = n := cells_ext m n 0 hm hn h

end Sys2Proof.Machine
end

