-- ==== Sys2Proof/Laws/Exec.lean ====
section
/-! SUPPORT. Every encoded instruction is one issue of its opcode's body: what `exec` is, said once for all of them. -/

namespace Sys2Proof.Machine

open Sys2Proof

/-- What an opcode does once its gate has opened. -/
def bodyOf : Opcode → Cx → Step
  | .nop => bodyNop
  | .ifBlock => bodyIf
  | .elseBlock => bodyElse
  | .endif => bodyEndif
  | .loop => bodyLoop
  | .endloop => bodyEndloop
  | .brk => bodyBrk
  | .cont => bodyCont
  | .exit => bodyExit
  | .jmp => bodyJmp
  | .call => bodyCall
  | .ret => bodyRet
  | .yield => bodyYield
  | .sleep => bodySleep
  | .iadd => bodyIadd
  | .isub => bodyIsub
  | .imul => bodyImul
  | .imulh => bodyImulh
  | .imad => bodyDot
  | .imin => bodyImin
  | .imax => bodyImax
  | .iabs => bodyIabs
  | .ineg => bodyIneg
  | .lea => bodyLea
  | .isad => bodyIsad
  | .dp4 => bodyDot
  | .dp2 => bodyDot
  | .icmp => bodyIcmp
  | .iaddx => bodyIaddx
  | .and => bodyAnd
  | .or => bodyOr
  | .xor => bodyXor
  | .andn => bodyAndn
  | .not => bodyNot
  | .shl => bodyShl
  | .shr => bodyShr
  | .sar => bodySar
  | .rotl => bodyRotl
  | .bfe => bodyBfe
  | .bfi => bodyBfi
  | .popc => bodyPopc
  | .clz => bodyClz
  | .brev => bodyBrev
  | .sel => bodySel
  | .mov => bodyMov
  | .plop => bodyPlop
  | .pmov => bodyPmov
  | .vote => bodyVote
  | .sread => bodySread
  | .swrite => bodySwrite
  | .pack => bodyPack
  | .unpk => bodyUnpk
  | .prmt => bodyPrmt
  | .fadd => bodyFadd
  | .fsub => bodyFsub
  | .fmul => bodyFmul
  | .ffma => bodyFfma
  | .fmin => bodyFmin
  | .fmax => bodyFmax
  | .fabs => bodyFabs
  | .fneg => bodyFneg
  | .fcmp => bodyFcmp
  | .fclass => bodyFclass
  | .frnd => bodyFrnd
  | .fdiv => bodyFdiv
  | .fsqrt => bodyFsqrt
  | .fscl => bodyFscl
  | .fdot2 => bodyFdot2
  | .cvt => bodyCvt
  | .cvts => bodyCvts
  | .qpk => bodyQpk
  | .qupk => bodyQupk
  | .rcp => bodyRcp
  | .rsq => bodyRsq
  | .sqrt => bodySqrt
  | .exp2 => bodyExp2
  | .log2 => bodyLog2
  | .sin => bodySin
  | .cos => bodyCos
  | .tanh => bodyTanh
  | .sigm => bodySigm
  | .erf => bodyErf
  | .gelu => bodyGelu
  | .mupd => bodyMupd
  | .lsck => bodyLsck
  | .lsupd => bodyLsupd
  | .gnrm => bodyGnrm
  | .ld => bodyLd
  | .st => bodySt
  | .ldl => bodyLdl
  | .stl => bodyStl
  | .ldk => bodyLdk
  | .pref => bodyPref
  | .cctl => bodyCctl
  | .phase => bodyPhase
  | .fence => bodyFence
  | .cpart => bodyCpart
  | .atom => bodyAtom
  | .acas => bodyAcas
  | .afadd => bodyAfadd
  | .red => bodyRed
  | .patom => bodyPatom
  | .xch => bodyXch
  | .xred => bodyXred
  | .pld => bodyPld
  | .pst => bodyPst
  | .ptrc => bodyPtrc
  | .shfl => bodyShfl
  | .bset => bodyBset
  | .bperm => bodyBperm
  | .redx => bodyRedx
  | .cpy => bodyCpy
  | .cpy2 => bodyCpy2
  | .cpyz => bodyCpyz
  | .cwait => bodyCwait
  | .bzero => bodyBzero
  | .bcopy => bodyBcopy
  | .bcmp => bodyBcmp
  | .bfence => bodyBfence
  | .cpyx => bodyCpyx
  | .mma => bodyMma
  | .mmat => bodyMmat
  | .mzero => bodyMzero
  | .mldz => bodyMldz
  | .mst => bodyMst
  | .mfence => bodyMfence
  | .mwait => bodyMwait
  | .mstat => bodyMstat
  | .mrgOpen => bodyMrgOpen
  | .mrgPut => bodyMrgPut
  | .mrgEnd => bodyMrgEnd
  | .mrgWait => bodyMrgWait
  | .mrgStat => bodyMrgStat
  | .mrgRank => bodyMrgRank
  | .mrgDrop => bodyMrgDrop
  | .bar => bodyBar
  | .gbar => bodyGbar
  | .arrv => bodyArrv
  | .waitb => bodyWaitb
  | .launch => bodyLaunch
  | .tape => bodyTape
  | .gwait => bodyGwait
  | .trap => bodyTrap
  | .tret => bodyTret
  | .chkerr => bodyChkerr
  | .rdctr => bodyRdctr
  | .bkpt => bodyBkpt
  | .sysr => bodySysr
  | .sysw => bodySysw

/-- `exec` of an encoded instruction issues its opcode's body, with the opcode's check of the encoding. -/
theorem exec_encoded {i : Instr} {op : Opcode} {f : Fields} (h : Encoded i op f) (s : State) :
    exec i s = s.issue op f (actsAlways op) (machineCheck op) (bodyOf op) := by
  have h := h.1
  cases i <;> cases h <;> rfl

end Sys2Proof.Machine
end

