-- ==== Sys2Proof/Laws/Fetch.lean ====
section
/-! SUPPORT. What a fetch can return of a word that its grid has stored into (R39). -/

namespace Sys2Proof.Machine

open Sys2Proof

/-- The word as it stands, or one that was kept of its place. -/
theorem mixed_cases (s : State) (x : Warp) (a : Addr) (l : Loc) (new : Word) :
    s.mixed x a l new = new
      ∨ ∃ o ∈ s.oldWords, o.grid = s.gridId x ∧ o.place = l.word ∧ s.mixed x a l new = o.word := by
  simp only [State.mixed]
  generalize (Config.freeWord _).toNat % _ = n
  split
  · exact .inl rfl
  · rw [List.getD_eq_getElem?_getD]
    rcases h : ((s.oldWords.filter fun o => o.grid == s.gridId x && o.place == l.word).map OldWord.word)[n]? with _ | v
    · exact .inl (by simp [h])
    · obtain ⟨o, ho, rfl⟩ := List.mem_map.mp (List.mem_of_getElem? h)
      obtain ⟨ho, hp⟩ := List.mem_filter.mp ho
      simp only [Bool.and_eq_true, beq_iff_eq] at hp
      exact .inr ⟨o, ho, hp.1, hp.2, by simp [h]⟩

/-- A place where the grid has stored nothing gives the word that stands there. -/
theorem mixed_same {s : State} {x : Warp} {l : Loc} (h : ∀ o ∈ s.oldWords, o.grid ≠ s.gridId x ∨ o.place ≠ l.word) (a : Addr)
    (new : Word) : s.mixed x a l new = new := by
  rcases mixed_cases s x a l new with h' | ⟨o, ho, hg, hl, -⟩
  · exact h'
  · rcases h o ho with h | h
    · exact absurd hg h
    · exact absurd hl h

end Sys2Proof.Machine
end

