-- ==== Sys2Proof/Laws/Maps.lean ====
section
/-! SUPPORT. Sparse maps: a key set or removed, and every other key as before. -/

namespace Sys2Proof.Machine

open Sys2Proof

/-- What a sparse map holds for any key after one key is set. -/
theorem mapGet_mapSet {α : Type} (x : α) : ∀ (m : AMap α) (n j : Nat),
    mapGet (mapSet m n x) j = if j = n then some x else mapGet m j
  | [], n, j => by
    unfold mapSet mapGet
    by_cases h : n = j
    · subst h; simp
    · have h' : ¬j = n := fun e => h e.symm
      simp [h, h', mapGet]
  | (k, v) :: r, n, j => by
    unfold mapSet
    by_cases hj : j = n
    · subst hj
      rw [if_pos rfl]
      split
      · simp [mapGet]
      · split
        · simp [mapGet]
        · rename_i h
          simp [mapGet, h, mapGet_mapSet x r j j]
    · have hn : ¬n = j := fun e => hj e.symm
      rw [if_neg hj]
      split
      · simp [mapGet, hn]
      · split
        · rename_i h
          subst h
          simp [mapGet, hn]
        · simp [mapGet, mapGet_mapSet x r n j, hj]

/-- A key that was set. -/
@[simp] theorem mapGet_mapSet_same {α : Type} (m : AMap α) (n : Nat) (x : α) : mapGet (mapSet m n x) n = some x := by
  rw [mapGet_mapSet, if_pos rfl]

/-- Every other key. -/
theorem mapGet_mapSet_ne {α : Type} (m : AMap α) {n j : Nat} (x : α) (h : j ≠ n) :
    mapGet (mapSet m n x) j = mapGet m j := by rw [mapGet_mapSet, if_neg h]

/-- A key set, with a default. -/
@[simp] theorem mapGetD_mapSet_same {α : Type} (m : AMap α) (n : Nat) (x d : α) : mapGetD (mapSet m n x) n d = x := by
  simp [mapGetD]

/-- Every other key, with a default. -/
theorem mapGetD_mapSet_ne {α : Type} (m : AMap α) {n j : Nat} (x d : α) (h : j ≠ n) :
    mapGetD (mapSet m n x) j d = mapGetD m j d := by simp [mapGetD, mapGet_mapSet_ne m x h]

/-- What a sparse map holds for any key after one key is removed. -/
theorem mapGet_mapErase {α : Type} : ∀ (m : AMap α) (n j : Nat),
    mapGet (mapErase m n) j = if j = n then none else mapGet m j
  | [], n, j => by simp [mapErase, mapGet]
  | (k, v) :: r, n, j => by
    have ih := mapGet_mapErase r n j
    unfold mapErase at ih ⊢
    by_cases hk : k = n
    · subst hk
      simp only [List.filter_cons, bne_self_eq_false, Bool.false_eq_true, if_false, ih, mapGet]
      by_cases hj : j = k
      · simp [hj]
      · have hk : ¬k = j := fun e => hj e.symm
        simp [hj, hk]
    · have : (k != n) = true := by simp [hk]
      simp only [List.filter_cons, this, if_true, mapGet, ih]
      by_cases hj : k = j
      · subst hj; simp [hk]
      · simp [hj]

/-- What a sparse map holds after a function is applied to every value. -/
theorem mapGet_mapAll {α : Type} (f : Nat → α → α) : ∀ (m : AMap α) (n : Nat),
    mapGet (mapAll m f) n = (mapGet m n).map (f n)
  | [], n => rfl
  | (k, v) :: r, n => by
    have ih := mapGet_mapAll f r n
    unfold mapAll at ih ⊢
    simp only [List.map_cons, mapGet, ih]
    by_cases h : k = n
    · subst h; simp
    · simp [h]

/-- What a sparse map holds is one of its entries. -/
theorem mapGet_mem {α : Type} : ∀ {m : AMap α} {n : Nat} {x : α}, mapGet m n = some x → (n, x) ∈ m
  | [], _, _, h => by simp [mapGet] at h
  | (k, v) :: r, n, x, h => by
    unfold mapGet at h
    split at h
    · rename_i hk; simp only [Option.some.injEq] at h; simp [hk, h]
    · exact List.mem_cons_of_mem _ (mapGet_mem h)

end Sys2Proof.Machine
end

