-- ==== Sys2Proof/Laws/State.lean ====
section
/-! SUPPORT. What each update of one part of the machine leaves of every field, so that no proof unfolds an update. -/

namespace Sys2Proof.Machine

open Sys2Proof

/-! ### A warp put in its place -/

@[simp] theorem State.setWarp_agenda (s : State) (w : Nat) (x : Warp) : (s.setWarp w x).agenda = s.agenda := rfl
@[simp] theorem State.setWarp_cur (s : State) (w : Nat) (x : Warp) : (s.setWarp w x).cur = s.cur := rfl
@[simp] theorem State.setWarp_fresh (s : State) (w : Nat) (x : Warp) : (s.setWarp w x).fresh = s.fresh := rfl
@[simp] theorem State.setWarp_nextId (s : State) (w : Nat) (x : Warp) : (s.setWarp w x).nextId = s.nextId := rfl
@[simp] theorem State.setWarp_cyc (s : State) (w : Nat) (x : Warp) : (s.setWarp w x).cyc = s.cyc := rfl
@[simp] theorem State.setWarp_columns (s : State) (w : Nat) (x : Warp) : (s.setWarp w x).columns = s.columns := rfl
@[simp] theorem State.setWarp_cores (s : State) (w : Nat) (x : Warp) : (s.setWarp w x).cores = s.cores := rfl
@[simp] theorem State.setWarp_blocks (s : State) (w : Nat) (x : Warp) : (s.setWarp w x).blocks = s.blocks := rfl
@[simp] theorem State.setWarp_gangs (s : State) (w : Nat) (x : Warp) : (s.setWarp w x).gangs = s.gangs := rfl
@[simp] theorem State.setWarp_grids (s : State) (w : Nat) (x : Warp) : (s.setWarp w x).grids = s.grids := rfl
@[simp] theorem State.setWarp_contexts (s : State) (w : Nat) (x : Warp) : (s.setWarp w x).contexts = s.contexts := rfl
@[simp] theorem State.setWarp_rounds (s : State) (w : Nat) (x : Warp) : (s.setWarp w x).rounds = s.rounds := rfl
@[simp] theorem State.setWarp_copies (s : State) (w : Nat) (x : Warp) : (s.setWarp w x).copies = s.copies := rfl
@[simp] theorem State.setWarp_merges (s : State) (w : Nat) (x : Warp) : (s.setWarp w x).merges = s.merges := rfl
@[simp] theorem State.setWarp_arrivals (s : State) (w : Nat) (x : Warp) : (s.setWarp w x).arrivals = s.arrivals := rfl
@[simp] theorem State.setWarp_inbound (s : State) (w : Nat) (x : Warp) : (s.setWarp w x).inbound = s.inbound := rfl
@[simp] theorem State.setWarp_notices (s : State) (w : Nat) (x : Warp) : (s.setWarp w x).notices = s.notices := rfl
@[simp] theorem State.setWarp_dev (s : State) (w : Nat) (x : Warp) : (s.setWarp w x).dev = s.dev := rfl
@[simp] theorem State.setWarp_keys (s : State) (w : Nat) (x : Warp) : (s.setWarp w x).keys = s.keys := rfl
@[simp] theorem State.setWarp_pairsIn (s : State) (w : Nat) (x : Warp) : (s.setWarp w x).pairsIn = s.pairsIn := rfl
@[simp] theorem State.setWarp_mem (s : State) (w : Nat) (x : Warp) : (s.setWarp w x).mem = s.mem := rfl
@[simp] theorem State.setWarp_keyTag (s : State) (w : Nat) (x : Warp) : (s.setWarp w x).keyTag = s.keyTag := rfl
@[simp] theorem State.setWarp_memPsn (s : State) (w : Nat) (x : Warp) : (s.setWarp w x).memPsn = s.memPsn := rfl
@[simp] theorem State.setWarp_readPsn (s : State) (w : Nat) (x : Warp) : (s.setWarp w x).readPsn = s.readPsn := rfl
@[simp] theorem State.setWarp_below (s : State) (w : Nat) (x : Warp) : (s.setWarp w x).below = s.below := rfl
@[simp] theorem State.setWarp_spad (s : State) (w : Nat) (x : Warp) : (s.setWarp w x).spad = s.spad := rfl
@[simp] theorem State.setWarp_spadPsn (s : State) (w : Nat) (x : Warp) : (s.setWarp w x).spadPsn = s.spadPsn := rfl
@[simp] theorem State.setWarp_host (s : State) (w : Nat) (x : Warp) : (s.setWarp w x).host = s.host := rfl
@[simp] theorem State.setWarp_hostPsn (s : State) (w : Nat) (x : Warp) : (s.setWarp w x).hostPsn = s.hostPsn := rfl
@[simp] theorem State.setWarp_spadTag (s : State) (w : Nat) (x : Warp) : (s.setWarp w x).spadTag = s.spadTag := rfl
@[simp] theorem State.setWarp_hostCopy (s : State) (w : Nat) (x : Warp) : (s.setWarp w x).hostCopy = s.hostCopy := rfl
@[simp] theorem State.setWarp_peer (s : State) (w : Nat) (x : Warp) : (s.setWarp w x).peer = s.peer := rfl
@[simp] theorem State.setWarp_peerPsn (s : State) (w : Nat) (x : Warp) : (s.setWarp w x).peerPsn = s.peerPsn := rfl
@[simp] theorem State.setWarp_errs (s : State) (w : Nat) (x : Warp) : (s.setWarp w x).errs = s.errs := rfl
@[simp] theorem State.setWarp_blocked (s : State) (w : Nat) (x : Warp) : (s.setWarp w x).blocked = s.blocked := rfl
@[simp] theorem State.setWarp_codePages (s : State) (w : Nat) (x : Warp) :
    (s.setWarp w x).codePages = s.codePages := rfl
@[simp] theorem State.setWarp_oldWords (s : State) (w : Nat) (x : Warp) : (s.setWarp w x).oldWords = s.oldWords := rfl
@[simp] theorem State.setWarp_records (s : State) (w : Nat) (x : Warp) : (s.setWarp w x).records = s.records := rfl
@[simp] theorem State.setWarp_msgs (s : State) (w : Nat) (x : Warp) : (s.setWarp w x).msgs = s.msgs := rfl

/-! ### A column changed -/

@[simp] theorem State.modColumn_agenda (s : State) (c : Nat) (f : Column → Column) :
    (s.modColumn c f).agenda = s.agenda := rfl
@[simp] theorem State.modColumn_cur (s : State) (c : Nat) (f : Column → Column) : (s.modColumn c f).cur = s.cur := rfl
@[simp] theorem State.modColumn_fresh (s : State) (c : Nat) (f : Column → Column) :
    (s.modColumn c f).fresh = s.fresh := rfl
@[simp] theorem State.modColumn_nextId (s : State) (c : Nat) (f : Column → Column) :
    (s.modColumn c f).nextId = s.nextId := rfl
@[simp] theorem State.modColumn_cyc (s : State) (c : Nat) (f : Column → Column) : (s.modColumn c f).cyc = s.cyc := rfl
@[simp] theorem State.modColumn_cores (s : State) (c : Nat) (f : Column → Column) :
    (s.modColumn c f).cores = s.cores := rfl
@[simp] theorem State.modColumn_warps (s : State) (c : Nat) (f : Column → Column) :
    (s.modColumn c f).warps = s.warps := rfl
@[simp] theorem State.modColumn_blocks (s : State) (c : Nat) (f : Column → Column) :
    (s.modColumn c f).blocks = s.blocks := rfl
@[simp] theorem State.modColumn_gangs (s : State) (c : Nat) (f : Column → Column) :
    (s.modColumn c f).gangs = s.gangs := rfl
@[simp] theorem State.modColumn_grids (s : State) (c : Nat) (f : Column → Column) :
    (s.modColumn c f).grids = s.grids := rfl
@[simp] theorem State.modColumn_contexts (s : State) (c : Nat) (f : Column → Column) :
    (s.modColumn c f).contexts = s.contexts := rfl
@[simp] theorem State.modColumn_rounds (s : State) (c : Nat) (f : Column → Column) :
    (s.modColumn c f).rounds = s.rounds := rfl
@[simp] theorem State.modColumn_copies (s : State) (c : Nat) (f : Column → Column) :
    (s.modColumn c f).copies = s.copies := rfl
@[simp] theorem State.modColumn_merges (s : State) (c : Nat) (f : Column → Column) :
    (s.modColumn c f).merges = s.merges := rfl
@[simp] theorem State.modColumn_arrivals (s : State) (c : Nat) (f : Column → Column) :
    (s.modColumn c f).arrivals = s.arrivals := rfl
@[simp] theorem State.modColumn_inbound (s : State) (c : Nat) (f : Column → Column) :
    (s.modColumn c f).inbound = s.inbound := rfl
@[simp] theorem State.modColumn_notices (s : State) (c : Nat) (f : Column → Column) :
    (s.modColumn c f).notices = s.notices := rfl
@[simp] theorem State.modColumn_dev (s : State) (c : Nat) (f : Column → Column) : (s.modColumn c f).dev = s.dev := rfl
@[simp] theorem State.modColumn_keys (s : State) (c : Nat) (f : Column → Column) :
    (s.modColumn c f).keys = s.keys := rfl
@[simp] theorem State.modColumn_pairsIn (s : State) (c : Nat) (f : Column → Column) :
    (s.modColumn c f).pairsIn = s.pairsIn := rfl
@[simp] theorem State.modColumn_mem (s : State) (c : Nat) (f : Column → Column) : (s.modColumn c f).mem = s.mem := rfl
@[simp] theorem State.modColumn_keyTag (s : State) (c : Nat) (f : Column → Column) :
    (s.modColumn c f).keyTag = s.keyTag := rfl
@[simp] theorem State.modColumn_memPsn (s : State) (c : Nat) (f : Column → Column) :
    (s.modColumn c f).memPsn = s.memPsn := rfl
@[simp] theorem State.modColumn_readPsn (s : State) (c : Nat) (f : Column → Column) :
    (s.modColumn c f).readPsn = s.readPsn := rfl
@[simp] theorem State.modColumn_below (s : State) (c : Nat) (f : Column → Column) :
    (s.modColumn c f).below = s.below := rfl
@[simp] theorem State.modColumn_spad (s : State) (c : Nat) (f : Column → Column) :
    (s.modColumn c f).spad = s.spad := rfl
@[simp] theorem State.modColumn_spadPsn (s : State) (c : Nat) (f : Column → Column) :
    (s.modColumn c f).spadPsn = s.spadPsn := rfl
@[simp] theorem State.modColumn_host (s : State) (c : Nat) (f : Column → Column) :
    (s.modColumn c f).host = s.host := rfl
@[simp] theorem State.modColumn_hostPsn (s : State) (c : Nat) (f : Column → Column) :
    (s.modColumn c f).hostPsn = s.hostPsn := rfl
@[simp] theorem State.modColumn_spadTag (s : State) (c : Nat) (f : Column → Column) :
    (s.modColumn c f).spadTag = s.spadTag := rfl
@[simp] theorem State.modColumn_hostCopy (s : State) (c : Nat) (f : Column → Column) :
    (s.modColumn c f).hostCopy = s.hostCopy := rfl
@[simp] theorem State.modColumn_peer (s : State) (c : Nat) (f : Column → Column) :
    (s.modColumn c f).peer = s.peer := rfl
@[simp] theorem State.modColumn_peerPsn (s : State) (c : Nat) (f : Column → Column) :
    (s.modColumn c f).peerPsn = s.peerPsn := rfl
@[simp] theorem State.modColumn_errs (s : State) (c : Nat) (f : Column → Column) :
    (s.modColumn c f).errs = s.errs := rfl
@[simp] theorem State.modColumn_blocked (s : State) (c : Nat) (f : Column → Column) :
    (s.modColumn c f).blocked = s.blocked := rfl
@[simp] theorem State.modColumn_codePages (s : State) (c : Nat) (f : Column → Column) :
    (s.modColumn c f).codePages = s.codePages := rfl
@[simp] theorem State.modColumn_oldWords (s : State) (c : Nat) (f : Column → Column) :
    (s.modColumn c f).oldWords = s.oldWords := rfl
@[simp] theorem State.modColumn_records (s : State) (c : Nat) (f : Column → Column) :
    (s.modColumn c f).records = s.records := rfl
@[simp] theorem State.modColumn_msgs (s : State) (c : Nat) (f : Column → Column) :
    (s.modColumn c f).msgs = s.msgs := rfl

/-! ### A core changed -/

@[simp] theorem State.modCore_agenda (s : State) (c k : Nat) (f : Core → Core) :
    (s.modCore c k f).agenda = s.agenda := rfl
@[simp] theorem State.modCore_cur (s : State) (c k : Nat) (f : Core → Core) : (s.modCore c k f).cur = s.cur := rfl
@[simp] theorem State.modCore_fresh (s : State) (c k : Nat) (f : Core → Core) : (s.modCore c k f).fresh = s.fresh := rfl
@[simp] theorem State.modCore_nextId (s : State) (c k : Nat) (f : Core → Core) :
    (s.modCore c k f).nextId = s.nextId := rfl
@[simp] theorem State.modCore_cyc (s : State) (c k : Nat) (f : Core → Core) : (s.modCore c k f).cyc = s.cyc := rfl
@[simp] theorem State.modCore_columns (s : State) (c k : Nat) (f : Core → Core) :
    (s.modCore c k f).columns = s.columns := rfl
@[simp] theorem State.modCore_warps (s : State) (c k : Nat) (f : Core → Core) : (s.modCore c k f).warps = s.warps := rfl
@[simp] theorem State.modCore_blocks (s : State) (c k : Nat) (f : Core → Core) :
    (s.modCore c k f).blocks = s.blocks := rfl
@[simp] theorem State.modCore_gangs (s : State) (c k : Nat) (f : Core → Core) : (s.modCore c k f).gangs = s.gangs := rfl
@[simp] theorem State.modCore_grids (s : State) (c k : Nat) (f : Core → Core) : (s.modCore c k f).grids = s.grids := rfl
@[simp] theorem State.modCore_contexts (s : State) (c k : Nat) (f : Core → Core) :
    (s.modCore c k f).contexts = s.contexts := rfl
@[simp] theorem State.modCore_rounds (s : State) (c k : Nat) (f : Core → Core) :
    (s.modCore c k f).rounds = s.rounds := rfl
@[simp] theorem State.modCore_copies (s : State) (c k : Nat) (f : Core → Core) :
    (s.modCore c k f).copies = s.copies := rfl
@[simp] theorem State.modCore_merges (s : State) (c k : Nat) (f : Core → Core) :
    (s.modCore c k f).merges = s.merges := rfl
@[simp] theorem State.modCore_arrivals (s : State) (c k : Nat) (f : Core → Core) :
    (s.modCore c k f).arrivals = s.arrivals := rfl
@[simp] theorem State.modCore_inbound (s : State) (c k : Nat) (f : Core → Core) :
    (s.modCore c k f).inbound = s.inbound := rfl
@[simp] theorem State.modCore_notices (s : State) (c k : Nat) (f : Core → Core) :
    (s.modCore c k f).notices = s.notices := rfl
@[simp] theorem State.modCore_dev (s : State) (c k : Nat) (f : Core → Core) : (s.modCore c k f).dev = s.dev := rfl
@[simp] theorem State.modCore_keys (s : State) (c k : Nat) (f : Core → Core) : (s.modCore c k f).keys = s.keys := rfl
@[simp] theorem State.modCore_pairsIn (s : State) (c k : Nat) (f : Core → Core) :
    (s.modCore c k f).pairsIn = s.pairsIn := rfl
@[simp] theorem State.modCore_mem (s : State) (c k : Nat) (f : Core → Core) : (s.modCore c k f).mem = s.mem := rfl
@[simp] theorem State.modCore_keyTag (s : State) (c k : Nat) (f : Core → Core) :
    (s.modCore c k f).keyTag = s.keyTag := rfl
@[simp] theorem State.modCore_memPsn (s : State) (c k : Nat) (f : Core → Core) :
    (s.modCore c k f).memPsn = s.memPsn := rfl
@[simp] theorem State.modCore_readPsn (s : State) (c k : Nat) (f : Core → Core) :
    (s.modCore c k f).readPsn = s.readPsn := rfl
@[simp] theorem State.modCore_below (s : State) (c k : Nat) (f : Core → Core) : (s.modCore c k f).below = s.below := rfl
@[simp] theorem State.modCore_spad (s : State) (c k : Nat) (f : Core → Core) : (s.modCore c k f).spad = s.spad := rfl
@[simp] theorem State.modCore_spadPsn (s : State) (c k : Nat) (f : Core → Core) :
    (s.modCore c k f).spadPsn = s.spadPsn := rfl
@[simp] theorem State.modCore_host (s : State) (c k : Nat) (f : Core → Core) : (s.modCore c k f).host = s.host := rfl
@[simp] theorem State.modCore_hostPsn (s : State) (c k : Nat) (f : Core → Core) :
    (s.modCore c k f).hostPsn = s.hostPsn := rfl
@[simp] theorem State.modCore_spadTag (s : State) (c k : Nat) (f : Core → Core) :
    (s.modCore c k f).spadTag = s.spadTag := rfl
@[simp] theorem State.modCore_hostCopy (s : State) (c k : Nat) (f : Core → Core) :
    (s.modCore c k f).hostCopy = s.hostCopy := rfl
@[simp] theorem State.modCore_peer (s : State) (c k : Nat) (f : Core → Core) : (s.modCore c k f).peer = s.peer := rfl
@[simp] theorem State.modCore_peerPsn (s : State) (c k : Nat) (f : Core → Core) :
    (s.modCore c k f).peerPsn = s.peerPsn := rfl
@[simp] theorem State.modCore_errs (s : State) (c k : Nat) (f : Core → Core) : (s.modCore c k f).errs = s.errs := rfl
@[simp] theorem State.modCore_blocked (s : State) (c k : Nat) (f : Core → Core) :
    (s.modCore c k f).blocked = s.blocked := rfl
@[simp] theorem State.modCore_codePages (s : State) (c k : Nat) (f : Core → Core) :
    (s.modCore c k f).codePages = s.codePages := rfl
@[simp] theorem State.modCore_oldWords (s : State) (c k : Nat) (f : Core → Core) :
    (s.modCore c k f).oldWords = s.oldWords := rfl
@[simp] theorem State.modCore_records (s : State) (c k : Nat) (f : Core → Core) :
    (s.modCore c k f).records = s.records := rfl
@[simp] theorem State.modCore_msgs (s : State) (c k : Nat) (f : Core → Core) : (s.modCore c k f).msgs = s.msgs := rfl

/-! ### A context changed -/

@[simp] theorem State.modCtx_agenda (s : State) (a : Nat) (f : Context → Context) :
    (s.modCtx a f).agenda = s.agenda := rfl
@[simp] theorem State.modCtx_cur (s : State) (a : Nat) (f : Context → Context) : (s.modCtx a f).cur = s.cur := rfl
@[simp] theorem State.modCtx_fresh (s : State) (a : Nat) (f : Context → Context) : (s.modCtx a f).fresh = s.fresh := rfl
@[simp] theorem State.modCtx_nextId (s : State) (a : Nat) (f : Context → Context) :
    (s.modCtx a f).nextId = s.nextId := rfl
@[simp] theorem State.modCtx_cyc (s : State) (a : Nat) (f : Context → Context) : (s.modCtx a f).cyc = s.cyc := rfl
@[simp] theorem State.modCtx_columns (s : State) (a : Nat) (f : Context → Context) :
    (s.modCtx a f).columns = s.columns := rfl
@[simp] theorem State.modCtx_cores (s : State) (a : Nat) (f : Context → Context) : (s.modCtx a f).cores = s.cores := rfl
@[simp] theorem State.modCtx_warps (s : State) (a : Nat) (f : Context → Context) : (s.modCtx a f).warps = s.warps := rfl
@[simp] theorem State.modCtx_blocks (s : State) (a : Nat) (f : Context → Context) :
    (s.modCtx a f).blocks = s.blocks := rfl
@[simp] theorem State.modCtx_gangs (s : State) (a : Nat) (f : Context → Context) : (s.modCtx a f).gangs = s.gangs := rfl
@[simp] theorem State.modCtx_grids (s : State) (a : Nat) (f : Context → Context) : (s.modCtx a f).grids = s.grids := rfl
@[simp] theorem State.modCtx_rounds (s : State) (a : Nat) (f : Context → Context) :
    (s.modCtx a f).rounds = s.rounds := rfl
@[simp] theorem State.modCtx_copies (s : State) (a : Nat) (f : Context → Context) :
    (s.modCtx a f).copies = s.copies := rfl
@[simp] theorem State.modCtx_merges (s : State) (a : Nat) (f : Context → Context) :
    (s.modCtx a f).merges = s.merges := rfl
@[simp] theorem State.modCtx_arrivals (s : State) (a : Nat) (f : Context → Context) :
    (s.modCtx a f).arrivals = s.arrivals := rfl
@[simp] theorem State.modCtx_inbound (s : State) (a : Nat) (f : Context → Context) :
    (s.modCtx a f).inbound = s.inbound := rfl
@[simp] theorem State.modCtx_notices (s : State) (a : Nat) (f : Context → Context) :
    (s.modCtx a f).notices = s.notices := rfl
@[simp] theorem State.modCtx_dev (s : State) (a : Nat) (f : Context → Context) : (s.modCtx a f).dev = s.dev := rfl
@[simp] theorem State.modCtx_keys (s : State) (a : Nat) (f : Context → Context) : (s.modCtx a f).keys = s.keys := rfl
@[simp] theorem State.modCtx_pairsIn (s : State) (a : Nat) (f : Context → Context) :
    (s.modCtx a f).pairsIn = s.pairsIn := rfl
@[simp] theorem State.modCtx_mem (s : State) (a : Nat) (f : Context → Context) : (s.modCtx a f).mem = s.mem := rfl
@[simp] theorem State.modCtx_keyTag (s : State) (a : Nat) (f : Context → Context) :
    (s.modCtx a f).keyTag = s.keyTag := rfl
@[simp] theorem State.modCtx_memPsn (s : State) (a : Nat) (f : Context → Context) :
    (s.modCtx a f).memPsn = s.memPsn := rfl
@[simp] theorem State.modCtx_readPsn (s : State) (a : Nat) (f : Context → Context) :
    (s.modCtx a f).readPsn = s.readPsn := rfl
@[simp] theorem State.modCtx_below (s : State) (a : Nat) (f : Context → Context) : (s.modCtx a f).below = s.below := rfl
@[simp] theorem State.modCtx_spad (s : State) (a : Nat) (f : Context → Context) : (s.modCtx a f).spad = s.spad := rfl
@[simp] theorem State.modCtx_spadPsn (s : State) (a : Nat) (f : Context → Context) :
    (s.modCtx a f).spadPsn = s.spadPsn := rfl
@[simp] theorem State.modCtx_host (s : State) (a : Nat) (f : Context → Context) : (s.modCtx a f).host = s.host := rfl
@[simp] theorem State.modCtx_hostPsn (s : State) (a : Nat) (f : Context → Context) :
    (s.modCtx a f).hostPsn = s.hostPsn := rfl
@[simp] theorem State.modCtx_spadTag (s : State) (a : Nat) (f : Context → Context) :
    (s.modCtx a f).spadTag = s.spadTag := rfl
@[simp] theorem State.modCtx_hostCopy (s : State) (a : Nat) (f : Context → Context) :
    (s.modCtx a f).hostCopy = s.hostCopy := rfl
@[simp] theorem State.modCtx_peer (s : State) (a : Nat) (f : Context → Context) : (s.modCtx a f).peer = s.peer := rfl
@[simp] theorem State.modCtx_peerPsn (s : State) (a : Nat) (f : Context → Context) :
    (s.modCtx a f).peerPsn = s.peerPsn := rfl
@[simp] theorem State.modCtx_errs (s : State) (a : Nat) (f : Context → Context) : (s.modCtx a f).errs = s.errs := rfl
@[simp] theorem State.modCtx_blocked (s : State) (a : Nat) (f : Context → Context) :
    (s.modCtx a f).blocked = s.blocked := rfl
@[simp] theorem State.modCtx_codePages (s : State) (a : Nat) (f : Context → Context) :
    (s.modCtx a f).codePages = s.codePages := rfl
@[simp] theorem State.modCtx_oldWords (s : State) (a : Nat) (f : Context → Context) :
    (s.modCtx a f).oldWords = s.oldWords := rfl
@[simp] theorem State.modCtx_records (s : State) (a : Nat) (f : Context → Context) :
    (s.modCtx a f).records = s.records := rfl
@[simp] theorem State.modCtx_msgs (s : State) (a : Nat) (f : Context → Context) : (s.modCtx a f).msgs = s.msgs := rfl

/-! ### A message sent -/

@[simp] theorem State.send_agenda (s : State) (m : Msg) : (s.send m).agenda = s.agenda := rfl
@[simp] theorem State.send_cur (s : State) (m : Msg) : (s.send m).cur = s.cur := rfl
@[simp] theorem State.send_fresh (s : State) (m : Msg) : (s.send m).fresh = s.fresh := rfl
@[simp] theorem State.send_nextId (s : State) (m : Msg) : (s.send m).nextId = s.nextId := rfl
@[simp] theorem State.send_cyc (s : State) (m : Msg) : (s.send m).cyc = s.cyc := rfl
@[simp] theorem State.send_columns (s : State) (m : Msg) : (s.send m).columns = s.columns := rfl
@[simp] theorem State.send_cores (s : State) (m : Msg) : (s.send m).cores = s.cores := rfl
@[simp] theorem State.send_warps (s : State) (m : Msg) : (s.send m).warps = s.warps := rfl
@[simp] theorem State.send_blocks (s : State) (m : Msg) : (s.send m).blocks = s.blocks := rfl
@[simp] theorem State.send_gangs (s : State) (m : Msg) : (s.send m).gangs = s.gangs := rfl
@[simp] theorem State.send_grids (s : State) (m : Msg) : (s.send m).grids = s.grids := rfl
@[simp] theorem State.send_contexts (s : State) (m : Msg) : (s.send m).contexts = s.contexts := rfl
@[simp] theorem State.send_rounds (s : State) (m : Msg) : (s.send m).rounds = s.rounds := rfl
@[simp] theorem State.send_copies (s : State) (m : Msg) : (s.send m).copies = s.copies := rfl
@[simp] theorem State.send_merges (s : State) (m : Msg) : (s.send m).merges = s.merges := rfl
@[simp] theorem State.send_arrivals (s : State) (m : Msg) : (s.send m).arrivals = s.arrivals := rfl
@[simp] theorem State.send_inbound (s : State) (m : Msg) : (s.send m).inbound = s.inbound := rfl
@[simp] theorem State.send_notices (s : State) (m : Msg) : (s.send m).notices = s.notices := rfl
@[simp] theorem State.send_dev (s : State) (m : Msg) : (s.send m).dev = s.dev := rfl
@[simp] theorem State.send_keys (s : State) (m : Msg) : (s.send m).keys = s.keys := rfl
@[simp] theorem State.send_pairsIn (s : State) (m : Msg) : (s.send m).pairsIn = s.pairsIn := rfl
@[simp] theorem State.send_mem (s : State) (m : Msg) : (s.send m).mem = s.mem := rfl
@[simp] theorem State.send_keyTag (s : State) (m : Msg) : (s.send m).keyTag = s.keyTag := rfl
@[simp] theorem State.send_memPsn (s : State) (m : Msg) : (s.send m).memPsn = s.memPsn := rfl
@[simp] theorem State.send_readPsn (s : State) (m : Msg) : (s.send m).readPsn = s.readPsn := rfl
@[simp] theorem State.send_below (s : State) (m : Msg) : (s.send m).below = s.below := rfl
@[simp] theorem State.send_spad (s : State) (m : Msg) : (s.send m).spad = s.spad := rfl
@[simp] theorem State.send_spadPsn (s : State) (m : Msg) : (s.send m).spadPsn = s.spadPsn := rfl
@[simp] theorem State.send_host (s : State) (m : Msg) : (s.send m).host = s.host := rfl
@[simp] theorem State.send_hostPsn (s : State) (m : Msg) : (s.send m).hostPsn = s.hostPsn := rfl
@[simp] theorem State.send_spadTag (s : State) (m : Msg) : (s.send m).spadTag = s.spadTag := rfl
@[simp] theorem State.send_hostCopy (s : State) (m : Msg) : (s.send m).hostCopy = s.hostCopy := rfl
@[simp] theorem State.send_peer (s : State) (m : Msg) : (s.send m).peer = s.peer := rfl
@[simp] theorem State.send_peerPsn (s : State) (m : Msg) : (s.send m).peerPsn = s.peerPsn := rfl
@[simp] theorem State.send_errs (s : State) (m : Msg) : (s.send m).errs = s.errs := rfl
@[simp] theorem State.send_blocked (s : State) (m : Msg) : (s.send m).blocked = s.blocked := rfl
@[simp] theorem State.send_codePages (s : State) (m : Msg) : (s.send m).codePages = s.codePages := rfl
@[simp] theorem State.send_oldWords (s : State) (m : Msg) : (s.send m).oldWords = s.oldWords := rfl
@[simp] theorem State.send_records (s : State) (m : Msg) : (s.send m).records = s.records := rfl

/-! ### Free values drawn -/

@[simp] theorem State.drewFresh_agenda (s : State) : (s.drewFresh).agenda = s.agenda := rfl
@[simp] theorem State.drewFresh_cur (s : State) : (s.drewFresh).cur = s.cur := rfl
@[simp] theorem State.drewFresh_nextId (s : State) : (s.drewFresh).nextId = s.nextId := rfl
@[simp] theorem State.drewFresh_cyc (s : State) : (s.drewFresh).cyc = s.cyc := rfl
@[simp] theorem State.drewFresh_columns (s : State) : (s.drewFresh).columns = s.columns := rfl
@[simp] theorem State.drewFresh_cores (s : State) : (s.drewFresh).cores = s.cores := rfl
@[simp] theorem State.drewFresh_warps (s : State) : (s.drewFresh).warps = s.warps := rfl
@[simp] theorem State.drewFresh_blocks (s : State) : (s.drewFresh).blocks = s.blocks := rfl
@[simp] theorem State.drewFresh_gangs (s : State) : (s.drewFresh).gangs = s.gangs := rfl
@[simp] theorem State.drewFresh_grids (s : State) : (s.drewFresh).grids = s.grids := rfl
@[simp] theorem State.drewFresh_contexts (s : State) : (s.drewFresh).contexts = s.contexts := rfl
@[simp] theorem State.drewFresh_rounds (s : State) : (s.drewFresh).rounds = s.rounds := rfl
@[simp] theorem State.drewFresh_copies (s : State) : (s.drewFresh).copies = s.copies := rfl
@[simp] theorem State.drewFresh_merges (s : State) : (s.drewFresh).merges = s.merges := rfl
@[simp] theorem State.drewFresh_arrivals (s : State) : (s.drewFresh).arrivals = s.arrivals := rfl
@[simp] theorem State.drewFresh_inbound (s : State) : (s.drewFresh).inbound = s.inbound := rfl
@[simp] theorem State.drewFresh_notices (s : State) : (s.drewFresh).notices = s.notices := rfl
@[simp] theorem State.drewFresh_dev (s : State) : (s.drewFresh).dev = s.dev := rfl
@[simp] theorem State.drewFresh_keys (s : State) : (s.drewFresh).keys = s.keys := rfl
@[simp] theorem State.drewFresh_pairsIn (s : State) : (s.drewFresh).pairsIn = s.pairsIn := rfl
@[simp] theorem State.drewFresh_mem (s : State) : (s.drewFresh).mem = s.mem := rfl
@[simp] theorem State.drewFresh_keyTag (s : State) : (s.drewFresh).keyTag = s.keyTag := rfl
@[simp] theorem State.drewFresh_memPsn (s : State) : (s.drewFresh).memPsn = s.memPsn := rfl
@[simp] theorem State.drewFresh_readPsn (s : State) : (s.drewFresh).readPsn = s.readPsn := rfl
@[simp] theorem State.drewFresh_below (s : State) : (s.drewFresh).below = s.below := rfl
@[simp] theorem State.drewFresh_spad (s : State) : (s.drewFresh).spad = s.spad := rfl
@[simp] theorem State.drewFresh_spadPsn (s : State) : (s.drewFresh).spadPsn = s.spadPsn := rfl
@[simp] theorem State.drewFresh_host (s : State) : (s.drewFresh).host = s.host := rfl
@[simp] theorem State.drewFresh_hostPsn (s : State) : (s.drewFresh).hostPsn = s.hostPsn := rfl
@[simp] theorem State.drewFresh_spadTag (s : State) : (s.drewFresh).spadTag = s.spadTag := rfl
@[simp] theorem State.drewFresh_hostCopy (s : State) : (s.drewFresh).hostCopy = s.hostCopy := rfl
@[simp] theorem State.drewFresh_peer (s : State) : (s.drewFresh).peer = s.peer := rfl
@[simp] theorem State.drewFresh_peerPsn (s : State) : (s.drewFresh).peerPsn = s.peerPsn := rfl
@[simp] theorem State.drewFresh_errs (s : State) : (s.drewFresh).errs = s.errs := rfl
@[simp] theorem State.drewFresh_blocked (s : State) : (s.drewFresh).blocked = s.blocked := rfl
@[simp] theorem State.drewFresh_codePages (s : State) : (s.drewFresh).codePages = s.codePages := rfl
@[simp] theorem State.drewFresh_oldWords (s : State) : (s.drewFresh).oldWords = s.oldWords := rfl
@[simp] theorem State.drewFresh_records (s : State) : (s.drewFresh).records = s.records := rfl
@[simp] theorem State.drewFresh_msgs (s : State) : (s.drewFresh).msgs = s.msgs := rfl

/-! ### Work counted -/

@[simp] theorem State.meter_agenda (s : State) (a c n k : Nat) : (s.meter a c n k).agenda = s.agenda := rfl
@[simp] theorem State.meter_cur (s : State) (a c n k : Nat) : (s.meter a c n k).cur = s.cur := rfl
@[simp] theorem State.meter_fresh (s : State) (a c n k : Nat) : (s.meter a c n k).fresh = s.fresh := rfl
@[simp] theorem State.meter_nextId (s : State) (a c n k : Nat) : (s.meter a c n k).nextId = s.nextId := rfl
@[simp] theorem State.meter_cyc (s : State) (a c n k : Nat) : (s.meter a c n k).cyc = s.cyc := rfl
@[simp] theorem State.meter_columns (s : State) (a c n k : Nat) : (s.meter a c n k).columns = s.columns := rfl
@[simp] theorem State.meter_cores (s : State) (a c n k : Nat) : (s.meter a c n k).cores = s.cores := rfl
@[simp] theorem State.meter_warps (s : State) (a c n k : Nat) : (s.meter a c n k).warps = s.warps := rfl
@[simp] theorem State.meter_blocks (s : State) (a c n k : Nat) : (s.meter a c n k).blocks = s.blocks := rfl
@[simp] theorem State.meter_gangs (s : State) (a c n k : Nat) : (s.meter a c n k).gangs = s.gangs := rfl
@[simp] theorem State.meter_grids (s : State) (a c n k : Nat) : (s.meter a c n k).grids = s.grids := rfl
@[simp] theorem State.meter_rounds (s : State) (a c n k : Nat) : (s.meter a c n k).rounds = s.rounds := rfl
@[simp] theorem State.meter_copies (s : State) (a c n k : Nat) : (s.meter a c n k).copies = s.copies := rfl
@[simp] theorem State.meter_merges (s : State) (a c n k : Nat) : (s.meter a c n k).merges = s.merges := rfl
@[simp] theorem State.meter_arrivals (s : State) (a c n k : Nat) : (s.meter a c n k).arrivals = s.arrivals := rfl
@[simp] theorem State.meter_inbound (s : State) (a c n k : Nat) : (s.meter a c n k).inbound = s.inbound := rfl
@[simp] theorem State.meter_notices (s : State) (a c n k : Nat) : (s.meter a c n k).notices = s.notices := rfl
@[simp] theorem State.meter_dev (s : State) (a c n k : Nat) : (s.meter a c n k).dev = s.dev := rfl
@[simp] theorem State.meter_keys (s : State) (a c n k : Nat) : (s.meter a c n k).keys = s.keys := rfl
@[simp] theorem State.meter_pairsIn (s : State) (a c n k : Nat) : (s.meter a c n k).pairsIn = s.pairsIn := rfl
@[simp] theorem State.meter_mem (s : State) (a c n k : Nat) : (s.meter a c n k).mem = s.mem := rfl
@[simp] theorem State.meter_keyTag (s : State) (a c n k : Nat) : (s.meter a c n k).keyTag = s.keyTag := rfl
@[simp] theorem State.meter_memPsn (s : State) (a c n k : Nat) : (s.meter a c n k).memPsn = s.memPsn := rfl
@[simp] theorem State.meter_readPsn (s : State) (a c n k : Nat) : (s.meter a c n k).readPsn = s.readPsn := rfl
@[simp] theorem State.meter_below (s : State) (a c n k : Nat) : (s.meter a c n k).below = s.below := rfl
@[simp] theorem State.meter_spad (s : State) (a c n k : Nat) : (s.meter a c n k).spad = s.spad := rfl
@[simp] theorem State.meter_spadPsn (s : State) (a c n k : Nat) : (s.meter a c n k).spadPsn = s.spadPsn := rfl
@[simp] theorem State.meter_host (s : State) (a c n k : Nat) : (s.meter a c n k).host = s.host := rfl
@[simp] theorem State.meter_hostPsn (s : State) (a c n k : Nat) : (s.meter a c n k).hostPsn = s.hostPsn := rfl
@[simp] theorem State.meter_spadTag (s : State) (a c n k : Nat) : (s.meter a c n k).spadTag = s.spadTag := rfl
@[simp] theorem State.meter_hostCopy (s : State) (a c n k : Nat) : (s.meter a c n k).hostCopy = s.hostCopy := rfl
@[simp] theorem State.meter_peer (s : State) (a c n k : Nat) : (s.meter a c n k).peer = s.peer := rfl
@[simp] theorem State.meter_peerPsn (s : State) (a c n k : Nat) : (s.meter a c n k).peerPsn = s.peerPsn := rfl
@[simp] theorem State.meter_errs (s : State) (a c n k : Nat) : (s.meter a c n k).errs = s.errs := rfl
@[simp] theorem State.meter_blocked (s : State) (a c n k : Nat) : (s.meter a c n k).blocked = s.blocked := rfl
@[simp] theorem State.meter_codePages (s : State) (a c n k : Nat) : (s.meter a c n k).codePages = s.codePages := rfl
@[simp] theorem State.meter_oldWords (s : State) (a c n k : Nat) : (s.meter a c n k).oldWords = s.oldWords := rfl
@[simp] theorem State.meter_records (s : State) (a c n k : Nat) : (s.meter a c n k).records = s.records := rfl
@[simp] theorem State.meter_msgs (s : State) (a c n k : Nat) : (s.meter a c n k).msgs = s.msgs := rfl

/-! ### A warp changed -/

@[simp] theorem State.modWarp_agenda (s : State) (w : Nat) (f : Warp → Warp) : (s.modWarp w f).agenda = s.agenda := by
  unfold State.modWarp; split <;> rfl
@[simp] theorem State.modWarp_cur (s : State) (w : Nat) (f : Warp → Warp) : (s.modWarp w f).cur = s.cur := by
  unfold State.modWarp; split <;> rfl
@[simp] theorem State.modWarp_fresh (s : State) (w : Nat) (f : Warp → Warp) : (s.modWarp w f).fresh = s.fresh := by
  unfold State.modWarp; split <;> rfl
@[simp] theorem State.modWarp_nextId (s : State) (w : Nat) (f : Warp → Warp) : (s.modWarp w f).nextId = s.nextId := by
  unfold State.modWarp; split <;> rfl
@[simp] theorem State.modWarp_cyc (s : State) (w : Nat) (f : Warp → Warp) : (s.modWarp w f).cyc = s.cyc := by
  unfold State.modWarp; split <;> rfl
@[simp] theorem State.modWarp_columns (s : State) (w : Nat) (f : Warp → Warp) : (s.modWarp w f).columns = s.columns := by
  unfold State.modWarp; split <;> rfl
@[simp] theorem State.modWarp_cores (s : State) (w : Nat) (f : Warp → Warp) : (s.modWarp w f).cores = s.cores := by
  unfold State.modWarp; split <;> rfl
@[simp] theorem State.modWarp_blocks (s : State) (w : Nat) (f : Warp → Warp) : (s.modWarp w f).blocks = s.blocks := by
  unfold State.modWarp; split <;> rfl
@[simp] theorem State.modWarp_gangs (s : State) (w : Nat) (f : Warp → Warp) : (s.modWarp w f).gangs = s.gangs := by
  unfold State.modWarp; split <;> rfl
@[simp] theorem State.modWarp_grids (s : State) (w : Nat) (f : Warp → Warp) : (s.modWarp w f).grids = s.grids := by
  unfold State.modWarp; split <;> rfl
@[simp] theorem State.modWarp_contexts (s : State) (w : Nat) (f : Warp → Warp) : (s.modWarp w f).contexts = s.contexts := by
  unfold State.modWarp; split <;> rfl
@[simp] theorem State.modWarp_rounds (s : State) (w : Nat) (f : Warp → Warp) : (s.modWarp w f).rounds = s.rounds := by
  unfold State.modWarp; split <;> rfl
@[simp] theorem State.modWarp_copies (s : State) (w : Nat) (f : Warp → Warp) : (s.modWarp w f).copies = s.copies := by
  unfold State.modWarp; split <;> rfl
@[simp] theorem State.modWarp_merges (s : State) (w : Nat) (f : Warp → Warp) : (s.modWarp w f).merges = s.merges := by
  unfold State.modWarp; split <;> rfl
@[simp] theorem State.modWarp_arrivals (s : State) (w : Nat) (f : Warp → Warp) : (s.modWarp w f).arrivals = s.arrivals := by
  unfold State.modWarp; split <;> rfl
@[simp] theorem State.modWarp_inbound (s : State) (w : Nat) (f : Warp → Warp) : (s.modWarp w f).inbound = s.inbound := by
  unfold State.modWarp; split <;> rfl
@[simp] theorem State.modWarp_notices (s : State) (w : Nat) (f : Warp → Warp) : (s.modWarp w f).notices = s.notices := by
  unfold State.modWarp; split <;> rfl
@[simp] theorem State.modWarp_dev (s : State) (w : Nat) (f : Warp → Warp) : (s.modWarp w f).dev = s.dev := by
  unfold State.modWarp; split <;> rfl
@[simp] theorem State.modWarp_keys (s : State) (w : Nat) (f : Warp → Warp) : (s.modWarp w f).keys = s.keys := by
  unfold State.modWarp; split <;> rfl
@[simp] theorem State.modWarp_pairsIn (s : State) (w : Nat) (f : Warp → Warp) : (s.modWarp w f).pairsIn = s.pairsIn := by
  unfold State.modWarp; split <;> rfl
@[simp] theorem State.modWarp_mem (s : State) (w : Nat) (f : Warp → Warp) : (s.modWarp w f).mem = s.mem := by
  unfold State.modWarp; split <;> rfl
@[simp] theorem State.modWarp_keyTag (s : State) (w : Nat) (f : Warp → Warp) : (s.modWarp w f).keyTag = s.keyTag := by
  unfold State.modWarp; split <;> rfl
@[simp] theorem State.modWarp_memPsn (s : State) (w : Nat) (f : Warp → Warp) : (s.modWarp w f).memPsn = s.memPsn := by
  unfold State.modWarp; split <;> rfl
@[simp] theorem State.modWarp_readPsn (s : State) (w : Nat) (f : Warp → Warp) : (s.modWarp w f).readPsn = s.readPsn := by
  unfold State.modWarp; split <;> rfl
@[simp] theorem State.modWarp_below (s : State) (w : Nat) (f : Warp → Warp) : (s.modWarp w f).below = s.below := by
  unfold State.modWarp; split <;> rfl
@[simp] theorem State.modWarp_spad (s : State) (w : Nat) (f : Warp → Warp) : (s.modWarp w f).spad = s.spad := by
  unfold State.modWarp; split <;> rfl
@[simp] theorem State.modWarp_spadPsn (s : State) (w : Nat) (f : Warp → Warp) : (s.modWarp w f).spadPsn = s.spadPsn := by
  unfold State.modWarp; split <;> rfl
@[simp] theorem State.modWarp_host (s : State) (w : Nat) (f : Warp → Warp) : (s.modWarp w f).host = s.host := by
  unfold State.modWarp; split <;> rfl
@[simp] theorem State.modWarp_hostPsn (s : State) (w : Nat) (f : Warp → Warp) : (s.modWarp w f).hostPsn = s.hostPsn := by
  unfold State.modWarp; split <;> rfl
@[simp] theorem State.modWarp_spadTag (s : State) (w : Nat) (f : Warp → Warp) : (s.modWarp w f).spadTag = s.spadTag := by
  unfold State.modWarp; split <;> rfl
@[simp] theorem State.modWarp_hostCopy (s : State) (w : Nat) (f : Warp → Warp) : (s.modWarp w f).hostCopy = s.hostCopy := by
  unfold State.modWarp; split <;> rfl
@[simp] theorem State.modWarp_peer (s : State) (w : Nat) (f : Warp → Warp) : (s.modWarp w f).peer = s.peer := by
  unfold State.modWarp; split <;> rfl
@[simp] theorem State.modWarp_peerPsn (s : State) (w : Nat) (f : Warp → Warp) : (s.modWarp w f).peerPsn = s.peerPsn := by
  unfold State.modWarp; split <;> rfl
@[simp] theorem State.modWarp_errs (s : State) (w : Nat) (f : Warp → Warp) : (s.modWarp w f).errs = s.errs := by
  unfold State.modWarp; split <;> rfl
@[simp] theorem State.modWarp_blocked (s : State) (w : Nat) (f : Warp → Warp) : (s.modWarp w f).blocked = s.blocked := by
  unfold State.modWarp; split <;> rfl
@[simp] theorem State.modWarp_codePages (s : State) (w : Nat) (f : Warp → Warp) : (s.modWarp w f).codePages = s.codePages := by
  unfold State.modWarp; split <;> rfl
@[simp] theorem State.modWarp_oldWords (s : State) (w : Nat) (f : Warp → Warp) : (s.modWarp w f).oldWords = s.oldWords := by
  unfold State.modWarp; split <;> rfl
@[simp] theorem State.modWarp_records (s : State) (w : Nat) (f : Warp → Warp) : (s.modWarp w f).records = s.records := by
  unfold State.modWarp; split <;> rfl
@[simp] theorem State.modWarp_msgs (s : State) (w : Nat) (f : Warp → Warp) : (s.modWarp w f).msgs = s.msgs := by
  unfold State.modWarp; split <;> rfl

/-! ### A block changed -/

@[simp] theorem State.modBlock_agenda (s : State) (b : Nat) (f : Block → Block) : (s.modBlock b f).agenda = s.agenda := by
  unfold State.modBlock; split <;> rfl
@[simp] theorem State.modBlock_cur (s : State) (b : Nat) (f : Block → Block) : (s.modBlock b f).cur = s.cur := by
  unfold State.modBlock; split <;> rfl
@[simp] theorem State.modBlock_fresh (s : State) (b : Nat) (f : Block → Block) : (s.modBlock b f).fresh = s.fresh := by
  unfold State.modBlock; split <;> rfl
@[simp] theorem State.modBlock_nextId (s : State) (b : Nat) (f : Block → Block) : (s.modBlock b f).nextId = s.nextId := by
  unfold State.modBlock; split <;> rfl
@[simp] theorem State.modBlock_cyc (s : State) (b : Nat) (f : Block → Block) : (s.modBlock b f).cyc = s.cyc := by
  unfold State.modBlock; split <;> rfl
@[simp] theorem State.modBlock_columns (s : State) (b : Nat) (f : Block → Block) : (s.modBlock b f).columns = s.columns := by
  unfold State.modBlock; split <;> rfl
@[simp] theorem State.modBlock_cores (s : State) (b : Nat) (f : Block → Block) : (s.modBlock b f).cores = s.cores := by
  unfold State.modBlock; split <;> rfl
@[simp] theorem State.modBlock_warps (s : State) (b : Nat) (f : Block → Block) : (s.modBlock b f).warps = s.warps := by
  unfold State.modBlock; split <;> rfl
@[simp] theorem State.modBlock_gangs (s : State) (b : Nat) (f : Block → Block) : (s.modBlock b f).gangs = s.gangs := by
  unfold State.modBlock; split <;> rfl
@[simp] theorem State.modBlock_grids (s : State) (b : Nat) (f : Block → Block) : (s.modBlock b f).grids = s.grids := by
  unfold State.modBlock; split <;> rfl
@[simp] theorem State.modBlock_contexts (s : State) (b : Nat) (f : Block → Block) : (s.modBlock b f).contexts = s.contexts := by
  unfold State.modBlock; split <;> rfl
@[simp] theorem State.modBlock_rounds (s : State) (b : Nat) (f : Block → Block) : (s.modBlock b f).rounds = s.rounds := by
  unfold State.modBlock; split <;> rfl
@[simp] theorem State.modBlock_copies (s : State) (b : Nat) (f : Block → Block) : (s.modBlock b f).copies = s.copies := by
  unfold State.modBlock; split <;> rfl
@[simp] theorem State.modBlock_merges (s : State) (b : Nat) (f : Block → Block) : (s.modBlock b f).merges = s.merges := by
  unfold State.modBlock; split <;> rfl
@[simp] theorem State.modBlock_arrivals (s : State) (b : Nat) (f : Block → Block) : (s.modBlock b f).arrivals = s.arrivals := by
  unfold State.modBlock; split <;> rfl
@[simp] theorem State.modBlock_inbound (s : State) (b : Nat) (f : Block → Block) : (s.modBlock b f).inbound = s.inbound := by
  unfold State.modBlock; split <;> rfl
@[simp] theorem State.modBlock_notices (s : State) (b : Nat) (f : Block → Block) : (s.modBlock b f).notices = s.notices := by
  unfold State.modBlock; split <;> rfl
@[simp] theorem State.modBlock_dev (s : State) (b : Nat) (f : Block → Block) : (s.modBlock b f).dev = s.dev := by
  unfold State.modBlock; split <;> rfl
@[simp] theorem State.modBlock_keys (s : State) (b : Nat) (f : Block → Block) : (s.modBlock b f).keys = s.keys := by
  unfold State.modBlock; split <;> rfl
@[simp] theorem State.modBlock_pairsIn (s : State) (b : Nat) (f : Block → Block) : (s.modBlock b f).pairsIn = s.pairsIn := by
  unfold State.modBlock; split <;> rfl
@[simp] theorem State.modBlock_mem (s : State) (b : Nat) (f : Block → Block) : (s.modBlock b f).mem = s.mem := by
  unfold State.modBlock; split <;> rfl
@[simp] theorem State.modBlock_keyTag (s : State) (b : Nat) (f : Block → Block) : (s.modBlock b f).keyTag = s.keyTag := by
  unfold State.modBlock; split <;> rfl
@[simp] theorem State.modBlock_memPsn (s : State) (b : Nat) (f : Block → Block) : (s.modBlock b f).memPsn = s.memPsn := by
  unfold State.modBlock; split <;> rfl
@[simp] theorem State.modBlock_readPsn (s : State) (b : Nat) (f : Block → Block) : (s.modBlock b f).readPsn = s.readPsn := by
  unfold State.modBlock; split <;> rfl
@[simp] theorem State.modBlock_below (s : State) (b : Nat) (f : Block → Block) : (s.modBlock b f).below = s.below := by
  unfold State.modBlock; split <;> rfl
@[simp] theorem State.modBlock_spad (s : State) (b : Nat) (f : Block → Block) : (s.modBlock b f).spad = s.spad := by
  unfold State.modBlock; split <;> rfl
@[simp] theorem State.modBlock_spadPsn (s : State) (b : Nat) (f : Block → Block) : (s.modBlock b f).spadPsn = s.spadPsn := by
  unfold State.modBlock; split <;> rfl
@[simp] theorem State.modBlock_host (s : State) (b : Nat) (f : Block → Block) : (s.modBlock b f).host = s.host := by
  unfold State.modBlock; split <;> rfl
@[simp] theorem State.modBlock_hostPsn (s : State) (b : Nat) (f : Block → Block) : (s.modBlock b f).hostPsn = s.hostPsn := by
  unfold State.modBlock; split <;> rfl
@[simp] theorem State.modBlock_spadTag (s : State) (b : Nat) (f : Block → Block) : (s.modBlock b f).spadTag = s.spadTag := by
  unfold State.modBlock; split <;> rfl
@[simp] theorem State.modBlock_hostCopy (s : State) (b : Nat) (f : Block → Block) : (s.modBlock b f).hostCopy = s.hostCopy := by
  unfold State.modBlock; split <;> rfl
@[simp] theorem State.modBlock_peer (s : State) (b : Nat) (f : Block → Block) : (s.modBlock b f).peer = s.peer := by
  unfold State.modBlock; split <;> rfl
@[simp] theorem State.modBlock_peerPsn (s : State) (b : Nat) (f : Block → Block) : (s.modBlock b f).peerPsn = s.peerPsn := by
  unfold State.modBlock; split <;> rfl
@[simp] theorem State.modBlock_errs (s : State) (b : Nat) (f : Block → Block) : (s.modBlock b f).errs = s.errs := by
  unfold State.modBlock; split <;> rfl
@[simp] theorem State.modBlock_blocked (s : State) (b : Nat) (f : Block → Block) : (s.modBlock b f).blocked = s.blocked := by
  unfold State.modBlock; split <;> rfl
@[simp] theorem State.modBlock_codePages (s : State) (b : Nat) (f : Block → Block) : (s.modBlock b f).codePages = s.codePages := by
  unfold State.modBlock; split <;> rfl
@[simp] theorem State.modBlock_oldWords (s : State) (b : Nat) (f : Block → Block) : (s.modBlock b f).oldWords = s.oldWords := by
  unfold State.modBlock; split <;> rfl
@[simp] theorem State.modBlock_records (s : State) (b : Nat) (f : Block → Block) : (s.modBlock b f).records = s.records := by
  unfold State.modBlock; split <;> rfl
@[simp] theorem State.modBlock_msgs (s : State) (b : Nat) (f : Block → Block) : (s.modBlock b f).msgs = s.msgs := by
  unfold State.modBlock; split <;> rfl

/-! ### A gang changed -/

@[simp] theorem State.modGang_agenda (s : State) (g : Nat) (f : Gang → Gang) : (s.modGang g f).agenda = s.agenda := by
  unfold State.modGang; split <;> rfl
@[simp] theorem State.modGang_cur (s : State) (g : Nat) (f : Gang → Gang) : (s.modGang g f).cur = s.cur := by
  unfold State.modGang; split <;> rfl
@[simp] theorem State.modGang_fresh (s : State) (g : Nat) (f : Gang → Gang) : (s.modGang g f).fresh = s.fresh := by
  unfold State.modGang; split <;> rfl
@[simp] theorem State.modGang_nextId (s : State) (g : Nat) (f : Gang → Gang) : (s.modGang g f).nextId = s.nextId := by
  unfold State.modGang; split <;> rfl
@[simp] theorem State.modGang_cyc (s : State) (g : Nat) (f : Gang → Gang) : (s.modGang g f).cyc = s.cyc := by
  unfold State.modGang; split <;> rfl
@[simp] theorem State.modGang_columns (s : State) (g : Nat) (f : Gang → Gang) : (s.modGang g f).columns = s.columns := by
  unfold State.modGang; split <;> rfl
@[simp] theorem State.modGang_cores (s : State) (g : Nat) (f : Gang → Gang) : (s.modGang g f).cores = s.cores := by
  unfold State.modGang; split <;> rfl
@[simp] theorem State.modGang_warps (s : State) (g : Nat) (f : Gang → Gang) : (s.modGang g f).warps = s.warps := by
  unfold State.modGang; split <;> rfl
@[simp] theorem State.modGang_blocks (s : State) (g : Nat) (f : Gang → Gang) : (s.modGang g f).blocks = s.blocks := by
  unfold State.modGang; split <;> rfl
@[simp] theorem State.modGang_grids (s : State) (g : Nat) (f : Gang → Gang) : (s.modGang g f).grids = s.grids := by
  unfold State.modGang; split <;> rfl
@[simp] theorem State.modGang_contexts (s : State) (g : Nat) (f : Gang → Gang) : (s.modGang g f).contexts = s.contexts := by
  unfold State.modGang; split <;> rfl
@[simp] theorem State.modGang_rounds (s : State) (g : Nat) (f : Gang → Gang) : (s.modGang g f).rounds = s.rounds := by
  unfold State.modGang; split <;> rfl
@[simp] theorem State.modGang_copies (s : State) (g : Nat) (f : Gang → Gang) : (s.modGang g f).copies = s.copies := by
  unfold State.modGang; split <;> rfl
@[simp] theorem State.modGang_merges (s : State) (g : Nat) (f : Gang → Gang) : (s.modGang g f).merges = s.merges := by
  unfold State.modGang; split <;> rfl
@[simp] theorem State.modGang_arrivals (s : State) (g : Nat) (f : Gang → Gang) : (s.modGang g f).arrivals = s.arrivals := by
  unfold State.modGang; split <;> rfl
@[simp] theorem State.modGang_inbound (s : State) (g : Nat) (f : Gang → Gang) : (s.modGang g f).inbound = s.inbound := by
  unfold State.modGang; split <;> rfl
@[simp] theorem State.modGang_notices (s : State) (g : Nat) (f : Gang → Gang) : (s.modGang g f).notices = s.notices := by
  unfold State.modGang; split <;> rfl
@[simp] theorem State.modGang_dev (s : State) (g : Nat) (f : Gang → Gang) : (s.modGang g f).dev = s.dev := by
  unfold State.modGang; split <;> rfl
@[simp] theorem State.modGang_keys (s : State) (g : Nat) (f : Gang → Gang) : (s.modGang g f).keys = s.keys := by
  unfold State.modGang; split <;> rfl
@[simp] theorem State.modGang_pairsIn (s : State) (g : Nat) (f : Gang → Gang) : (s.modGang g f).pairsIn = s.pairsIn := by
  unfold State.modGang; split <;> rfl
@[simp] theorem State.modGang_mem (s : State) (g : Nat) (f : Gang → Gang) : (s.modGang g f).mem = s.mem := by
  unfold State.modGang; split <;> rfl
@[simp] theorem State.modGang_keyTag (s : State) (g : Nat) (f : Gang → Gang) : (s.modGang g f).keyTag = s.keyTag := by
  unfold State.modGang; split <;> rfl
@[simp] theorem State.modGang_memPsn (s : State) (g : Nat) (f : Gang → Gang) : (s.modGang g f).memPsn = s.memPsn := by
  unfold State.modGang; split <;> rfl
@[simp] theorem State.modGang_readPsn (s : State) (g : Nat) (f : Gang → Gang) : (s.modGang g f).readPsn = s.readPsn := by
  unfold State.modGang; split <;> rfl
@[simp] theorem State.modGang_below (s : State) (g : Nat) (f : Gang → Gang) : (s.modGang g f).below = s.below := by
  unfold State.modGang; split <;> rfl
@[simp] theorem State.modGang_spad (s : State) (g : Nat) (f : Gang → Gang) : (s.modGang g f).spad = s.spad := by
  unfold State.modGang; split <;> rfl
@[simp] theorem State.modGang_spadPsn (s : State) (g : Nat) (f : Gang → Gang) : (s.modGang g f).spadPsn = s.spadPsn := by
  unfold State.modGang; split <;> rfl
@[simp] theorem State.modGang_host (s : State) (g : Nat) (f : Gang → Gang) : (s.modGang g f).host = s.host := by
  unfold State.modGang; split <;> rfl
@[simp] theorem State.modGang_hostPsn (s : State) (g : Nat) (f : Gang → Gang) : (s.modGang g f).hostPsn = s.hostPsn := by
  unfold State.modGang; split <;> rfl
@[simp] theorem State.modGang_spadTag (s : State) (g : Nat) (f : Gang → Gang) : (s.modGang g f).spadTag = s.spadTag := by
  unfold State.modGang; split <;> rfl
@[simp] theorem State.modGang_hostCopy (s : State) (g : Nat) (f : Gang → Gang) : (s.modGang g f).hostCopy = s.hostCopy := by
  unfold State.modGang; split <;> rfl
@[simp] theorem State.modGang_peer (s : State) (g : Nat) (f : Gang → Gang) : (s.modGang g f).peer = s.peer := by
  unfold State.modGang; split <;> rfl
@[simp] theorem State.modGang_peerPsn (s : State) (g : Nat) (f : Gang → Gang) : (s.modGang g f).peerPsn = s.peerPsn := by
  unfold State.modGang; split <;> rfl
@[simp] theorem State.modGang_errs (s : State) (g : Nat) (f : Gang → Gang) : (s.modGang g f).errs = s.errs := by
  unfold State.modGang; split <;> rfl
@[simp] theorem State.modGang_blocked (s : State) (g : Nat) (f : Gang → Gang) : (s.modGang g f).blocked = s.blocked := by
  unfold State.modGang; split <;> rfl
@[simp] theorem State.modGang_codePages (s : State) (g : Nat) (f : Gang → Gang) : (s.modGang g f).codePages = s.codePages := by
  unfold State.modGang; split <;> rfl
@[simp] theorem State.modGang_oldWords (s : State) (g : Nat) (f : Gang → Gang) : (s.modGang g f).oldWords = s.oldWords := by
  unfold State.modGang; split <;> rfl
@[simp] theorem State.modGang_records (s : State) (g : Nat) (f : Gang → Gang) : (s.modGang g f).records = s.records := by
  unfold State.modGang; split <;> rfl
@[simp] theorem State.modGang_msgs (s : State) (g : Nat) (f : Gang → Gang) : (s.modGang g f).msgs = s.msgs := by
  unfold State.modGang; split <;> rfl

/-! ### A grid changed -/

@[simp] theorem State.modGrid_agenda (s : State) (g : Nat) (f : Grid → Grid) : (s.modGrid g f).agenda = s.agenda := by
  unfold State.modGrid; split <;> rfl
@[simp] theorem State.modGrid_cur (s : State) (g : Nat) (f : Grid → Grid) : (s.modGrid g f).cur = s.cur := by
  unfold State.modGrid; split <;> rfl
@[simp] theorem State.modGrid_fresh (s : State) (g : Nat) (f : Grid → Grid) : (s.modGrid g f).fresh = s.fresh := by
  unfold State.modGrid; split <;> rfl
@[simp] theorem State.modGrid_nextId (s : State) (g : Nat) (f : Grid → Grid) : (s.modGrid g f).nextId = s.nextId := by
  unfold State.modGrid; split <;> rfl
@[simp] theorem State.modGrid_cyc (s : State) (g : Nat) (f : Grid → Grid) : (s.modGrid g f).cyc = s.cyc := by
  unfold State.modGrid; split <;> rfl
@[simp] theorem State.modGrid_columns (s : State) (g : Nat) (f : Grid → Grid) : (s.modGrid g f).columns = s.columns := by
  unfold State.modGrid; split <;> rfl
@[simp] theorem State.modGrid_cores (s : State) (g : Nat) (f : Grid → Grid) : (s.modGrid g f).cores = s.cores := by
  unfold State.modGrid; split <;> rfl
@[simp] theorem State.modGrid_warps (s : State) (g : Nat) (f : Grid → Grid) : (s.modGrid g f).warps = s.warps := by
  unfold State.modGrid; split <;> rfl
@[simp] theorem State.modGrid_blocks (s : State) (g : Nat) (f : Grid → Grid) : (s.modGrid g f).blocks = s.blocks := by
  unfold State.modGrid; split <;> rfl
@[simp] theorem State.modGrid_gangs (s : State) (g : Nat) (f : Grid → Grid) : (s.modGrid g f).gangs = s.gangs := by
  unfold State.modGrid; split <;> rfl
@[simp] theorem State.modGrid_contexts (s : State) (g : Nat) (f : Grid → Grid) : (s.modGrid g f).contexts = s.contexts := by
  unfold State.modGrid; split <;> rfl
@[simp] theorem State.modGrid_rounds (s : State) (g : Nat) (f : Grid → Grid) : (s.modGrid g f).rounds = s.rounds := by
  unfold State.modGrid; split <;> rfl
@[simp] theorem State.modGrid_copies (s : State) (g : Nat) (f : Grid → Grid) : (s.modGrid g f).copies = s.copies := by
  unfold State.modGrid; split <;> rfl
@[simp] theorem State.modGrid_merges (s : State) (g : Nat) (f : Grid → Grid) : (s.modGrid g f).merges = s.merges := by
  unfold State.modGrid; split <;> rfl
@[simp] theorem State.modGrid_arrivals (s : State) (g : Nat) (f : Grid → Grid) : (s.modGrid g f).arrivals = s.arrivals := by
  unfold State.modGrid; split <;> rfl
@[simp] theorem State.modGrid_inbound (s : State) (g : Nat) (f : Grid → Grid) : (s.modGrid g f).inbound = s.inbound := by
  unfold State.modGrid; split <;> rfl
@[simp] theorem State.modGrid_notices (s : State) (g : Nat) (f : Grid → Grid) : (s.modGrid g f).notices = s.notices := by
  unfold State.modGrid; split <;> rfl
@[simp] theorem State.modGrid_dev (s : State) (g : Nat) (f : Grid → Grid) : (s.modGrid g f).dev = s.dev := by
  unfold State.modGrid; split <;> rfl
@[simp] theorem State.modGrid_keys (s : State) (g : Nat) (f : Grid → Grid) : (s.modGrid g f).keys = s.keys := by
  unfold State.modGrid; split <;> rfl
@[simp] theorem State.modGrid_pairsIn (s : State) (g : Nat) (f : Grid → Grid) : (s.modGrid g f).pairsIn = s.pairsIn := by
  unfold State.modGrid; split <;> rfl
@[simp] theorem State.modGrid_mem (s : State) (g : Nat) (f : Grid → Grid) : (s.modGrid g f).mem = s.mem := by
  unfold State.modGrid; split <;> rfl
@[simp] theorem State.modGrid_keyTag (s : State) (g : Nat) (f : Grid → Grid) : (s.modGrid g f).keyTag = s.keyTag := by
  unfold State.modGrid; split <;> rfl
@[simp] theorem State.modGrid_memPsn (s : State) (g : Nat) (f : Grid → Grid) : (s.modGrid g f).memPsn = s.memPsn := by
  unfold State.modGrid; split <;> rfl
@[simp] theorem State.modGrid_readPsn (s : State) (g : Nat) (f : Grid → Grid) : (s.modGrid g f).readPsn = s.readPsn := by
  unfold State.modGrid; split <;> rfl
@[simp] theorem State.modGrid_below (s : State) (g : Nat) (f : Grid → Grid) : (s.modGrid g f).below = s.below := by
  unfold State.modGrid; split <;> rfl
@[simp] theorem State.modGrid_spad (s : State) (g : Nat) (f : Grid → Grid) : (s.modGrid g f).spad = s.spad := by
  unfold State.modGrid; split <;> rfl
@[simp] theorem State.modGrid_spadPsn (s : State) (g : Nat) (f : Grid → Grid) : (s.modGrid g f).spadPsn = s.spadPsn := by
  unfold State.modGrid; split <;> rfl
@[simp] theorem State.modGrid_host (s : State) (g : Nat) (f : Grid → Grid) : (s.modGrid g f).host = s.host := by
  unfold State.modGrid; split <;> rfl
@[simp] theorem State.modGrid_hostPsn (s : State) (g : Nat) (f : Grid → Grid) : (s.modGrid g f).hostPsn = s.hostPsn := by
  unfold State.modGrid; split <;> rfl
@[simp] theorem State.modGrid_spadTag (s : State) (g : Nat) (f : Grid → Grid) : (s.modGrid g f).spadTag = s.spadTag := by
  unfold State.modGrid; split <;> rfl
@[simp] theorem State.modGrid_hostCopy (s : State) (g : Nat) (f : Grid → Grid) : (s.modGrid g f).hostCopy = s.hostCopy := by
  unfold State.modGrid; split <;> rfl
@[simp] theorem State.modGrid_peer (s : State) (g : Nat) (f : Grid → Grid) : (s.modGrid g f).peer = s.peer := by
  unfold State.modGrid; split <;> rfl
@[simp] theorem State.modGrid_peerPsn (s : State) (g : Nat) (f : Grid → Grid) : (s.modGrid g f).peerPsn = s.peerPsn := by
  unfold State.modGrid; split <;> rfl
@[simp] theorem State.modGrid_errs (s : State) (g : Nat) (f : Grid → Grid) : (s.modGrid g f).errs = s.errs := by
  unfold State.modGrid; split <;> rfl
@[simp] theorem State.modGrid_blocked (s : State) (g : Nat) (f : Grid → Grid) : (s.modGrid g f).blocked = s.blocked := by
  unfold State.modGrid; split <;> rfl
@[simp] theorem State.modGrid_codePages (s : State) (g : Nat) (f : Grid → Grid) : (s.modGrid g f).codePages = s.codePages := by
  unfold State.modGrid; split <;> rfl
@[simp] theorem State.modGrid_oldWords (s : State) (g : Nat) (f : Grid → Grid) : (s.modGrid g f).oldWords = s.oldWords := by
  unfold State.modGrid; split <;> rfl
@[simp] theorem State.modGrid_records (s : State) (g : Nat) (f : Grid → Grid) : (s.modGrid g f).records = s.records := by
  unfold State.modGrid; split <;> rfl
@[simp] theorem State.modGrid_msgs (s : State) (g : Nat) (f : Grid → Grid) : (s.modGrid g f).msgs = s.msgs := by
  unfold State.modGrid; split <;> rfl

/-! ### What an update changes -/

/-- The warp that was put in place. -/
@[simp] theorem State.warp_setWarp (s : State) (w : Nat) (x : Warp) : (s.setWarp w x).warp w = some x := by
  simp [State.warp, State.setWarp]

/-- Every other warp. -/
theorem State.warp_setWarp_ne (s : State) {w v : Nat} (x : Warp) (h : v ≠ w) : (s.setWarp w x).warp v = s.warp v := by
  simp [State.warp, State.setWarp, mapGet_mapSet_ne _ _ h]

/-- The warp that was changed. -/
theorem State.warp_modWarp {s : State} {w : Nat} {x : Warp} (f : Warp → Warp) (h : s.warp w = some x) :
    (s.modWarp w f).warp w = some (f x) := by simp [State.modWarp, h]

/-- A warp that does not exist. -/
theorem State.modWarp_none {s : State} {w : Nat} (f : Warp → Warp) (h : s.warp w = none) : s.modWarp w f = s := by
  simp [State.modWarp, h]

/-- Every other warp. -/
theorem State.warp_modWarp_ne (s : State) {w v : Nat} (f : Warp → Warp) (h : v ≠ w) :
    (s.modWarp w f).warp v = s.warp v := by
  unfold State.modWarp
  split
  · exact s.warp_setWarp_ne _ h
  · rfl

/-- The column that was changed. -/
@[simp] theorem State.column_modColumn (s : State) (c : Nat) (f : Column → Column) :
    (s.modColumn c f).column c = f (s.column c) := by simp [State.column, State.modColumn]

/-- Every other column. -/
theorem State.column_modColumn_ne (s : State) {c d : Nat} (f : Column → Column) (h : d ≠ c) :
    (s.modColumn c f).column d = s.column d := by simp [State.column, State.modColumn, mapGetD_mapSet_ne _ _ _ h]

/-- The context that was changed. -/
@[simp] theorem State.ctx_modCtx (s : State) (a : Nat) (f : Context → Context) : (s.modCtx a f).ctx a = f (s.ctx a) := by
  simp [State.ctx, State.modCtx]

/-- Every other context. -/
theorem State.ctx_modCtx_ne (s : State) {a b : Nat} (f : Context → Context) (h : b ≠ a) :
    (s.modCtx a f).ctx b = s.ctx b := by simp [State.ctx, State.modCtx, mapGetD_mapSet_ne _ _ _ h]

end Sys2Proof.Machine
end

