-- ==== Sys2Proof/Laws/Issue.lean ====
section
/-! SUPPORT. What the shared operations of issue can do: the gate, the taking of a register, a result written, a predicate
written, a result that comes later, and the instruction as a whole. -/

namespace Sys2Proof.Machine

open Sys2Proof

/-! ### The gate -/

/-- Where no result is due, none is found. -/
theorem find_due {l : List Pending} (h : ∀ p ∈ l, p.window ≠ 0 ∨ p.here = true) :
    (l.find? fun p => p.window == 0 && !p.here) = none := by
  rw [List.find?_eq_none]
  intro p hp
  rcases h p hp with h | h <;> simp [h]

/-- Where the gate opens, it answers the instruction as it passes. -/
theorem gate_opens {c : Cx} {op : Opcode} (h : Opens c op) : c.gate op = .ok (passed c op) := by
  obtain ⟨hp, hb, hc, hs, ha, h1, h2⟩ := h
  have hfind : (c.x.pend.find? fun p => p.window == 0 && !p.here) = none := find_due hp
  unfold Cx.gate
  simp only [hfind]
  rw [if_neg (by simp [hb]), if_neg (by omega), if_neg (by intro h; have := hs h.1; omega), if_neg ha]
  have e2 : (if c.mode = 2 then c.stalls (op.spec c.f) (opClass op).readsD else none) = none := by
    split
    · exact h2 ‹_›
    · rfl
  have e1 : (if c.mode = 1 then c.hazard (op.spec c.f) (opClass op).readsD else none) = none := by
    split
    · exact h1 ‹_›
    · rfl
  simp only [e1, e2]
  rfl

/-- An instruction whose gate opens, whose encoding is legal as the machine stands and whose body answers, completes. -/
theorem issue_completes {s : State} {w : Nat} {x : Warp} {op : Opcode} {f : Fields} {always : Bool} {pre : Cx → Bool}
    {body : Cx → Step} {c : Cx} (hi : Issuing s w x) (hpre : pre (s.cx w x f) = true) (ho : Opens (s.cx w x f) op)
    (hb : body (atIssue s w x op f) = .ok c) :
    s.issue op f always pre body = .next (completes c x op) := by
  have ha : (atIssue s w x op f).act ≠ 0 := ho.2.2.2.2.1
  unfold State.issue
  simp only [hi.1, hi.2, hpre, gate_opens ho]
  simp only [Bool.not_true, Bool.false_eq_true, if_false]
  have hn : ¬((passed (s.cx w x f) op).act = 0 ∧ (!always) = true) := fun h => ha h.1
  rw [if_neg hn]
  have hb' : body (passed (s.cx w x f) op) = .ok c := hb
  rw [hb']
  rfl

/-! ### Registers of a bank -/

theorem mem_mapSet {α : Type} {x : α} : ∀ {m : AMap α} {n : Nat} {kv : Nat × α}, kv ∈ mapSet m n x →
    kv = (n, x) ∨ kv ∈ m
  | [], n, kv, h => by simpa [mapSet] using h
  | (k, v) :: r, n, kv, h => by
    unfold mapSet at h
    split at h
    · simpa using h
    · split at h
      · simp only [List.mem_cons] at h ⊢
        tauto
      · simp only [List.mem_cons] at h ⊢
        rcases h with h | h
        · tauto
        · rcases mem_mapSet h with h | h <;> tauto

/-- Which registers of a bank are in use depends on the issuing run only through what it holds. -/
theorem physUsed_subset {s : State} {col core bank w : Nat} {r r' : Run} {ph : Nat}
    (h : ∀ i ∈ r'.phys bank, i = ph ∨ i ∈ r.phys bank) :
    ∀ i ∈ s.physUsed col core bank w r', i = ph ∨ i ∈ s.physUsed col core bank w r := by
  intro i hi
  simp only [State.physUsed, List.mem_flatMap] at hi ⊢
  obtain ⟨kv, hkv, hi⟩ := hi
  by_cases hout : kv.2.col ≠ col ∨ kv.2.core ≠ core ∨ kv.2.swapped = true ∨ kv.2.halted = true
  · simp [hout] at hi
  · rw [if_neg hout] at hi
    by_cases hw : kv.1 = w
    · rw [if_pos hw] at hi
      simp only [List.mem_append] at hi
      rcases hi with (hi | hi) | hi
      · exact .inr ⟨kv, hkv, by rw [if_neg hout]; simp [hi]⟩
      · rcases h i hi with h | h
        · exact .inl h
        · exact .inr ⟨kv, hkv, by rw [if_neg hout, if_pos hw]; simp [h]⟩
      · exact .inr ⟨kv, hkv, by rw [if_neg hout]; simp only [List.mem_append]; exact .inr hi⟩
    · rw [if_neg hw] at hi
      exact .inr ⟨kv, hkv, by rw [if_neg hout, if_neg hw]; exact hi⟩

/-- A bank with a free register gives one. -/
theorem alloc_ok {c : Cx} {bank : Nat} (hf : 0 < (freeIn c bank).length)
    (ho : c.s.olderOut c.x = false) :
    ∃ i, c.alloc bank = .ok i ∧ i ∈ freeIn c bank := by
  obtain ⟨j, hj⟩ := List.exists_mem_of_length_pos hf
  have hj' := List.mem_filter.mp hj
  have : ((List.range emergencyAt).find? fun i => !(c.s.physUsed c.x.col c.x.core bank c.w c.r).contains i).isSome := by
    rw [List.find?_isSome]
    exact ⟨j, hj'.1, hj'.2⟩
  obtain ⟨i, hi⟩ := Option.isSome_iff_exists.mp this
  refine ⟨i, ?_, ?_⟩
  · unfold Cx.alloc
    simp only [ho, Bool.false_eq_true, if_false, hi]
  · exact List.mem_filter.mpr ⟨List.mem_of_find?_eq_some hi, by simpa using List.find?_some hi⟩

/-- Taking one register of a bank leaves all others free. -/
theorem freeIn_after {c c' : Cx} {bank ph n : Nat} (hs : c'.s = c.s) (hx : c'.x = c.x) (hw : c'.w = c.w)
    (hr : ∀ i ∈ c'.r.phys bank, i = ph ∨ i ∈ c.r.phys bank) (h : n + 1 ≤ (freeIn c bank).length) :
    n ≤ (freeIn c' bank).length := by
  have hsub : ((freeIn c bank).erase ph) ⊆ freeIn c' bank := by
    intro i hi
    have hi2 := (List.Nodup.mem_erase_iff (List.Nodup.filter _ List.nodup_range)).mp hi
    have hi3 := List.mem_filter.mp hi2.2
    refine List.mem_filter.mpr ⟨hi3.1, ?_⟩
    have hno : i ∉ c.s.physUsed c.x.col c.x.core bank c.w c.r := by simpa using hi3.2
    have : i ∉ c'.s.physUsed c'.x.col c'.x.core bank c'.w c'.r := by
      intro hin
      rw [hs, hx, hw] at hin
      rcases physUsed_subset hr i hin with h | h
      · exact hi2.1 h
      · exact hno h
    simpa using this
  have hnd : ((freeIn c bank).erase ph).Nodup := List.Nodup.erase _ (List.Nodup.filter _ List.nodup_range)
  have hle := (List.subperm_of_subset hnd hsub).length_le
  have := List.length_erase_le (a := ph) (l := freeIn c bank)
  have h2 : (freeIn c bank).length - 1 ≤ ((freeIn c bank).erase ph).length := by
    rw [List.length_erase]; split <;> omega
  omega

/-! ### Writing V registers -/

/-- What writing a V register changes of an issuing instruction: its run's V registers, what the run frees and ends, and
how many registers it has taken. -/
structure VWritten (c c' : Cx) : Prop where
  cx  : ∃ r', c' = { c with r := r' }
  run : c'.r = { c.r with work := { c.r.work with v := c'.r.work.v }, allocs := c'.r.allocs, freed := c'.r.freed,
                          dead := c'.r.dead }

theorem VWritten.rfl {c : Cx} : VWritten c c := ⟨⟨c.r, by cases c; simp⟩, by simp⟩

theorem VWritten.trans {a b c : Cx} (h : VWritten a b) (g : VWritten b c) : VWritten a c := by
  obtain ⟨⟨r, hr⟩, h2⟩ := h
  obtain ⟨⟨q, hq⟩, g2⟩ := g
  subst hr; subst hq
  refine ⟨⟨q, by simp⟩, ?_⟩
  simp only at h2 g2 ⊢
  rw [g2, h2]

/-- A V register written where there is room: it holds the new values in the threads written, every other register is as
before, and there is room for one less. -/
theorem writeV_spec {c : Cx} {v j n : Nat} {mask : Mask} {new : Lanes} (hroom : Roomy c (n + 1)) :
    ∃ c', c.writeV v j mask new = .ok c' ∧ VWritten c c' ∧ Roomy c' n
      ∧ (∀ u, u ≠ v → mapGet c'.r.work.v u = mapGet c.r.work.v u)
      ∧ (∀ t < 64, bit mask t = false → (mapGet c.r.work.v v).isSome → vRead c'.r v t = vRead c.r v t)
      ∧ (c.mode ≠ 2 → (mapGet c'.r.work.v v).isSome)
      ∧ ((c.mode ≠ 2 ∨ (mapGet c.r.work.v v).isSome) → ∀ t < 64, bit mask t = true →
          vRead c'.r v t = some (new.val.getD t 0, bit new.poison t)) := by
  have hmerge : ∀ (l : Lanes) (t : Nat), t < 64 → bit mask t = true →
      ((l.merge mask new).val.getD t 0, bit (l.merge mask new).poison t) = (new.val.getD t 0, bit new.poison t) := by
    intro l t ht hm
    unfold Lanes.merge
    have hm' : mask.getLsbD t = true := hm
    have hm2 : mask[t] = true := by rw [← BitVec.getLsbD_eq_getElem]; exact hm'
    simp [List.getD_eq_getElem?_getD, ht, bit, hm2]
  have hkeep : ∀ (l : Lanes) (t : Nat), t < 64 → bit mask t = false →
      ((l.merge mask new).val.getD t 0, bit (l.merge mask new).poison t) = (l.val.getD t 0, bit l.poison t) := by
    intro l t ht hm
    unfold Lanes.merge
    have hm' : mask.getLsbD t = false := hm
    have hm2 : mask[t] = false := by rw [← BitVec.getLsbD_eq_getElem]; exact hm'
    simp [List.getD_eq_getElem?_getD, ht, bit, hm2]
  unfold Cx.writeV
  by_cases hm : c.mode = 2
  · simp only [hm, if_true]
    cases hold : mapGet c.r.work.v v with
    | none =>
      refine ⟨c, rfl, .rfl, .inl hm, fun _ _ => rfl, by simp, fun h => absurd rfl h, ?_⟩
      simp
    | some g =>
      refine ⟨_, rfl, ⟨⟨_, rfl⟩, rfl⟩, .inl hm, fun u hu => mapGet_mapSet_ne _ _ hu, ?_, fun h => absurd rfl h, ?_⟩
      · intro t ht hb _
        simp only [vRead, Cx.modWork, mapGet_mapSet_same, Option.map_some, hold]
        rw [hkeep g.lanes t ht hb]
      intro _ t ht hb
      simp only [vRead, Cx.modWork, mapGet_mapSet_same, Option.map_some]
      rw [hmerge g.lanes t ht hb]
  · rcases hroom with h2 | ⟨hal, hfree, hold⟩
    · exact absurd h2 hm
    have hb4 : v % 4 < 4 := Nat.mod_lt _ (by omega)
    obtain ⟨ph, hph, hin⟩ := alloc_ok (c := c) (bank := v % 4) (by have := hfree _ hb4; omega) hold
    simp only [hm, if_false]
    rw [if_neg (by omega), hph]
    refine ⟨_, rfl, ⟨⟨_, rfl⟩, ?_⟩, ?_, ?_, ?_, ?_, ?_⟩
    · split <;> [rfl; (split <;> rfl)]
    · right
      refine ⟨?_, ?_, hold⟩
      · split <;> [(simp; omega); (split <;> (simp; omega))]
      · intro bank hbank
        refine freeIn_after (c := c) (ph := ph) (n := n) rfl rfl rfl ?_ (hfree bank hbank)
        intro i hi
        simp only [Run.phys, Regs.phys, List.mem_append, List.mem_map, List.mem_filter] at hi ⊢
        rcases hi with ⟨kv, ⟨hkv, hk4⟩, rfl⟩ | ⟨b, ⟨hb, hbk⟩, rfl⟩
        · have hmem : kv.2.phys = ph ∨ kv ∈ c.r.work.v := by
            have hput : ∀ {m : AMap VReg} {g : VReg}, g.phys = ph → kv ∈ mapSet m v g → kv.2.phys = ph ∨ kv ∈ m := by
              intro m g hg h
              rcases mem_mapSet h with h | h
              · left; rw [h]; exact hg
              · exact .inr h
            cases hg : mapGet c.r.work.v v with
            | none => simp only [hg] at hkv; exact hput rfl hkv
            | some g =>
              simp only [hg] at hkv
              split at hkv <;> exact hput rfl hkv
          rcases hmem with h | h
          · exact .inl h
          · exact .inr (.inl ⟨kv, ⟨h, hk4⟩, rfl⟩)
        · have hmem : b ∈ c.r.freed ∨ ∃ g, mapGet c.r.work.v v = some g ∧ b = (v % 4, g) := by
            cases hg : mapGet c.r.work.v v with
            | none => simp only [hg] at hb; exact .inl hb
            | some g =>
              simp only [hg] at hb
              split at hb
              · exact .inl hb
              · simp only [List.mem_cons] at hb
                rcases hb with hb | hb
                · exact .inr ⟨g, rfl, hb⟩
                · exact .inl hb
          rcases hmem with h | ⟨g, hg, rfl⟩
          · exact .inr (.inr ⟨b, ⟨h, hbk⟩, rfl⟩)
          · refine .inr (.inl ⟨(v, g), ⟨?_, by simpa using hbk⟩, rfl⟩)
            exact mapGet_mem hg
    · intro u hu
      cases hg : mapGet c.r.work.v v with
      | none => exact mapGet_mapSet_ne _ _ hu
      | some g =>
        simp only
        split <;> exact mapGet_mapSet_ne _ _ hu
    · intro t ht hb hs
      cases hg : mapGet c.r.work.v v with
      | none => rw [hg] at hs; simp at hs
      | some g =>
        simp only [vRead]
        split <;> (simp only [mapGet_mapSet_same, Option.map_some, hg]; rw [hkeep _ t ht hb])
    · intro _
      cases hg : mapGet c.r.work.v v with
      | none => simp only [mapGet_mapSet_same, Option.isSome_some]
      | some g =>
        simp only
        split <;> simp only [mapGet_mapSet_same, Option.isSome_some]
    · intro _ t ht hb
      cases hg : mapGet c.r.work.v v with
      | none =>
        simp only [vRead, mapGet_mapSet_same, Option.map_some]
        rw [hmerge _ t ht hb]
      | some g =>
        simp only [vRead]
        split <;> (simp only [mapGet_mapSet_same, Option.map_some]; rw [hmerge _ t ht hb])

/-- A group of V registers written where there is room. -/
theorem writeVs_spec {v n : Nat} {mask : Mask} : ∀ (vals : List Lanes) {c : Cx} (k : Nat), Roomy c (vals.length + n) →
    ∃ c', c.writeVs v mask vals k = .ok c' ∧ VWritten c c' ∧ Roomy c' n
      ∧ (∀ u, (∀ j < vals.length, u ≠ v + (k + j)) → mapGet c'.r.work.v u = mapGet c.r.work.v u)
      ∧ (∀ u t, t < 64 → bit mask t = false → (mapGet c.r.work.v u).isSome → vRead c'.r u t = vRead c.r u t)
      ∧ (∀ j < vals.length, c.mode ≠ 2 → (mapGet c'.r.work.v (v + (k + j))).isSome)
      ∧ (∀ j < vals.length, (c.mode ≠ 2 ∨ (mapGet c.r.work.v (v + (k + j))).isSome) → ∀ t < 64, bit mask t = true →
          vRead c'.r (v + (k + j)) t
            = some ((vals.getD j Lanes.zero).val.getD t 0, bit (vals.getD j Lanes.zero).poison t))
  | [], c, k, h => ⟨c, rfl, .rfl, by simpa using h, fun _ _ => rfl, fun _ _ _ _ _ => rfl,
      fun j hj => absurd hj (by simp), fun j hj => absurd hj (by simp)⟩
  | l :: rest, c, k, h => by
    obtain ⟨c1, e1, w1, r1, f1, o1, a1, g1⟩ := writeV_spec (c := c) (v := v + k) (j := k) (mask := mask) (new := l)
      (n := rest.length + n) (by
        have : (l :: rest).length + n = rest.length + n + 1 := by simp; omega
        rwa [this] at h)
    obtain ⟨c2, e2, w2, r2, f2, o2, a2, g2⟩ := writeVs_spec (v := v) (n := n) (mask := mask) rest (c := c1) (k + 1) r1
    have hmode : c1.mode = c.mode := by
      obtain ⟨⟨r', hr⟩, _⟩ := w1; subst hr; rfl
    have live : ∀ u, (mapGet c.r.work.v u).isSome → (mapGet c1.r.work.v u).isSome := by
      intro u hu
      by_cases h : u = v + k
      · subst h
        cases hm : decide (c.mode = 2) with
        | false => exact a1 (by simpa using hm)
        | true =>
          by_contra hno
          have := o1 0 (by omega)
          revert hno
          unfold Cx.writeV at e1
          have hm' : c.mode = 2 := by simpa using hm
          obtain ⟨g, hg⟩ := Option.isSome_iff_exists.mp hu
          simp only [hm', if_true, hg, Except.ok.injEq] at e1
          subst e1
          simp [Cx.modWork, mapGet_mapSet_same]
      · rw [f1 u h]; exact hu
    refine ⟨c2, ?_, w1.trans w2, r2, ?_, ?_, ?_, ?_⟩
    · unfold Cx.writeVs
      rw [e1]; exact e2
    · intro u hu
      rw [f2 u fun j hj => by have := hu (j + 1) (by simpa using hj); omega]
      exact f1 u (by have := hu 0 (by simp); omega)
    · intro u t ht hb hl
      rw [o2 u t ht hb (live u hl)]
      by_cases h : u = v + k
      · subst h; exact o1 t ht hb hl
      · unfold vRead; rw [f1 u h]
    · intro j hj hm
      cases j with
      | zero => rw [f2 (v + (k + 0)) fun j _ => by omega]; exact a1 hm
      | succ j =>
        have e : v + (k + (j + 1)) = v + (k + 1 + j) := by omega
        rw [e]
        exact a2 j (by simpa using hj) (by rw [hmode]; exact hm)
    · intro j hj hlive t ht hb
      cases j with
      | zero =>
        have hkeep : vRead c2.r (v + (k + 0)) t = vRead c1.r (v + (k + 0)) t := by
          unfold vRead
          rw [f2 (v + (k + 0)) fun j _ => by omega]
        rw [hkeep]
        exact g1 hlive t ht hb
      | succ j =>
        have e : v + (k + (j + 1)) = v + (k + 1 + j) := by omega
        rw [e] at hlive ⊢
        refine g2 j (by simpa using hj) ?_ t ht hb
        rw [hmode]
        rcases hlive with h | h
        · exact .inl h
        · right; rw [f1 _ (by omega)]; exact h

/-! ### A result written -/

theorem merge_holds (b : Lanes) (mask : Mask) (l : Lanes) :
    EntryHolds { valid := true, lanes := b.merge mask l } mask l := by
  refine ⟨rfl, fun t ht hb => ?_⟩
  have hm' : mask.getLsbD t = true := hb
  have hm2 : mask[t] = true := by rw [← BitVec.getLsbD_eq_getElem]; exact hm'
  unfold Lanes.merge
  simp [List.getD_eq_getElem?_getD, ht, bit, hm2]

/-- The S registers of a scalar result, as the meaning writes them and as their values. -/
theorem firsts (vals : List Lanes) (d : Nat) (s : List SVal) :
    (List.range (vals.map Lanes.first).length).foldl (fun s j => s.set (d + j) ((vals.map Lanes.first).getD j SVal.zero)) s
      = (List.range vals.length).foldl (fun s j => s.set (d + j) (vals.getD j Lanes.zero).first) s := by
  have h : ∀ j, (vals.map Lanes.first).getD j SVal.zero = (vals.getD j Lanes.zero).first := by
    intro j
    rw [List.getD_eq_getElem?_getD, List.getD_eq_getElem?_getD, List.getElem?_map]
    cases vals[j]? <;> rfl
  simp only [List.length_map, h]

/-- A result written where there is room (R50, R93, R95, R97): its destination, its KEEP entry and its latch receive it. -/
theorem writeResult_spec {c : Cx} {latch : Option Nat} {mask : Mask} {vals : List Lanes}
    (hroom : Roomy c (groupSize c vals.length)) :
    ∃ c', c.writeResult latch mask vals = .ok c' ∧ Received c c' latch mask vals := by
  obtain ⟨c1, hdest, hf, hcx, hrun, hv, hvl, hvo, hs, hlat, e, he, hc⟩ : ∃ c1,
      c.writeDest mask vals = .ok c1 ∧ c1.f = c.f ∧ (∃ r', c1 = { c with r := r' })
      ∧ (c1.r = { c.r with work := { c.r.work with v := c1.r.work.v, s := c1.r.work.s, c := c1.r.work.c,
                                                    home := c1.r.work.home }
                           allocs := c1.r.allocs, freed := c1.r.freed, dead := c1.r.dead, sAt := c1.r.sAt })
      ∧ (∀ d, c.f.d = .v d → ∀ j < vals.length, (c.mode ≠ 2 ∨ (mapGet c.r.work.v (d.toNat + j)).isSome) →
          ∀ t < 64, bit mask t = true → vRead c1.r (d.toNat + j) t
            = some ((vals.getD j Lanes.zero).val.getD t 0, bit (vals.getD j Lanes.zero).poison t))
      ∧ (∀ u t, t < 64 → bit mask t = false → (mapGet c.r.work.v u).isSome → vRead c1.r u t = vRead c.r u t)
      ∧ (∀ u, (∀ d, c.f.d = .v d → ∀ j < vals.length, u ≠ d.toNat + j) →
          mapGet c1.r.work.v u = mapGet c.r.work.v u)
      ∧ (c1.r.work.s = match c.f.d with
          | .s d => if mask = 0 then c.r.work.s else
              (List.range vals.length).foldl (fun s j => s.set (d.toNat + j) (vals.getD j Lanes.zero).first) c.r.work.s
          | _ => c.r.work.s)
      ∧ c1.r.latch = c.r.latch
      ∧ ∃ e, (∀ d, c.f.d = .c d → EntryHolds e mask (vals.getD 0 Lanes.zero))
        ∧ c1.r.work.c = match c.f.d with | .c d => c.r.work.c.set d.toNat e | _ => c.r.work.c := by
    unfold Cx.writeDest
    cases hd : c.f.d with
    | v d =>
      obtain ⟨c1, e1, w1, _, f1, o1, _, g1⟩ := writeVs_spec (v := d.toNat) (n := 0) (mask := mask) vals (c := c) 0
        (by simpa [groupSize, hd] using hroom)
      obtain ⟨⟨r, hr⟩, h2⟩ := w1
      subst hr
      simp only at h2 f1 o1 g1 ⊢
      refine ⟨_, e1, rfl, ⟨r, rfl⟩, ?_, ?_, o1, ?_, ?_, ?_, ⟨true, Lanes.zero⟩, by simp, ?_⟩
      · rw [h2]
      · intro d' hd' j hj hl t ht hb
        obtain rfl : d = d' := by simpa using hd'
        have := g1 j hj (by simpa using hl) t ht hb
        simpa only [Nat.zero_add] using this
      · intro u hu
        exact f1 u fun j hj => by simpa using hu d rfl j hj
      all_goals rw [h2]
    | s d =>
      refine ⟨_, rfl, ?_⟩
      by_cases hm : mask = 0
      · rw [if_pos hm]
        exact ⟨rfl, ⟨c.r, rfl⟩, rfl, by simp, fun _ _ _ _ _ => rfl, fun _ _ => rfl, by simp [hm], rfl,
          ⟨true, Lanes.zero⟩, by simp, rfl⟩
      · rw [if_neg hm]
        exact ⟨rfl, ⟨_, rfl⟩, rfl, by simp, fun _ _ _ _ _ => rfl, fun _ _ => rfl,
          by simp only [hm, if_false]; exact firsts vals _ _, rfl, ⟨true, Lanes.zero⟩, by simp, rfl⟩
    | c d =>
      exact ⟨_, rfl, rfl, ⟨_, rfl⟩, rfl, by simp, fun _ _ _ _ _ => rfl, fun _ _ => rfl, rfl, rfl, _,
        fun _ _ => merge_holds _ _ _, rfl⟩
    | _ =>
      exact ⟨_, rfl, rfl, ⟨c.r, rfl⟩, rfl, by simp, fun _ _ _ _ _ => rfl, fun _ _ => rfl, rfl, rfl,
        ⟨true, Lanes.zero⟩, by simp, rfl⟩
  obtain ⟨c2, hkeep, hk⟩ : ∃ c2, c2 = (if c1.f.keep then c1.writeC c1.f.kc.toNat mask (vals.getD 0 Lanes.zero) else c1)
      ∧ ∃ r', c2 = { c1 with r := r' } ∧ r' = { c1.r with work := { c1.r.work with c := r'.work.c, home := r'.work.home } }
        ∧ ∃ k, (c.f.keep = true → EntryHolds k mask (vals.getD 0 Lanes.zero))
          ∧ r'.work.c = if c.f.keep then c1.r.work.c.set c.f.kc.toNat k else c1.r.work.c := by
    refine ⟨_, rfl, ?_⟩
    rw [← hf]
    by_cases h : c1.f.keep = true
    · rw [if_pos h]
      exact ⟨(c1.writeC c1.f.kc.toNat mask (vals.getD 0 Lanes.zero)).r, rfl, rfl, _, fun _ => merge_holds _ _ _,
        by rw [if_pos h]; rfl⟩
    · rw [if_neg h]
      exact ⟨c1.r, by cases c1; rfl, rfl, ⟨true, Lanes.zero⟩, fun g => absurd g h, by rw [if_neg h]⟩
  obtain ⟨r2, h2, h2r, k, hk1, hk2⟩ := hk
  obtain ⟨r1, h1⟩ := hcx
  subst h1
  simp only at hf hrun hv hvl hvo hs hlat hc h2 h2r hk2 hkeep
  have fin : ∀ c3 : Cx, (∃ l h, c3 = { c2 with r := { r2 with latch := l, work := { r2.work with home := h } } }) →
      (match latch with
        | some k => if c.f.uni then c3.r.latch = c.r.latch
            else ∃ e, EntryHolds e mask (vals.getD 0 Lanes.zero) ∧ c3.r.latch = c.r.latch.set k e
        | none => c3.r.latch = c.r.latch) → Received c c3 latch mask vals := by
    rintro c3 ⟨l, h, rfl⟩ hl
    have hr2v : r2.work.v = r1.work.v := by rw [h2r]
    have hr2s : r2.work.s = r1.work.s := by rw [h2r]
    refine ⟨⟨_, by rw [h2]⟩, ?_, ?_, ?_, ?_, ?_, ?_, hl⟩
    · simp only
      rw [h2r, hrun]
    · intro d hd j hj hlv t ht hb
      have := hv d hd j hj hlv t ht hb
      unfold vRead at this ⊢
      simpa only [hr2v] using this
    · intro u t ht hb hlv
      have := hvl u t ht hb hlv
      unfold vRead at this ⊢
      simpa only [hr2v] using this
    · intro u hu
      simpa only [hr2v] using hvo u hu
    · show r2.work.s = _
      rw [hr2s]; exact hs
    · refine ⟨e, k, he, hk1, ?_⟩
      show r2.work.c = _
      exact hk2.trans (hc ▸ by cases c.f.d <;> rfl)
  unfold Cx.writeResult
  simp only [hdest]
  rw [← hkeep]
  have hf2 : c2.f = c.f := by rw [h2]
  have hl2 : c2.r.latch = c.r.latch := by
    have : c2.r = r2 := by rw [h2]
    rw [this, h2r]; exact hlat
  cases latch with
  | none =>
    refine ⟨_, rfl, fin _ ⟨r2.latch, r2.work.home, ?_⟩ ?_⟩
    · have : c2.r = r2 := by rw [h2]
      rw [← this]
    · exact hl2
  | some n =>
    by_cases hu : c.f.uni = true
    · simp only [hf2, hu, if_true]
      refine ⟨_, rfl, fin _ ⟨r2.latch, r2.work.home, ?_⟩ ?_⟩
      · have : c2.r = r2 := by rw [h2]
        rw [← this]
      · simp only [hu, if_true]; exact hl2
    · simp only [hf2, hu]
      have hr : c2.r = r2 := by rw [h2]
      refine ⟨_, rfl, fin _ ⟨(c2.writeL n mask (vals.getD 0 Lanes.zero)).r.latch,
        (c2.writeL n mask (vals.getD 0 Lanes.zero)).r.work.home, ?_⟩ ?_⟩
      · unfold Cx.writeL Cx.modWork
        simp only [hr, Bool.false_eq_true, if_false]
      · simp only [hu, Bool.false_eq_true, if_false]
        refine ⟨_, merge_holds (c2.freeLanes 9) _ _, ?_⟩
        simp only [Cx.writeL, Cx.modWork, hl2]

/-! ### A result that comes later -/

/-- A result that comes later, where there is room for its destination (R97, R100). -/
theorem later_spec {c : Cx} {latch : Option Nat} {mask : Mask} {vals : List Lanes} {fx : PendFx} {ready : Bool}
    (hroom : Roomy c (groupSize c vals.length)) :
    ∃ c', c.later latch mask vals fx ready = .ok c' ∧ Awaits c c' latch mask vals fx ready := by
  obtain ⟨c1, hdest, ⟨r1, rfl⟩, hrun, hgrp, hlanes, hothers⟩ : ∃ c1,
      c.takeDest vals.length = .ok c1 ∧ (∃ r', c1 = { c with r := r' })
      ∧ (c1.r = { c.r with work := { c.r.work with v := c1.r.work.v }, allocs := c1.r.allocs, freed := c1.r.freed,
                           dead := c1.r.dead })
      ∧ (∀ d, c.f.d = .v d → ∀ j < vals.length, c.mode ≠ 2 → (mapGet c1.r.work.v (d.toNat + j)).isSome)
      ∧ (∀ u t, t < 64 → (mapGet c.r.work.v u).isSome → vRead c1.r u t = vRead c.r u t)
      ∧ (∀ u, (∀ d, c.f.d = .v d → ∀ j < vals.length, u ≠ d.toNat + j) →
          mapGet c1.r.work.v u = mapGet c.r.work.v u) := by
    unfold Cx.takeDest
    cases hd : c.f.d with
    | v d =>
      obtain ⟨c1, e1, w1, _, f1, o1, a1, _⟩ := writeVs_spec (v := d.toNat) (n := 0) (mask := 0)
        (List.replicate vals.length Lanes.zero) (c := c) 0 (by simpa [groupSize, hd] using hroom)
      obtain ⟨⟨r, hr⟩, h2⟩ := w1
      subst hr
      simp only [List.length_replicate] at h2 f1 o1 a1 ⊢
      refine ⟨_, e1, ⟨r, rfl⟩, h2, ?_, ?_, ?_⟩
      · intro d' hd' j hj hm
        obtain rfl : d = d' := by simpa using hd'
        simpa only [Nat.zero_add] using a1 j hj hm
      · intro u t ht hl
        exact o1 u t ht (by simp [bit]) hl
      · intro u hu
        exact f1 u fun j hj => by simpa using hu d rfl j hj
    | _ => exact ⟨c, rfl, ⟨c.r, rfl⟩, rfl, by simp, fun _ _ _ _ => rfl, fun _ _ => rfl⟩
  unfold Cx.later
  simp only [hdest]
  refine ⟨_, rfl, ⟨r1, ?_⟩, hrun, hgrp, hlanes, hothers⟩
  unfold awaited awaitedResult State.takeId
  congr 1
  congr 1
  cases ready <;> cases c.f.keep <;> cases c.f.uni <;> cases c.f.d <;> cases latch <;> simp

/-! ### Whole instructions -/

@[simp] theorem rows_length (c : Cx) (n : Nat) (psn : Mask) (g : Nat → List Word) : (c.rows n psn g).length = n := by
  simp [Cx.rows]

@[simp] theorem rowsPsn_length (c : Cx) (n : Nat) (g : Nat → List (Word × Bool)) : (c.rowsPsn n g).length = n := by
  simp [Cx.rowsPsn]

/-- Counting a consumption changes only the error record of a context and of a block. -/
theorem consume_frame (s : State) (y : Warp) (n : Nat) :
    ∃ cs bs, s.consume y n = { s with contexts := cs, blocks := bs }
      ∧ ∀ b, (mapGet bs b).map Block.gang = (mapGet s.blocks b).map Block.gang := by
  unfold State.consume
  split
  · exact ⟨s.contexts, s.blocks, rfl, fun _ => rfl⟩
  · simp only [State.setCir, State.countCir, State.modBlock, State.modCtx, State.block]
    split
    · rename_i b hb
      refine ⟨_, _, rfl, fun k => ?_⟩
      by_cases h : k = y.block
      · subst h; rw [mapGet_mapSet_same, hb]; rfl
      · rw [mapGet_mapSet_ne _ _ h]
    · exact ⟨_, _, rfl, fun _ => rfl⟩

theorem consume_gridOf (s : State) (y x : Warp) (n : Nat) : (s.consume y n).gridOf x = s.gridOf x := by
  obtain ⟨cs, bs, h, hb⟩ := consume_frame s y n
  rw [h]
  have := hb x.block
  simp only [State.gridOf, State.gangOf, State.blockOf, State.block, State.gang, State.grid]
  cases h1 : mapGet bs x.block <;> cases h2 : mapGet s.blocks x.block <;> simp_all

theorem consume_recOf (s : State) (y x : Warp) (n : Nat) : (s.consume y n).recOf x = s.recOf x := by
  unfold State.recOf
  rw [consume_gridOf]

theorem consume_asidOf (s : State) (y x : Warp) (n : Nat) : (s.consume y n).asidOf x = s.asidOf x := by
  unfold State.asidOf
  rw [consume_gridOf]

@[simp] theorem consume_f (c : Cx) (m : Mask) : (c.consume m).f = c.f := rfl
@[simp] theorem consume_r (c : Cx) (m : Mask) : (c.consume m).r = c.r := rfl
@[simp] theorem consume_x (c : Cx) (m : Mask) : (c.consume m).x = c.x := rfl
@[simp] theorem consume_w (c : Cx) (m : Mask) : (c.consume m).w = c.w := rfl
@[simp] theorem consume_pc (c : Cx) (m : Mask) : (c.consume m).pc = c.pc := rfl
@[simp] theorem consume_nxt (c : Cx) (m : Mask) : (c.consume m).nxt = c.nxt := rfl
@[simp] theorem consume_act (c : Cx) (m : Mask) : (c.consume m).act = c.act := rfl
@[simp] theorem consume_grd (c : Cx) (m : Mask) : (c.consume m).grd = c.grd := rfl
@[simp] theorem consume_lanes (c : Cx) (m : Mask) : (c.consume m).lanes = c.lanes := rfl

@[simp] theorem consume_mode (c : Cx) (m : Mask) : (c.consume m).mode = c.mode := by
  show (State.recOf _ _).mode = _
  rw [show (c.consume m).s = c.s.consume c.x (if m = 0 then 0 else 1) from rfl, consume_x, consume_recOf]; rfl

/-- Counting a consumption leaves as much room as there was. -/
theorem roomy_consume {c : Cx} {m : Mask} {n : Nat} (h : Roomy c n) : Roomy (c.consume m) n := by
  obtain ⟨cs, bs, hs, _⟩ := consume_frame c.s c.x (if m = 0 then 0 else 1)
  have hw : (c.consume m).s.warps = c.s.warps := by
    show (State.consume _ _ _).warps = _; rw [hs]
  rcases h with h | ⟨h1, h2, h3⟩
  · left; rw [consume_mode]; exact h
  · right
    refine ⟨h1, ?_, ?_⟩
    · intro bank hb
      have : freeIn (c.consume m) bank = freeIn c bank := by
        unfold freeIn State.physUsed
        rw [hw]; rfl
      rw [this]; exact h2 bank hb
    · unfold State.olderOut State.coreWarps at h3 ⊢
      rw [hw]; exact h3

/-- An instruction that computes registers, where there is room for its result. -/
theorem alu_spec {c : Cx} {latch : Option Nat} {n : Nat} {as : List Arg} {g : Nat → List Word}
    (hroom : Roomy c (groupSize c n)) :
    ∃ c', c.alu latch n as g = .ok c'
      ∧ Received (c.consume (c.poisoned as)) c' latch c.lanes (c.rows n (c.poisoned as) g) := by
  unfold Cx.alu
  exact writeResult_spec (by simpa [groupSize] using roomy_consume hroom)

/-- A long-latency instruction that computes registers, where there is room for its result. -/
theorem aluLater_spec {c : Cx} {latch : Option Nat} {n : Nat} {as : List Arg} {g : Nat → List Word}
    (hroom : Roomy c (groupSize c n)) :
    ∃ c', c.aluLater latch n as g = .ok c'
      ∧ Awaits (c.consume (c.poisoned as)) c' latch c.lanes (c.rows n (c.poisoned as) g) .none true := by
  unfold Cx.aluLater
  exact later_spec (by simpa [groupSize] using roomy_consume hroom)

/-! ### The shapes of instructions -/

theorem dirtied_same {s t : State} (h : t.hostCopy = s.hostCopy) : NoneDirtied s t := fun kv hk _ _ hb =>
  ⟨kv, h ▸ hk, rfl, hb, rfl⟩

theorem dirtied_trans {s t u : State} (h : NoneDirtied s t) (g : NoneDirtied t u) : NoneDirtied s u := by
  intro kv hk i hi hb
  obtain ⟨q, hq, hqk, hqb, hqv⟩ := g kv hk i hi hb
  obtain ⟨r, hr, hrk, hrb, hrv⟩ := h q hq i hi hqb
  exact ⟨r, hr, hrk.trans hqk, hrb, hrv.trans hqv⟩

theorem written_same {s t : State} (h : t.host = s.host) : WrittenBack s t := fun pa => .inl (by rw [h])

theorem written_trans {s t u : State} (h : WrittenBack s t) (hd : NoneDirtied s t) (g : WrittenBack t u) :
    WrittenBack s u := by
  intro pa
  rcases g pa with he | ⟨kv, hk, hl, hb, hv⟩
  · rw [he]; exact h pa
  · obtain ⟨q, hq, hqk, hqb, hqv⟩ := hd kv hk _ (Nat.mod_lt _ (by omega)) hb
    exact .inr ⟨q, hq, by rw [hqk]; exact hl, hqb, hv.trans hqv.symm⟩

/-- An instruction that changes nothing of the memories, of the work and of the host lines held. -/
theorem issued_of {s t : State} {w : Nat} {reads : Bool} (h : t = { s with
    contexts := t.contexts, blocks := t.blocks, columns := t.columns, cores := t.cores, errs := t.errs, blocked := t.blocked
    memPsn := t.memPsn, spadPsn := t.spadPsn, hostPsn := t.hostPsn, peerPsn := t.peerPsn, below := t.below, msgs := t.msgs, dev := t.dev
    cur := t.cur, fresh := t.fresh, nextId := t.nextId, warps := t.warps, readPsn := t.readPsn })
    (hw : ∀ v, v ≠ w → t.warp v = s.warp v) (hd : reads = false → t.dev = s.dev) : OnlyIssued s t w reads := by
  have hh : t.host = s.host := by rw [h]
  exact ⟨by rw [h], by rw [h], fun g => ⟨by rw [hh]; exact g, written_same hh⟩, fun _ => hh,
    dirtied_same (by rw [h]), by rw [h], by rw [h], by rw [h], by rw [h], by rw [h], by rw [h], hw, hd⟩

theorem issued_same (s : State) (w : Nat) (reads : Bool) : OnlyIssued s s w reads :=
  issued_of rfl (fun _ _ => rfl) fun _ => rfl

theorem issued_trans {s t u : State} {w : Nat} {reads : Bool} (h : OnlyIssued s t w reads) (g : OnlyIssued t u w reads) :
    OnlyIssued s u w reads :=
  ⟨g.mem.trans h.mem, g.spad.trans h.spad,
    fun hw => ⟨(g.host (h.host hw).1).1, written_trans (h.host hw).2 h.dirtied (g.host (h.host hw).1).2⟩,
    fun hr => (g.unread hr).trans (h.unread hr), dirtied_trans h.dirtied g.dirtied, g.peer.trans h.peer,
    g.gangs.trans h.gangs, g.grids.trans h.grids, g.rounds.trans h.rounds, g.copies.trans h.copies,
    g.merges.trans h.merges, fun v hv => (g.others v hv).trans (h.others v hv), fun hr => (g.dev hr).trans (h.dev hr)⟩

theorem issued_consume (s : State) (y : Warp) (n w : Nat) (reads : Bool) : OnlyIssued s (s.consume y n) w reads := by
  obtain ⟨cs, bs, h, _⟩ := consume_frame s y n
  rw [h]
  exact issued_of rfl (fun _ _ => rfl) fun _ => rfl

/-- The end of an instruction changes only its warp. -/
theorem completes_issued {s : State} {c : Cx} {x : Warp} {op : Opcode} {w : Nat} {reads : Bool} (hw : c.w = w)
    (h : OnlyIssued s c.s w reads) : OnlyIssued s (completes c x op) w reads :=
  issued_trans h (issued_of rfl (fun v hv => by
    show mapGet (mapSet c.s.warps c.w _) v = mapGet c.s.warps v
    rw [hw]; exact mapGet_mapSet_ne _ _ hv) fun _ => rfl)

/-- An instruction of the shape of `Now`, from what its body does. -/
theorem now_holds {k : Now} {body : Cx → Step} (always : Bool)
    (hexec : ∀ f s, exec (k.instr f) s = s.issue k.op f always k.pre body)
    (hbase : ∀ c, (k.base c).w = c.w ∧ OnlyIssued c.s (k.base c).s c.w ∧ (k.base c).f = c.f)
    (hbody : ∀ c, k.ok c → body c = (k.base c).writeResult k.latch (k.mask c) (k.vals c)) : k.Holds := by
  intro s w x f hi hpre ho hok hroom
  obtain ⟨hw, hs, hf⟩ := hbase (atIssue s w x k.op f)
  obtain ⟨c, hc, hr⟩ := writeResult_spec (c := k.base (atIssue s w x k.op f)) (latch := k.latch)
    (mask := k.mask (atIssue s w x k.op f)) (vals := k.vals (atIssue s w x k.op f))
    (by unfold groupSize at hroom ⊢; rw [hf]; exact hroom)
  refine ⟨c, hr, ?_, ?_⟩
  · obtain ⟨r, hcr⟩ := hr.onlyRun
    exact completes_issued (by rw [hcr]; exact hw) (by rw [hcr]; exact hs)
  · rw [hexec]
    exact issue_completes hi hpre ho (by rw [hbody _ hok]; exact hc)

/-- An instruction of the shape of `computes`, from its body. -/
theorem computes_holds {instr : Fields → Instr} {op : Opcode} {n : Cx → Nat} {args : Cx → List Arg}
    {value : Cx → Nat → List Word} {ok : Cx → Prop} {pre : Cx → Bool} {latch : Option Nat} {body : Cx → Step}
    (hexec : ∀ f s, exec (instr f) s = s.issue op f false pre body)
    (hbody : ∀ c, ok c → body c = c.alu latch (n c) (args c) (value c)) :
    (computes instr op n args value ok pre latch).Holds :=
  now_holds (k := computes instr op n args value ok pre latch) false hexec
    (fun _ => ⟨rfl, issued_consume _ _ _ _ _, rfl⟩) (fun c h => hbody c h)

/-- A long-latency instruction of the shape of `Later`, from what its body does. -/
theorem later_holds {k : Later} {body : Cx → Step} (always : Bool)
    (hexec : ∀ f s, exec (k.instr f) s = s.issue k.op f always k.pre body)
    (hbase : ∀ c, (k.base c).w = c.w ∧ OnlyIssued c.s (k.base c).s c.w k.reads ∧ (k.base c).f = c.f)
    (hrest : ∀ c c', (k.rest c c').w = c'.w ∧ (k.rest c c').s = c'.s)
    (hbody : ∀ c c', k.ok c → (k.base c).later k.latch (k.mask c) (k.vals c) (k.fx c) (k.ready c) = .ok c' →
      body c = .ok (k.rest c c')) : k.Holds := by
  intro s w x f hi hpre ho hok hroom
  obtain ⟨hw, hs, hf⟩ := hbase (atIssue s w x k.op f)
  obtain ⟨c, hc, hr⟩ := later_spec (c := k.base (atIssue s w x k.op f)) (latch := k.latch)
    (mask := k.mask (atIssue s w x k.op f)) (vals := k.vals (atIssue s w x k.op f)) (fx := k.fx (atIssue s w x k.op f))
    (ready := k.ready (atIssue s w x k.op f)) (by unfold groupSize at hroom ⊢; rw [hf]; exact hroom)
  obtain ⟨hw2, hs2⟩ := hrest (atIssue s w x k.op f) c
  refine ⟨c, hr, ?_, ?_⟩
  · obtain ⟨r, hcr⟩ := hr.pending
    refine completes_issued (by rw [hw2, hcr]; exact hw) ?_
    rw [hs2, hcr]
    exact issued_trans hs (issued_of rfl (fun _ _ => rfl) fun _ => rfl)
  · rw [hexec]
    exact issue_completes hi hpre ho (hbody _ _ hok hc)

/-- A long-latency instruction of the shape of `computesLater`. -/
theorem computesLater_holds {instr : Fields → Instr} {op : Opcode} {args : Cx → List Arg} {value : Cx → Nat → List Word}
    {body : Cx → Step} (hexec : ∀ f s, exec (instr f) s = s.issue op f false noPre body)
    (hbody : ∀ c, body c = c.aluLater (some 1) 1 (args c) (value c)) :
    (computesLater instr op args value).Holds :=
  later_holds (k := computesLater instr op args value) false hexec (fun c => ⟨rfl, issued_consume _ _ _ _ _, rfl⟩)
    (fun _ _ => ⟨rfl, rfl⟩) (fun c c' _ h => by rw [hbody c]; exact h)

/-- An instruction of the shape of `Direct`. -/
theorem direct_holds {k : Direct} {body : Cx → Step} (always : Bool)
    (hexec : ∀ f s, exec (k.instr f) s = s.issue k.op f always k.pre body)
    (hafter : ∀ c, k.ok c → (k.after c).w = c.w ∧ OnlyIssued c.s (k.after c).s c.w k.reads)
    (hbody : ∀ c, k.ok c → body c = .ok (k.after c)) : k.Holds := by
  intro s w x f hi hpre ho hok
  obtain ⟨hw, hs⟩ := hafter (atIssue s w x k.op f) hok
  exact ⟨completes_issued hw hs, by rw [hexec]; exact issue_completes hi hpre ho (hbody _ hok)⟩

theorem bit_maskBit {k t : Nat} (ht : t < 64) : bit (maskBit k) t = decide (t = k) := by
  unfold bit maskBit
  rw [BitVec.getLsbD_shiftLeft]
  by_cases h : t < k
  · simp [h]; omega
  · by_cases e : t = k
    · subst e; simp [ht]
    · have : t - k ≠ 0 := by omega
      simp [ht, h, e, this]

theorem bit_or {n : Nat} (a b : BitVec n) (t : Nat) : bit (a ||| b) t = (bit a t || bit b t) := by
  unfold bit; exact BitVec.getLsbD_or

theorem bit_foldl (g : Nat → Bool) {t : Nat} (ht : t < 64) : ∀ (l : List Nat) (m : Mask),
    bit (l.foldl (fun m k => if g k then m ||| maskBit k else m) m) t = (bit m t || (l.contains t && g t))
  | [], m => by simp
  | k :: rest, m => by
    rw [List.foldl_cons, bit_foldl g ht rest]
    by_cases hk : g k = true
    · rw [if_pos hk, bit_or, bit_maskBit ht]
      by_cases e : t = k
      · subst e; simp [hk]
      · simp [e]
    · rw [if_neg hk]
      by_cases e : t = k
      · subst e; simp [hk]
      · simp [e]

/-- A mask from a rule for each thread. -/
theorem bit_maskOf (g : Nat → Bool) {t : Nat} (ht : t < 64) : bit (maskOf g) t = g t := by
  unfold maskOf
  rw [bit_foldl g ht]
  have : (List.range 64).contains t = true := by simpa using ht
  rw [this]
  simp [bit]

theorem bit_zero (t : Nat) : bit (0 : Mask) t = false := by simp [bit]

theorem bit_allOnes {t : Nat} (ht : t < 64) : bit (BitVec.allOnes 64 : Mask) t = true := by
  unfold bit
  rw [BitVec.getLsbD_allOnes]
  simpa using ht

theorem set_getD_same {α : Type} (d : α) : ∀ (l : List α) (n : Nat), l.set n (l.getD n d) = l
  | [], n => rfl
  | a :: l, 0 => rfl
  | a :: l, n + 1 => by
    show a :: l.set n (l.getD n d) = a :: l
    rw [set_getD_same d l n]

/-- A predicate written. -/
theorem writeP_spec {c : Cx} {mask bits : Mask} {value : Nat → Bool}
    (h : ∀ t < 64, bit mask t = true → bit bits t = value t) :
    ∃ p', predWritten c mask value p' ∧ c.writeP mask bits = c.modWork fun r => { r with p := p' } := by
  unfold Cx.writeP predWritten
  cases hd : c.f.d with
  | p n =>
    simp only
    by_cases h7 : n = 7
    · simp only [h7, if_true]
      exact ⟨_, rfl, rfl⟩
    · simp only [h7, if_false]
      refine ⟨_, ⟨_, rfl, fun t ht => ?_⟩, rfl⟩
      have hx : bit (c.r.work.p.getD n.toNat 0 &&& ~~~mask ||| bits &&& mask) t
          = ((bit (c.r.work.p.getD n.toNat 0) t && !bit mask t) || (bit bits t && bit mask t)) := by
        unfold bit
        simp only [BitVec.getLsbD_or, BitVec.getLsbD_and, BitVec.getLsbD_not, ht, decide_true, Bool.true_and]
      rw [hx]
      cases hm : bit mask t with
      | true => simp [h t ht hm]
      | false => simp
  | _ => exact ⟨_, rfl, rfl⟩

/-- No thread of a predicate written. -/
theorem predWritten_none (c : Cx) (value : Nat → Bool) : predWritten c 0 value c.r.work.p := by
  unfold predWritten
  cases c.f.d with
  | p n =>
    simp only
    split
    · trivial
    · exact ⟨c.r.work.p.getD n.toNat 0, (set_getD_same 0 _ _).symm, fun t _ => by simp [bit]⟩
  | _ => rfl

/-- An instruction of the shape of `Sets`, from what its body writes. -/
theorem sets_holds {k : Sets} {body : Cx → Step}
    (hexec : ∀ f s, exec (k.instr f) s = s.issue k.op f false noPre body)
    (hbody : ∀ c, k.ok c → ∃ p', predWritten c (k.mask c)
        (fun t => if c.f.uni then c.poisoned (k.args c) == 0 && k.value c t
          else !bit (c.poisoned (k.args c)) t && k.value c t) p'
      ∧ body c = .ok ((c.consume (c.poisoned (k.args c))).modWork fun r => { r with p := p' })) : k.Holds := by
  intro s w x f hi ho hok
  obtain ⟨p', hp, hc⟩ := hbody _ hok
  refine ⟨p', hp, completes_issued rfl (issued_consume _ _ _ _ _), ?_⟩
  rw [hexec]
  exact issue_completes hi rfl ho hc

/-- A predicate that each guarded thread, or every active thread of a uniform form, receives. -/
theorem setP_spec {c : Cx} {psn : Mask} {value : Nat → Bool} {bits : Mask}
    (h : ∀ t < 64, bit (if c.f.uni then c.act else c.grd) t = true → bit bits t = value t) :
    ∃ p', predWritten c (if c.f.uni then (if c.grd = 0 then 0 else c.act) else c.grd) value p'
      ∧ (.ok (if c.f.uni then (if c.grd = 0 then c.consume psn else (c.consume psn).writeP c.act bits)
          else (c.consume psn).writeP c.grd bits) : Step) = .ok ((c.consume psn).modWork fun r => { r with p := p' }) := by
  by_cases hu : c.f.uni = true
  · rw [if_pos hu] at h
    simp only [hu, if_true]
    by_cases hg : c.grd = 0
    · simp only [hg, if_true]
      exact ⟨_, predWritten_none _ _, rfl⟩
    · simp only [hg, if_false]
      obtain ⟨p', hp, hw⟩ := writeP_spec (c := c.consume psn) h
      exact ⟨p', hp, by rw [hw]⟩
  · rw [if_neg hu] at h
    simp only [hu, Bool.false_eq_true, if_false]
    obtain ⟨p', hp, hw⟩ := writeP_spec (c := c.consume psn) h
    exact ⟨p', hp, by rw [hw]⟩

/-- An instruction that computes a predicate, as `Sets` says it: `aluP` acts once, for thread 0, in a uniform form. -/
theorem aluP_spec {c : Cx} {as : List Arg} {g : Nat → Bool} {value : Nat → Bool}
    (h : ∀ t, value t = g (readBy c t)) :
    ∃ p', predWritten c (if c.f.uni then (if c.grd = 0 then 0 else c.act) else c.grd)
        (fun t => if c.f.uni then c.poisoned as == 0 && value t else !bit (c.poisoned as) t && value t) p'
      ∧ c.aluP as g = .ok ((c.consume (c.poisoned as)).modWork fun r => { r with p := p' }) := by
  have hs := setP_spec (c := c) (psn := c.poisoned as)
    (value := fun t => if c.f.uni then c.poisoned as == 0 && value t else !bit (c.poisoned as) t && value t)
    (bits := if c.f.uni then (if c.poisoned as = 0 ∧ g 0 then BitVec.allOnes 64 else 0)
      else maskOf fun t => bit c.grd t && !bit (c.poisoned as) t && g t) (by
      intro t ht hb
      rw [h t]
      by_cases hu : c.f.uni = true
      · simp only [hu, if_true, readBy]
        by_cases hb' : c.poisoned as = 0 ∧ g 0 = true
        · rw [if_pos hb', bit_allOnes ht]; simp [hb'.1, hb'.2]
        · rw [if_neg hb', bit_zero]
          by_cases hp : c.poisoned as = 0
          · have : g 0 = false := by simpa [hp] using hb'
            simp [hp, this]
          · rw [show (c.poisoned as == 0) = false by simpa using hp]; rfl
      · simp only [hu, Bool.false_eq_true, if_false] at hb
        simp only [hu, Bool.false_eq_true, if_false, readBy]
        rw [bit_maskOf _ ht, hb]; rfl)
  obtain ⟨p', hp, hw⟩ := hs
  refine ⟨p', hp, ?_⟩
  rw [← hw]
  unfold Cx.aluP
  simp only [consume_f, consume_grd, consume_act]
  by_cases hu : c.f.uni = true
  · simp only [hu, if_true]
    by_cases hg : c.grd = 0
    · simp only [hg, if_true]
    · simp only [hg, if_false]
  · simp only [hu, Bool.false_eq_true, if_false]

/-! ### Structural instructions -/

theorem gate_admits {c : Cx} {op : Opcode} (h : Admits c op) : c.gate op = .ok (admitted c op) := by
  obtain ⟨hp, hb, hc, hs, ha⟩ := h
  by_cases hz : c.act = 0
  · have hfind : (c.x.pend.find? fun p => p.window == 0 && !p.here) = none := find_due hp
    unfold Cx.gate admitted
    simp only [hfind]
    rw [if_neg (by simp [hb]), if_neg (by omega), if_neg (by intro h; have := hs h.1; omega), if_pos hz, if_pos hz]
  · rw [gate_opens ⟨hp, hb, hc, hs, hz, ha hz⟩]
    unfold admitted
    rw [if_neg hz]

/-- A structural instruction completes with what its body answers. -/
theorem issue_always {s : State} {w : Nat} {x : Warp} {op : Opcode} {f : Fields} {body : Cx → Step} {c : Cx}
    (hi : Issuing s w x) (ho : Admits (s.cx w x f) op) (hb : body (admitted (s.cx w x f) op) = .ok c) :
    s.issue op f true noPre body = .next (completes c x op) := by
  unfold State.issue
  simp only [hi.1, hi.2, gate_admits ho]
  simp [noPre, hb, completes]

theorem ncOf_mapNc (r : Regs) (g : Nat → Nat → Nat) {t : Nat} (ht : t < 64) :
    (r.mapNc g).nc.getD t 255 = BitVec.ofNat 8 (g t (r.ncOf t)) := by
  unfold Regs.mapNc
  simp [List.getD_eq_getElem?_getD, ht]

theorem ncOf_lt (r : Regs) (t : Nat) : r.ncOf t < 256 := (r.nc.getD t 255).isLt

theorem maskOf_eq_zero {g : Nat → Bool} : maskOf g = 0 ↔ ∀ t < 64, g t = false := by
  constructor
  · intro h t ht
    rw [← bit_maskOf g ht, h, bit_zero]
  · intro h
    apply BitVec.eq_of_getLsbD_eq
    intro t ht
    show bit (maskOf g) t = bit 0 t
    rw [bit_maskOf g ht, bit_zero, h t ht]

/-- Some thread is active exactly where some counter is zero. -/
theorem active_ne_zero {r : Regs} {g : Nat → Nat} (h : ∀ t < 64, r.nc.getD t 255 = BitVec.ofNat 8 (g t))
    (hg : ∀ t < 64, g t < 256) : (r.active = 0) ↔ someActive g = false := by
  unfold Regs.active someActive
  rw [maskOf_eq_zero]
  simp only [List.any_eq_false, List.mem_range, beq_iff_eq, beq_eq_false_iff_ne]
  constructor
  · intro hh t ht
    have := hh t ht
    rw [h t ht] at this
    intro h0
    exact this (by rw [h0]; rfl)
  · intro hh t ht
    rw [h t ht]
    intro h0
    apply hh t ht
    have := congrArg BitVec.toNat h0
    have hlt := hg t ht
    simp at this
    omega

theorem active_of_nc {r r' : Regs} (h : r.nc = r'.nc) : r.active = r'.active := by
  unfold Regs.active; rw [h]

/-- A jump taken when no thread is active, from the counters the instruction leaves. -/
theorem jumpIfEmpty_spec {c : Cx} {g : Nat → Nat} (h : ∀ t < 64, c.r.work.nc.getD t 255 = BitVec.ofNat 8 (g t))
    (hg : ∀ t < 64, g t < 256) : c.jumpIfEmpty = { c with nxt := if someActive g then c.nxt else c.target } := by
  unfold Cx.jumpIfEmpty
  by_cases hs : someActive g = true
  · rw [if_neg (by rw [active_ne_zero h hg, hs]; simp), if_pos hs]
  · have hs' : someActive g = false := by simpa using hs
    rw [if_pos ((active_ne_zero h hg).mpr hs'), if_neg hs]
    rfl

theorem exited_ncOf (c : Cx) {t : Nat} (ht : t < 64) : (c.r.work.applyExit).ncOf t = exitedOf c t := by
  show ((c.r.work.mapNc fun t n => if bit c.r.work.mark t then 255 else n).nc.getD t 255).toNat = _
  rw [ncOf_mapNc _ _ ht]
  unfold exitedOf counterOf
  by_cases hb : bit c.r.work.mark t = true
  · simp [hb]
  · have := ncOf_lt c.r.work t
    simp [hb]
    omega

theorem full_zero {r : Regs} (h : ∀ t < 64, r.ncOf t ≠ 127 ∧ r.ncOf t ≠ 254) : r.full = 0 := by
  unfold Regs.full
  rw [maskOf_eq_zero]
  intro t ht
  simp [h t ht]

theorem nestCheck_ok {c : Cx} {g : Cx → Step} (h : canNest c) : c.nestCheck g = g c := by
  unfold Cx.nestCheck
  simp only [full_zero h.2]
  rw [if_neg h.1, if_neg (by simp)]

theorem needDepth_ok {c : Cx} {g : Cx → Step} (h : c.r.work.depth ≠ 0) : c.needDepth g = g c := by
  unfold Cx.needDepth
  rw [if_neg h]

/-- An instruction of the shape of `Structural`, from what its body does. -/
theorem structural_holds {k : Structural} {body : Cx → Step}
    (hexec : ∀ f s, exec (k.instr f) s = s.issue k.op f true noPre body)
    (hbody : ∀ c, k.ok c → ∃ nc : List (BitVec 8), (∀ t < 64, nc.getD t 255 = BitVec.ofNat 8 (k.counter c t))
      ∧ body c = .ok (({ c with nxt := k.goesTo c } : Cx).modWork fun r =>
          { r with nc := nc, mark := k.mark c, depth := k.depth c, ldep := k.ldep c })) : k.Holds := by
  intro s w x f hi ho c hok
  obtain ⟨nc, hn, hb⟩ := hbody c hok
  have hw : c.w = w ∧ c.s = s := by
    show (admitted _ _).w = w ∧ (admitted _ _).s = s
    unfold admitted; split <;> exact ⟨rfl, rfl⟩
  refine ⟨nc, hn, completes_issued hw.1 ?_, ?_⟩
  · show OnlyIssued s c.s w
    rw [hw.2]; exact issued_same s w false
  · rw [hexec]; exact issue_always hi ho hb

/-! ### Commands -/

theorem scalar_spec {c : Cx} {as : List Arg} {n : Nat} {g : Cx → Step} {effect : Cx → Cx}
    (h : c.grd ≠ 0 → c.poisoned as = 0 → g c = .ok (effect c)) :
    c.scalar as n g = .ok (if c.grd = 0 then c else if c.poisoned as = 0 then effect c else declined c as n) := by
  unfold Cx.scalar declined
  by_cases hg : c.grd = 0
  · rw [if_pos hg, if_pos hg]
  · rw [if_neg hg, if_neg hg]
    by_cases hp : c.poisoned as = 0
    · rw [if_pos hp, if_pos hp]; exact h hg hp
    · rw [if_neg hp, if_neg hp]
      simp only [consume_f]
      cases c.f.d <;> simp only []
      all_goals first
        | rfl
        | (congr 2; apply List.map_congr_left; intro j _; congr 1
           obtain ⟨cs, bs, hs, _⟩ := consume_frame c.s c.x (if c.poisoned as = 0 then 0 else 1)
           show (State.consume _ _ _).freeW _ = _
           rw [hs]; rfl)

theorem declined_issued (c : Cx) (as : List Arg) (n : Nat) (reads : Bool) :
    (declined c as n).w = c.w ∧ OnlyIssued c.s (declined c as n).s c.w reads := by
  unfold declined
  cases c.f.d <;> exact ⟨rfl, issued_consume _ _ _ _ _⟩

/-- An instruction of the shape of `commands`, from what its body does. -/
theorem commands_holds {instr : Fields → Instr} {op : Opcode} {as : Cx → List Arg} {n : Nat} {effect : Cx → Cx}
    {check when_ : Cx → Prop} {pre : Cx → Bool} {body : Cx → Step}
    (hexec : ∀ f s, exec (instr f) s = s.issue op f false pre body)
    (heff : ∀ c, (effect c).w = c.w ∧ OnlyIssued c.s (effect c).s c.w)
    (hbody : ∀ c, when_ c → ∃ g, body c = c.scalar (as c) n g ∧ (check c → g c = .ok (effect c))) :
    (commands instr op as n effect check when_ pre).Holds := by
  refine direct_holds false hexec ?_ ?_
  · intro c _
    show (ite _ _ _ : Cx).w = c.w ∧ OnlyIssued c.s (ite _ _ _ : Cx).s c.w false
    split
    · exact ⟨rfl, issued_same _ _ _⟩
    · split
      · exact heff c
      · exact declined_issued c (as c) n false
  · intro c hok
    obtain ⟨g, hg, he⟩ := hbody c hok.1
    rw [hg]
    exact scalar_spec fun h1 h2 => he (hok.2 h1 h2)

theorem queue_issued (c : Cx) (q : QCmd) : (c.queue q).w = c.w ∧ OnlyIssued c.s (c.queue q).s c.w :=
  ⟨rfl, issued_same _ _ _⟩

end Sys2Proof.Machine
end

