-- ==== Sys2Proof/Laws/PerInstr.lean ====
section
/-! SUPPORT. What the encoding of every instruction has in common, for each constructor: how many words it has, and the bits
that every form carries in its first word (R38, R40). -/

namespace Sys2Proof.Laws.Encoding

open Sys2Proof

/-- The words of an encoded instruction (R38, R40): as many as its form and its literal take, with its opcode in bits 11:4 of
the first, UNI in bit 3, RB in bit 2, the form in bit 1 and the literal in bit 0. -/
def Statement (i : Instr) : Prop :=
  ∀ op f, i.encoded = some (op, f) →
    4 * (encode i).length = f.bytes
      ∧ ∃ w rest, encode i = w :: rest ∧ bits w 11 4 = op.code ∧ bit w 3 = f.uni ∧ bit w 2 = f.rb
        ∧ bit w 1 = (f.form == .ext) ∧ bit w 0 = f.lit.isSome

/-- The low bits of a first word are those that every form carries. -/
theorem common_bits {n : Nat} (h : BitVec n) (op : Opcode) (f : Fields) :
    bits (h ++ encodeCommon op f) 11 4 = op.code ∧ bit (h ++ encodeCommon op f) 3 = f.uni
      ∧ bit (h ++ encodeCommon op f) 2 = f.rb ∧ bit (h ++ encodeCommon op f) 1 = (f.form == .ext)
      ∧ bit (h ++ encodeCommon op f) 0 = f.lit.isSome := by
  refine ⟨?_, ?_, ?_, ?_, ?_⟩
  · apply BitVec.eq_of_getLsbD_eq
    intro i hi
    simp only [bits, encodeCommon, BitVec.getLsbD_extractLsb', BitVec.getLsbD_append]
    have : i < 8 := hi
    simp [this, show 4 + i < 12 by omega]
  all_goals simp only [bit, encodeCommon, BitVec.getLsbD_append]; simp [flag]

/-- Every instruction's words are so. -/
theorem words (i : Instr) : Statement i := by
  unfold Statement
  intro op f h
  unfold encode
  rw [h]
  unfold encodeFields Fields.bytes
  cases hf : f.form <;> cases hl : f.lit <;> simp only [hf, hl, encodeLit]
  all_goals refine ⟨by simp, _, _, rfl, ?_⟩
  all_goals
    first
      | (have := common_bits (flag f.db ++ flag f.da ++ f.b.code6 ++ f.a.code6 ++ f.d.code6) op f
         rw [hf, hl] at this; exact this)
      | (have := common_bits (f.gp ++ f.la ++ f.rnd.code ++ f.ty.code ++ f.sub) op f
         rw [hf, hl] at this; exact this)

theorem nopShort (f : Fields) : Statement (.nopShort f) := words _
theorem nop (f : Fields) : Statement (.nop f) := words _
theorem ifBlock (f : Fields) : Statement (.ifBlock f) := words _
theorem elseBlock (f : Fields) : Statement (.elseBlock f) := words _
theorem endifShort (f : Fields) : Statement (.endifShort f) := words _
theorem endif (f : Fields) : Statement (.endif f) := words _
theorem loopShort (f : Fields) : Statement (.loopShort f) := words _
theorem loop (f : Fields) : Statement (.loop f) := words _
theorem endloop (f : Fields) : Statement (.endloop f) := words _
theorem brk (f : Fields) : Statement (.brk f) := words _
theorem cont (f : Fields) : Statement (.cont f) := words _
theorem exitShort (f : Fields) : Statement (.exitShort f) := words _
theorem exit (f : Fields) : Statement (.exit f) := words _
theorem jmp (f : Fields) : Statement (.jmp f) := words _
theorem call (f : Fields) : Statement (.call f) := words _
theorem ret (f : Fields) : Statement (.ret f) := words _
theorem yieldShort (f : Fields) : Statement (.yieldShort f) := words _
theorem yield (f : Fields) : Statement (.yield f) := words _
theorem sleep (f : Fields) : Statement (.sleep f) := words _
theorem iaddShort (f : Fields) : Statement (.iaddShort f) := words _
theorem iadd (f : Fields) : Statement (.iadd f) := words _
theorem isubShort (f : Fields) : Statement (.isubShort f) := words _
theorem isub (f : Fields) : Statement (.isub f) := words _
theorem imulShort (f : Fields) : Statement (.imulShort f) := words _
theorem imul (f : Fields) : Statement (.imul f) := words _
theorem imulhShort (f : Fields) : Statement (.imulhShort f) := words _
theorem imulh (f : Fields) : Statement (.imulh f) := words _
theorem imad (f : Fields) : Statement (.imad f) := words _
theorem iminShort (f : Fields) : Statement (.iminShort f) := words _
theorem imin (f : Fields) : Statement (.imin f) := words _
theorem imaxShort (f : Fields) : Statement (.imaxShort f) := words _
theorem imax (f : Fields) : Statement (.imax f) := words _
theorem iabsShort (f : Fields) : Statement (.iabsShort f) := words _
theorem iabs (f : Fields) : Statement (.iabs f) := words _
theorem inegShort (f : Fields) : Statement (.inegShort f) := words _
theorem ineg (f : Fields) : Statement (.ineg f) := words _
theorem lea (f : Fields) : Statement (.lea f) := words _
theorem isad (f : Fields) : Statement (.isad f) := words _
theorem dp4 (f : Fields) : Statement (.dp4 f) := words _
theorem dp2 (f : Fields) : Statement (.dp2 f) := words _
theorem icmp (f : Fields) : Statement (.icmp f) := words _
theorem iaddx (f : Fields) : Statement (.iaddx f) := words _
theorem andShort (f : Fields) : Statement (.andShort f) := words _
theorem and (f : Fields) : Statement (.and f) := words _
theorem orShort (f : Fields) : Statement (.orShort f) := words _
theorem or (f : Fields) : Statement (.or f) := words _
theorem xorShort (f : Fields) : Statement (.xorShort f) := words _
theorem xor (f : Fields) : Statement (.xor f) := words _
theorem andnShort (f : Fields) : Statement (.andnShort f) := words _
theorem andn (f : Fields) : Statement (.andn f) := words _
theorem notShort (f : Fields) : Statement (.notShort f) := words _
theorem not (f : Fields) : Statement (.not f) := words _
theorem shlShort (f : Fields) : Statement (.shlShort f) := words _
theorem shl (f : Fields) : Statement (.shl f) := words _
theorem shrShort (f : Fields) : Statement (.shrShort f) := words _
theorem shr (f : Fields) : Statement (.shr f) := words _
theorem sarShort (f : Fields) : Statement (.sarShort f) := words _
theorem sar (f : Fields) : Statement (.sar f) := words _
theorem rotlShort (f : Fields) : Statement (.rotlShort f) := words _
theorem rotl (f : Fields) : Statement (.rotl f) := words _
theorem bfe (f : Fields) : Statement (.bfe f) := words _
theorem bfi (f : Fields) : Statement (.bfi f) := words _
theorem popcShort (f : Fields) : Statement (.popcShort f) := words _
theorem popc (f : Fields) : Statement (.popc f) := words _
theorem clzShort (f : Fields) : Statement (.clzShort f) := words _
theorem clz (f : Fields) : Statement (.clz f) := words _
theorem brevShort (f : Fields) : Statement (.brevShort f) := words _
theorem brev (f : Fields) : Statement (.brev f) := words _
theorem sel (f : Fields) : Statement (.sel f) := words _
theorem movShort (f : Fields) : Statement (.movShort f) := words _
theorem mov (f : Fields) : Statement (.mov f) := words _
theorem plop (f : Fields) : Statement (.plop f) := words _
theorem pmov (f : Fields) : Statement (.pmov f) := words _
theorem vote (f : Fields) : Statement (.vote f) := words _
theorem sread (f : Fields) : Statement (.sread f) := words _
theorem swrite (f : Fields) : Statement (.swrite f) := words _
theorem packShort (f : Fields) : Statement (.packShort f) := words _
theorem pack (f : Fields) : Statement (.pack f) := words _
theorem unpkShort (f : Fields) : Statement (.unpkShort f) := words _
theorem unpk (f : Fields) : Statement (.unpk f) := words _
theorem prmt (f : Fields) : Statement (.prmt f) := words _
theorem faddShort (f : Fields) : Statement (.faddShort f) := words _
theorem fadd (f : Fields) : Statement (.fadd f) := words _
theorem fsubShort (f : Fields) : Statement (.fsubShort f) := words _
theorem fsub (f : Fields) : Statement (.fsub f) := words _
theorem fmulShort (f : Fields) : Statement (.fmulShort f) := words _
theorem fmul (f : Fields) : Statement (.fmul f) := words _
theorem ffma (f : Fields) : Statement (.ffma f) := words _
theorem fminShort (f : Fields) : Statement (.fminShort f) := words _
theorem fmin (f : Fields) : Statement (.fmin f) := words _
theorem fmaxShort (f : Fields) : Statement (.fmaxShort f) := words _
theorem fmax (f : Fields) : Statement (.fmax f) := words _
theorem fabsShort (f : Fields) : Statement (.fabsShort f) := words _
theorem fabs (f : Fields) : Statement (.fabs f) := words _
theorem fnegShort (f : Fields) : Statement (.fnegShort f) := words _
theorem fneg (f : Fields) : Statement (.fneg f) := words _
theorem fcmp (f : Fields) : Statement (.fcmp f) := words _
theorem fclass (f : Fields) : Statement (.fclass f) := words _
theorem frndShort (f : Fields) : Statement (.frndShort f) := words _
theorem frnd (f : Fields) : Statement (.frnd f) := words _
theorem fdivShort (f : Fields) : Statement (.fdivShort f) := words _
theorem fdiv (f : Fields) : Statement (.fdiv f) := words _
theorem fsqrtShort (f : Fields) : Statement (.fsqrtShort f) := words _
theorem fsqrt (f : Fields) : Statement (.fsqrt f) := words _
theorem fsclShort (f : Fields) : Statement (.fsclShort f) := words _
theorem fscl (f : Fields) : Statement (.fscl f) := words _
theorem fdot2 (f : Fields) : Statement (.fdot2 f) := words _
theorem cvt (f : Fields) : Statement (.cvt f) := words _
theorem cvts (f : Fields) : Statement (.cvts f) := words _
theorem qpk (f : Fields) : Statement (.qpk f) := words _
theorem qupk (f : Fields) : Statement (.qupk f) := words _
theorem rcpShort (f : Fields) : Statement (.rcpShort f) := words _
theorem rcp (f : Fields) : Statement (.rcp f) := words _
theorem rsqShort (f : Fields) : Statement (.rsqShort f) := words _
theorem rsq (f : Fields) : Statement (.rsq f) := words _
theorem sqrtShort (f : Fields) : Statement (.sqrtShort f) := words _
theorem sqrt (f : Fields) : Statement (.sqrt f) := words _
theorem exp2Short (f : Fields) : Statement (.exp2Short f) := words _
theorem exp2 (f : Fields) : Statement (.exp2 f) := words _
theorem log2Short (f : Fields) : Statement (.log2Short f) := words _
theorem log2 (f : Fields) : Statement (.log2 f) := words _
theorem sinShort (f : Fields) : Statement (.sinShort f) := words _
theorem sin (f : Fields) : Statement (.sin f) := words _
theorem cosShort (f : Fields) : Statement (.cosShort f) := words _
theorem cos (f : Fields) : Statement (.cos f) := words _
theorem tanhShort (f : Fields) : Statement (.tanhShort f) := words _
theorem tanh (f : Fields) : Statement (.tanh f) := words _
theorem sigmShort (f : Fields) : Statement (.sigmShort f) := words _
theorem sigm (f : Fields) : Statement (.sigm f) := words _
theorem erfShort (f : Fields) : Statement (.erfShort f) := words _
theorem erf (f : Fields) : Statement (.erf f) := words _
theorem geluShort (f : Fields) : Statement (.geluShort f) := words _
theorem gelu (f : Fields) : Statement (.gelu f) := words _
theorem mupd (f : Fields) : Statement (.mupd f) := words _
theorem lsck (f : Fields) : Statement (.lsck f) := words _
theorem lsupd (f : Fields) : Statement (.lsupd f) := words _
theorem gnrm (f : Fields) : Statement (.gnrm f) := words _
theorem ld (f : Fields) : Statement (.ld f) := words _
theorem st (f : Fields) : Statement (.st f) := words _
theorem ldlShort (f : Fields) : Statement (.ldlShort f) := words _
theorem ldl (f : Fields) : Statement (.ldl f) := words _
theorem stlShort (f : Fields) : Statement (.stlShort f) := words _
theorem stl (f : Fields) : Statement (.stl f) := words _
theorem ldkShort (f : Fields) : Statement (.ldkShort f) := words _
theorem ldk (f : Fields) : Statement (.ldk f) := words _
theorem pref (f : Fields) : Statement (.pref f) := words _
theorem cctl (f : Fields) : Statement (.cctl f) := words _
theorem phase (f : Fields) : Statement (.phase f) := words _
theorem fence (f : Fields) : Statement (.fence f) := words _
theorem cpart (f : Fields) : Statement (.cpart f) := words _
theorem atom (f : Fields) : Statement (.atom f) := words _
theorem acas (f : Fields) : Statement (.acas f) := words _
theorem afadd (f : Fields) : Statement (.afadd f) := words _
theorem red (f : Fields) : Statement (.red f) := words _
theorem patom (f : Fields) : Statement (.patom f) := words _
theorem xch (f : Fields) : Statement (.xch f) := words _
theorem xred (f : Fields) : Statement (.xred f) := words _
theorem pld (f : Fields) : Statement (.pld f) := words _
theorem pst (f : Fields) : Statement (.pst f) := words _
theorem ptrc (f : Fields) : Statement (.ptrc f) := words _
theorem shfl (f : Fields) : Statement (.shfl f) := words _
theorem bset (f : Fields) : Statement (.bset f) := words _
theorem bperm (f : Fields) : Statement (.bperm f) := words _
theorem redx (f : Fields) : Statement (.redx f) := words _
theorem cpy (f : Fields) : Statement (.cpy f) := words _
theorem cpy2 (f : Fields) : Statement (.cpy2 f) := words _
theorem cpyz (f : Fields) : Statement (.cpyz f) := words _
theorem cwait (f : Fields) : Statement (.cwait f) := words _
theorem bzero (f : Fields) : Statement (.bzero f) := words _
theorem bcopy (f : Fields) : Statement (.bcopy f) := words _
theorem bcmp (f : Fields) : Statement (.bcmp f) := words _
theorem bfence (f : Fields) : Statement (.bfence f) := words _
theorem cpyx (f : Fields) : Statement (.cpyx f) := words _
theorem mma (f : Fields) : Statement (.mma f) := words _
theorem mmat (f : Fields) : Statement (.mmat f) := words _
theorem mzero (f : Fields) : Statement (.mzero f) := words _
theorem mldz (f : Fields) : Statement (.mldz f) := words _
theorem mst (f : Fields) : Statement (.mst f) := words _
theorem mfence (f : Fields) : Statement (.mfence f) := words _
theorem mwait (f : Fields) : Statement (.mwait f) := words _
theorem mstat (f : Fields) : Statement (.mstat f) := words _
theorem mrgOpen (f : Fields) : Statement (.mrgOpen f) := words _
theorem mrgPut (f : Fields) : Statement (.mrgPut f) := words _
theorem mrgEnd (f : Fields) : Statement (.mrgEnd f) := words _
theorem mrgWait (f : Fields) : Statement (.mrgWait f) := words _
theorem mrgStat (f : Fields) : Statement (.mrgStat f) := words _
theorem mrgRank (f : Fields) : Statement (.mrgRank f) := words _
theorem mrgDrop (f : Fields) : Statement (.mrgDrop f) := words _
theorem bar (f : Fields) : Statement (.bar f) := words _
theorem gbar (f : Fields) : Statement (.gbar f) := words _
theorem arrv (f : Fields) : Statement (.arrv f) := words _
theorem waitb (f : Fields) : Statement (.waitb f) := words _
theorem launch (f : Fields) : Statement (.launch f) := words _
theorem tape (f : Fields) : Statement (.tape f) := words _
theorem gwait (f : Fields) : Statement (.gwait f) := words _
theorem trap (f : Fields) : Statement (.trap f) := words _
theorem tret (f : Fields) : Statement (.tret f) := words _
theorem chkerr (f : Fields) : Statement (.chkerr f) := words _
theorem rdctr (f : Fields) : Statement (.rdctr f) := words _
theorem bkptShort (f : Fields) : Statement (.bkptShort f) := words _
theorem bkpt (f : Fields) : Statement (.bkpt f) := words _
theorem sysr (f : Fields) : Statement (.sysr f) := words _
theorem sysw (f : Fields) : Statement (.sysw f) := words _
theorem unassignedOpcode (w : Word) : Statement (.unassignedOpcode w) := words _
theorem runCommit (w : Nat) : Statement (.runCommit w) := words _
theorem longLatencyArrival (w n : Nat) : Statement (.longLatencyArrival w n) := words _
theorem watchdogLimit (col core slot : Nat) : Statement (.watchdogLimit col core slot) := words _
theorem sleepEnd (w : Nat) : Statement (.sleepEnd w) := words _
theorem exchangeComplete (w : Nat) : Statement (.exchangeComplete w) := words _
theorem exchangeTimeout (w : Nat) : Statement (.exchangeTimeout w) := words _
theorem barrierObjectArrive (n : Nat) : Statement (.barrierObjectArrive n) := words _
theorem copyPromiseExpire (w : Nat) : Statement (.copyPromiseExpire w) := words _
theorem copyPerform (col : Nat) : Statement (.copyPerform col) := words _
theorem bankCommandPerform (col n : Nat) : Statement (.bankCommandPerform col n) := words _
theorem mmaPerform (col core : Nat) : Statement (.mmaPerform col core) := words _
theorem mzeroPerform (col core : Nat) : Statement (.mzeroPerform col core) := words _
theorem mldzPerform (col core : Nat) : Statement (.mldzPerform col core) := words _
theorem mstPerform (col core : Nat) : Statement (.mstPerform col core) := words _
theorem roundOpen (n : Nat) : Statement (.roundOpen n) := words _
theorem stageTiles (n : Nat) : Statement (.stageTiles n) := words _
theorem measureContributor (n : Nat) : Statement (.measureContributor n) := words _
theorem contributorCommit (col asid round : Nat) : Statement (.contributorCommit col asid round) := words _
theorem roundDrop (n : Nat) : Statement (.roundDrop n) := words _
theorem mergeTileSend (col : Nat) : Statement (.mergeTileSend col) := words _
theorem mergeGangNotice (col gang : Nat) : Statement (.mergeGangNotice col gang) := words _
theorem partitionChange (col : Nat) : Statement (.partitionChange col) := words _
theorem hostRecordAccept (q : Nat) : Statement (.hostRecordAccept q) := words _
theorem blockRetire (b : Nat) : Statement (.blockRetire b) := words _
theorem preemptionRequest (gang : Nat) : Statement (.preemptionRequest gang) := words _
theorem gangResume (gang : Nat) : Statement (.gangResume gang) := words _
theorem swapOut (w : Nat) : Statement (.swapOut w) := words _
theorem swapIn (w : Nat) : Statement (.swapIn w) := words _
theorem gangRelaunch (gang : Nat) : Statement (.gangRelaunch gang) := words _
theorem columnFailure (col kind : Nat) : Statement (.columnFailure col kind) := words _
theorem hostWritebackTimeout (col : Nat) : Statement (.hostWritebackTimeout col) := words _
theorem bootStageEnd (ok : Bool) : Statement (.bootStageEnd ok) := words _
theorem qctlWrite (q : Nat) (v : Word) : Statement (.qctlWrite q v) := words _
theorem qtailWrite (q : Nat) (v : Word) : Statement (.qtailWrite q v) := words _
theorem wdogdWrite (v : Word) : Statement (.wdogdWrite v) := words _
theorem registerWrite (addr : Nat) (v : Addr) : Statement (.registerWrite addr v) := words _
theorem stage (image : Nat) : Statement (.stage image) := words _
theorem hostApertureAccess (ap off : Nat) (write : Bool) (data : List Byte) :
    Statement (.hostApertureAccess ap off write data) := words _
theorem tableApertureAccess (off : Nat) (write : Bool) (data : List Byte) :
    Statement (.tableApertureAccess off write data) := words _
theorem watikReceive (n : Nat) : Statement (.watikReceive n) := words _
theorem rebalanceWindowEnd (col : Nat) : Statement (.rebalanceWindowEnd col) := words _
theorem patrolScrub (col line : Nat) : Statement (.patrolScrub col line) := words _
theorem transferRetry (col : Nat) : Statement (.transferRetry col) := words _
theorem laneTest (col lane : Nat) : Statement (.laneTest col lane) := words _
theorem retraining (col bus : Nat) : Statement (.retraining col bus) := words _
theorem flowEscape (flow : Nat) : Statement (.flowEscape flow) := words _
theorem throttleRaise (tower draw : Nat) : Statement (.throttleRaise tower draw) := words _
theorem throttleLower (tower draw : Nat) : Statement (.throttleLower tower draw) := words _
theorem thermalThrottle (tower : Nat) : Statement (.thermalThrottle tower) := words _
theorem create (asid : Nat) : Statement (.create asid) := words _
theorem destroy (asid : Nat) : Statement (.destroy asid) := words _
theorem mapcol (asid : Nat) : Statement (.mapcol asid) := words _
theorem setroot (asid : Nat) : Statement (.setroot asid) := words _
theorem inval (asid : Nat) : Statement (.inval asid) := words _
theorem keyload (asid : Nat) : Statement (.keyload asid) := words _
theorem setsched (asid : Nat) : Statement (.setsched asid) := words _
theorem pair (asid : Nat) : Statement (.pair asid) := words _
theorem savearea (asid : Nat) : Statement (.savearea asid) := words _
theorem privarea (asid : Nat) : Statement (.privarea asid) := words _
theorem readMeters (asid col n : Nat) : Statement (.readMeters asid col n) := words _
theorem collect (asid : Nat) : Statement (.collect asid) := words _
theorem setBudget (tower v : Nat) : Statement (.setBudget tower v) := words _
theorem setThrottle (tower v : Nat) : Statement (.setThrottle tower v) := words _
theorem readLog (col first n : Nat) : Statement (.readLog col first n) := words _
theorem spdmRequest (nonce : Nat) : Statement (.spdmRequest nonce) := words _
theorem linkLevelRetry (link : Nat) : Statement (.linkLevelRetry link) := words _
theorem watikLinkTraining (port : Nat) : Statement (.watikLinkTraining port) := words _
theorem cxlCacheSnoop (line : Nat) (invalidate : Bool) : Statement (.cxlCacheSnoop line invalidate) := words _
theorem commandGridAccept : Statement (.commandGridAccept) := words _
theorem gangPlace : Statement (.gangPlace) := words _
theorem thermalHalt : Statement (.thermalHalt) := words _
theorem coldReset : Statement (.coldReset) := words _
theorem verify : Statement (.verify) := words _
theorem commit : Statement (.commit) := words _
theorem reset : Statement (.reset) := words _
theorem discard : Statement (.discard) := words _
theorem getContexts : Statement (.getContexts) := words _
theorem bootStatus : Statement (.bootStatus) := words _
theorem powerLoss : Statement (.powerLoss) := words _

end Sys2Proof.Laws.Encoding
end

