-- ==== Sys2Proof/Laws/Records.lean ====
section
/-! SUPPORT. What comes back from a record: the bytes of a number, the operands of a wait, and nothing from a record that
another warp has written since. With them the pairing that both devices must hold. -/

namespace Sys2Proof.Machine

open Sys2Proof

/-- The bytes of a number give it back, as far as they reach. -/
@[simp] theorem leNat_leBytes : ∀ n x : Nat, leNat (leBytes n x) = x % 256 ^ n
  | 0, x => by simp [leBytes, leNat, Nat.mod_one]
  | n + 1, x => by
    rw [leBytes, leNat, leNat_leBytes n (x / 256), BitVec.toNat_ofNat]
    have h : (256 : Nat) ^ (n + 1) = 256 * 256 ^ n := Nat.pow_succ'
    rw [h, Nat.mod_mul]

@[simp] theorem length_leBytes : ∀ n x : Nat, (leBytes n x).length = n
  | 0, _ => rfl
  | n + 1, x => by simp [leBytes, length_leBytes n]

/-- A word cut to a wider number is the word. -/
theorem ofNat_toNat_mod {w : Nat} (x : BitVec w) {m : Nat} (h : 2 ^ w ≤ m) : BitVec.ofNat w (x.toNat % m) = x := by
  rw [Nat.mod_eq_of_lt (Nat.lt_of_lt_of_le x.isLt h), BitVec.ofNat_toNat, BitVec.setWidth_eq]

/-- The image of a wait gives the wait back, where its operands fit the places that R361 gives them. -/
theorem restore_image (k : Wait)
    (h : match k with
      | .bar b | .gbar b => b < 2 ^ 128
      | .waitb _ off _ _ => off < 2 ^ 64
      | .sleep t => t < 2 ^ 128
      | _ => True) :
    k.restore k.image.2 = k := by
  cases k <;> simp [Wait.image, Wait.restore, ofNat_toNat_mod] at h ⊢ <;> exact h

/-- A record that another warp has written since gives nothing back, and reading it changes nothing (R361). -/
theorem recordRead_other (s : State) (x : Warp) (off n : Nat)
    (h : mapGet s.records (recordKey (s.asidOf x) x.col x.core x.wcore) ≠ some x.holder) :
    s.recordRead x off n = ([], s) := by
  rw [State.recordRead, if_neg h]

/-- A context is paired with a context of a peer exactly where its own table names that context and the peer's table names
this one (R373). -/
theorem mutual_iff (s : State) (asid dev p : Nat) :
    s.mutual asid dev = some p ↔
      mapGet (s.ctx asid).pairs dev = some p ∧ dev ≤ 287 ∧ mapGet s.pairsIn (dev * 8192 + p) = some asid := by
  unfold State.mutual
  cases mapGet (s.ctx asid).pairs dev with
  | none => simp
  | some q =>
    by_cases h : dev ≤ 287 ∧ mapGet s.pairsIn (dev * 8192 + q) = some asid
    · simp only [if_pos h, Option.some.injEq]
      exact ⟨fun e => by subst e; exact ⟨rfl, h⟩, fun e => e.1⟩
    · simp only [if_neg h, Option.some.injEq]
      exact ⟨fun e => by simp at e, fun e => absurd (by obtain ⟨rfl, e⟩ := e; exact e) h⟩

end Sys2Proof.Machine
end

