-- ==== Sys2Proof/Laws/Touch.lean ====
section
/-! SUPPORT. What the caches' bookkeeping changes: no byte of column memory, of the scratchpads or of peers, no warp, no gang;
and of host memory only what a column writes back (R252, R271-R285, R363). -/

namespace Sys2Proof.Machine

open Sys2Proof

/-- One state follows another with no change but what a column may write back: as an instruction that reads the arrays. -/
def Kept (s t : State) : Prop := ∀ w, OnlyIssued s t w true

theorem kept_same (s : State) : Kept s s := fun w => issued_same s w true

theorem kept_trans {s t u : State} (h : Kept s t) (g : Kept t u) : Kept s u := fun w => issued_trans (h w) (g w)

/-- A change to other fields only. -/
theorem kept_of {s t : State} (h : t = { s with
    contexts := t.contexts, blocks := t.blocks, columns := t.columns, cores := t.cores, errs := t.errs, blocked := t.blocked
    memPsn := t.memPsn, spadPsn := t.spadPsn, hostPsn := t.hostPsn, peerPsn := t.peerPsn, below := t.below, msgs := t.msgs, dev := t.dev
    readPsn := t.readPsn }) :
    Kept s t := fun _ => issued_of (by rw [h]) (fun _ _ => by rw [h]; rfl) nofun

theorem kept_foldl {α : Type} {g : State → α → State} (h : ∀ s a, Kept s (g s a)) : ∀ (l : List α) (s : State),
    Kept s (l.foldl g s)
  | [], s => kept_same s
  | a :: l, s => kept_trans (h s a) (kept_foldl h l (g s a))

theorem kept_ite {p : Prop} [Decidable p] {s t u : State} (h : Kept s t) (g : Kept s u) : Kept s (if p then t else u) := by
  split
  · exact h
  · exact g

theorem kept_modCtx (s : State) (a : Nat) (f : Context → Context) : Kept s (s.modCtx a f) := kept_of rfl
theorem kept_modColumn (s : State) (c : Nat) (f : Column → Column) : Kept s (s.modColumn c f) := kept_of rfl
theorem kept_modCore (s : State) (c k : Nat) (f : Core → Core) : Kept s (s.modCore c k f) := kept_of rfl
theorem kept_meter (s : State) (a c n k : Nat) : Kept s (s.meter a c n k) := kept_modCtx s a _
theorem kept_send (s : State) (m : Msg) : Kept s (s.send m) := kept_of rfl

theorem kept_trySend (s : State) (v : Nat) : Kept s (s.trySend v) := by
  unfold State.trySend
  simp only []
  split
  · exact kept_same s
  · split
    · exact kept_of rfl
    · exact kept_of rfl

theorem kept_raiseVector (s : State) (v : Nat) : Kept s (s.raiseVector v) := by
  unfold State.raiseVector
  exact kept_trans (kept_of rfl) (kept_trySend _ v)

theorem kept_cellLog (s : State) (c l y p k : Nat) : Kept s (s.cellLog c l y p k) := by
  unfold State.cellLog
  simp only []
  split
  · exact kept_trans (kept_modColumn _ _ _) (kept_raiseVector _ _)
  · exact kept_modColumn _ _ _

theorem kept_needLine (s : State) (c l : Nat) : Kept s (s.needLine c l) := by
  unfold State.needLine
  split
  · exact kept_of rfl
  · exact kept_same s

theorem kept_correctLine (s : State) (c l o m : Nat) : Kept s (s.correctLine c l o m) := by
  unfold State.correctLine
  simp only []
  split
  · exact kept_needLine s c l
  · split
    · exact kept_trans (kept_trans (kept_needLine s c l) (kept_of rfl)) (kept_cellLog _ _ _ _ _ _)
    · exact kept_trans (kept_trans (kept_trans (kept_needLine s c l) (kept_of rfl)) (kept_modColumn _ _ _))
        (kept_cellLog _ _ _ _ _ _)

theorem kept_upkeep (s : State) (c k : Nat) : Kept s (s.upkeep c k) := kept_modColumn s c _
theorem kept_storePsn (s : State) (c a : Nat) : Kept s (s.storePsn c a) := kept_of rfl
theorem kept_readsOver (s : State) (c a : Nat) : Kept s (s.readsOver c a) := kept_of rfl
theorem kept_readMade (s : State) (k : Nat) : Kept s (s.readMade k) := kept_of rfl
theorem kept_fillMade (s : State) (c a : Nat) : Kept s (s.fillMade c a) := kept_of rfl

theorem kept_readLines (s : State) (c f n : Nat) : Kept s (s.readLines c f n) := by
  unfold State.readLines
  split
  · exact kept_same s
  · exact kept_foldl (fun s i => kept_trans (kept_correctLine s _ _ _ _) (kept_readMade _ _)) _ _

theorem kept_correctSector (s : State) (c a : Nat) : Kept s (s.correctSector c a) := by
  unfold State.correctSector
  split
  · exact kept_same s
  · exact kept_foldl (fun s i => kept_correctLine s _ _ _ _) _ _

theorem kept_correctWalk (s : State) (a p l o : Nat) : Kept s (s.correctWalk a p l o) := by
  unfold State.correctWalk
  split
  · split
    · exact kept_same s
    · exact kept_foldl (fun s a => kept_readLines s _ _ _) _ _
  · exact kept_same s

/-! ### Host lines -/

/-- Only the host lines that columns hold have changed, and none of them has a byte that became dirty. -/
theorem kept_copies {s t : State} (h : t = { s with hostCopy := t.hostCopy }) (hd : NoneDirtied s t) : Kept s t := by
  intro w
  have hh : t.host = s.host := by rw [h]
  exact ⟨by rw [h], by rw [h], fun g => ⟨by rw [hh]; exact g, written_same hh⟩, fun _ => hh, hd, by rw [h], by rw [h],
    by rw [h], by rw [h], by rw [h], by rw [h], fun _ _ => by rw [h]; rfl, nofun⟩

/-- The dirty bytes of a line written to host memory, a byte at a time. -/
def dirtyFold (h : HostLine) (line : Nat) (m : List Host.Cell) (l : List Nat) : List Host.Cell :=
  l.foldl (fun m i => if h.dirty.testBit i then cellSet m (64 * line + i) (h.bytes.getD i 0) else m) m

/-- What host memory reads once those bytes are written. -/
theorem dirtyFold_spec (h : HostLine) (line : Nat) : ∀ (l : List Nat) (m : List Host.Cell), Memory.wf m = true →
    Memory.wf (dirtyFold h line m l) = true ∧ ∀ pa, cellGet (dirtyFold h line m l) pa = cellGet m pa
      ∨ ∃ i ∈ l, h.dirty.testBit i = true ∧ pa = 64 * line + i ∧ cellGet (dirtyFold h line m l) pa = h.bytes.getD i 0
  | [], m, hw => ⟨hw, fun _ => .inl rfl⟩
  | i :: l, m, hw => by
    have hstep : dirtyFold h line m (i :: l)
        = dirtyFold h line (if h.dirty.testBit i then cellSet m (64 * line + i) (h.bytes.getD i 0) else m) l := rfl
    rw [hstep]
    by_cases hb : h.dirty.testBit i = true
    · rw [if_pos hb]
      obtain ⟨h1, h2⟩ := dirtyFold_spec h line l _ (wf_cellSet hw (64 * line + i) (h.bytes.getD i 0))
      refine ⟨h1, fun pa => ?_⟩
      rcases h2 pa with he | ⟨j, hj, hjb, hja, hjv⟩
      · by_cases hpa : pa = 64 * line + i
        · subst hpa
          exact .inr ⟨i, List.mem_cons_self, hb, rfl, he.trans (cellGet_cellSet_same hw _ _)⟩
        · exact .inl (he.trans (cellGet_cellSet_ne hw _ hpa))
      · exact .inr ⟨j, List.mem_cons_of_mem _ hj, hjb, hja, hjv⟩
    · rw [if_neg hb]
      obtain ⟨h1, h2⟩ := dirtyFold_spec h line l m hw
      refine ⟨h1, fun pa => ?_⟩
      rcases h2 pa with he | ⟨j, hj, hr⟩
      · exact .inl he
      · exact .inr ⟨j, List.mem_cons_of_mem _ hj, hr⟩

theorem dirtyFold_state (h : HostLine) (line : Nat) : ∀ (l : List Nat) (s : State),
    l.foldl (fun s i =>
      if h.dirty.testBit i then { s with host := cellSet s.host (64 * line + i) (h.bytes.getD i 0) } else s) s
      = { s with host := dirtyFold h line s.host l }
  | [], s => rfl
  | i :: l, s => by
    rw [List.foldl_cons, dirtyFold_state h line l]
    unfold dirtyFold
    by_cases hb : h.dirty.testBit i = true
    · simp only [List.foldl_cons, if_pos hb]
    · simp only [List.foldl_cons, if_neg hb]

/-- A host line's dirty bytes written back: host memory holds them, and of the rest only its poison and a meter change. -/
theorem cleanHost_spec (s : State) (k : Nat) (h : HostLine) :
    ∃ m p c, s.cleanHost k h = { s with host := m, hostPsn := p, contexts := c }
      ∧ (m = s.host ∨ m = dirtyFold h (k % 2 ^ 47) s.host (List.range 64)) := by
  unfold State.cleanHost
  split
  · exact ⟨s.host, s.hostPsn, s.contexts, rfl, .inl rfl⟩
  · simp only []
    rw [dirtyFold_state]
    have half : ∀ (t : State) (i : Nat), ∃ p, (if h.dirty / 2 ^ (32 * i) % 2 ^ 32 = 0 then t
        else if h.psn.testBit i = true then { t with hostPsn := setIns t.hostPsn (2 * (k % 2 ^ 47) + i) }
        else if h.dirty / 2 ^ (32 * i) % 2 ^ 32 = 2 ^ 32 - 1 then { t with hostPsn := setDel t.hostPsn (2 * (k % 2 ^ 47) + i) }
        else t) = { t with hostPsn := p } := by
      intro t i
      split
      · exact ⟨_, rfl⟩
      · split
        · exact ⟨_, rfl⟩
        · split <;> exact ⟨_, rfl⟩
    obtain ⟨p, hp⟩ := half { s with host := dirtyFold h (k % 2 ^ 47) s.host (List.range 64) } 0
    rw [hp]
    obtain ⟨q, hq⟩ := half { s with host := dirtyFold h (k % 2 ^ 47) s.host (List.range 64), hostPsn := p } 1
    rw [hq]
    exact ⟨_, _, _, rfl, .inr rfl⟩

/-- The dirty bytes of some of a list of lines written back. -/
theorem cleanFold_spec (hit : Nat → Bool) : ∀ (l : List (Nat × HostLine)) (s : State),
    ∃ m p c, l.foldl (fun s kv => if hit kv.1 then s.cleanHost kv.1 kv.2 else s) s
        = { s with host := m, hostPsn := p, contexts := c }
      ∧ (Memory.wf s.host = true → Memory.wf m = true ∧ ∀ pa, cellGet m pa = cellGet s.host pa ∨ ∃ kv ∈ l,
          kv.1 % 2 ^ 47 = pa / 64 ∧ kv.2.dirty.testBit (pa % 64) = true ∧ cellGet m pa = kv.2.bytes.getD (pa % 64) 0)
  | [], s => ⟨_, _, _, rfl, fun hw => ⟨hw, fun _ => .inl rfl⟩⟩
  | (k, h) :: l, s => by
    simp only [List.foldl_cons]
    by_cases hh : hit k = true
    · rw [if_pos hh]
      obtain ⟨m, p, c, hs, hm⟩ := cleanHost_spec s k h
      rw [hs]
      obtain ⟨m', p', c', hs', hm'⟩ := cleanFold_spec hit l { s with host := m, hostPsn := p, contexts := c }
      refine ⟨m', p', c', hs', fun hw => ?_⟩
      have first : Memory.wf m = true ∧ ∀ pa, cellGet m pa = cellGet s.host pa
          ∨ (k % 2 ^ 47 = pa / 64 ∧ h.dirty.testBit (pa % 64) = true ∧ cellGet m pa = h.bytes.getD (pa % 64) 0) := by
        rcases hm with rfl | rfl
        · exact ⟨hw, fun _ => .inl rfl⟩
        · obtain ⟨h1, h2⟩ := dirtyFold_spec h (k % 2 ^ 47) (List.range 64) s.host hw
          refine ⟨h1, fun pa => ?_⟩
          rcases h2 pa with he | ⟨i, hi, hb, hpa, hv⟩
          · exact .inl he
          · have hi : i < 64 := List.mem_range.mp hi
            have h3 : pa / 64 = k % 2 ^ 47 := by omega
            have h4 : pa % 64 = i := by omega
            exact .inr ⟨h3.symm, by rw [h4]; exact hb, by rw [h4]; exact hv⟩
      obtain ⟨g1, g2⟩ := hm' first.1
      refine ⟨g1, fun pa => ?_⟩
      rcases g2 pa with he | ⟨kv, hk, hr⟩
      · rcases first.2 pa with he' | ⟨h1, h2, h3⟩
        · exact .inl (he.trans he')
        · exact .inr ⟨(k, h), List.mem_cons_self, h1, h2, he.trans h3⟩
      · exact .inr ⟨kv, List.mem_cons_of_mem _ hk, hr⟩
    · rw [if_neg hh]
      obtain ⟨m, p, c, hs, hm⟩ := cleanFold_spec hit l s
      refine ⟨m, p, c, hs, fun hw => ⟨(hm hw).1, fun pa => ?_⟩⟩
      rcases (hm hw).2 pa with he | ⟨kv, hk, hr⟩
      · exact .inl he
      · exact .inr ⟨kv, List.mem_cons_of_mem _ hk, hr⟩

theorem mem_mapAll {α : Type} {f : Nat → α → α} {m : AMap α} {kv : Nat × α} (h : kv ∈ mapAll m f) :
    ∃ q ∈ m, kv = (q.1, f q.1 q.2) := by
  obtain ⟨q, hq, rfl⟩ := List.mem_map.mp h
  exact ⟨q, hq, rfl⟩

theorem kept_cleanLines (s : State) (hit : Nat → Bool) : Kept s (s.cleanLines hit) := by
  intro w
  unfold State.cleanLines
  obtain ⟨m, p, c, hs, hm⟩ := cleanFold_spec hit s.hostCopy s
  rw [hs]
  refine ⟨rfl, rfl, hm, nofun, ?_, rfl, rfl, rfl, rfl, rfl, rfl, fun _ _ => rfl, nofun⟩
  intro kv hk i _ hb
  have hk : kv ∈ mapAll s.hostCopy (fun k h => if hit k then { h with dirty := 0 } else h) := hk
  obtain ⟨q, hq, rfl⟩ := mem_mapAll hk
  by_cases hh : hit q.1 = true
  · simp [hh] at hb
  · simp only [hh] at hb ⊢
    exact ⟨q, hq, rfl, hb, rfl⟩

/-- A host line put in its place with no byte that its column's line had not dirty. -/
theorem kept_putLine (s : State) (k : Nat) (x : HostLine) (h : ∀ i < 64, x.dirty.testBit i = true →
    ∃ q ∈ s.hostCopy, q.1 = k ∧ q.2.dirty.testBit i = true ∧ q.2.bytes.getD i 0 = x.bytes.getD i 0) :
    Kept s { s with hostCopy := mapSet s.hostCopy k x } := by
  refine kept_copies rfl ?_
  intro kv hk i hi hb
  rcases mem_mapSet hk with rfl | hk
  · exact h i hi hb
  · exact ⟨kv, hk, rfl, hb, rfl⟩

theorem kept_fetchHost (s : State) (c p : Nat) : Kept s (s.fetchHost c p) := by
  unfold State.fetchHost
  split
  · exact kept_same s
  · exact kept_putLine s _ _ fun i _ hb => by simp at hb

theorem kept_ownHost (s : State) (c p a : Nat) (b : Bool) : Kept s (s.ownHost c p a b) := by
  unfold State.ownHost
  split
  · rename_i h hg
    split
    · exact kept_putLine s _ _ fun i _ hb => ⟨_, mapGet_mem hg, rfl, hb, rfl⟩
    · exact kept_same s
  · exact kept_same s

theorem kept_markLine (s : State) (v : Nat) (l : Loc) (b : Bool) : Kept s (s.markLine v l b) := by
  unfold State.markLine
  cases l with
  | mem c p k =>
    simp only []
    split <;> exact kept_of rfl
  | spad c o => exact kept_of rfl
  | peer d a p => exact kept_of rfl
  | host pa =>
    simp only []
    split
    · rename_i h hg
      exact kept_putLine s _ _ fun i _ hb => ⟨_, mapGet_mem hg, rfl, hb, rfl⟩
    · exact kept_of rfl

/-! ### Sectors and lines -/

theorem kept_dropSector (s : State) (a c : Nat) (x : Sector) : Kept s (s.dropSector a c x) := by
  unfold State.dropSector
  simp only []
  refine kept_trans ?_ (kept_modColumn _ _ _)
  exact kept_ite (kept_ite (kept_same s) (kept_readsOver _ _ _))
    (kept_ite (kept_cleanLines _ _) (kept_trans (kept_storePsn _ _ _) (kept_meter _ _ _ _ _)))

theorem kept_freeWay (s : State) (a c l t w : Nat) (z : Bool) : Kept s (s.freeWay a c l t w z).2 := by
  unfold State.freeWay
  simp only []
  split
  · exact kept_same s
  · split
    · exact kept_dropSector _ _ _ _
    · exact kept_same s

theorem kept_noteSector (s : State) (asid col addr slot off slice : Nat) (host : Bool) (t : Touch) :
    Kept s (s.noteSector asid col addr slot off slice host t) := by
  unfold State.noteSector
  simp only []
  split
  · split
    · exact kept_trans (kept_modColumn _ _ _) (kept_trans (kept_freeWay _ _ _ _ _ _ _) (kept_modColumn _ _ _))
    · split
      · exact kept_trans (kept_modColumn _ _ _) (kept_trans (kept_freeWay _ _ _ _ _ _ _) (kept_modColumn _ _ _))
      · exact kept_modColumn _ _ _
  · refine kept_trans (kept_trans (kept_trans ?_ (kept_ite (kept_freeWay _ _ _ _ _ _ _) (kept_same _)))
      (kept_freeWay _ _ _ _ _ _ _)) (kept_modColumn _ _ _)
    exact kept_ite (kept_same _) (kept_ite (kept_meter _ _ _ _ _)
      (kept_trans (kept_trans (kept_meter _ _ _ _ _) (kept_correctSector _ _ _)) (kept_fillMade _ _ _)))

theorem kept_touchSector (s : State) (asid col addr slot off : Nat) (host : Bool) (t : Touch) :
    Kept s (s.touchSector asid col addr slot off host t) := by
  unfold State.touchSector
  simp only []
  refine kept_trans ?_ (kept_noteSector _ _ _ _ _ _ _ _ _)
  split
  · exact kept_trans (kept_modColumn _ _ _) (kept_dropSector _ _ _ _)
  · exact kept_modColumn _ _ _

theorem kept_touchLoc (s : State) (a c : Nat) (l : Loc) (o : Nat) (t : Touch) : Kept s (s.touchLoc a c l o t) := by
  unfold State.touchLoc
  split
  · exact kept_touchSector _ _ _ _ _ _ _ _
  · exact kept_trans (kept_trans (kept_fetchHost _ _ _) (kept_ownHost _ _ _ _ _)) (kept_touchSector _ _ _ _ _ _ _ _)
  · exact kept_same s
  · exact kept_same s

theorem kept_settleBelow (s : State) (l : Loc) : Kept s (s.settleBelow l) := by
  unfold State.settleBelow
  cases l <;> exact kept_of rfl

theorem kept_writeBack (s : State) (c : Nat) (e : L1Line) : Kept s (s.writeBack c e) := by
  unfold State.writeBack
  split
  · refine kept_trans (kept_trans ?_ (kept_settleBelow _ _)) (kept_touchLoc _ _ _ _ _ _)
    exact kept_ite (kept_trans (kept_markLine _ _ _ _) (kept_markLine _ _ _ _)) (kept_same s)
  · exact kept_same s

theorem kept_fillL1 (s : State) (c k a : Nat) (pl : Place) (p : Nat) (e : TlbEntry) (t : Touch) :
    Kept s (s.fillL1 c k a pl p e t) := by
  unfold State.fillL1
  simp only []
  refine kept_trans (kept_trans ?_ (kept_foldl (fun s x => kept_writeBack s c x) _ _)) (kept_modCore _ _ _ _)
  split
  · exact kept_modCore _ _ _ _
  · exact kept_same s

theorem kept_fillTlb (s : State) (p : Nat) (e : TlbEntry) : Kept s (s.fillTlb p e) := by
  unfold State.fillTlb
  simp only []
  exact kept_trans (kept_ite (kept_same s) (kept_trans (kept_meter _ _ _ _ _) (kept_correctWalk _ _ _ _ _)))
    (kept_modColumn _ _ _)

theorem kept_touch (s : State) (c k a : Nat) (pl : Place) (t : Touch) : Kept s (s.touch c k a pl t) := by
  unfold State.touch
  cases pl.leaf with
  | none =>
    generalize (t.noL1 || t.colAx || (t.store && !t.priv)) = b
    cases b with
    | false => exact kept_same s
    | true => exact kept_touchLoc _ _ _ _ _ _
  | some pe =>
    obtain ⟨p, e⟩ := pe
    simp only []
    refine kept_trans (kept_fillTlb s p e) ?_
    generalize s.fillTlb p e = s1
    split
    · exact kept_trans (kept_ite (kept_same _) (kept_touchLoc _ _ _ _ _ _)) (kept_fillL1 _ _ _ _ _ _ _ _)
    · exact kept_same _
    · exact kept_touchLoc _ _ _ _ _ _

/-- An acquire drops clean bytes, and leaves the dirty ones and the rest of the machine as they are. -/
theorem issued_acquire (s : State) (c k n w : Nat) (reads : Bool) : OnlyIssued s (s.acquire c k n) w reads := by
  unfold State.acquire
  split
  · refine ⟨rfl, rfl, fun h => ⟨h, written_same rfl⟩, fun _ => rfl, ?_, rfl, rfl, rfl, rfl, rfl, rfl, fun _ _ => rfl,
      fun _ => rfl⟩
    intro kv hk i hi hb
    have hk : kv ∈ mapAll (s.hostCopy.filter fun kv => kv.1 / 2 ^ 47 != c || kv.2.dirty != 0)
      (fun k h => if k / 2 ^ 47 = c then s.refetched k h else h) := hk
    obtain ⟨q, hq, rfl⟩ := mem_mapAll hk
    have hq := List.mem_of_mem_filter hq
    by_cases hc : q.1 / 2 ^ 47 = c
    · simp only [if_pos hc] at hb ⊢
      have hd : q.2.dirty.testBit i = true := hb
      refine ⟨q, hq, rfl, hd, ?_⟩
      unfold State.refetched
      simp [List.getD_eq_getElem?_getD, hi, hd]
    · simp only [if_neg hc] at hb ⊢
      exact ⟨q, hq, rfl, hb, rfl⟩
  · exact issued_same s w reads

theorem kept_acquire (s : State) (c k n : Nat) : Kept s (s.acquire c k n) := fun w => issued_acquire s c k n w true

/-- The context of an instruction after its accesses have been noted: only the machine differs. -/
theorem kept_touchAll (c : Cx) (ps : List Place) (t : Touch) : Kept c.s (c.touchAll ps t).s :=
  kept_foldl (fun s _ => kept_touch s _ _ _ _ _) _ _

theorem issued_meter (s : State) (a c n k w : Nat) (reads : Bool) : OnlyIssued s (s.meter a c n k) w reads :=
  issued_of rfl (fun _ _ => rfl) fun _ => rfl

end Sys2Proof.Machine
end

