-- ==== Sys2Proof/Tests/Slice0.lean ====
section
/-! SUPPORT. Tests: the checks of R54 with a term that each refuses, words written out from the encoding tables, single steps
with results worked out from the rules, and for every statement a machine that meets its hypotheses. -/

namespace Sys2Proof.Tests

set_option Elab.async false

open Sys2Proof Sys2Proof.Machine

/-! ### Ill-formed terms, one for each check -/

/-- Each check of R54 refuses a term: the form, UNI, SUB, TYPE, X, a selector, a width, a misaligned group, a missing, an
unread and a high literal, a dead bit, KEEP, a modifier, LA, RND, GP, and an unassigned opcode. -/
theorem test_ill_formed :
    (Instr.iaddShort { blankShort with d := .v 48 }).check = some .wrongForm
    ∧ (Instr.iadd blankShort).check = some .wrongForm
    ∧ (Instr.jmp { blankExt with a := .lit, lit := some 8 }).check = some .wrongIssue
    ∧ (Instr.icmp { blankExt with sub := 6, d := .p 1 }).check = some .badSub
    ∧ (Instr.iadd { blankExt with ty := .f32 }).check = some .badType
    ∧ (Instr.iadd { blankExt with x := 1 }).check = some .badX
    ∧ (Instr.iadd { blankExt with d := .l 0 }).check = some .badSelector
    ∧ (Instr.icmp { blankExt with d := .p 7 }).check = some .badSelector
    ∧ (Instr.iadd { blankExt with ty := .s64, d := .v 2 }).check = some .badWidth
    ∧ (Instr.iadd { blankExt with ty := .s64, d := .v 1, dw := .w2 }).check = some .badWidth
    ∧ (Instr.iadd { blankExt with a := .lit }).check = some .literalMissing
    ∧ (Instr.iadd { blankExt with lit := some 0 }).check = some .literalUnread
    ∧ (Instr.chkerr { blankExt with uni := true, d := .s 2, dw := .w2, a := .litHi, lit := some 0 }).check = some .badSelector
    ∧ (Instr.sel { blankExt with ty := .b64, d := .v 2, dw := .w2, a := .v 4, aw := .w2, b := .v 6, bw := .w2, c := .litHi, lit := some 0 }).check = some .literalHigh
    ∧ (Instr.iadd { blankExt with da := true }).check = some .badDead
    ∧ (Instr.iadd { blankExt with keep := true }).check = some .badKeep
    ∧ (Instr.iadd { blankExt with kc := 3 }).check = some .badKeep
    ∧ (Instr.imulh { blankExt with sat := true }).check = some .badModifier
    ∧ (Instr.iadd { blankExt with ty := .n32, na := true }).check = some .badModifier
    ∧ (Instr.iadd { blankExt with la := 1 }).check = some .badLookahead
    ∧ (Instr.iadd { blankExt with rnd := .rz }).check = some .badRounding
    ∧ (Instr.exit { blankExt with gp := 1 }).check = some .badGuard
    ∧ (Instr.unassignedOpcode 0).check = some .unassignedOpcode := by decide

/-- The decoder refuses by name reserved selectors and types, and words that stop short. -/
theorem test_refused_words :
    decode [0x3CF3C0F0] = .error .unassignedOpcode ∧ decode [0x3FF3C100] = .error .reservedSelector
    ∧ decode [0xE02C0102, 0, 0] = .error .reservedType ∧ decode [0xE0000102, 0x53299C00] = .error .truncated
    ∧ decode [] = .error .truncated ∧ decode [0x3CF3C010] = .error .wrongForm := by
  and_intros <;> rfl

/-! ### Words -/

/-- Words of the control family, written from R37, R41, R44, R46 and R59. -/
theorem test_decode_control :
    decode [0x3CF3C004] = .ok (.nopShort { blankShort with rb := true })
    ∧ decode [0xE000000A, 0x530A614C, 0x00000530] = .ok (.nop { blankExt with uni := true })
    ∧ decode [0xE0000013, 0x54CA694C, 0x00000530, 0x00000040, 0x00000000]
        = .ok (.ifBlock { blankExt with a := .lit, b := .p 3, lit := some 0x40 })
    ∧ decode [0xE0000023, 0x530A694C, 0x00000530, 0x00001000, 0x00000000]
        = .ok (.elseBlock { blankExt with a := .lit, lit := some 0x1000 })
    ∧ decode [0x3CF3C030] = .ok (.endifShort blankShort)
    ∧ decode [0xE0000036, 0x530A614C, 0x00000530] = .ok (.endif { blankExt with rb := true })
    ∧ decode [0x3CF3C040] = .ok (.loopShort blankShort)
    ∧ decode [0xE0000042, 0x530A614C, 0x00000530] = .ok (.loop blankExt)
    ∧ decode [0xE0000053, 0x530A694C, 0x00000530, 0xFFFFFFE0, 0x00000000]
        = .ok (.endloop { blankExt with a := .lit, lit := some 0xFFFFFFE0 })
    ∧ decode [0xE0000062, 0x548A614C, 0x02800530] = .ok (.brk { blankExt with b := .p 2, x := 5 })
    ∧ decode [0xE0000072, 0x55CA614C, 0x3F000530] = .ok (.cont { blankExt with b := .p 7, x := 126 })
    ∧ decode [0x3CF3C080] = .ok (.exitShort blankShort)
    ∧ decode [0xE0000082, 0x530A614C, 0x00000530] = .ok (.exit blankExt)
    ∧ decode [0xE000009B, 0x530A694C, 0x00000530, 0x00000080, 0x00000000]
        = .ok (.jmp { blankExt with uni := true, a := .lit, lit := some 0x80 })
    ∧ decode [0xE00000AB, 0x530A6B0A, 0x00000530, 0xFFFFFFF0, 0x00000000]
        = .ok (.call { blankExt with uni := true, d := .s 10, a := .lit, dw := .w2, lit := some 0xFFFFFFF0 })
    ∧ decode [0xE00000BA, 0x5318514C, 0x00000530] = .ok (.ret { blankExt with uni := true, a := .s 10, aw := .w2 })
    ∧ decode [0x3CF3C0C8] = .ok (.yieldShort { blankShort with uni := true })
    ∧ decode [0x200000CA, 0x530A614C, 0x00000530] = .ok (.yield { blankExt with uni := true, gp := 1 })
    ∧ decode [0xE00000DA, 0x5318314C, 0x00000530] = .ok (.sleep { blankExt with uni := true, a := .s 6, aw := .w2 }) := by
  and_intros <;> rfl

/-- Words of the arithmetic family, written from R37, R41, R44, R46 and R59. -/
theorem test_decode_arithmetic :
    decode [0xA8C01100] = .ok (.iaddShort { blankShort with d := .v 1, a := .c 0, b := .v 40, db := true })
    ∧ decode [0xE0140102, 0x52064864, 0x00400530]
        = .ok (.iadd { blankExt with ty := .n8x4, d := .v 100, a := .v 201, b := .l 0, sat := true })
    ∧ decode [0xA9C42110] = .ok (.isubShort { blankShort with d := .v 2, a := .c 1, b := .v 41, db := true })
    ∧ decode [0xE0180112, 0x02103204, 0x00000531]
        = .ok (.isub { blankExt with ty := .s64, d := .v 4, a := .v 6, b := .v 8, dw := .w2, aw := .w2, bw := .w2 })
    ∧ decode [0xAAC83120] = .ok (.imulShort { blankShort with d := .v 3, a := .c 2, b := .v 42, db := true })
    ∧ decode [0xE004012A, 0x58081101, 0x00000530]
        = .ok (.imul { blankExt with uni := true, ty := .n32, d := .s 1, a := .s 2, b := .imm 0 })
    ∧ decode [0xABCC4130] = .ok (.imulhShort { blankShort with d := .v 4, a := .c 3, b := .v 43, db := true })
    ∧ decode [0x60040132, 0x52C66067, 0x00000530]
        = .ok (.imulh { blankExt with gp := 3, ty := .n32, d := .v 103, a := .v 204, b := .l 3 })
    ∧ decode [0xACD05150] = .ok (.iminShort { blankShort with d := .v 5, a := .c 4, b := .v 44, db := true })
    ∧ decode [0xE0080152, 0x52066868, 0x00080530]
        = .ok (.imin { blankExt with ty := .s16x2, d := .v 104, a := .v 205, b := .l 0, na := true })
    ∧ decode [0xADD46160] = .ok (.imaxShort { blankShort with d := .v 6, a := .c 5, b := .v 45, db := true })
    ∧ decode [0xE0100162, 0x52467069, 0x00068530]
        = .ok (.imax { blankExt with ty := .s8x4, d := .v 105, a := .v 206, b := .l 1, keep := true, kc := 6 })
    ∧ decode [0x3CE83170] = .ok (.iabsShort { blankShort with d := .v 3, a := .l 2 })
    ∧ decode [0xE0080172, 0xD3004945, 0x00400530]
        = .ok (.iabs { blankExt with ty := .s16x2, d := .c 5, a := .v 9, da := true, sat := true })
    ∧ decode [0x3CE83180] = .ok (.inegShort { blankShort with d := .v 3, a := .l 2 })
    ∧ decode [0xE0080182, 0xD3004945, 0x00400530]
        = .ok (.ineg { blankExt with ty := .s16x2, d := .c 5, a := .v 9, da := true, sat := true })
    ∧ decode [0xE0040142, 0x00C01001, 0x00004010]
        = .ok (.imad { blankExt with ty := .n32, d := .v 1, a := .v 2, b := .v 3, c := .v 4, dc := true })
    ∧ decode [0xE0000192, 0x03105208, 0x000005CC]
        = .ok (.lea { blankExt with ty := .s32, d := .v 8, a := .v 10, b := .v 12, c := .imm 19, dw := .w2, aw := .w2 })
    ∧ decode [0xE01401A2, 0x00C01001, 0x00400010]
        = .ok (.isad { blankExt with ty := .n8x4, d := .v 1, a := .v 2, b := .v 3, c := .v 4, sat := true })
    ∧ decode [0xE01001B2, 0x00C01001, 0x00000010]
        = .ok (.dp4 { blankExt with ty := .s8x4, d := .v 1, a := .v 2, b := .v 3, c := .v 4 })
    ∧ decode [0xE00C01C2, 0x00C01001, 0x00000010]
        = .ok (.dp2 { blankExt with ty := .n16x2, d := .v 1, a := .v 2, b := .v 3, c := .v 4 })
    ∧ decode [0xE01C51D2, 0x01901154, 0x00000531]
        = .ok (.icmp { blankExt with ty := .n64, sub := 5, d := .p 4, a := .v 2, b := .v 6, aw := .w2, bw := .w2 })
    ∧ decode [0xE00401E2, 0x01402202, 0x000005C4]
        = .ok (.iaddx { blankExt with ty := .n32, d := .v 2, a := .v 4, b := .v 5, c := .imm 17, dw := .w2 }) := by
  and_intros <;> rfl

/-- Words of the logic family, written from R37, R41, R44, R46 and R59. -/
theorem test_decode_logic :
    decode [0x7050A200] = .ok (.andShort { blankShort with ty := .b32, d := .v 10, a := .v 20, b := .c 0, da := true })
    ∧ decode [0xE03C020A, 0x41982302, 0x00000531]
        = .ok (.and { blankExt with uni := true, ty := .b64, d := .s 2, a := .s 4, b := .s 6, dw := .w2, aw := .w2, bw := .w2 })
    ∧ decode [0x7154B210] = .ok (.orShort { blankShort with ty := .b32, d := .v 11, a := .v 21, b := .c 1, da := true })
    ∧ decode [0xE0380212, 0x0CC1481F, 0x00000530]
        = .ok (.or { blankExt with ty := .b32, d := .v 31, a := .v 41, b := .v 51 })
    ∧ decode [0x7258C220] = .ok (.xorShort { blankShort with ty := .b32, d := .v 12, a := .v 22, b := .c 2, da := true })
    ∧ decode [0xE0380222, 0x0D015020, 0x00000530]
        = .ok (.xor { blankExt with ty := .b32, d := .v 32, a := .v 42, b := .v 52 })
    ∧ decode [0x735CD230] = .ok (.andnShort { blankShort with ty := .b32, d := .v 13, a := .v 23, b := .c 3, da := true })
    ∧ decode [0xE0380232, 0x0D415821, 0x00000530]
        = .ok (.andn { blankExt with ty := .b32, d := .v 33, a := .v 43, b := .v 53 })
    ∧ decode [0x7460E250] = .ok (.shlShort { blankShort with ty := .b32, d := .v 14, a := .v 24, b := .c 4, da := true })
    ∧ decode [0xE00C0252, 0x0D816022, 0x00800530]
        = .ok (.shl { blankExt with ty := .n16x2, d := .v 34, a := .v 44, b := .v 54, x := 1 })
    ∧ decode [0x7564F260] = .ok (.shrShort { blankShort with ty := .b32, d := .v 15, a := .v 25, b := .c 5, da := true })
    ∧ decode [0xE0140262, 0x0DC16823, 0x00000530]
        = .ok (.shr { blankExt with ty := .n8x4, d := .v 35, a := .v 45, b := .v 55 })
    ∧ decode [0x76690270] = .ok (.sarShort { blankShort with ty := .b32, d := .v 16, a := .v 26, b := .c 6, da := true })
    ∧ decode [0xE0100272, 0x0E017024, 0x00800530]
        = .ok (.sar { blankExt with ty := .s8x4, d := .v 36, a := .v 46, b := .v 56, x := 1 })
    ∧ decode [0x776D1280] = .ok (.rotlShort { blankShort with ty := .b32, d := .v 17, a := .v 27, b := .c 7, da := true })
    ∧ decode [0xE0380282, 0x0E417825, 0x00000530]
        = .ok (.rotl { blankExt with ty := .b32, d := .v 37, a := .v 47, b := .v 57 })
    ∧ decode [0x3CBC7240] = .ok (.notShort { blankShort with ty := .b32, d := .v 7, a := .v 47 })
    ∧ decode [0xE03C0242, 0xD317F206, 0x00000530]
        = .ok (.not { blankExt with ty := .b64, d := .v 6, a := .v 254, dw := .w2, aw := .w2, da := true })
    ∧ decode [0x3CBC72D0] = .ok (.brevShort { blankShort with ty := .b32, d := .v 7, a := .v 47 })
    ∧ decode [0xE03C02D2, 0xD317F206, 0x00000530]
        = .ok (.brev { blankExt with ty := .b64, d := .v 6, a := .v 254, dw := .w2, aw := .w2, da := true })
    ∧ decode [0x3CBC72B0] = .ok (.popcShort { blankShort with ty := .b32, d := .v 7, a := .v 47 })
    ∧ decode [0xE03C02B2, 0xD317F006, 0x00000530]
        = .ok (.popc { blankExt with ty := .b64, d := .v 6, a := .v 254, dw := .w1, aw := .w2, da := true })
    ∧ decode [0x3CBC72C0] = .ok (.clzShort { blankShort with ty := .b32, d := .v 7, a := .v 47 })
    ∧ decode [0xE03C02C2, 0xD317F006, 0x00000530]
        = .ok (.clz { blankExt with ty := .b64, d := .v 6, a := .v 254, dw := .w1, aw := .w2, da := true })
    ∧ decode [0x3CBC72F0] = .ok (.movShort { blankShort with ty := .b32, d := .v 7, a := .v 47 })
    ∧ decode [0xE03C02F2, 0xD317F206, 0x00000530]
        = .ok (.mov { blankExt with ty := .b64, d := .v 6, a := .v 254, dw := .w2, aw := .w2, da := true })
    ∧ decode [0xE0040292, 0x00C01001, 0x00000010]
        = .ok (.bfe { blankExt with ty := .n32, d := .v 1, a := .v 2, b := .v 3, c := .v 4 })
    ∧ decode [0xE03802A2, 0x01C03005, 0x00000020]
        = .ok (.bfi { blankExt with ty := .b32, d := .v 5, a := .v 6, b := .v 7, c := .v 8 })
    ∧ decode [0xE03802E2, 0x02C05009, 0x00000554]
        = .ok (.sel { blankExt with ty := .b32, d := .v 9, a := .v 10, b := .v 11, c := .p 5 })
    ∧ decode [0xE0007302, 0x55CA9151, 0x00000530]
        = .ok (.plop { blankExt with sub := 7, d := .p 1, a := .p 2, b := .p 7 })
    ∧ decode [0xE03C0312, 0x53184150, 0x00000530]
        = .ok (.pmov { blankExt with ty := .b64, d := .p 0, a := .s 8, aw := .w2 })
    ∧ decode [0xE0002322, 0x530AB30C, 0x00000530]
        = .ok (.vote { blankExt with sub := 2, d := .s 12, a := .p 6, dw := .w2 })
    ∧ decode [0xE0380332, 0x530A6001, 0x00000530] = .ok (.sread { blankExt with ty := .b32, d := .v 1, x := 0 })
    ∧ decode [0xE0380342, 0x5300194C, 0x15000530] = .ok (.swrite { blankExt with ty := .b32, a := .v 3, x := 42 })
    ∧ decode [0x03081350] = .ok (.packShort { blankShort with ty := .b32, d := .v 1, a := .v 2, b := .v 3 })
    ∧ decode [0xE0100352, 0x01802804, 0x00400530]
        = .ok (.pack { blankExt with ty := .s8x4, d := .v 4, a := .v 5, b := .v 6, sat := true })
    ∧ decode [0x03081360] = .ok (.unpkShort { blankShort with ty := .b32, d := .v 1, a := .v 2, b := .v 3 })
    ∧ decode [0xE0140362, 0x5C802804, 0x00000530]
        = .ok (.unpk { blankExt with ty := .n8x4, d := .v 4, a := .v 5, b := .imm 18 })
    ∧ decode [0xE0380373, 0x00C01001, 0x00000534, 0x00007531, 0x00000000]
        = .ok (.prmt { blankExt with ty := .b32, d := .v 1, a := .v 2, b := .v 3, c := .lit, lit := some 0x7531 }) := by
  and_intros <;> rfl

/-- Words of the floating family, written from R37, R41, R44, R46 and R59. -/
theorem test_decode_floating :
    decode [0x152C1400] = .ok (.faddShort { blankShort with ty := .f32, d := .v 1, a := .v 11, b := .v 21 })
    ∧ decode [0xE1A80402, 0x0CC1481F, 0x00780530]
        = .ok (.fadd { blankExt with rnd := .ru, ty := .f16x2, d := .v 31, a := .v 41, b := .v 51, na := true, nb := true, absa := true, sat := true })
    ∧ decode [0x16302410] = .ok (.fsubShort { blankShort with ty := .f32, d := .v 2, a := .v 12, b := .v 22 })
    ∧ decode [0xE1A80412, 0x0D015020, 0x00780530]
        = .ok (.fsub { blankExt with rnd := .ru, ty := .f16x2, d := .v 32, a := .v 42, b := .v 52, na := true, nb := true, absa := true, sat := true })
    ∧ decode [0x17343420] = .ok (.fmulShort { blankShort with ty := .f32, d := .v 3, a := .v 13, b := .v 23 })
    ∧ decode [0xE1A80422, 0x0D415821, 0x00780530]
        = .ok (.fmul { blankExt with rnd := .ru, ty := .f16x2, d := .v 33, a := .v 43, b := .v 53, na := true, nb := true, absa := true, sat := true })
    ∧ decode [0x18384440] = .ok (.fminShort { blankShort with ty := .f32, d := .v 4, a := .v 14, b := .v 24 })
    ∧ decode [0xE0280442, 0x0D816022, 0x00380530]
        = .ok (.fmin { blankExt with ty := .f16x2, d := .v 34, a := .v 44, b := .v 54, na := true, nb := true, absa := true })
    ∧ decode [0x193C5450] = .ok (.fmaxShort { blankShort with ty := .f32, d := .v 5, a := .v 15, b := .v 25 })
    ∧ decode [0xE0280452, 0x0DC16823, 0x00380530]
        = .ok (.fmax { blankExt with ty := .f16x2, d := .v 35, a := .v 45, b := .v 55, na := true, nb := true, absa := true })
    ∧ decode [0x1A4064B0] = .ok (.fdivShort { blankShort with ty := .f32, d := .v 6, a := .v 16, b := .v 26 })
    ∧ decode [0xFEA004B2, 0x0E017024, 0x00280530]
        = .ok (.fdiv { blankExt with la := 15, rnd := .rz, ty := .f32, d := .v 36, a := .v 46, b := .v 56, na := true, absa := true })
    ∧ decode [0x1B4474D0] = .ok (.fsclShort { blankShort with ty := .f32, d := .v 7, a := .v 17, b := .v 27 })
    ∧ decode [0xE12804D2, 0x0E417825, 0x00280530]
        = .ok (.fscl { blankExt with rnd := .rd, ty := .f16x2, d := .v 37, a := .v 47, b := .v 57, na := true, absa := true })
    ∧ decode [0x7C209460] = .ok (.fabsShort { blankShort with ty := .f32, d := .v 9, a := .v 8, da := true })
    ∧ decode [0xE0300462, 0x53004009, 0x00000530] = .ok (.fabs { blankExt with ty := .e4m3x4, d := .v 9, a := .v 8 })
    ∧ decode [0x7C209470] = .ok (.fnegShort { blankShort with ty := .f32, d := .v 9, a := .v 8, da := true })
    ∧ decode [0xE0340472, 0x53004009, 0x00000530] = .ok (.fneg { blankExt with ty := .e5m2x4, d := .v 9, a := .v 8 })
    ∧ decode [0x7C2094A0] = .ok (.frndShort { blankShort with ty := .f32, d := .v 9, a := .v 8, da := true })
    ∧ decode [0xE0A404A2, 0x53004009, 0x00000530]
        = .ok (.frnd { blankExt with rnd := .rz, ty := .bf16x2, d := .v 9, a := .v 8 })
    ∧ decode [0x7C2094C0] = .ok (.fsqrtShort { blankShort with ty := .f32, d := .v 9, a := .v 8, da := true })
    ∧ decode [0xE32004C2, 0x53004009, 0x00000530]
        = .ok (.fsqrt { blankExt with la := 1, rnd := .rd, ty := .f32, d := .v 9, a := .v 8 })
    ∧ decode [0xE1240432, 0x00C01001, 0x00080010]
        = .ok (.ffma { blankExt with rnd := .rd, ty := .bf16x2, d := .v 1, a := .v 2, b := .v 3, c := .v 4, na := true })
    ∧ decode [0xE02804E2, 0x00C01001, 0x00000010]
        = .ok (.fdot2 { blankExt with ty := .f16x2, d := .v 1, a := .v 2, b := .v 3, c := .v 4 })
    ∧ decode [0xE020D482, 0x5BC00956, 0x00000530]
        = .ok (.fcmp { blankExt with ty := .f32, sub := 13, d := .p 6, a := .v 1, b := .imm 15 })
    ∧ decode [0xE0200492, 0x5D000952, 0x00000530]
        = .ok (.fclass { blankExt with ty := .f32, d := .p 2, a := .v 1, b := .imm 20 })
    ∧ decode [0xE0A00502, 0x53001001, 0x00000530]
        = .ok (.cvt { blankExt with rnd := .rz, ty := .f32, sub := 0, d := .v 1, a := .v 2 })
    ∧ decode [0xE0188502, 0x53002202, 0x00000530]
        = .ok (.cvt { blankExt with ty := .s64, sub := 8, d := .v 2, a := .v 4, dw := .w2 })
    ∧ decode [0xE0001512, 0x53202001, 0x01800530]
        = .ok (.cvts { blankExt with sub := 1, d := .v 1, a := .v 4, aw := .w4, x := 3 })
    ∧ decode [0xE0000522, 0x5C304001, 0x01000530]
        = .ok (.qpk { blankExt with d := .v 1, a := .v 8, b := .imm 16, aw := .w8, x := 2 })
    ∧ decode [0xE0000532, 0x5C001E08, 0x03800530]
        = .ok (.qupk { blankExt with d := .v 8, a := .v 3, b := .imm 16, dw := .w8, x := 7 })
    ∧ decode [0x3C500600] = .ok (.rcpShort { blankShort with ty := .f32, d := .v 0, a := .v 20 })
    ∧ decode [0xE2200602, 0x5302803C, 0x00400530]
        = .ok (.rcp { blankExt with la := 1, ty := .f32, d := .v 60, a := .v 80, sat := true })
    ∧ decode [0x3C541610] = .ok (.rsqShort { blankShort with ty := .f32, d := .v 1, a := .v 21 })
    ∧ decode [0xE4200612, 0x5302883D, 0x00400530]
        = .ok (.rsq { blankExt with la := 2, ty := .f32, d := .v 61, a := .v 81, sat := true })
    ∧ decode [0x3C582620] = .ok (.sqrtShort { blankShort with ty := .f32, d := .v 2, a := .v 22 })
    ∧ decode [0xE6200622, 0x5302903E, 0x00400530]
        = .ok (.sqrt { blankExt with la := 3, ty := .f32, d := .v 62, a := .v 82, sat := true })
    ∧ decode [0x3C5C3630] = .ok (.exp2Short { blankShort with ty := .f32, d := .v 3, a := .v 23 })
    ∧ decode [0xE8200632, 0x5302983F, 0x00400530]
        = .ok (.exp2 { blankExt with la := 4, ty := .f32, d := .v 63, a := .v 83, sat := true })
    ∧ decode [0x3C604640] = .ok (.log2Short { blankShort with ty := .f32, d := .v 4, a := .v 24 })
    ∧ decode [0xEA200642, 0x5302A040, 0x00400530]
        = .ok (.log2 { blankExt with la := 5, ty := .f32, d := .v 64, a := .v 84, sat := true })
    ∧ decode [0x3C645650] = .ok (.sinShort { blankShort with ty := .f32, d := .v 5, a := .v 25 })
    ∧ decode [0xEC200652, 0x5302A841, 0x00400530]
        = .ok (.sin { blankExt with la := 6, ty := .f32, d := .v 65, a := .v 85, sat := true })
    ∧ decode [0x3C686660] = .ok (.cosShort { blankShort with ty := .f32, d := .v 6, a := .v 26 })
    ∧ decode [0xEE200662, 0x5302B042, 0x00400530]
        = .ok (.cos { blankExt with la := 7, ty := .f32, d := .v 66, a := .v 86, sat := true })
    ∧ decode [0x3C6C7670] = .ok (.tanhShort { blankShort with ty := .f32, d := .v 7, a := .v 27 })
    ∧ decode [0xF0200672, 0x5302B843, 0x00400530]
        = .ok (.tanh { blankExt with la := 8, ty := .f32, d := .v 67, a := .v 87, sat := true })
    ∧ decode [0x3C708680] = .ok (.sigmShort { blankShort with ty := .f32, d := .v 8, a := .v 28 })
    ∧ decode [0xF2200682, 0x5302C044, 0x00400530]
        = .ok (.sigm { blankExt with la := 9, ty := .f32, d := .v 68, a := .v 88, sat := true })
    ∧ decode [0x3C749690] = .ok (.erfShort { blankShort with ty := .f32, d := .v 9, a := .v 29 })
    ∧ decode [0xF4200692, 0x5302C845, 0x00400530]
        = .ok (.erf { blankExt with la := 10, ty := .f32, d := .v 69, a := .v 89, sat := true })
    ∧ decode [0x3C78A6A0] = .ok (.geluShort { blankShort with ty := .f32, d := .v 10, a := .v 30 })
    ∧ decode [0xF62006A2, 0x5302D046, 0x00400530]
        = .ok (.gelu { blankExt with la := 11, ty := .f32, d := .v 70, a := .v 90, sat := true })
    ∧ decode [0xE8200702, 0x44004C04, 0x00000533]
        = .ok (.mupd { blankExt with la := 4, ty := .f32, d := .v 4, a := .v 9, b := .s 16, dw := .w4, bw := .w8 })
    ∧ decode [0xE0240712, 0x53304153, 0x00000548]
        = .ok (.lsck { blankExt with ty := .bf16x2, d := .p 3, a := .v 8, c := .p 2, aw := .w8 })
    ∧ decode [0xE000072A, 0x53084B04, 0x00000530]
        = .ok (.lsupd { blankExt with uni := true, d := .s 4, a := .s 9, dw := .w2 })
    ∧ decode [0xE4200732, 0x53202001, 0x0000000C]
        = .ok (.gnrm { blankExt with la := 2, ty := .f32, d := .v 1, a := .v 4, c := .v 3, aw := .w4 }) := by
  and_intros <;> rfl

/-- Words of the memory family, written from R37, R41, R44, R46 and R59. -/
theorem test_decode_memory :
    decode [0xE63C0802, 0x00D03408, 0x068005FC]
        = .ok (.ld { blankExt with la := 3, ty := .b64, d := .v 8, a := .v 6, b := .v 3, c := .imm 31, dw := .w4, aw := .w2, x := 13 })
    ∧ decode [0xE0380812, 0x53103608, 0x80000530]
        = .ok (.st { blankExt with ty := .b32, d := .v 8, a := .v 6, dw := .w8, aw := .w2, x := 256 })
    ∧ decode [0x06F05820] = .ok (.ldlShort { blankShort with ty := .b32, d := .v 5, b := .v 6 })
    ∧ decode [0x06F05830] = .ok (.stlShort { blankShort with ty := .b32, d := .v 5, b := .v 6 })
    ∧ decode [0x06F05840] = .ok (.ldkShort { blankShort with ty := .b32, d := .v 5, b := .v 6 })
    ∧ decode [0xE4380823, 0x00CA6204, 0x00000534, 0x00000100, 0x00000000]
        = .ok (.ldl { blankExt with la := 2, ty := .b32, d := .v 4, b := .v 3, c := .lit, dw := .w2, lit := some 0x100 })
    ∧ decode [0xE0380832, 0x00CA6404, 0x000005D0]
        = .ok (.stl { blankExt with ty := .b32, d := .v 4, b := .v 3, c := .imm 20, dw := .w4 })
    ∧ decode [0xE038184A, 0x530A6104, 0x000005E0]
        = .ok (.ldk { blankExt with uni := true, ty := .b32, sub := 1, d := .s 4, c := .imm 24 })
    ∧ decode [0xE0000852, 0x5310114C, 0x10000530] = .ok (.pref { blankExt with a := .v 2, aw := .w2, x := 32 })
    ∧ decode [0xE000D862, 0x0110114C, 0x000005C4]
        = .ok (.cctl { blankExt with sub := 13, a := .v 2, b := .v 4, c := .imm 17, aw := .w2 })
    ∧ decode [0xE000187A, 0x530A614C, 0x00000530] = .ok (.phase { blankExt with uni := true, sub := 1 })
    ∧ decode [0xE000288A, 0x530A614C, 0x08000530] = .ok (.fence { blankExt with uni := true, sub := 2, x := 16 })
    ∧ decode [0xE000089A, 0x530BA14C, 0x00000530] = .ok (.cpart { blankExt with uni := true, a := .imm 20 })
    ∧ decode [0xE2047902, 0x53101001, 0x01800530]
        = .ok (.atom { blankExt with la := 1, ty := .n32, sub := 7, d := .v 1, a := .v 2, aw := .w2, x := 3 })
    ∧ decode [0xE03C0912, 0x53101404, 0x09000530]
        = .ok (.acas { blankExt with ty := .b64, d := .v 4, a := .v 2, dw := .w4, aw := .w2, x := 18 })
    ∧ decode [0xE0A40922, 0x53101001, 0x00000530]
        = .ok (.afadd { blankExt with rnd := .rz, ty := .bf16x2, d := .v 1, a := .v 2, aw := .w2 })
    ∧ decode [0xE03C4932, 0x00501208, 0x000005A0]
        = .ok (.red { blankExt with ty := .b64, sub := 4, d := .v 8, a := .v 2, b := .v 1, c := .imm 8, dw := .w2, aw := .w2 })
    ∧ decode [0xE0181942, 0x00401206, 0x000005C0]
        = .ok (.patom { blankExt with ty := .s64, sub := 1, d := .v 6, a := .v 2, b := .v 1, c := .imm 16, dw := .w2 }) := by
  and_intros <;> rfl

/-- Words of the crossing family, written from R37, R41, R44, R46 and R59. -/
theorem test_decode_crossing :
    decode [0xE0381A02, 0x53204404, 0x7F800530]
        = .ok (.xch { blankExt with ty := .b32, sub := 1, d := .v 4, a := .v 8, dw := .w4, aw := .w4, x := 255 })
    ∧ decode [0xE0202A12, 0x53001001, 0x00000530]
        = .ok (.xred { blankExt with ty := .f32, sub := 2, d := .v 1, a := .v 2 })
    ∧ decode [0xEA3C0A22, 0x01402202, 0x00000530]
        = .ok (.pld { blankExt with la := 5, ty := .b64, d := .v 2, a := .v 4, b := .v 5, dw := .w2 })
    ∧ decode [0xE0380A32, 0x014B9801, 0x000005D0]
        = .ok (.pst { blankExt with ty := .b32, d := .v 1, a := .imm 19, b := .v 5, c := .imm 20 })
    ∧ decode [0xE0000A42, 0x53104001, 0x00000530]
        = .ok (.ptrc { blankExt with sub := 0, d := .v 1, a := .v 8, aw := .w2 })
    ∧ decode [0xE0001A42, 0x01904202, 0x00000530]
        = .ok (.ptrc { blankExt with sub := 1, d := .v 2, a := .v 8, b := .v 6, dw := .w2, aw := .w2 })
    ∧ decode [0xE0003A42, 0x01904202, 0x00000531]
        = .ok (.ptrc { blankExt with sub := 3, d := .v 2, a := .v 8, b := .v 6, dw := .w2, aw := .w2, bw := .w2 })
    ∧ decode [0xE0004A42, 0x53104151, 0x00000530]
        = .ok (.ptrc { blankExt with sub := 4, d := .p 1, a := .v 8, aw := .w2 })
    ∧ decode [0xE0006A42, 0x53104151, 0x00000530]
        = .ok (.ptrc { blankExt with sub := 6, d := .p 1, a := .v 8, aw := .w2 })
    ∧ decode [0xE2383A52, 0x5C401001, 0x02800530]
        = .ok (.shfl { blankExt with la := 1, ty := .b32, sub := 3, d := .v 1, a := .v 2, b := .imm 17, x := 5 })
    ∧ decode [0xE2000A6A, 0x5318114C, 0x01800530]
        = .ok (.bset { blankExt with uni := true, la := 1, a := .s 2, aw := .w2, x := 3 })
    ∧ decode [0xE03C0A72, 0x53102202, 0x00800530]
        = .ok (.bperm { blankExt with ty := .b64, d := .v 2, a := .v 4, dw := .w2, aw := .w2, x := 1 })
    ∧ decode [0xE03C5A82, 0x53102202, 0x00000530]
        = .ok (.redx { blankExt with ty := .b64, sub := 5, d := .v 2, a := .v 4, dw := .w2, aw := .w2 }) := by
  and_intros <;> rfl

/-- Words of the commands family, written from R37, R41, R44, R46 and R59. -/
theorem test_decode_commands :
    decode [0xE0000B0A, 0x42984504, 0x07000C31]
        = .ok (.cpy { blankExt with uni := true, d := .s 4, a := .s 8, b := .s 10, c := .s 12, dw := .w4, aw := .w2, bw := .w2, cw := .w2, x := 14 })
    ∧ decode [0xE0000B1A, 0x42984504, 0x00001C41]
        = .ok (.cpy2 { blankExt with uni := true, d := .s 4, a := .s 8, b := .s 10, c := .s 16, dw := .w4, aw := .w2, bw := .w2, cw := .w8 })
    ∧ decode [0xE0000B2A, 0x53184504, 0x00000C30]
        = .ok (.cpyz { blankExt with uni := true, d := .s 4, a := .s 8, c := .s 12, dw := .w4, aw := .w2, cw := .w2 })
    ∧ decode [0xE0000B8A, 0x42984504, 0x00001431]
        = .ok (.cpyx { blankExt with uni := true, d := .s 4, a := .s 8, b := .s 10, c := .s 12, dw := .w4, aw := .w2, bw := .w2, cw := .w4 })
    ∧ decode [0xE0000B3A, 0x53082101, 0x00000530] = .ok (.cwait { blankExt with uni := true, d := .s 1, a := .s 4 })
    ∧ decode [0xE0000B4A, 0x53184504, 0x00000424]
        = .ok (.bzero { blankExt with uni := true, d := .s 4, a := .s 8, c := .s 9, dw := .w4, aw := .w2 })
    ∧ decode [0xE0000B5A, 0x42984504, 0x00000435]
        = .ok (.bcopy { blankExt with uni := true, d := .s 4, a := .s 8, b := .s 10, c := .s 13, dw := .w4, aw := .w2, bw := .w2 })
    ∧ decode [0xE0000B6A, 0x42984504, 0x00000435]
        = .ok (.bcmp { blankExt with uni := true, d := .s 4, a := .s 8, b := .s 10, c := .s 13, dw := .w4, aw := .w2, bw := .w2 })
    ∧ decode [0xE0000B7A, 0x530A614C, 0x02000530] = .ok (.bfence { blankExt with uni := true, x := 4 })
    ∧ decode [0xE000AC0A, 0x4228214C, 0x68800532]
        = .ok (.mma { blankExt with uni := true, sub := 10, a := .s 4, b := .s 8, aw := .w4, bw := .w4, x := 209 })
    ∧ decode [0xE0003C1A, 0x4228214C, 0x14000532]
        = .ok (.mmat { blankExt with uni := true, sub := 3, a := .s 4, b := .s 8, aw := .w4, bw := .w4, x := 40 })
    ∧ decode [0xE0002C2A, 0x530A614C, 0x00000530] = .ok (.mzero { blankExt with uni := true, sub := 2 })
    ∧ decode [0xE0001C3A, 0x5328214C, 0x03800530]
        = .ok (.mldz { blankExt with uni := true, sub := 1, a := .s 4, aw := .w4, x := 7 })
    ∧ decode [0xE000CC4A, 0x5328214C, 0x41800530]
        = .ok (.mst { blankExt with uni := true, sub := 12, a := .s 4, aw := .w4, x := 131 })
    ∧ decode [0xE0000C5A, 0x530A6103, 0x00000530] = .ok (.mfence { blankExt with uni := true, d := .s 3 })
    ∧ decode [0xE0000C6A, 0x5308194C, 0x00000530] = .ok (.mwait { blankExt with uni := true, a := .s 3 })
    ∧ decode [0xE2003C7A, 0x530A6508, 0x00000530]
        = .ok (.mstat { blankExt with uni := true, la := 1, sub := 3, d := .s 8, dw := .w4 })
    ∧ decode [0xE0000D0A, 0x4118114C, 0x07800C19]
        = .ok (.mrgOpen { blankExt with uni := true, a := .s 2, b := .s 4, c := .s 6, aw := .w2, bw := .w2, cw := .w2, x := 15 })
    ∧ decode [0xE0000D1A, 0x4118114C, 0x00000419]
        = .ok (.mrgPut { blankExt with uni := true, a := .s 2, b := .s 4, c := .s 6, aw := .w2, bw := .w2 })
    ∧ decode [0xE0000D2A, 0x5D58114C, 0x03000530]
        = .ok (.mrgEnd { blankExt with uni := true, a := .s 2, b := .imm 21, aw := .w2, x := 6 })
    ∧ decode [0xE0000D3A, 0x53181101, 0x00000530]
        = .ok (.mrgWait { blankExt with uni := true, d := .s 1, a := .s 2, aw := .w2 })
    ∧ decode [0xE2004D4A, 0x53181101, 0x00000530]
        = .ok (.mrgStat { blankExt with uni := true, la := 1, sub := 4, d := .s 1, a := .s 2, aw := .w2 })
    ∧ decode [0xE0000D5A, 0x4158114C, 0x00000530]
        = .ok (.mrgRank { blankExt with uni := true, a := .s 2, b := .s 5, aw := .w2 })
    ∧ decode [0xE0000D6A, 0x5318114C, 0x00000530] = .ok (.mrgDrop { blankExt with uni := true, a := .s 2, aw := .w2 }) := by
  and_intros <;> rfl

/-- Words of the system family, written from R37, R41, R44, R46 and R59. -/
theorem test_decode_system :
    decode [0xE0000E0A, 0x530A614C, 0x07800530] = .ok (.bar { blankExt with uni := true, x := 15 })
    ∧ decode [0xE0000E1A, 0x530A614C, 0x00800530] = .ok (.gbar { blankExt with uni := true, x := 1 })
    ∧ decode [0xE0000E2A, 0x418B9105, 0x050005C0]
        = .ok (.arrv { blankExt with uni := true, d := .s 5, a := .imm 18, b := .s 6, c := .imm 16, x := 10 })
    ∧ decode [0xE0000E3A, 0x53083905, 0x04800530]
        = .ok (.waitb { blankExt with uni := true, d := .s 5, a := .s 7, x := 9 })
    ∧ decode [0xE0000E4A, 0x53181101, 0x07000530]
        = .ok (.launch { blankExt with uni := true, d := .s 1, a := .s 2, aw := .w2, x := 14 })
    ∧ decode [0xE0000E5A, 0x53181101, 0x00800530]
        = .ok (.tape { blankExt with uni := true, sub := 0, d := .s 1, a := .s 2, aw := .w2, x := 1 })
    ∧ decode [0xE0001E5A, 0x530A6302, 0x00000530]
        = .ok (.tape { blankExt with uni := true, sub := 1, d := .s 2, dw := .w2 })
    ∧ decode [0xE0000E6A, 0x53081101, 0x00000530] = .ok (.gwait { blankExt with uni := true, d := .s 1, a := .s 2 })
    ∧ decode [0xE0000F0A, 0x530A614C, 0x7F800530] = .ok (.trap { blankExt with uni := true, x := 255 })
    ∧ decode [0xE0000F1A, 0x530A614C, 0x00000530] = .ok (.tret { blankExt with uni := true })
    ∧ decode [0xE0000F2A, 0x53182302, 0x00000530]
        = .ok (.chkerr { blankExt with uni := true, d := .s 2, a := .s 4, dw := .w2, aw := .w2 })
    ∧ decode [0xF2000F3A, 0x530A6302, 0x04800530]
        = .ok (.rdctr { blankExt with uni := true, la := 9, d := .s 2, dw := .w2, x := 9 })
    ∧ decode [0x3CF3CF40] = .ok (.bkptShort blankShort)
    ∧ decode [0xE0000F42, 0x530A614C, 0x00000530] = .ok (.bkpt blankExt)
    ∧ decode [0xE0000F5A, 0x530A6101, 0x02800530] = .ok (.sysr { blankExt with uni := true, d := .s 1, x := 5 })
    ∧ decode [0xE0000F6A, 0x5318114C, 0x00800530]
        = .ok (.sysw { blankExt with uni := true, a := .s 2, aw := .w2, x := 1 }) := by
  and_intros <;> rfl
/-! ### The machine of the tests -/

/-- A launch record of a mode: a pool of 64 KiB, 4 private words, a bank of 64 bytes, and format slots for INT8, INT8 with
zero points, TRN2 and FP16. -/
def recordIn (mode : Nat) : Record :=
  { Record.empty with mode := mode, nreg := 8, poolw := 64, pwords := 4, csize := 64
                      slots := [0x3F80000000000005, 0x3F80000000000006, 0x3F80000000000008, 0x3F80000000000002] }

/-- The warp that issues: only thread 0 holds 1 in P1. -/
def seated (mode : Nat) : Warp :=
  let x := newWarp (recordIn mode) 0 0 0 0 3 0 0
  { x with regs := { x.regs with p := [0, 1, 0, 0, 0, 0, 0, 0] } }

/-- A machine whose column 0 has one warp about to issue, number 4, changed by `g`: context 1, gang 2 of grid 1, block 3,
four ways of the scratchpad, and a page of column memory. -/
def bed (mode : Nat) (g : Warp → Warp := id) : State :=
  let page : TlbEntry :=
    { asid := 1, lcol := 0, page := 0, shift := 16, base := 2 ^ 20, host := false, slot := 1, read := true, write := true
      exec := true, kind := 0 }
  { State.reset with
    cur := some 4, agenda := [.issue 4], nextId := 10
    warps := [(4, g (seated mode))]
    blocks := [(3, { gang := 2, g := 0, col := 0, core := 0, nwarp := 1, oct := 8, tiles := List.replicate 4 Tile.clear,
                     bar := [], poison := false, lost := false, retired := false, counted := [],
                     queue := [] })]
    gangs := [(2, { grid := 1, index := 0, columns := [0], m := 1, size := 1, base := 0, pool := [(0, 0)], gbar := [],
                    held := [], lnum := [], relaunch := 0, peers := [], state := .running })]
    grids := [(1, { newGrid 1 1 (recordIn mode).bytes 0 with
      rcd := recordIn mode, next := 1, tvec := [(0, 0)], tframe := [(0, 0)] })]
    columns := [(0, { Column.reset with tlb := [page], cwp := 4 })], cores := [(0, Core.idle)]
    contexts := [(1, { Context.empty with live := true, map := [(0, 0)] })], keys := [(1, (1, 1))]
    dev := { Dev.reset with bootst := 4 } }

/-- A warp with some S registers, from S0. -/
def withS (ws : List Nat) (x : Warp) : Warp :=
  { x with regs := { x.regs with s := (List.range 64).map fun i => ⟨BitVec.ofNat 32 (ws.getD i 0), false⟩ } }

/-- A warp with every V register below 8 live and holding its number plus its thread. -/
def withV (x : Warp) : Warp :=
  { x with regs := { x.regs with v := (List.range 8).map fun n =>
      (n, { phys := 100 + n, lanes := { val := (List.range 64).map fun t => BitVec.ofNat 32 (n + t), poison := 0 } }) } }

/-- A warp whose run has executed nothing and whose threads are all active passes the gate. -/
theorem opens_at (s : State) (w : Nat) (x : Warp) (f : Fields) (op : Opcode) (hp : x.pend = []) (hx : x.rest = none)
    (hc : x.theRun.count = 0) (hs : x.theRun.stores = 0) (ha : x.theRun.work.nc = List.replicate 64 0)
    (hm : (s.recOf x).mode ≠ 1) : Opens (s.cx w x f) op := by
  refine ⟨?_, ?_, ?_, fun _ => ?_, ?_, fun k => absurd k hm, fun _ => ?_⟩
  · simp [State.cx, hp]
  · simp [Cx.behindRest, State.cx, hx]
  · simp [State.cx, hc]
  · simp [State.cx, hs]
  · have e : (s.cx w x f).act = maskOf fun t => (List.replicate 64 (0 : BitVec 8)).getD t 255 == 0 := by
      simp only [State.cx, Regs.active, ha]
    rw [e]; decide +kernel
  · simp [Cx.stalls, State.cx, hp]

theorem opens_idle (s : State) (w : Nat) (x : Warp) (f : Fields) (op : Opcode) (hp : x.pend = []) (hx : x.rest = none)
    (hr : x.run = none) (ha : x.regs.nc = List.replicate 64 0) (hm : (s.recOf x).mode ≠ 1) : Opens (s.cx w x f) op := by
  have h : x.theRun = x.newRun := by simp [Warp.theRun, hr]
  exact opens_at s w x f op hp hx (by rw [h]; rfl) (by rw [h]; rfl) (by rw [h]; exact ha) hm

/-! ### Every statement about an instruction has a machine and operands that meet its hypotheses -/

/-- The hypotheses of `Now.Holds`. -/
def MetNow (k : Now) : Prop :=
  ∃ (s : State) (w : Nat) (x : Warp) (f : Fields), Issuing s w x ∧ k.pre (s.cx w x f) = true ∧ Opens (s.cx w x f) k.op
    ∧ k.ok (atIssue s w x k.op f)
    ∧ Roomy (k.base (atIssue s w x k.op f)) (groupSize (atIssue s w x k.op f) (k.vals (atIssue s w x k.op f)).length)

/-- The hypotheses of `Later.Holds`. -/
def MetLater (k : Later) : Prop :=
  ∃ (s : State) (w : Nat) (x : Warp) (f : Fields), Issuing s w x ∧ k.pre (s.cx w x f) = true ∧ Opens (s.cx w x f) k.op
    ∧ k.ok (atIssue s w x k.op f)
    ∧ Roomy (k.base (atIssue s w x k.op f)) (groupSize (atIssue s w x k.op f) (k.vals (atIssue s w x k.op f)).length)

/-- The hypotheses of `Direct.Holds`. -/
def MetDirect (k : Direct) : Prop :=
  ∃ (s : State) (w : Nat) (x : Warp) (f : Fields), Issuing s w x ∧ k.pre (s.cx w x f) = true ∧ Opens (s.cx w x f) k.op
    ∧ k.ok (atIssue s w x k.op f)

/-- The hypotheses of `Sets.Holds`. -/
def MetSets (k : Sets) : Prop :=
  ∃ (s : State) (w : Nat) (x : Warp) (f : Fields), Issuing s w x ∧ Opens (s.cx w x f) k.op ∧ k.ok (atIssue s w x k.op f)

/-- The hypotheses of `Structural.Holds`. -/
def MetStructural (k : Structural) : Prop :=
  ∃ (s : State) (w : Nat) (x : Warp) (f : Fields), Issuing s w x ∧ Admits (s.cx w x f) k.op
    ∧ k.ok (admitted (s.cx w x f) k.op)

/-- The hypotheses of `Faulting.Holds`, its fault among them. -/
def MetFaulting (k : Faulting) : Prop :=
  ∃ (s : State) (w : Nat) (x : Warp) (f : Fields), Issuing s w x ∧ k.pre (s.cx w x f) = true ∧ Opens (s.cx w x f) k.op
    ∧ (k.fault (atIssue s w x k.op f)).isSome = true

theorem consumed_mode (c : Cx) (m : Mask) (n : Nat) (h : c.mode = n) : (c.consume m).mode = n := by
  subst h; exact congrArg Record.mode (consume_recOf _ _ _ _)

theorem seated_mode (m : Nat) (h : m = 0 ∨ m = 2) : ((bed m).recOf (seated m)).mode ≠ 1 := by
  obtain rfl | rfl := h <;> decide +kernel

theorem issue_mode (op : Opcode) (f : Fields) : (atIssue (bed 2) 4 (seated 2) op f).mode = 2 := by
  have h : (atIssue (bed 2) 4 (seated 2) op f).mode = ((bed 2).recOf (seated 2)).mode := rfl
  rw [h]; decide +kernel

theorem met_now (k : Now) (f : Fields) (h1 : k.pre ((bed 2).cx 4 (seated 2) f) = true)
    (h3 : k.ok (atIssue (bed 2) 4 (seated 2) k.op f)) (h4 : (k.base (atIssue (bed 2) 4 (seated 2) k.op f)).mode = 2) :
    MetNow k :=
  ⟨bed 2, 4, seated 2, f, ⟨rfl, rfl⟩, h1, opens_idle _ _ _ _ _ rfl rfl rfl rfl (seated_mode 2 (.inr rfl)), h3, .inl h4⟩

theorem met_later (k : Later) (g : Warp → Warp) (f : Fields) (hp : (g (seated 2)).pend = [])
    (hx : (g (seated 2)).rest = none) (hr : (g (seated 2)).run = none)
    (ha : (g (seated 2)).regs.nc = List.replicate 64 0) (hm : ((bed 2 g).recOf (g (seated 2))).mode ≠ 1)
    (h1 : k.pre ((bed 2 g).cx 4 (g (seated 2)) f) = true) (h3 : k.ok (atIssue (bed 2 g) 4 (g (seated 2)) k.op f))
    (h4 : (k.base (atIssue (bed 2 g) 4 (g (seated 2)) k.op f)).mode = 2) : MetLater k :=
  ⟨bed 2 g, 4, g (seated 2), f, ⟨rfl, rfl⟩, h1, opens_idle _ _ _ _ _ hp hx hr ha hm, h3, .inl h4⟩

theorem met_direct (k : Direct) (g : Warp → Warp) (f : Fields) (hp : (g (seated 0)).pend = [])
    (hx : (g (seated 0)).rest = none) (hr : (g (seated 0)).run = none) (ha : (g (seated 0)).regs.nc = List.replicate 64 0) (hm : ((bed 0 g).recOf (g (seated 0))).mode ≠ 1)
    (h1 : k.pre ((bed 0 g).cx 4 (g (seated 0)) f) = true) (h3 : k.ok (atIssue (bed 0 g) 4 (g (seated 0)) k.op f)) :
    MetDirect k :=
  ⟨bed 0 g, 4, g (seated 0), f, ⟨rfl, rfl⟩, h1, opens_idle _ _ _ _ _ hp hx hr ha hm, h3⟩

theorem met_sets (k : Sets) (f : Fields) (h3 : k.ok (atIssue (bed 0) 4 (seated 0) k.op f)) : MetSets k :=
  ⟨bed 0, 4, seated 0, f, ⟨rfl, rfl⟩, opens_idle _ _ _ _ _ rfl rfl rfl rfl (seated_mode 0 (.inl rfl)), h3⟩

theorem met_faulting (k : Faulting) (g : Warp → Warp) (f : Fields) (hp : (g (seated 0)).pend = [])
    (hx : (g (seated 0)).rest = none) (hr : (g (seated 0)).run = none) (ha : (g (seated 0)).regs.nc = List.replicate 64 0) (hm : ((bed 0 g).recOf (g (seated 0))).mode ≠ 1)
    (h1 : k.pre ((bed 0 g).cx 4 (g (seated 0)) f) = true)
    (h3 : (k.fault (atIssue (bed 0 g) 4 (g (seated 0)) k.op f)).isSome = true) : MetFaulting k :=
  ⟨bed 0 g, 4, g (seated 0), f, ⟨rfl, rfl⟩, h1, opens_idle _ _ _ _ _ hp hx hr ha hm, h3⟩

/-- A table whose rows ask nothing more of the machine and consume their operands. -/
theorem witness_arithmetic : ∀ k ∈ arithmeticTable, MetNow k := by
  simp only [arithmeticTable, List.forall_mem_cons]
  repeat' apply And.intro
  all_goals first
    | exact List.forall_mem_nil _
    | exact met_now _ { blankExt with d := .v 1 } rfl trivial (consumed_mode _ _ _ (issue_mode _ _))

/-- In native mode too, with a V destination that takes a physical register. -/
theorem witness_arithmetic_native : ∃ f, f.d = .v 1 ∧ Issuing (bed 0) 4 (seated 0)
    ∧ let k : Now := onInts .iadd .iadd (· + ·)
      let c := atIssue (bed 0) 4 (seated 0) .iadd f
      k.pre ((bed 0).cx 4 (seated 0) f) = true ∧ Opens ((bed 0).cx 4 (seated 0) f) .iadd
        ∧ Roomy (k.base c) (groupSize c (k.vals c).length) :=
  ⟨{ blankExt with d := .v 1 }, rfl, ⟨rfl, rfl⟩, rfl,
    opens_idle _ _ _ _ _ rfl rfl rfl rfl (seated_mode 0 (.inl rfl)),
    .inr ⟨by decide +kernel, by decide +kernel, by decide +kernel⟩⟩

theorem witness_addresses : ∀ k ∈ addressTable, MetNow k := by
  simp only [addressTable, List.forall_mem_cons]
  repeat' apply And.intro
  all_goals first
    | exact List.forall_mem_nil _
    | exact met_now _ { blankExt with d := .v 2, dw := .w2 } rfl trivial (consumed_mode _ _ _ (issue_mode _ _))

theorem witness_totals : ∀ k ∈ totalTable, MetNow k := by
  simp only [totalTable, List.forall_mem_cons]
  repeat' apply And.intro
  all_goals first
    | exact List.forall_mem_nil _
    | exact met_now _ { blankExt with d := .v 1 } rfl trivial (consumed_mode _ _ _ (issue_mode _ _))

theorem witness_logic : ∀ k ∈ logicTable, MetNow k := by
  simp only [logicTable, List.forall_mem_cons]
  repeat' apply And.intro
  all_goals first
    | exact List.forall_mem_nil _
    | exact met_now _ { blankExt with d := .v 1 } rfl trivial (consumed_mode _ _ _ (issue_mode _ _))

theorem witness_counts : ∀ k ∈ countTable, MetNow k := by
  simp only [countTable, List.forall_mem_cons]
  repeat' apply And.intro
  all_goals first
    | exact List.forall_mem_nil _
    | exact met_now _ { blankExt with d := .v 1 } rfl trivial (consumed_mode _ _ _ (issue_mode _ _))

theorem witness_packing : ∀ k ∈ packTable, MetNow k := by
  simp only [packTable, List.forall_mem_cons]
  repeat' apply And.intro
  all_goals first
    | exact List.forall_mem_nil _
    | exact met_now _ { blankExt with d := .v 1 } rfl trivial (consumed_mode _ _ _ (issue_mode _ _))

theorem witness_floating : ∀ k ∈ floatTable, MetNow k := by
  simp only [floatTable, List.forall_mem_cons]
  repeat' apply And.intro
  all_goals first
    | exact List.forall_mem_nil _
    | exact met_now _ { blankExt with ty := .f32, d := .v 1 } rfl trivial (consumed_mode _ _ _ (issue_mode _ _))

/-- CVT; CVTS both ways of INT8; QPK of INT8 with zero points; SREAD. -/
theorem witness_conversions : ∀ k ∈ convertTable, MetNow k := by
  simp only [convertTable, List.forall_mem_cons]
  exact ⟨met_now _ { blankExt with ty := .f32, d := .v 1 } rfl rfl (consumed_mode _ _ _ (issue_mode _ _)),
    met_now _ { blankExt with d := .v 4, dw := .w4 } (by decide +kernel) rfl (consumed_mode _ _ _ (issue_mode _ _)),
    met_now _ { blankExt with sub := 1, d := .v 4, a := .v 0, aw := .w4 } (by decide +kernel)
      (nofun : ¬ (1 : BitVec 6) = 0) (consumed_mode _ _ _ (issue_mode _ _)),
    met_now _ { blankExt with d := .v 4, a := .v 0, aw := .w4, x := 1 } (by decide +kernel) trivial
      (consumed_mode _ _ _ (issue_mode _ _)),
    met_now _ { blankExt with ty := .b32, d := .v 1 } rfl trivial (consumed_mode _ _ _ (issue_mode _ _)), nofun⟩

theorem witness_pointers : ∀ k ∈ pointerTable, MetNow k := by
  simp only [pointerTable, List.forall_mem_cons]
  exact ⟨met_now _ { blankExt with d := .v 1, a := .v 2, aw := .w2 } rfl rfl (consumed_mode _ _ _ (issue_mode _ _)),
    met_now _ { blankExt with sub := 1, d := .v 2, dw := .w2, a := .v 2, aw := .w2 } rfl rfl
      (consumed_mode _ _ _ (issue_mode _ _)),
    met_now _ { blankExt with sub := 2, d := .v 2, dw := .w2, a := .v 2, aw := .w2 } rfl rfl
      (consumed_mode _ _ _ (issue_mode _ _)),
    met_now _ { blankExt with sub := 3, d := .v 2, dw := .w2, a := .v 2, aw := .w2 } rfl rfl
      (consumed_mode _ _ _ (issue_mode _ _)),
    met_now _ { blankExt with sub := 5, d := .v 2, dw := .w2, a := .v 2, aw := .w2 } rfl rfl
      (consumed_mode _ _ _ (issue_mode _ _)), nofun⟩

theorem witness_moves : ∀ k ∈ moveTable, MetNow k := by
  simp only [moveTable, List.forall_mem_cons]
  exact ⟨met_now _ { blankExt with ty := .b32, d := .v 1 } rfl trivial (consumed_mode _ _ _ (issue_mode _ _)),
    met_now _ { blankExt with ty := .b32, d := .v 1 } rfl trivial (issue_mode _ _),
    met_now _ { blankShort with ty := .b32, d := .v 1 } rfl trivial (issue_mode _ _),
    met_now _ { blankExt with d := .v 4, dw := .w4, x := 1 } (by decide +kernel) trivial (by decide +kernel),
    met_now _ { blankExt with sub := 2, d := .s 2, dw := .w2, a := .p 1 } rfl rfl (issue_mode _ _),
    met_now _ { blankExt with sub := 4, d := .s 2, a := .p 1 } rfl rfl (issue_mode _ _),
    met_now _ { blankExt with sub := 5, d := .s 2, a := .p 1 } rfl rfl (issue_mode _ _), nofun⟩

theorem witness_predicates : ∀ k ∈ predicateTable, MetSets k := by
  simp only [predicateTable, List.forall_mem_cons]
  exact ⟨met_sets _ { blankExt with d := .p 1 } trivial, met_sets _ { blankExt with ty := .f32, d := .p 1 } trivial,
    met_sets _ { blankExt with ty := .f32, d := .p 6 } trivial,
    met_sets _ { blankExt with d := .p 0, a := .p 7, b := .p 1 } trivial,
    met_sets _ { blankExt with ty := .b32, d := .p 1 } rfl, met_sets _ { blankExt with ty := .b64, d := .p 1 } rfl,
    met_sets _ { blankExt with ty := .f32, d := .p 1, a := .v 2 } trivial,
    met_sets _ { blankExt with sub := 4, d := .p 1, a := .v 2, aw := .w2 } rfl,
    met_sets _ { blankExt with sub := 6, d := .p 1, a := .v 2, aw := .w2 } rfl, nofun⟩

theorem witness_votes : ∀ k ∈ voteTable, MetSets k := by
  simp only [voteTable, List.forall_mem_cons]
  exact ⟨met_sets _ { blankExt with d := .p 1, a := .p 7 } rfl,
    met_sets _ { blankExt with sub := 1, d := .p 1, a := .p 7 } rfl,
    met_sets _ { blankExt with sub := 3, d := .p 1, a := .p 7 } rfl, nofun⟩

theorem witness_slow : ∀ k ∈ slowTable, MetLater k := by
  simp only [slowTable, List.forall_mem_cons]
  repeat' apply And.intro
  all_goals first
    | exact List.forall_mem_nil _
    | exact met_later _ id { blankExt with ty := .f32, d := .v 1, la := 2 } rfl rfl rfl rfl
        (seated_mode 2 (.inr rfl)) rfl trivial (consumed_mode _ _ _ (issue_mode _ _))
   

/-- A warp inside a loop. -/
def nested (x : Warp) : Warp := { x with regs := { x.regs with depth := 1, ldep := 1 } }

theorem nested_mode : ((bed 0 nested).recOf (nested (seated 0))).mode ≠ 1 := by decide +kernel

theorem met_structural (k : Structural) (f : Fields)
    (h3 : k.ok (admitted ((bed 0 nested).cx 4 (nested (seated 0)) f) k.op)) : MetStructural k :=
  let o := opens_idle (bed 0 nested) 4 (nested (seated 0)) f k.op rfl rfl rfl rfl nested_mode
  ⟨bed 0 nested, 4, nested (seated 0), f, ⟨rfl, rfl⟩, ⟨o.1, o.2.1, o.2.2.1, o.2.2.2.1, fun _ => o.2.2.2.2.2⟩, h3⟩

theorem witness_structures : ∀ k ∈ structuralTable, MetStructural k := by
  simp only [structuralTable, List.forall_mem_cons]
  exact ⟨met_structural _ { blankExt with a := .lit, b := .p 1, lit := some 8 } (by unfold canNest; decide +kernel),
    met_structural _ { blankExt with a := .lit, lit := some 8 } (by change _ ≠ 0; decide +kernel),
    met_structural _ blankExt (by change _ ≠ 0; decide +kernel), met_structural _ blankExt (by change _ ≠ 0; decide +kernel),
    met_structural _ blankExt (by change canNest _; unfold canNest; decide +kernel),
    met_structural _ blankExt (by change canNest _; unfold canNest; decide +kernel),
    met_structural _ { blankExt with b := .p 1 } (by change _ ≠ 0; decide +kernel),
    met_structural _ { blankExt with b := .p 1 } (by change _ ≠ 0; decide +kernel),
    met_structural _ { blankExt with a := .lit, lit := some 8 } (by change _ ≠ 0; decide +kernel),
    met_structural _ blankExt trivial, met_structural _ blankExt trivial, nofun⟩

/-- A structural instruction with no thread active. -/
theorem witness_structure_idle : ∃ s w x f, Issuing s w x ∧ Admits (s.cx w x f) .elseBlock ∧ (s.cx w x f).act = 0
    ∧ (admitted (s.cx w x f) .elseBlock).r.work.depth ≠ 0 :=
  let g (x : Warp) : Warp := { nested x with regs := { (nested x).regs with nc := List.replicate 64 1 } }
  ⟨bed 0 g, 4, g (seated 0), { blankExt with a := .lit, lit := some 8 }, ⟨rfl, rfl⟩,
    ⟨by decide +kernel, rfl, by decide +kernel, by decide +kernel, fun h => absurd (by decide +kernel) h⟩, by decide +kernel,
    by decide +kernel⟩

/-- A warp in its handler. -/
def handling (x : Warp) : Warp := { x with hmode := true }

theorem handling_mode : ((bed 0 handling).recOf (handling (seated 0))).mode ≠ 1 := by decide +kernel

theorem witness_control : ∀ k ∈ controlTable, MetDirect k := by
  simp only [controlTable, List.forall_mem_cons]
  repeat' apply And.intro
  all_goals first
    | exact List.forall_mem_nil _
    | exact met_direct _ handling { blankExt with uni := true, d := .s 2, dw := .w2, a := .s 4, aw := .w2 } rfl rfl
        rfl rfl handling_mode rfl trivial
    | exact met_direct _ handling { blankExt with uni := true } rfl rfl rfl rfl handling_mode rfl (fun _ => rfl)
   

theorem witness_breaks : ∀ k ∈ breakTable, MetDirect k := by
  simp only [breakTable, List.forall_mem_cons]
  exact ⟨met_direct _ (fun x => { x with bskip := some 0 }) blankExt rfl rfl rfl rfl (by decide +kernel) rfl
      (.inr ⟨rfl, rfl⟩),
    met_direct _ id { blankShort with gp := 2 } rfl rfl rfl rfl (seated_mode 0 (.inl rfl)) rfl
      (.inl (by decide +kernel)), nofun⟩

theorem met_plain (k : Direct) (f : Fields) (h1 : k.pre ((bed 0).cx 4 (seated 0) f) = true)
    (h3 : k.ok (atIssue (bed 0) 4 (seated 0) k.op f)) : MetDirect k :=
  met_direct k id f rfl rfl rfl rfl (seated_mode 0 (.inl rfl)) h1 h3

/-- Does a place lie inside? -/
def placed {α : Type} (e : Except Cause α) : Bool := match e with | .ok _ => true | .error _ => false

theorem exists_of_placed {α : Type} {e : Except Cause α} (h : placed e = true) : ∃ p, e = .ok p := by
  cases e with
  | ok p => exact ⟨p, rfl⟩
  | error _ => exact absurd h (by simp [placed])

theorem witness_commands : ∀ k ∈ commandTable, MetDirect k := by
  simp only [commandTable, List.forall_mem_cons]
  exact ⟨met_plain _ { blankExt with uni := true, a := .s 1 } rfl ⟨trivial, fun _ _ => trivial⟩,
    met_plain _ { blankExt with uni := true, sub := 1, x := 8 } rfl ⟨trivial, fun _ _ => trivial⟩,
    met_plain _ { blankExt with uni := true, a := .imm 20 } rfl ⟨trivial, fun _ _ => by decide +kernel⟩,
    met_plain _ { blankExt with uni := true, d := .s 2, dw := .w2, x := 1 } rfl ⟨trivial, fun _ _ => .inl (by decide +kernel)⟩,
    met_plain _ { blankExt with uni := true, a := .s 2, aw := .w2, x := 1 } rfl ⟨trivial, fun _ _ => trivial⟩,
    met_plain _ { blankExt with ty := .b32, a := .s 2, x := 0x2A } rfl trivial,
    met_plain _ { blankExt with uni := true, d := .s 2, dw := .w2, a := .s 1 } rfl ⟨trivial, fun _ _ => trivial⟩,
    met_plain _ { blankExt with uni := true, d := .s 2, dw := .w2, a := .s 4, aw := .w2 } rfl
      ⟨trivial, fun _ _ => by decide +kernel⟩,
    met_plain _ { blankExt with uni := true, d := .s 2, a := .imm 16 } rfl
      ⟨trivial, fun _ _ => exists_of_placed (by decide +kernel)⟩,
    met_plain _ { blankExt with uni := true, d := .s 2, a := .s 4, aw := .w2 } rfl ⟨trivial, fun _ _ => by decide +kernel⟩,
    met_plain _ { blankExt with uni := true, d := .s 2, a := .s 4, aw := .w2 } rfl ⟨rfl, fun _ _ => by decide +kernel⟩,
    met_plain _ { blankExt with uni := true, sub := 1, d := .s 2, dw := .w2 } rfl ⟨rfl, fun _ _ => trivial⟩,
    met_plain _ { blankExt with uni := true, sub := 2, d := .s 2 } rfl ⟨rfl, fun _ _ => trivial⟩, nofun⟩

theorem witness_waits : ∀ k ∈ waitTable, MetDirect k := by
  simp only [waitTable, List.forall_mem_cons]
  exact ⟨met_plain _ { blankExt with uni := true, d := .s 2, a := .imm 16 } rfl
      ⟨trivial, fun _ _ => exists_of_placed (by decide +kernel)⟩,
    met_plain _ { blankExt with uni := true, d := .s 2, a := .s 4 } rfl ⟨trivial, fun _ _ => trivial⟩,
    met_plain _ { blankExt with uni := true, d := .s 2, a := .s 4 } rfl ⟨trivial, fun _ _ => trivial⟩,
    met_plain _ { blankExt with uni := true, a := .s 4 } rfl ⟨by decide +kernel, fun _ _ => trivial⟩,
    met_plain _ { blankExt with uni := true, d := .s 2, a := .s 4, aw := .w2 } rfl ⟨trivial, fun _ _ => by decide +kernel⟩,
    nofun⟩

/-- A copy's handle quad, pointers and words. -/
def copyFields : Fields :=
  { blankExt with uni := true, d := .s 4, dw := .w4, a := .s 8, aw := .w2, b := .s 10, bw := .w2, c := .s 16 }

theorem witness_copies : ∀ k ∈ copyTable, MetDirect k := by
  simp only [copyTable, List.forall_mem_cons]
  exact ⟨met_plain _ { copyFields with cw := .w2 } rfl ⟨trivial, fun _ _ => by decide +kernel⟩,
    met_plain _ { copyFields with cw := .w8 } rfl ⟨trivial, fun _ _ => by decide +kernel⟩,
    met_plain _ { copyFields with b := .zero, bw := .w1, cw := .w2 } rfl ⟨trivial, fun _ _ => by decide +kernel⟩,
    met_plain _ { copyFields with cw := .w4 } rfl ⟨trivial, fun _ _ => by decide +kernel⟩,
    met_plain _ { copyFields with b := .zero, bw := .w1 } rfl ⟨trivial, fun _ _ => by decide +kernel⟩,
    met_plain _ copyFields rfl ⟨trivial, fun _ _ => by decide +kernel⟩,
    met_plain _ copyFields rfl ⟨trivial, fun _ _ => by decide +kernel⟩,
    met_plain _ { blankExt with uni := true, x := 4 } rfl ⟨trivial, fun _ _ => trivial⟩, nofun⟩

/-- Descriptors: of MMA's operands in S8 to S11 and S20 to S23, of MMAT's in S16 to S19, of a tile's rows in S12 to S15. -/
def describing : Warp → Warp := 
  withS [0, 0, 0, 0, 0, 0, 0, 0, 0, 0, 32, 32, 0, 0, 128, 0, 0, 0, 128, 128, 0, 0, 128, 32]

theorem met_matrix (k : Direct) (f : Fields) (h1 : k.pre ((bed 0 describing).cx 4 (describing (seated 0)) f) = true)
    (h3 : k.ok (atIssue (bed 0 describing) 4 (describing (seated 0)) k.op f)) : MetDirect k :=
  met_direct k describing f rfl rfl rfl rfl (by decide +kernel) h1 h3

theorem witness_matrix : ∀ k ∈ matrixTable, MetDirect k := by
  simp only [matrixTable, List.forall_mem_cons]
  exact ⟨met_matrix _ { blankExt with uni := true, a := .s 8, aw := .w4, b := .s 20, bw := .w4 } (by decide +kernel)
      ⟨by unfold wholeWarp; decide +kernel, fun _ _ => by unfold DescriptorsPass; decide +kernel⟩,
    met_matrix _ { blankExt with uni := true, a := .s 16, aw := .w4, b := .s 16, bw := .w4, x := 16 } (by decide +kernel)
      ⟨by unfold wholeWarp; decide +kernel, fun _ _ => by unfold DescriptorsPass; decide +kernel⟩,
    met_matrix _ { blankExt with uni := true } rfl ⟨by unfold wholeWarp; decide +kernel, fun _ _ => trivial⟩,
    met_matrix _ { blankExt with uni := true, a := .s 12, aw := .w4 } (by decide +kernel)
      ⟨by unfold wholeWarp; decide +kernel, fun _ _ => by unfold DescriptorsPass; decide +kernel⟩,
    met_matrix _ { blankExt with uni := true, a := .s 12, aw := .w4 } (by decide +kernel)
      ⟨by unfold wholeWarp; decide +kernel, fun _ _ => by unfold DescriptorsPass; decide +kernel⟩,
    met_matrix _ { blankExt with uni := true, d := .s 2 } rfl ⟨by unfold wholeWarp; decide +kernel, fun _ _ => trivial⟩,
    met_matrix _ { blankExt with uni := true, gp := 2, d := .s 4, dw := .w4 } rfl
      (by change wholeWarp _ ∧ _ = _; unfold wholeWarp; decide +kernel), nofun⟩

/-- A reference to round 9 of the issuing column in S8 and S9; an OPEN of limit 1.0 and one contributor in S10 and S11. -/
def merging : Warp → Warp := withS [0, 0, 0, 0, 0, 0, 0, 0, 9, 0xFF0000, 0x3F800000, 1]

theorem met_merge (k : Direct) (f : Fields) (h1 : k.pre ((bed 0 merging).cx 4 (merging (seated 0)) f) = true)
    (h3 : k.ok (atIssue (bed 0 merging) 4 (merging (seated 0)) k.op f)) : MetDirect k :=
  met_direct k merging f rfl rfl rfl rfl (by decide +kernel) h1 h3

theorem witness_merges : ∀ k ∈ mergeTable, MetDirect k := by
  simp only [mergeTable, List.forall_mem_cons]
  exact ⟨met_merge _ { blankExt with uni := true, a := .s 8, aw := .w2, b := .s 4, bw := .w2, c := .s 10, cw := .w2, x := 2 }
      rfl ⟨trivial, fun _ _ => by decide +kernel⟩,
    met_merge _ { blankExt with uni := true, a := .s 8, aw := .w2, b := .s 4, bw := .w2, c := .s 6 } rfl
      ⟨trivial, fun _ _ => by decide +kernel⟩,
    met_merge _ { blankExt with uni := true, a := .s 8, aw := .w2, b := .imm 16 } rfl
      ⟨trivial, fun _ _ => by decide +kernel⟩,
    met_merge _ { blankExt with uni := true, a := .s 8, aw := .w2, b := .imm 16 } rfl
      ⟨trivial, fun _ _ => by decide +kernel⟩,
    met_merge _ { blankExt with uni := true, a := .s 8, aw := .w2 } rfl ⟨trivial, fun _ _ => by decide +kernel⟩, nofun⟩

theorem met_late (k : Later) (f : Fields) (h1 : k.pre ((bed 2).cx 4 (seated 2) f) = true)
    (h3 : k.ok (atIssue (bed 2) 4 (seated 2) k.op f)) (h4 : (k.base (atIssue (bed 2) 4 (seated 2) k.op f)).mode = 2) :
    MetLater k :=
  met_later k id f rfl rfl rfl rfl (seated_mode 2 (.inr rfl)) h1 h3 h4

/-- A V destination, and a base pair of S registers that hold 0. -/
def loadFields : Fields := { blankExt with gp := 1, ty := .b32, d := .v 1, a := .s 8, aw := .w2, la := 2 }

/-- A bank command of the test warp. -/
def bankCmd (op : CopyOp) : CopyCmd :=
  { op := op, dst := 0x100, src := 0, len := 64, row := 64, dstride := 0, sstride := 0, barrier := 0, link := 0
    ord := { rel := false, acq := false, scope := 0 }, dreg := 2, pc := 0, col := 0, asid := 1, warp := 4, block := 3, gang := 2
    handle := 1, promise := none, done := 0, fault := none, stage := 0, bank := true }

/-- A warp whose run has queued BCOPY and, behind it, BFENCE. -/
def fencing (x : Warp) : Warp :=
  { x with run := some { x.newRun with cmds := [.copy (bankCmd .bcopy), .copy (bankCmd .bfence)] } }

/-- The same, whose run has acquired behind a load that waits. -/
def acquired (x : Warp) : Warp :=
  { x with run := some { x.newRun with cmds := [.copy (bankCmd .bcopy), .copy (bankCmd .bfence)], fenced := 1, behind := true } }

theorem met_behind (k : Later) (f : Fields) (h1 : k.pre ((bed 2 fencing).cx 4 (fencing (seated 2)) f) = true)
    (h3 : k.ok (atIssue (bed 2 fencing) 4 (fencing (seated 2)) k.op f))
    (h4 : (k.base (atIssue (bed 2 fencing) 4 (fencing (seated 2)) k.op f)).mode = 2) : MetLater k :=
  ⟨bed 2 fencing, 4, fencing (seated 2), f, ⟨rfl, rfl⟩, h1, opens_at _ _ _ _ _ rfl rfl rfl rfl rfl (by decide +kernel), h3, .inl h4⟩

/-- A private word, by the index in B. -/
def ownFields : Fields := { blankExt with gp := 1, ty := .b32, d := .v 1, b := .imm 19 }

/-- A word of the bank, by the offset in B. -/
def bankFields : Fields := { blankExt with gp := 1, ty := .b32, d := .v 1, b := .imm 20 }

/-- The short form of both. -/
def leastFields : Fields := { blankShort with gp := 1, ty := .b32, d := .v 1 }

/-- The offset in B is 4 (for LDL and STL the word index 3); each load freely, and behind a BFENCE that holds it. -/
theorem witness_loads : ∀ k ∈ loadTable, MetLater k := by
  simp only [loadTable, bothLoads, loadsOwn, loadsConst, poolLoads, List.cons_append, List.nil_append, List.forall_mem_cons]
  have sub : ¬ (0 : BitVec 6) = 1 := nofun
  exact ⟨met_late _ loadFields rfl ⟨trivial, by decide +kernel⟩ (by decide +kernel),
    met_behind _ loadFields rfl ⟨trivial, by decide +kernel⟩ (by decide +kernel),
    met_late _ ownFields rfl ⟨trivial, by decide +kernel⟩ (by decide +kernel),
    met_behind _ ownFields rfl ⟨trivial, by decide +kernel⟩ (by decide +kernel),
    met_late _ leastFields rfl ⟨trivial, by decide +kernel⟩ (by decide +kernel),
    met_behind _ leastFields rfl ⟨trivial, by decide +kernel⟩ (by decide +kernel),
    met_late _ bankFields rfl ⟨⟨sub, by decide +kernel⟩, by decide +kernel⟩ (by decide +kernel),
    met_behind _ bankFields rfl ⟨⟨sub, by decide +kernel⟩, by decide +kernel⟩ (by decide +kernel),
    met_late _ leastFields rfl ⟨⟨sub, by decide +kernel⟩, by decide +kernel⟩ (by decide +kernel),
    met_behind _ leastFields rfl ⟨⟨sub, by decide +kernel⟩, by decide +kernel⟩ (by decide +kernel),
    met_late _ { bankFields with sub := 1 } rfl ⟨rfl, by decide +kernel⟩ (consumed_mode _ _ _ (issue_mode _ _)),
    met_late _ { bankFields with sub := 1 } rfl ⟨rfl, by decide +kernel⟩ (consumed_mode _ _ _ (issue_mode _ _)),
    met_late _ { bankFields with a := .imm 16 } rfl ⟨by decide +kernel, by decide +kernel⟩ (by decide +kernel),
    ⟨bed 2 acquired, 4, acquired (seated 2), { bankFields with a := .imm 16 }, ⟨rfl, rfl⟩, rfl,
      opens_at _ _ _ _ _ rfl rfl rfl rfl rfl (by decide +kernel), ⟨by decide +kernel, by decide +kernel, by decide +kernel⟩,
      .inl (by decide +kernel)⟩, nofun⟩

theorem witness_stores : ∀ k ∈ storeTable, MetDirect k := by
  simp only [storeTable, List.forall_mem_cons]
  exact ⟨met_plain _ { loadFields with d := .s 1, la := 0 } rfl (by decide +kernel),
    met_plain _ { blankExt with gp := 1, ty := .b32, d := .s 1, b := .imm 19 } rfl (by change _ = _; decide +kernel),
    met_plain _ { blankShort with gp := 1, ty := .b32 } rfl (by change _ = _; decide +kernel),
    met_plain _ { blankExt with gp := 1, ty := .b32, d := .s 1, a := .imm 16, b := .imm 20 } rfl (by decide +kernel),
    met_plain _ { blankExt with a := .s 8, aw := .w2 } rfl trivial,
    met_plain _ { blankExt with gp := 1, sub := 2, a := .s 8, aw := .w2 } rfl (by decide +kernel), nofun⟩

theorem witness_sector_operation : MetDirect sectorOperation :=
  met_plain _ { blankExt with gp := 1, sub := 8, a := .s 8, aw := .w2 } rfl ⟨by decide +kernel, by decide +kernel⟩

theorem witness_atomics : ∀ k ∈ atomTable, MetLater k := by
  simp only [atomTable, List.forall_mem_cons]
  exact ⟨met_late _ { loadFields with ty := .n32 } rfl (by change _ = _; decide +kernel) (by decide +kernel),
    met_late _ { loadFields with d := .v 2, dw := .w2 } rfl (by change _ = _; decide +kernel) (by decide +kernel),
    met_late _ { loadFields with ty := .f32 } rfl (by change _ = _; decide +kernel) (by decide +kernel),
    met_late _ { loadFields with ty := .n32, a := .imm 16, aw := .w1 } rfl (by change _ = _; decide +kernel) (by decide +kernel), nofun⟩

theorem witness_reductions : MetDirect reduces :=
  met_plain _ { loadFields with ty := .n32, d := .s 1, la := 0 } rfl (by change _ = _; decide +kernel)

theorem witness_exchanges : ∀ k ∈ exchangeTable, MetLater k := by
  simp only [exchangeTable, List.forall_mem_cons]
  exact ⟨met_late _ { blankExt with ty := .b32, d := .v 1, a := .s 2 } rfl trivial (issue_mode _ _),
    met_late _ { blankExt with ty := .n32, d := .v 1, a := .s 2 } rfl trivial (issue_mode _ _), nofun⟩

theorem witness_lanes : ∀ k ∈ laneTable, MetLater k := by
  simp only [laneTable, List.forall_mem_cons]
  exact ⟨met_late _ { blankExt with ty := .b32, d := .v 1, a := .s 2, b := .imm 17 } rfl trivial
      (consumed_mode _ _ _ (issue_mode _ _)),
    met_late _ { blankExt with ty := .b32, d := .v 1, a := .s 2 } (by decide +kernel) (by change _ = _; decide +kernel)
      (consumed_mode _ _ _ (issue_mode _ _)),
    met_late _ { blankExt with ty := .n32, d := .v 1, a := .s 2 } rfl trivial (consumed_mode _ _ _ (issue_mode _ _)), nofun⟩

/-- S8 and S9 hold a bad reference. -/
def poisonous (x : Warp) : Warp := { x with regs := { x.regs with s := x.regs.s.set 8 ⟨0, true⟩ } }

theorem witness_late : ∀ k ∈ lateTable, MetLater k := by
  simp only [lateTable, List.forall_mem_cons]
  exact ⟨met_late _ { blankExt with uni := true, a := .s 8, aw := .w2, x := 1 } (by decide +kernel) (by decide +kernel)
      (by decide +kernel),
    met_behind _ { blankExt with uni := true, a := .s 8, aw := .w2, x := 1 } (by decide +kernel) (by decide +kernel)
      (by decide +kernel),
    met_late _ { blankExt with ty := .f32, d := .v 4, dw := .w4, a := .v 1, b := .s 8, bw := .w8 } rfl trivial
      (consumed_mode _ _ _ (issue_mode _ _)),
    met_late _ { blankExt with uni := true, gp := 2, d := .s 2, dw := .w2 } rfl (by change _ = _; decide +kernel) (issue_mode _ _),
    met_late _ { blankExt with uni := true, d := .s 2, dw := .w2 } rfl (by change _ ≠ _; decide +kernel) (issue_mode _ _),
    met_late _ { blankExt with uni := true, d := .s 4, dw := .w4 } rfl
      (by change wholeWarp _ ∧ _ ≠ _; unfold wholeWarp; decide +kernel) (issue_mode _ _),
    met_late _ { blankExt with uni := true, gp := 2, d := .s 2, a := .s 8, aw := .w2 } rfl (by change _ = _; decide +kernel)
      (issue_mode _ _),
    met_later _ poisonous { blankExt with uni := true, d := .s 2, a := .s 8, aw := .w2 } rfl rfl rfl rfl (by decide +kernel) rfl
      (by change _ ≠ _ ∧ _ ≠ _; decide +kernel) (by decide +kernel),
    met_late _ { blankExt with uni := true, d := .s 2, a := .s 8, aw := .w2 } rfl
      (by change _ ≠ _ ∧ _ = _ ∧ _ = _ ∧ _ = _; decide +kernel) (issue_mode _ _), nofun⟩

theorem witness_bset_idle : MetDirect bsetNothing :=
  met_plain _ { blankExt with uni := true, gp := 2, a := .s 8, aw := .w2 } (by decide +kernel) (.inl (by decide +kernel))

/-- A warp whose S registers hold what the checks refuse: S4 and S8 misaligned pointers, S10 and S11 a pointer to column 1,
which is not mapped, S12 to S15 a descriptor whose K is not 0, S20 a word out of range, S22 and S23 a bad reference. -/
def faulty : Warp → Warp :=
  withS [0, 0, 0, 0, 1, 0, 0, 0, 1, 0, 0, 0x10000, 0, 0, 128, 1, 0, 0, 0, 0, 4096, 0, 0, 0x7F000000]

theorem met_fault (k : Faulting) (f : Fields) (h1 : k.pre ((bed 0 faulty).cx 4 (faulty (seated 0)) f) = true)
    (h3 : (k.fault (atIssue (bed 0 faulty) 4 (faulty (seated 0)) k.op f)).isSome = true) : MetFaulting k :=
  met_faulting k faulty f rfl rfl rfl rfl (by decide +kernel) h1 h3

/-- A base pair that names a column that is not mapped. -/
def strayFields : Fields := { blankExt with gp := 1, ty := .b32, a := .s 10, aw := .w2 }

theorem witness_access_faults : ∀ k ∈ accessFaultTable, MetFaulting k := by
  simp only [accessFaultTable, List.forall_mem_cons]
  exact ⟨met_fault _ { strayFields with d := .v 1 } rfl (by decide +kernel), met_fault _ strayFields rfl (by decide +kernel),
    met_fault _ { blankExt with gp := 1, ty := .b32, b := .imm 20 } rfl (by decide +kernel),
    met_fault _ { blankShort with gp := 1, ty := .b32, b := .s 20 } rfl (by decide +kernel),
    met_fault _ { blankExt with gp := 1, ty := .b32, b := .imm 20 } rfl (by decide +kernel),
    met_fault _ { blankShort with gp := 1, ty := .b32, b := .s 20 } rfl (by decide +kernel),
    met_fault _ { blankExt with gp := 1, ty := .b32, b := .imm 17 } rfl (by decide +kernel),
    met_fault _ { blankShort with gp := 1, ty := .b32, b := .s 20 } rfl (by decide +kernel),
    met_fault _ { blankExt with gp := 1, ty := .b32, a := .imm 17 } rfl (by decide +kernel),
    met_fault _ { blankExt with gp := 1, ty := .b32, a := .imm 17 } rfl (by decide +kernel),
    met_fault _ { strayFields with sub := 4 } rfl (by decide +kernel),
    met_fault _ { strayFields with ty := .n32, d := .v 1 } rfl (by decide +kernel),
    met_fault _ { strayFields with d := .v 2, dw := .w2 } rfl (by decide +kernel),
    met_fault _ { strayFields with ty := .f32, d := .v 1 } rfl (by decide +kernel),
    met_fault _ { strayFields with ty := .n32 } rfl (by decide +kernel),
    met_fault _ { blankExt with gp := 1, ty := .n32, d := .v 1, a := .imm 17 } rfl (by decide +kernel), nofun⟩

theorem witness_command_faults : ∀ k ∈ commandFaultTable, MetFaulting k := by
  simp only [commandFaultTable, List.forall_mem_cons]
  exact ⟨met_fault _ { blankExt with uni := true, a := .imm 17 } rfl (by decide +kernel),
    met_fault _ { blankExt with uni := true, d := .s 2, a := .s 4, aw := .w2 } rfl (by decide +kernel),
    met_fault _ { blankExt with uni := true, d := .s 2, a := .s 4, aw := .w2 } rfl (by decide +kernel),
    met_fault _ { blankExt with uni := true, d := .s 2, a := .imm 17 } rfl (by decide +kernel),
    met_fault _ { blankExt with uni := true, d := .s 2, a := .imm 17 } rfl (by decide +kernel),
    met_fault _ { copyFields with b := .zero, bw := .w1, cw := .w2 } rfl (by decide +kernel),
    met_fault _ { copyFields with cw := .w2 } rfl (by decide +kernel),
    met_fault _ { copyFields with b := .zero, bw := .w1 } rfl (by decide +kernel),
    met_fault _ copyFields rfl (by decide +kernel),
    met_fault _ { blankExt with uni := true, a := .s 12, aw := .w4 } (by decide +kernel) (by decide +kernel),
    met_fault _ { blankExt with uni := true, a := .s 12, aw := .w4 } (by decide +kernel) (by decide +kernel),
    met_fault _ { blankExt with uni := true, a := .s 16, aw := .w2, b := .s 20 } rfl (by decide +kernel),
    met_fault _ { blankExt with uni := true, a := .s 16, aw := .w2, b := .s 20 } rfl (by decide +kernel),
    met_fault _ { blankExt with uni := true, a := .s 22, aw := .w2 } rfl (by decide +kernel),
    met_fault _ { blankExt with uni := true, d := .s 2, a := .s 22, aw := .w2 } rfl (by decide +kernel), nofun⟩

/-! ### The machine, the encodings and the gate -/

/-- Is the answer a next state? -/
def goesOn (o : Host.Outcome State Fault Refusal) : Bool := match o with | .next _ => true | .fault _ | .refused _ => false

theorem exists_of_goesOn {o : Host.Outcome State Fault Refusal} (h : goesOn o = true) : ∃ t, o = .next t := by
  cases o with
  | next t => exact ⟨t, rfl⟩
  | fault _ => exact absurd h (by simp [goesOn])
  | refused _ => exact absurd h (by simp [goesOn])

/-- A machine about to issue NOP. -/
def onNop : State := State.reset.withFetchWord 32 0x3CF3C000

/-- `StepKeepsCanonical`: a canonical state that takes a step. -/
theorem witness_step_keeps : Canonical onNop ∧ ∃ t, step onNop = .next t :=
  ⟨by constructor <;> decide +kernel, exists_of_goesOn (by decide +kernel)⟩

/-- The hypotheses of `StepRunsDecoded`, with a condition on the state and the warp as it fetches. -/
def decodes (s : State) (test : State → Warp → Bool) : Bool :=
  match s.agenda with
  | .issue w :: rest =>
    match s.warp w with
    | some x =>
      let s0 : State := { s with agenda := rest }
      let s1 := s0.settleArrivals.giveSlot w x
      s0.winner x.col x.core x.slot == some w && x.wait == .none
        && (x.run.bind Run.ended).isNone && (match s1.warp w with | some y => test s1 y | none => false)
    | none => false
  | _ => false

theorem exists_of_decodes {s : State} {test : State → Warp → Bool} (h : decodes s test = true) :
    ∃ (w : Nat) (rest : List Turn) (x y : Warp),
      let s0 : State := { s with agenda := rest }
      let s1 := s0.settleArrivals.giveSlot w x
      s.agenda = .issue w :: rest ∧ s.warp w = some x ∧ s0.winner x.col x.core x.slot = some w ∧ x.wait = .none
        ∧ x.run.bind Run.ended = none ∧ s1.warp w = some y
        ∧ test s1 y = true := by
  unfold decodes at h
  split at h
  · rename_i w rest ha
    split at h
    · rename_i x hx
      simp only [Bool.and_eq_true, beq_iff_eq, Option.isNone_iff_eq_none] at h
      obtain ⟨⟨⟨h1, h2⟩, h4⟩, h5⟩ := h
      split at h5
      · rename_i y hy
        exact ⟨w, rest, x, y, ha, hx, h1, h2, h4, hy, h5⟩
      · simp at h5
    · simp at h
  · simp at h

/-- What `StepRunsDecoded` distinguishes of the words at the pc. -/
def fetched (ok : List Word → Bool) (bad : Bool) (s1 : State) (y : Warp) : Bool :=
  y.theRun.work.pc.toNat % 4 == 0 && match s1.fetchWords y y.theRun.work.pc with
    | .ok ws => ok (ws.map Prod.fst)
    | .error _ => bad

/-- A verdict of the decoder. -/
def verdict (ok : Bool) (bad : Reject → Bool) (ws : List Word) : Bool :=
  match decode ws with | .ok _ => ok | .error r => bad r

/-- Every clause of `StepRunsDecoded`: NOP decodes; an unassigned opcode; a reserved selector; a misaligned pc; and a pc
outside the pages, whose fetch faults. -/
theorem witness_step_decodes :
    decodes (State.reset.withFetchWord 32 0x3CF3C000) (fetched (verdict true fun _ => false) false) = true
    ∧ decodes (State.reset.withFetchWord 32 0x3CF3C0F0) (fetched (verdict false (· == .unassignedOpcode)) false) = true
    ∧ decodes (State.reset.withFetchWord 32 0x3FF3C100) (fetched (verdict false (· == .reservedSelector)) false) = true
    ∧ decodes (bed 0 fun x => { x with regs := { x.regs with pc := 2 } })
        (fun _ y => y.theRun.work.pc.toNat % 4 != 0) = true
    ∧ decodes (bed 0 fun x => { x with regs := { x.regs with pc := 0x20000 } }) (fetched (fun _ => false) true) = true := by
  decide +kernel

/-- A word of the code page stored into by the grid that fetches it: a kept word 7 under NOP. -/
def restored : State :=
  let s := State.reset.withFetchWord 32 0x3CF3C000
  { s with oldWords := (s.warps.map Prod.snd).map fun x =>
      { grid := s.gridId x, place := .mem 0 (2 ^ 20) 0, word := 7 } }

/-- R39: a fetch of that place returns the word 7 kept or the NOP that stands there. -/
theorem test_old_or_new : ∃ w x, restored.warp w = some x
    ∧ (restored.fetchWord x 0).toOption.map (fun q => q.2.loc.word) = some (.mem 0 (2 ^ 20) 0)
    ∧ (restored.mixed x 0 (.mem 0 (2 ^ 20) 1) 0x3CF3C000 = 0x3CF3C000
      ∨ restored.mixed x 0 (.mem 0 (2 ^ 20) 1) 0x3CF3C000 = 7) := by
  refine ⟨4, _, rfl, by decide +kernel, ?_⟩
  rcases mixed_cases restored _ 0 (.mem 0 (2 ^ 20) 1) 0x3CF3C000 with h | ⟨o, ho, -, -, h⟩
  · exact .inl h
  · have : ∀ o ∈ restored.oldWords, o.word = 7 := by decide +kernel
    exact .inr (h.trans (this o ho))

theorem witness_step_events : ∃ (s : State) (rest : List Turn) (i : Instr), s.agenda = .event i :: rest ∧ i.encoded = none
    ∧ ∀ v, i ≠ .unassignedOpcode v :=
  ⟨{ State.reset with agenda := [.event .gangPlace] }, [], .gangPlace, rfl, rfl, nofun⟩

/-- `StepRunsEvents`: clocks from a canonical state, and errors of each kind. -/
theorem witness_step_upsets : (∃ (s : State) (n : Nat), s.agenda = [.clocks n] ∧ Canonical s)
    ∧ (∃ (s : State) (col : Nat), s.agenda = [.upset (.corrected col)])
    ∧ (∃ (s : State) (w : Nat) (x : Warp), s.agenda = [.upset (.journal w)] ∧ s.warp w = some x ∧ x.arrived = none)
    ∧ ∃ (s : State) (w n k : Nat) (x : Warp) (r : VReg), s.agenda = [.upset (.lane w n k)] ∧ k < 64 ∧ s.warp w = some x
        ∧ mapGet x.regs.v n = some r :=
  ⟨⟨{ State.reset with agenda := [.clocks 3] }, 3, rfl,
      by constructor <;> decide +kernel⟩,
    ⟨{ bed 0 with agenda := [.upset (.corrected 0)] }, 0, rfl⟩,
    ⟨{ bed 0 with agenda := [.upset (.journal 4)] }, 4, _, rfl, rfl, rfl⟩,
    ⟨{ bed 0 withV with agenda := [.upset (.lane 4 7 63)] }, 4, 7, 63, withV (seated 0), _, rfl, by decide, rfl, rfl⟩⟩

theorem witness_encode : ∃ (i : Instr) (op : Opcode) (f : Fields), i.encoded = some (op, f) ∧ i.WellFormed
    ∧ decode (encode i) = .ok i :=
  ⟨.iadd { blankExt with ty := .n8x4, d := .v 255, a := .s 63, b := .lit, sat := true, lit := some (BitVec.allOnes 64) },
    _, _, rfl, by decide, rfl⟩

/-- A V destination; extended. -/
def addFields : Fields := { blankExt with d := .v 1, a := .v 2, b := .v 3 }

/-- `IllegalTraps`: CVTS with a slot of TRN2. -/
theorem witness_illegal : ∃ s w x i op f, Encoded i op f ∧ Issuing s w x ∧ machineCheck op (s.cx w x f) = false :=
  ⟨bed 0, 4, seated 0, .cvts { blankExt with d := .v 1, x := 2 }, .cvts, _, ⟨rfl, rfl⟩, ⟨rfl, rfl⟩, by decide +kernel⟩

/-- A warp in a run of `n` instructions and `k` stores. -/
def running (n k : Nat) (x : Warp) : Warp := { x with run := some { x.newRun with count := n, stores := k } }

theorem gated (mode : Nat) (g : Warp → Warp) (op : Opcode) (f : Fields)
    (hm : machineCheck op ((bed mode g).cx 4 (g (seated mode)) f) = true) (hp : (g (seated mode)).pend = [])
    (hx : (g (seated mode)).rest = none) : Gated (bed mode g) 4 (g (seated mode)) op f :=
  ⟨⟨rfl, rfl⟩, hm, fun p q => by simp [State.cx, hp] at q, by simp [Cx.behindRest, State.cx, hx]⟩

/-- A store of S1 at S8. -/
def storeFields : Fields := { blankExt with ty := .b32, d := .s 1, a := .s 8, aw := .w2 }

theorem limited (mode n k : Nat) (h : HasRoom ((bed mode (running n k)).cx 4 (running n k (seated mode)) storeFields) .st → False)
    (hm : ((bed mode (running n k)).cx 4 (running n k (seated mode)) storeFields).mode = mode) :
    ∃ s w x i op f, Encoded i op f ∧ Gated s w x op f ∧ ¬ HasRoom (s.cx w x f) op ∧ (s.cx w x f).mode = mode
      ∧ (s.cx w x f).r.count = n :=
  ⟨bed mode (running n k), 4, running n k (seated mode), .st storeFields, .st, storeFields, ⟨rfl, rfl⟩,
    gated _ _ _ _ rfl rfl rfl, h, hm, rfl⟩

/-- `RunLimits` at both limits in native and in compatible mode. -/
theorem witness_limits : ∀ mode ∈ [0, 2], ∀ n ∈ [23, 24], ∃ s w x i op f, Encoded i op f ∧ Gated s w x op f
    ∧ ¬ HasRoom (s.cx w x f) op ∧ (s.cx w x f).mode = mode ∧ (s.cx w x f).r.count = n := by
  simp only [List.forall_mem_cons]
  exact ⟨⟨limited 0 23 4 (by unfold HasRoom; decide +kernel) (by decide +kernel),
      limited 0 24 0 (by unfold HasRoom; decide +kernel) (by decide +kernel), nofun⟩,
    ⟨limited 2 23 4 (by unfold HasRoom; decide +kernel) (by decide +kernel),
      limited 2 24 0 (by unfold HasRoom; decide +kernel) (by decide +kernel), nofun⟩, nofun⟩

/-- The hypotheses of `RunLimits` on the register that IADD.V1 allocates, in native mode. -/
def Allocates (s : State) (w : Nat) (x : Warp) (c : Cx) : Prop :=
  ∃ k ∈ arithmeticTable, ∃ f : Fields, f.d = .v 1 ∧ c = k.base (atIssue s w x k.op f) ∧ Issuing s w x
    ∧ k.pre (s.cx w x f) = true ∧ Opens (s.cx w x f) k.op ∧ k.ok (atIssue s w x k.op f)
    ∧ (k.vals (atIssue s w x k.op f)).length ≠ 0 ∧ c.mode ≠ 2

/-- A machine with a second warp, number 6. -/
def beside (y : Warp) (g : Warp → Warp) : State := { bed 0 g with warps := [(4, g (seated 0)), (6, y)] }

/-- IADD.V1 as it has read its operands. -/
def adding (s : State) (x : Warp) : Cx := (onInts .iadd .iadd (· + ·)).base (atIssue s 4 x .iadd { blankExt with d := .v 1 })

theorem allocates (y : Warp) (g : Warp → Warp) (hp : (g (seated 0)).pend = []) (hx : (g (seated 0)).rest = none)
    (hc : (g (seated 0)).theRun.count = 0) (hs : (g (seated 0)).theRun.stores = 0)
    (ha : (g (seated 0)).theRun.work.nc = List.replicate 64 0)
    (hm : ((beside y g).recOf (g (seated 0))).mode = 0) (hn : (adding (beside y g) (g (seated 0))).mode = 0) :
    Allocates (beside y g) 4 (g (seated 0)) (adding (beside y g) (g (seated 0))) :=
  ⟨onInts .iadd .iadd (· + ·), .head _, { blankExt with d := .v 1 }, rfl, rfl, ⟨rfl, rfl⟩, rfl,
    opens_at _ _ _ _ _ hp hx hc hs ha (by rw [hm]; decide), trivial, Nat.one_ne_zero, by rw [hn]; decide⟩

/-- A run that has allocated all the registers it may. -/
def allocated (x : Warp) : Warp := { x with run := some { x.newRun with allocs := 32 } }

/-- `RunLimits` on allocations: the 33rd of a run; an older warp that waits swapped out, of which the one that issues is the
privileged warp; a bank full to the last register, by a younger warp and by an older one that is privileged. -/
theorem witness_allocations :
    let full (x : Warp) : Warp := { x with static := (List.range 512).map fun i => (1, i) }
    let meets (y : Warp) (g : Warp → Warp) (p : Cx → Prop) : Prop :=
      Allocates (beside y g) 4 (g (seated 0)) (adding (beside y g) (g (seated 0))) ∧ p (adding (beside y g) (g (seated 0)))
    let older : Warp := { seated 0 with num := 0, age := 0 }
    let younger : Warp := { seated 0 with num := 1, age := 1 }
    let waits (c : Cx) (out priv : Bool) (young : Option Nat) : Prop :=
      c.r.allocs < 32 ∧ c.s.olderOut c.x = out ∧ (c.s.privileged 0 0 == some 4) = priv
        ∧ (out = true ∨ freeIn c 1 = []) ∧ (priv = true → ∀ i < 8, emergencyAt + i ∈ c.s.physUsed 0 0 1 4 (some c.r))
        ∧ c.s.youngestBelow c.x = young
    meets younger allocated (fun c => 32 ≤ c.r.allocs)
    ∧ meets { older with swapped := true } (fun x => { full x with age := 1, num := 1 }) (fun c => waits c true true none)
    ∧ meets (full younger) id (fun c => waits c false true (some 6))
    ∧ meets (full older) (fun x => { x with age := 1, num := 1 }) (fun c => waits c false false none) := by
  refine ⟨⟨allocates _ _ rfl rfl rfl rfl rfl (by decide +kernel) (by decide +kernel), by decide +kernel⟩,
    ⟨allocates _ _ rfl rfl rfl rfl rfl (by decide +kernel) (by decide +kernel), by decide +kernel⟩,
    ⟨allocates _ _ rfl rfl rfl rfl rfl (by decide +kernel) (by decide +kernel), ?_⟩,
    ⟨allocates _ _ rfl rfl rfl rfl rfl (by decide +kernel) (by decide +kernel), ?_⟩⟩ <;> decide +kernel

/-- A result pending that has two more instructions. -/
def pendingOn (sel : Sel) (window : Nat) (ready : Bool) : Pending :=
  { id := 9, dst := sel, count := 1, vals := [Lanes.zero], mask := BitVec.allOnes 64, uni := false, latch := some 1
    keep := none, window := window, ready := ready, here := false, ofRun := false, outer := false, contested := []
    touched := [], fx := .none, pc := 0 }

/-- A warp with a result pending. -/
def awaiting (sel : Sel) (window : Nat) (ready : Bool) (x : Warp) : Warp :=
  { x with pend := [pendingOn sel window ready] }

/-- `HazardTraps` and `HazardCodes`: each code from 1 to 5, in native-debug mode. -/
theorem witness_hazards :
    (∀ q ∈ [((id : Warp → Warp), addFields, 5), (withV, { addFields with a := .c 1 }, 4), (withV, { addFields with a := .l 1 }, 3),
        (fun x => awaiting (.v 1) 2 true (withV x), addFields, 2), (fun x => awaiting (.v 3) 2 true (withV x), addFields, 1)],
      ((bed 1 q.1).cx 4 (q.1 (seated 1)) q.2.1).hazard (Opcode.spec .iadd q.2.1) false = some q.2.2)
    ∧ ∃ s w x i op f k, Encoded i op f ∧ Gated s w x op f ∧ HasRoom (s.cx w x f) op ∧ (s.cx w x f).act ≠ 0
      ∧ (s.cx w x f).mode = 1 ∧ (s.cx w x f).hazard (op.spec f) (opClass op).readsD = some k :=
  ⟨by decide +kernel, bed 1, 4, seated 1, .iadd addFields, .iadd, _, 5, ⟨rfl, rfl⟩, gated _ _ _ _ rfl rfl rfl,
    by unfold HasRoom; decide +kernel, by decide +kernel, by decide +kernel, by decide +kernel⟩

/-- A warp with every thread disabled. -/
def disabled (x : Warp) : Warp := { x with regs := { x.regs with nc := List.replicate 64 1 } }

theorem witness_no_thread : ∃ s w x i op f, Encoded i op f ∧ Gated s w x op f ∧ HasRoom (s.cx w x f) op
    ∧ (s.cx w x f).act = 0 ∧ actsAlways op = false :=
  ⟨bed 0 disabled, 4, disabled (seated 0), .iadd addFields, .iadd, _, ⟨rfl, rfl⟩, gated _ _ _ _ rfl rfl rfl,
    by unfold HasRoom; decide +kernel, by decide +kernel, rfl⟩

/-- A warp with a load pending that a BFENCE of its own run holds back. -/
def heldLoad (x : Warp) : Warp :=
  { x with pend := [{ pendingOn (.v 3) 0 false with ofRun := true, fx := .load 1 none 0 [] }] }

/-- `ResultsArriveFirst` where the result is ready, where it is not, and where the run holds the BFENCE it waits for. -/
theorem witness_arrives_first :
    let meets (g : Warp → Warp) (p : Pending) : Prop := ∃ s w x i op f, Encoded i op f ∧ Issuing s w x
      ∧ machineCheck op (s.cx w x f) = true ∧ x = g (seated 0) ∧ (x.pend.find? fun p => p.window == 0 && !p.here) = some p
    (∀ ready, meets (awaiting (.v 3) 0 ready) (pendingOn (.v 3) 0 ready))
    ∧ ∃ p, meets heldLoad p ∧ p.ready = false ∧ p.ofRun = true ∧ ∃ k slot psn got, p.fx = .load k slot psn got :=
  ⟨fun ready => ⟨bed 0 (awaiting (.v 3) 0 ready), 4, _, .iadd addFields, .iadd, _, ⟨rfl, rfl⟩, ⟨rfl, rfl⟩, rfl, rfl, rfl⟩,
    _, ⟨bed 0 heldLoad, 4, _, .iadd addFields, .iadd, _, ⟨rfl, rfl⟩, ⟨rfl, rfl⟩, rfl, rfl, rfl⟩, rfl, rfl, _, _, _, _, rfl⟩

/-- A result that has to come, with its window and on either side of a trap. -/
def toCome (sel : Sel) (window : Nat) (outer : Bool) : Pending := { pendingOn sel window true with outer := outer, keep := some 3 }

/-- A warp in a handler, with a result to come. -/
def handled (p : Pending) (x : Warp) : Warp :=
  { x with
    pend := [p]
    saved := some { c := x.regs.c, nc := x.regs.nc, depth := 0, ldep := 0, mark := 0, tpc := 0x40, frame := 0x280 } }

/-- `ArrivalWrites` for a V register, an S register and a cache entry, inside the window and at its end, before a trap and
not. -/
theorem witness_arrival : ∀ sel ∈ [Sel.v 3, .s 5, .c 7], ∀ window ∈ [0, 2], ∀ outer : Bool,
    ∃ (s : State) (w : Nat) (x : Warp) (p : Pending), s.warp w = some x
    ∧ (x.pend.find? fun q => q.id == p.id) = some p ∧ p.ready = true ∧ p.here = false ∧ p.contested = [] ∧ p.fx = .none
    ∧ p.ofRun = false ∧ x.run = none ∧ (∀ q ∈ x.pend, q.closed = false) ∧ p.dst = sel ∧ p.window = window ∧ p.outer = outer
    ∧ p.keep = some 3 ∧ x.saved.isSome = true ∧ (x.saved.map Saved.c).map List.length = some 8 :=
  fun sel _ window _ outer =>
    ⟨bed 0 (handled (toCome sel window outer)), 4, _, toCome sel window outer, rfl, rfl, rfl, rfl, rfl, rfl, rfl, rfl,
      fun q h => by obtain rfl := List.mem_singleton.1 h; rfl, rfl, rfl, rfl, rfl, rfl, rfl⟩

theorem witness_unassigned : ∃ s w x, Issuing s w x := ⟨bed 0, 4, seated 0, rfl, rfl⟩

/-- The hypotheses of `BreakpointTraps`. -/
def Breaks (s : State) (w : Nat) (x : Warp) (f : Fields) : Prop :=
  Gated s w x .bkpt f ∧ HasRoom (s.cx w x f) .bkpt
    ∧ ((s.cx w x f).mode = 1 → (s.cx w x f).hazard (Opcode.spec .bkpt f) false = none)
    ∧ ((s.cx w x f).mode = 2 → (s.cx w x f).stalls (Opcode.spec .bkpt f) false = none) ∧ (s.cx w x f).grd ≠ 0
    ∧ ¬ (x.bskip = some (s.cx w x f).pc ∧ (s.cx w x f).r.skipped = false)

/-- `BreakpointTraps`, in native, native-debug and compatible mode. -/
theorem witness_breakpoint : Breaks (bed 0) 4 (seated 0) blankShort ∧ Breaks (bed 1) 4 (seated 1) blankShort
    ∧ Breaks (bed 2) 4 (seated 2) blankShort :=
  ⟨⟨gated 0 id _ _ rfl rfl rfl, by unfold HasRoom; decide +kernel, by decide +kernel, fun _ => rfl, by decide +kernel, nofun⟩,
    ⟨gated 1 id _ _ rfl rfl rfl, by unfold HasRoom; decide +kernel, by decide +kernel, fun _ => rfl, by decide +kernel, nofun⟩,
    ⟨gated 2 id _ _ rfl rfl rfl, by unfold HasRoom; decide +kernel, by decide +kernel, fun _ => rfl, by decide +kernel, nofun⟩⟩

/-- The hypotheses of `StructureTraps`. -/
def Structured (s : State) (w : Nat) (x : Warp) (i : Instr) (op : Opcode) (f : Fields) : Prop :=
  Encoded i op f ∧ Gated s w x op f ∧ HasRoom (s.cx w x f) op ∧ ((s.cx w x f).act ≠ 0 →
    ((s.cx w x f).mode = 1 → (s.cx w x f).hazard (op.spec f) (opClass op).readsD = none)
      ∧ ((s.cx w x f).mode = 2 → (s.cx w x f).stalls (op.spec f) (opClass op).readsD = none))

theorem structured (g : Warp → Warp) (i : Instr) (op : Opcode) (f : Fields) (h : Encoded i op f)
    (hm : machineCheck op ((bed 0 g).cx 4 (g (seated 0)) f) = true) (hp : (g (seated 0)).pend = [])
    (hx : (g (seated 0)).rest = none) (hr : HasRoom ((bed 0 g).cx 4 (g (seated 0)) f) op) (h0 : ((bed 0 g).cx 4 (g (seated 0)) f).mode = 0) :
    Structured (bed 0 g) 4 (g (seated 0)) i op f :=
  ⟨h, gated 0 g op f hm hp hx, hr, fun _ => ⟨fun k => by simp [h0] at k, fun k => by simp [h0] at k⟩⟩

/-- A warp at depth 127 whose counters are `n`. -/
def deep (d n : Nat) (x : Warp) : Warp :=
  { x with regs := { x.regs with depth := d, nc := 0 :: List.replicate 63 (BitVec.ofNat 8 n) } }

/-- Each clause of `StructureTraps`: IF at depth 127; a counter of 127 and one of 254; ELSE at depth 0; BRK outside a loop;
MZERO with a thread disabled; TRET outside the handler. -/
theorem witness_structure_traps :
    (∃ s w x i f, Structured s w x i .ifBlock f ∧ (s.cx w x f).r.work.depth = 127)
    ∧ (∀ n ∈ [127, 254], ∃ s w x i f, Structured s w x i .loop f ∧ (s.cx w x f).r.work.depth ≠ 127
        ∧ ∃ t < 64, counterOf (s.cx w x f) t = n)
    ∧ (∃ s w x i f, Structured s w x i .elseBlock f ∧ (s.cx w x f).r.work.depth = 0)
    ∧ (∃ s w x i f, Structured s w x i .brk f ∧ (s.cx w x f).r.work.ldep = 0)
    ∧ (∃ s w x i f, Structured s w x i .mzero f ∧ (s.cx w x f).act ≠ 0 ∧ ¬ wholeWarp (s.cx w x f))
    ∧ ∃ s w x i f, Structured s w x i .tret f ∧ (s.cx w x f).act ≠ 0 ∧ (s.cx w x f).grd ≠ 0 ∧ (s.cx w x f).x.hmode = false := by
  refine ⟨⟨bed 0 (deep 127 1), 4, _, .ifBlock { blankExt with a := .lit, b := .p 1, lit := some 8 }, _,
      structured _ _ _ _ ⟨rfl, rfl⟩ rfl rfl rfl (by unfold HasRoom; decide +kernel) (by decide +kernel), rfl⟩, ?_,
    ⟨bed 0, 4, _, .elseBlock { blankExt with a := .lit, lit := some 8 }, _,
      structured _ _ _ _ ⟨rfl, rfl⟩ rfl rfl rfl (by unfold HasRoom; decide +kernel) (by decide +kernel), rfl⟩,
    ⟨bed 0, 4, _, .brk { blankExt with b := .p 1 }, _,
      structured _ _ _ _ ⟨rfl, rfl⟩ rfl rfl rfl (by unfold HasRoom; decide +kernel) (by decide +kernel), rfl⟩,
    ⟨bed 0 (deep 1 1), 4, _, .mzero { blankExt with uni := true }, _,
      structured _ _ _ _ ⟨rfl, rfl⟩ rfl rfl rfl (by unfold HasRoom; decide +kernel) (by decide +kernel), by decide +kernel,
      by unfold wholeWarp; decide +kernel⟩,
    ⟨bed 0, 4, _, .tret { blankExt with uni := true }, _,
      structured _ _ _ _ ⟨rfl, rfl⟩ rfl rfl rfl (by unfold HasRoom; decide +kernel) (by decide +kernel), by decide +kernel,
      by decide +kernel, rfl⟩⟩
  intro n hn
  simp only [List.mem_cons, List.not_mem_nil, or_false] at hn
  obtain rfl | rfl := hn
  · exact ⟨bed 0 (deep 2 127), 4, _, .loop blankExt, _,
      structured _ _ _ _ ⟨rfl, rfl⟩ rfl rfl rfl (by unfold HasRoom; decide +kernel) (by decide +kernel), by decide +kernel, 1,
      by decide, by decide +kernel⟩
  · exact ⟨bed 0 (deep 2 254), 4, _, .loop blankExt, _,
      structured _ _ _ _ ⟨rfl, rfl⟩ rfl rfl rfl (by unfold HasRoom; decide +kernel) (by decide +kernel), by decide +kernel, 63,
      by decide, by decide +kernel⟩

/-! ### Traps and commits -/

/-- The machine with a handler at 0x100 and its frames from 0x200. -/
def armed (g : Warp → Warp := id) : State :=
  let s := bed 0 g
  { s with grids := s.grids.map fun kv => (kv.1, { kv.2 with tvec := [(0, 0x100)], tframe := [(0, 0x200)] }) }

/-- Is an answer there? -/
def answered {ε α : Type} (e : Except ε α) : Bool := match e with | .ok _ => true | .error _ => false

theorem exists_of_answered {ε α : Type} {e : Except ε α} (h : answered e = true) : ∃ p, e = .ok p := by
  cases e with
  | ok p => exact ⟨p, rfl⟩
  | error _ => exact absurd h (by simp [answered])

theorem exists_of_unanswered {ε α : Type} {e : Except ε α} (h : answered e = false) : ∃ p, e = .error p := by
  cases e with
  | ok _ => exact absurd h (by simp [answered])
  | error p => exact ⟨p, rfl⟩

theorem delivers (g : Warp → Warp) (h1 : (g (seated 0)).hmode = false) (h2 : (armed g).tvecOf (g (seated 0)) ≠ 0)
    (h3 : answered (frameAt (armed g) (g (seated 0)) ((armed g).framePtr (g (seated 0))) { write := true }) = true) :
    ∃ ps, Delivers (armed g) (g (seated 0)) ps :=
  (exists_of_answered h3).imp fun _ h => ⟨h1, h2, h⟩

theorem witness_trap_entry : ∃ (s : State) (w : Nat) (x : Warp) (ps : List Place), s.warp w = some x ∧ Delivers s x ps :=
  ⟨armed, 4, seated 0, (delivers id rfl (by decide +kernel) (by decide +kernel)).imp fun _ h => ⟨rfl, h⟩⟩

theorem witness_frame : ∃ (k : Cause) (cyc depth ldep : Nat), k.code < 2 ^ 16 ∧ cyc < 2 ^ 64 ∧ depth < 2 ^ 8 ∧ ldep < 2 ^ 8 :=
  ⟨{ code := 0x13, info := 127, addr := 0 }, 2 ^ 63, 255, 127, by decide, by decide, by decide, by decide⟩

/-- `DoubleTrap`: in the handler; without one; and with a frame area that no page holds. -/
theorem witness_double_trap :
    (∃ (s : State) (w : Nat) (x : Warp) (g : Gang), s.warp w = some x ∧ s.gangOf x = some g ∧ x.hmode = true)
    ∧ (∃ (s : State) (w : Nat) (x : Warp) (g : Gang), s.warp w = some x ∧ s.gangOf x = some g ∧ s.tvecOf x = 0)
    ∧ ∃ (s : State) (w : Nat) (x : Warp) (g : Gang), s.warp w = some x ∧ s.gangOf x = some g ∧ x.hmode = false
      ∧ s.tvecOf x ≠ 0 ∧ ∃ c, frameAt s x (s.framePtr x) { write := true } = .error c :=
  ⟨⟨armed handling, 4, handling (seated 0), _, rfl, rfl, rfl⟩, ⟨bed 0, 4, seated 0, _, rfl, rfl, by decide +kernel⟩,
    ⟨{ armed with columns := [] }, 4, seated 0, _, rfl, rfl, rfl, by decide +kernel,
      exists_of_unanswered (by decide +kernel)⟩⟩

/-- A warp whose run has ended. -/
def ended (e : RunEnd) (f : Run → Run) (x : Warp) : Warp :=
  { x with run := some (f { x.newRun with count := 1, ended := some e }) }

theorem committing (e : RunEnd) (s : State) (x : Warp) (r : Run) (hw : s.warp 4 = some x)
    (hr : x.run = some r) (he : r.ended = some e) (h1 : x.resident = true) (h2 : s.mustWait 4 x r = false)
    (h3 : ∀ p ∈ r.cmp, p.1 = p.2) (h4 : r.soHit = false) (h6 : s.overtaken x r = false) (h7 : s.arrivals = [])
    (h5 : answered (countMats (s.recOf x) r.cmds (((s.blockOf x).map Block.counted).getD [])) = true) :
    Committing s 4 x r e :=
  ⟨hw, hr, he, h1, h2, h3, h4, h6, h7, exists_of_answered h5⟩

/-- A store of one byte in a run's buffer. -/
def storing (r : Run) : Run :=
  { r with stbuf := [{ bytes := [{ loc := .mem 0 (2 ^ 20 + 5) 1, va := 5, byte := 0xA5, poison := false }], so := false,
                       priv := false, rel := none, pool := false, colAx := false, stream := false, noL1 := false, zero := false
                       after := 0, pc := 0 }] }

theorem bed_canonical (mode : Nat) (g : Warp → Warp) : Canonical (bed mode g) :=
  ⟨rfl, rfl, rfl, rfl, nofun, .nil, rfl, rfl, rfl, ⟨rfl, rfl, rfl⟩, ⟨rfl, rfl, rfl⟩⟩

theorem witness_commit : ∃ s w x r, Canonical s ∧ Committing s w x r .plain ∧ Calm x ∧ r.cmds = []
    ∧ (∀ b ∈ r.stbuf, b.rel = none) ∧ r.fenced ≠ 3 ∧ r.settled.allExited = false :=
  ⟨bed 0 (ended .plain storing), 4, ended .plain storing (seated 0), _, bed_canonical _ _,
    committing .plain _ _ _ rfl rfl rfl rfl (by decide +kernel) nofun rfl rfl rfl (by decide +kernel),
    ⟨rfl, rfl, rfl, rfl⟩, rfl, by decide +kernel, by decide +kernel, by decide +kernel⟩

/-- A run of the test warp that has ended and that a commit examines: it is not held back. -/
def Examined (s : State) (w : Nat) (x : Warp) (r : Run) (e : RunEnd) : Prop :=
  s.warp w = some x ∧ x.run = some r ∧ r.ended = some e ∧ x.resident = true ∧ s.mustWait w x r = false ∧ s.arrivals = []

theorem examined (f : Run → Run) (h : (bed 0 (ended .plain f)).mustWait 4 (ended .plain f (seated 0))
      (f { (seated 0).newRun with count := 1, ended := some .plain }) = false)
    (he : (f { (seated 0).newRun with count := 1, ended := some .plain }).ended = some .plain) :
    Examined (bed 0 (ended .plain f)) 4 (ended .plain f (seated 0)) (f { (seated 0).newRun with count := 1, ended := some .plain })
      .plain :=
  ⟨rfl, rfl, he, rfl, h, rfl⟩

/-- An MMA of the first tile, in the formats of two slots. -/
def mixed (slot : Nat) : QCmd :=
  .mat { op := .mma, tile := 0, descA := [0, 0, 0, 0], descB := [0, 0, 0, 0], slotA := slot, slotB := slot
         ord := { rel := false, acq := false, scope := 0 }, warp := 4, block := 3, batch := 0, next := 0, pc := 0x10 }

/-- `RunHeldBack`: a result of an earlier run still to come; a warp swapped out; a disagreement; an SO load overwritten; a byte
that changed behind a fence; one tile counted in INT8 and then in FP16. -/
theorem witness_held_back :
    (∃ (s : State) (w : Nat) (x : Warp) (r : Run) (e : RunEnd), s.warp w = some x ∧ x.run = some r ∧ r.ended = some e
        ∧ s.mustWait w x r = true)
    ∧ (∃ (s : State) (w : Nat) (x : Warp) (r : Run) (e : RunEnd), s.warp w = some x ∧ x.run = some r ∧ r.ended = some e
        ∧ x.resident = false)
    ∧ (∃ s w x r e b, Examined s w x r e ∧ s.blockOf x = some b ∧ ∃ p ∈ r.cmp, p.1 ≠ p.2)
    ∧ (∃ s w x r e, Examined s w x r e ∧ (∀ p ∈ r.cmp, p.1 = p.2) ∧ r.soHit = true)
    ∧ (∃ s w x r e, Examined s w x r e ∧ (∀ p ∈ r.cmp, p.1 = p.2) ∧ r.soHit = false ∧ s.overtaken x r = true)
    ∧ ∃ s w x r e k pc, Examined s w x r e ∧ (∀ p ∈ r.cmp, p.1 = p.2) ∧ r.soHit = false ∧ s.overtaken x r = false
        ∧ countMats (s.recOf x) r.cmds (((s.blockOf x).map Block.counted).getD []) = .error (k, pc) :=
  ⟨⟨bed 0 fun x => awaiting (.v 1) 1 false (ended .plain id x), 4, _, _, .plain, rfl, rfl, rfl, by decide +kernel⟩,
    ⟨bed 0 fun x => { ended .plain id x with swapped := true }, 4, _, _, .plain, rfl, rfl, rfl, rfl⟩,
    ⟨_, _, _, _, _, _, examined (fun r => { r with cmp := [(7, 8)] }) (by decide +kernel) rfl, rfl, (7, 8),
      List.mem_singleton.mpr rfl, by decide⟩,
    ⟨_, _, _, _, _, examined (fun r => { r with soHit := true }) (by decide +kernel) rfl, nofun, rfl⟩,
    ⟨_, _, _, _, _, examined (fun r => { r with late := [(.mem 0 64 1, 1)] }) (by decide +kernel) rfl, nofun, rfl,
      by decide +kernel⟩,
    _, _, _, _, _, 2, 0x10, examined (fun r => { r with cmds := [mixed 0, mixed 3] }) (by decide +kernel) rfl, nofun, rfl, rfl,
    by decide +kernel⟩

/-- The hypotheses of `RunEnds`. -/
def Ends (s : State) (w : Nat) (x : Warp) (r : Run) (e : RunEnd) : Prop :=
  Committing s w x r e ∧ Calm x ∧ r.cmds = [] ∧ r.stbuf = [] ∧ r.settled.allExited = false

theorem witness_run_ends : ∀ e ∈ [RunEnd.yield, .sleep (some 100), .cwait 2 7, .mwait 1, .mrgWait 2 9, .gwait 2 7,
    .waitb 0 0 0 none],
    ∃ s w x r, Ends s w x r e := by
  simp only [List.forall_mem_cons]
  repeat' apply And.intro
  all_goals first
    | exact List.forall_mem_nil _
    | exact ⟨bed 0 (ended _ id), 4, _, _, committing _ _ _ _ rfl rfl rfl rfl (by decide +kernel) nofun rfl rfl rfl
        (by decide +kernel), ⟨rfl, rfl, rfl, rfl⟩, rfl, rfl, by decide +kernel⟩

/-- TRAP, where the trap reaches the handler. -/
theorem witness_software_trap : ∃ s w x r ps, Ends s w x r (.trap 9) ∧ r.fenced ≠ 3 ∧ Delivers s (settledWarp x r) ps := by
  obtain ⟨ps, h⟩ := delivers (ended (.trap 9) id) rfl (by decide +kernel) (by decide +kernel)
  exact ⟨armed (ended (.trap 9) id), 4, _, _, ps,
    ⟨committing _ _ _ _ rfl rfl rfl rfl (by decide +kernel) nofun rfl rfl rfl (by decide +kernel),
      ⟨rfl, rfl, rfl, rfl⟩, rfl, rfl, by decide +kernel⟩, by decide +kernel, ⟨rfl, h.2.1, h.2.2⟩⟩

/-- A warp in its handler whose TRET has ended its run. -/
def returning (x : Warp) : Warp :=
  { ended .tret id x with
    hmode := true
    saved := some { c := x.regs.c, nc := List.replicate 64 0, depth := 1, ldep := 0, mark := 0, tpc := 0x40, frame := 0x280 } }

/-- The same machine with a save area for context 1 on column 0, and the record the warp's own or another's. -/
def recorded (mine area : Bool) : State :=
  let s := armed returning
  { s with
    contexts := s.contexts.map fun kv => (kv.1, { kv.2 with save := if area then [(0, (2 ^ 21, 1))] else [] })
    records := if mine then [(recordKey 1 0 0 0, (returning (seated 0)).holder)] else []
    mem := (List.range 64).foldl (fun m i => cellsSet m (memKey 0 (2 ^ 21 + warpRecord 0 0 + 0x10940 + i)) [0]) s.mem }

theorem recorded_commits (mine area : Bool) : ∃ r v ps, Ends (recorded mine area) 4 (returning (seated 0)) r .tret
    ∧ r.fenced ≠ 3 ∧ (returning (seated 0)).saved = some v
    ∧ frameAt (recorded mine area) (returning (seated 0)) v.frame { read := true } = .ok ps ∧ ∃ n ∈ v.nc, n ≠ 255 := by
  obtain ⟨ps, h⟩ := exists_of_answered (e := frameAt (recorded mine area) (returning (seated 0)) 0x280 { read := true })
    (by revert mine area; decide +kernel)
  refine ⟨_, _, ps, ⟨committing _ _ _ _ rfl rfl rfl rfl ?_ nofun rfl ?_ ?_ ?_, ⟨rfl, rfl, rfl, rfl⟩, rfl, rfl, by decide +kernel⟩,
    by decide +kernel, rfl, h, by decide +kernel⟩ <;> clear h <;> revert mine area <;> decide +kernel

/-- TRET where the warp's record is its own and its context has a save area, and where one of the two is missing. -/
theorem witness_return : ∀ mine area : Bool, (∃ r v ps, Ends (recorded mine area) 4 (returning (seated 0)) r .tret
      ∧ r.fenced ≠ 3 ∧ (returning (seated 0)).saved = some v
      ∧ frameAt (recorded mine area) (returning (seated 0)) v.frame { read := true } = .ok ps ∧ ∃ n ∈ v.nc, n ≠ 255)
    ∧ let s := recorded mine area
      (mapGet s.records (recordKey 1 0 0 0) == some (returning (seated 0)).holder) = mine
      ∧ mapGet (s.ctx 1).save 0 = (if area then some (2 ^ 21, 1) else none)
      ∧ (mine = true → area = true → (s.readLoc 0 (.mem 0 (2 ^ 21 + (warpRecord 0 0 + 0x10940) + 0) 1)).1 ≠ 255) :=
  fun mine area => ⟨recorded_commits mine area, by revert mine area; decide +kernel⟩
/-! ### Boot, firmware, contexts and the host -/

/-- A device that is up, with a context, its command arguments and its keys. -/
def up (c : Context) (a0 : Nat := 0) (a1 : Nat := 0) (a2 : Nat := 0) (keys : AMap (Nat × Nat) := [(0, (0, 0))]) : State :=
  { State.reset with
    dev := { Dev.reset with bootst := 4, cmarg0 := BitVec.ofNat 64 a0, cmarg1 := BitVec.ofNat 64 a1, cmarg2 := BitVec.ofNat 64 a2 }
    contexts := [(1, c)], keys := keys }

/-- A live context. -/
def alive : Context := { Context.empty with live := true }

theorem up_canonical (c : Context) (a0 a1 a2 : Nat) (k : AMap (Nat × Nat)) : Canonical (up c a0 a1 a2 k) :=
  ⟨rfl, rfl, rfl, rfl, nofun, .nil, rfl, rfl, rfl, ⟨rfl, rfl, rfl⟩, ⟨rfl, rfl, rfl⟩⟩

/-- `BootCompletes`: each stage, and after the last. Whether the record verifies is left open: it is one or the other. With an
empty flash every image verifies. -/
theorem witness_boot : State.reset.dev.bootst = 0 ∧ 4 ≤ (up alive).dev.bootst
    ∧ (State.reset.dev.record.genuine = true ∨ State.reset.dev.record.genuine = false)
    ∧ (∀ n ∈ [1, 2, 3], ({ State.reset with dev := { Dev.reset with bootst := n } } : State).dev.bootst = n)
    ∧ ∀ x ∈ State.reset.dev.firmware, x.genuine = true :=
  ⟨rfl, by decide, by cases State.reset.dev.record.genuine <;> simp, by decide, nofun⟩

/-- The state after reset with a mailbox length and staged images. -/
def mailbox (len : Nat) (staged : List Image) : State :=
  { State.reset with dev := { Dev.reset with bootst := 4, fwlen := BitVec.ofNat 32 len, staged := staged } }

/-- `FirmwareCompletes`: an image number too high; a poisoned line in the way, and none; a live context; nothing verified;
something verified. -/
theorem witness_firmware :
    ¬ (16 : Nat) ≤ 15
    ∧ (let s : State := { mailbox 64 [] with hostPsn := [1] }
       s.dev.fwaddr.toNat % 4096 = 0 ∧ s.dev.fwlen.toNat = 64 ∧ ∃ l ∈ s.hostPsn, 0 < 32 * l + 32 ∧ 32 * l < 0 + 64)
    ∧ (let s := mailbox (64 * 2 ^ 20) []
       s.dev.fwaddr.toNat % 4096 = 0 ∧ s.dev.fwlen.toNat ≤ 64 * 2 ^ 20 ∧ ∀ l ∈ s.hostPsn, ¬ (0 < 32 * l + 32 ∧ 32 * l < 64))
    ∧ ((up alive).dev.bootst ≠ 0xF ∧ (up alive).anyLive = true)
    ∧ ((mailbox 0 []).anyLive = false ∧ ∀ x ∈ (mailbox 0 []).dev.staged, x.verified = false)
    ∧ (∃ x ∈ (mailbox 0 [{ index := 3, bytes := [1], verified := true }]).dev.staged, x.verified = true)
    ∧ 2 ^ 16 ≤ (loWord 0x10001).toNat ∧ (loWord 0xFF02).toNat = 2 + 256 * 255 ∧ (loWord 0x0F01).toNat = 1 + 256 * 15 := by
  decide +kernel

/-- A warp of context 1 on column 0, with a grid. -/
def occupied : State := bed 0

/-- A device with a command of the remapping kind under way, and one whose context's warp holds accesses back. -/
def underway : State :=
  let s := up alive
  { s with dev := { s.dev with busy := some { code := 3, asid := 1, arg0 := 0x8000, arg1 := 0, arg2 := 0 } } }

/-- A warp of context 1 with a part of a committed run to perform behind a BFENCE. -/
def holdingBack : State :=
  bed 0 fun x => { x with rest := some { run := { x.newRun with stbuf := [] }, place := 1, fences := [] } }

/-- `ContextsManaged`: a command as it is written and one under way, with the context holding no access back; and one that must
wait. -/
theorem witness_remaps : ((up alive).holdsAccess 1 = false ∧ (up alive).dev.busy = none)
    ∧ (underway.holdsAccess 1 = false ∧ ∃ b, underway.dev.busy = some b ∧ b.code = 3 ∧ b.asid = 1
        ∧ b.arg0.toNat = 0 + 0 * 2 ^ 8 + true.toNat * 2 ^ 15)
    ∧ (holdingBack.holdsAccess 1 = true ∧ holdingBack.dev.busy = none ∧ (holdingBack.ctx 1).live = true) :=
  ⟨by decide +kernel, ⟨by decide +kernel, _, rfl, rfl, rfl, by decide +kernel⟩, by decide +kernel⟩

/-- `ContextsManaged`: the states of CREATE and DESTROY. -/
theorem witness_contexts :
    ((up { alive with live := false, closed := true }).ctx 1).closed = true
    ∧ (((up alive).ctx 1).closed = false ∧ ((up alive).ctx 1).live = true ∧ (up alive).hasGrid 1 = false)
    ∧ (((up alive).ctx 2).closed = false ∧ ((up alive).ctx 2).live = false ∧ (up alive).hasGrid 2 = false)
    ∧ occupied.hasGrid 1 = true ∧ (up alive).dev.bootst = 4 := by decide +kernel

/-- `ContextsManaged`: the arguments of each command, at the boundaries of their fields. -/
theorem witness_arguments :
    ((up alive (254 + 127 * 2 ^ 8 + 2 ^ 15)).dev.cmarg0.toNat = 254 + 127 * 2 ^ 8 + true.toNat * 2 ^ 15
      ∧ (up alive (254 + 127 * 2 ^ 8 + 2 ^ 15)).columnLive 127 = true)
    ∧ (up alive (0 + 0 * 2 ^ 8)).dev.cmarg0.toNat = 0 + 0 * 2 ^ 8 + false.toNat * 2 ^ 15
    ∧ ((up alive 127 (2 ^ 34 - 1)).dev.cmarg0.toNat = 127 ∧ (up alive 127 (2 ^ 34 - 1)).dev.cmarg1.toNat < 2 ^ 34)
    ∧ (let s := up alive (127 + 254 * 2 ^ 16 + 2 ^ 31) 4096
       s.dev.cmarg0.toNat = 127 + 254 * 2 ^ 16 + 2 ^ 31 ∧ ((s.ctx 1).lroots.filter fun r => r.1 == 127).length < 8)
    ∧ (up alive 255).dev.cmarg0.toNat = 255
    ∧ (let s := up alive (4095 + 1 * 2 ^ 16) 0 0 [(0, (0, 0)), (4095, (1, 3))]
       s.dev.cmarg0.toNat = 4095 + true.toNat * 2 ^ 16 ∧ (mapGet s.keys 4095).map Prod.fst = some 1)
    ∧ (let s := up alive 7 0 0 [(0, (0, 0)), (7, (2, 3))]
       s.dev.cmarg0.toNat = 7 + false.toNat * 2 ^ 16 ∧ (mapGet s.keys 7).map Prod.fst = some 2)
    ∧ (up alive (127 + 15 * 2 ^ 8)).dev.cmarg0.toNat = 127 + 15 * 2 ^ 8
    ∧ (up alive (287 + 8191 * 2 ^ 16 + 2 ^ 31)).dev.cmarg0.toNat = 287 + 8191 * 2 ^ 16 + 2 ^ 31
    ∧ (up alive 287).dev.cmarg0.toNat = 287
    ∧ (let s := up alive (127 + 4095 * 2 ^ 16) (2 ^ 34 - 48 * 2 ^ 21) 0 [(0, (0, 0)), (4095, (1, 3))]
       s.dev.cmarg0.toNat = 127 + 4095 * 2 ^ 16 ∧ s.onColumn 1 127 = false ∧ s.dev.cmarg1.toNat % 2 ^ 21 = 0
        ∧ s.dev.cmarg1.toNat + 96 * 2 ^ 20 ≤ 2 ^ 34 ∧ (mapGet s.keys 4095).map Prod.fst = some 1)
    ∧ (let s := up alive 127 (2 ^ 48 - 2 ^ 16) (2 ^ 16)
       s.dev.cmarg0.toNat = 127 ∧ s.onColumn 1 127 = false ∧ s.dev.cmarg1.toNat % 2 ^ 16 = 0 ∧ s.dev.cmarg2.toNat % 2 ^ 16 = 0
        ∧ s.dev.cmarg1.toNat + s.dev.cmarg2.toNat ≤ 2 ^ 48)
    ∧ occupied.onColumn 1 0 = true := by decide +kernel

/-- `MessagesAnswered`: a closed context, an open one, and a device past its first boot stage. -/
theorem witness_messages : ((up { alive with live := false, closed := true }).ctx 1).closed = true
    ∧ ((up alive).ctx 1).closed = false ∧ (up alive).dev.bootst ≠ 0 ∧ (up alive).dev.bootst ≠ 0xF := by decide +kernel

/-- `MessagesAnswered`: the last columns READ_METERS and READ_LOG may name. -/
theorem witness_message_columns : 112 + 16 ≤ 128 ∧ 127 < 128 ∧ 3 < 4 := by decide

/-- A device that is up with queue 0 enabled for a context. -/
def queued (ctl : Word) : State :=
  let s := up alive
  { s with dev := { s.dev with queues := s.dev.queues.set 0 { Queue.reset with qctl := ctl, asid := some 1 } } }

/-- `HostAccessesComplete`: QCTL written to enable, with a size in and out of range; written over an enabled queue. -/
theorem witness_queues :
    (let k := (queued 0).dev.queue 0
     let v : Word := 0x000100B1
     bit k.qctl 0 = false ∧ bit v 0 = true ∧ (v &&& 0x1FFF00F1).toNat / 16 % 16 < 12)
    ∧ (let v : Word := 0x000100C1
       bit v 0 = true ∧ 12 ≤ (v &&& 0x1FFF00F1).toNat / 16 % 16)
    ∧ (let k := (queued 0x00010001).dev.queue 0
       let v : Word := 0x00010000
       bit k.qctl 0 = true ∧ bit v 0 = false ∧ (v &&& 0x1FFF00F1) ||| 1 = k.qctl)
    ∧ (let k := (queued 0x00010001).dev.queue 0
       bit k.qctl 0 = true ∧ ((0x00020001 : Word) &&& 0x1FFF00F1) ||| 1 ≠ k.qctl)
    ∧ State.reset.dev.bootst ≠ 4 := by decide +kernel

/-- A write of a paired peer. -/
def pairedWrite : Inbound :=
  { peer := 3, pasid := 9, asid := 1, write := true, ptr := 0, data := [1, 2, 3, 4], ask := .none, rstrt := false, psn := false }

/-- A read of a peer that no context is paired with. -/
def unpairedRead : Inbound :=
  { peer := 4, pasid := 9, asid := 1, write := false, ptr := 0, data := [1], ask := .none, rstrt := false, psn := false }

/-- An aperture of a context. -/
def contextAperture (ctl : Word) : Aperture := { ctl := ctl, off := 0, len := 64, win := 0 }

/-- An aperture of the tables. -/
def tableAperture : Aperture := { ctl := 0x7, off := 0x1000, len := 64, win := 128 }

/-- A device that is up with an aperture of a context and one of the tables, a page that the context maps, and a transfer of
a paired peer. -/
def opened (ctl : Word) : State :=
  let s := bed 0
  { s with
    dev := { s.dev with aps := (s.dev.aps.set 0 (contextAperture ctl)).set 1 tableAperture }
    contexts := s.contexts.map fun kv => (kv.1, { kv.2 with pairs := [(3, 9)] })
    pairsIn := [(3 * 8192 + 9, 1)]
    inbound := [(20, pairedWrite), (21, unpairedRead)] }

/-- Is a place in column memory? -/
def isMem : Loc → Bool
  | .mem _ _ _ => true
  | .host _ | .spad _ _ | .peer _ _ _ => false

/-- Are some places found, and do they lie all in column memory? -/
def foundHere (e : Except Cause (List Loc)) : Bool := match e with | .ok ls => ls.all isMem | .error _ => false

theorem exists_of_foundHere {e : Except Cause (List Loc)} (h : foundHere e = true) : ∃ ls, e = .ok ls ∧ OnePlace ls := by
  cases e with
  | error _ => exact absurd h (by simp [foundHere])
  | ok ls =>
    refine ⟨ls, rfl, .inl fun l hl => ?_⟩
    have k := List.all_eq_true.1 h l hl
    cases l with
    | mem c pa n => exact ⟨c, pa, n, rfl⟩
    | host _ | spad _ _ | peer _ _ _ => simp [isMem] at k

/-- Every clause about apertures and peers: open to reading and to writing, closed; a pointer that no page holds; the table
aperture; a transfer of a paired peer and one of another; accesses of one byte and of eight. -/
theorem witness_apertures :
    (∀ n ∈ [1, 8], n = (accessBytes (List.replicate n 0xA5)).length ∧ let s := opened 0x00010003
     ∃ a, s.dev.aps[0]? = some a ∧ s.dev.bootst = 4 ∧ bit a.ctl 0 = true ∧ bit a.ctl 2 = false ∧ bit a.ctl 1 = true
      ∧ 56 + n ≤ a.len.toNat ∧ (s.ctx (a.ctl.toNat / 2 ^ 16 % 8192)).live = true ∧ a.ctl.toNat / 2 ^ 8 % 256 ≠ 255
      ∧ (s.ctx 1).pcol 0 = some 0
      ∧ (∃ ls, s.enginePlaces 0 1 0 (BitVec.ofNat 64 56) (n) { write := true } = .ok ls)
      ∧ ∃ ls, s.enginePlaces 0 1 0 (BitVec.ofNat 64 56) (n) { read := true } = .ok ls ∧ OnePlace ls)
    ∧ (let s := { opened 0x00010003 with columns := [] }
       ∃ c, s.enginePlaces 0 1 0 (BitVec.ofNat 64 56) 8 { read := true } = .error c)
    ∧ (let s := opened 0x00010002
       ∃ a, s.dev.aps[0]? = some a ∧ bit a.ctl 0 = false)
    ∧ (let s := opened 0x00010003
       ∃ a, (s.dev.aps.find? fun a => bit a.ctl 0 && bit a.ctl 2 && decide (a.win.toNat ≤ 128)
          && decide (128 + 8 ≤ a.win.toNat + a.len.toNat)) = some a ∧ bit a.ctl 1 = true
        ∧ a.off.toNat + (128 - a.win.toNat) + 8 ≤ 2 ^ 34)
    ∧ (let s := opened 0x00010003
       ∃ i, mapGet s.inbound 20 = some i ∧ s.paired i = true ∧ i.ask = .none ∧ bit i.ptr 63 = false
        ∧ ∃ ls, s.enginePlaces 0 i.asid 0 i.ptr i.data.length { read := !i.write, write := i.write } = .ok ls)
    ∧ (let s := opened 0x00010003
       ∃ i, mapGet s.inbound 21 = some i ∧ s.paired i = false) := by
  refine ⟨?_, exists_of_unanswered (by decide +kernel), ⟨contextAperture 0x00010002, rfl, rfl⟩,
    ⟨tableAperture, by decide +kernel, rfl, by decide +kernel⟩,
    ⟨pairedWrite, rfl, by decide +kernel, rfl, rfl, exists_of_answered (by decide +kernel)⟩, ⟨unpairedRead, rfl, by decide +kernel⟩⟩
  simp only [List.forall_mem_cons]
  exact ⟨⟨rfl, contextAperture 0x00010003, rfl, rfl, rfl, rfl, rfl, by decide +kernel, by decide +kernel, by decide +kernel,
      by decide +kernel, exists_of_answered (by decide +kernel), exists_of_foundHere (by decide +kernel)⟩,
    ⟨rfl, contextAperture 0x00010003, rfl, rfl, rfl, rfl, rfl, by decide +kernel, by decide +kernel, by decide +kernel,
      by decide +kernel, exists_of_answered (by decide +kernel), exists_of_foundHere (by decide +kernel)⟩, nofun⟩

theorem opened_canonical (ctl : Word) : Canonical (opened ctl) :=
  ⟨rfl, rfl, rfl, rfl, nofun, .nil, rfl, rfl, rfl, ⟨rfl, rfl, rfl⟩, ⟨rfl, rfl, rfl⟩⟩

/-- A host line of which two bytes are dirty. -/
def heldLine : HostLine := { bytes := List.replicate 64 7, dirty := 3, psn := 0, since := 0, asid := 1 }

/-- A machine with a host line held, a line with an error, transfers under retry on two pseudo-channels, and a window of
requests of which one slice has most. -/
def worn : State :=
  let s := up alive
  { s with
    hostCopy := [(5, heldLine)]
    columns := [(0, { Column.reset with retry := [(1, 9, 3, 0), (2, 16, 4, 1)], requests := [(8, 9), (1, 1)] })]
    errs := [(4, (255, 1)), (6, (3, 1))] }

theorem worn_canonical : Canonical worn :=
  ⟨rfl, rfl, rfl, rfl, by decide +kernel, by decide +kernel, rfl, rfl, rfl, ⟨rfl, rfl, rfl⟩, ⟨rfl, rfl, rfl⟩⟩

/-- Only column 0 holds the line. -/
theorem witness_sole_holder : ∀ c y, mapGet worn.hostCopy (c * 2 ^ 47 + 5) = some y → c ≠ 0 → y.dirty = 0 := by
  intro c y h hc
  have e : worn.hostCopy = [(5, heldLine)] := rfl
  simp only [e, mapGet] at h
  split at h
  · rename_i k; omega
  · simp at h

/-- Every clause of `MaintenanceCompletes` with a hypothesis. -/
theorem witness_maintenance :
    (mapGet worn.hostCopy 5 = some heldLine ∧ 5 / 2 ^ 47 = 0)
    ∧ ((worn.column 0).failed ≠ 2 ∧ 2 * (worn.column 0).sliceLoad ((worn.column 0).extremeSlice false)
        < (worn.column 0).sliceLoad ((worn.column 0).extremeSlice true)
        ∧ ((worn.column 0).requests.map Prod.fst).Nodup)
    ∧ (up alive).columns = []
    ∧ (mapGet worn.errs (memKey 0 (32 * 4) / 32) = some (255, 1) ∧ mapGet worn.errs (memKey 0 (32 * 6) / 32) = some (3, 1)
        ∧ mapGet worn.errs (memKey 0 (32 * 5) / 32) = none)
    ∧ ((worn.column 0).retrying = some (1, 9, 3, 0) ∧ (worn.column 0).toTest = some (2, 16, 4, 1)
        ∧ (worn.column 0).spares 2 < 2)
    ∧ (mapGetD (worn.column 0).trained 1 0 = 0
        ∧ (((worn.column 0).retry.any fun y => y.1 == 1) && !(worn.column 0).due.contains 1) = true
        ∧ (((worn.column 0).retry.any fun y => y.1 == 3) && !(worn.column 0).due.contains 3) = false)
    ∧ (worn.dev.calm.getD 0 0 = 0 ∧ worn.cycOf 0 = 0 ∧ worn.dev.mxthr.getD 0 0 = 0) := by decide +kernel

/-- A throttle that may be lowered, and a pseudo-channel whose spares are used up. -/
theorem witness_spent :
    (let s : State := { up alive with cyc := List.replicate 128 65536 }
     s.dev.calm.getD 0 0 + 2 ^ 16 ≤ s.cycOf (32 * 0))
    ∧ (let c : Column := { Column.reset with spuse := 0x20, retry := [(2, 16, 4, 1)] }
       c.toTest = some (2, 16, 4, 1) ∧ 2 ≤ c.spares 2)
    ∧ (let c : Column := { Column.reset with trained := [(1, 5)] }
       mapGetD c.trained 1 0 ≠ 0 ∧ 0 + 1 < mapGetD c.trained 1 0 + 2 ^ 22) := by decide +kernel

/-! ### The engines, the events of warps, and the scheduler -/

/-- A merge command of the warp's, for round 5 of its own column's station. -/
def stationCmd (op : MergeOp) (w0 w1 : Word) : MergeCmd :=
  { id := 7, op := op, ref := 0x00FF000000000005, src := 0, w0 := w0, w1 := w1, ord := ⟨false, false, 0⟩, col := 0, asid := 1,
    warp := 4, block := 3, gang := 2, sent := 1, done := 0, part := [] }

/-- Round 5 of context 1 on column 0: one tile of BF16, two contributors, and what stands staged. -/
def openedRound (cont : AMap Contributor) : Round :=
  { col := 0, asid := 1, id := 5, state := .opened, bf16 := true, t := 1, k := 2, limit := 0x3F800000, tot := 0
    scope := 0, order := 0, total := [[]], psn := [], cont := cont, head := 0, nDone := 0, nRej := 0
    nScaled := 0, waiters := [] }

/-- A machine with a merge command and rounds. -/
def stationed (m : MergeCmd) (rounds : AMap Round) : State :=
  let s := bed 0
  { s with merges := [(7, m)], rounds := rounds, pairsIn := [(3 * 8192 + 9, 1)]
           contexts := s.contexts.map fun kv => (kv.1, { kv.2 with pairs := [(3, 9)] }) }

theorem stationed_canonical (m : MergeCmd) (r : AMap Round) : Canonical (stationed m r) :=
  ⟨rfl, rfl, rfl, rfl, nofun, .nil, rfl, rfl, rfl, ⟨rfl, rfl, rfl⟩, ⟨rfl, rfl, rfl⟩⟩

/-- Are some bytes there for an engine, in column memory and without poison? -/
def soundPlaces (s : State) (e : Except Cause (List Loc)) : Bool :=
  match e with
  | .ok ls => ls.all fun l => (match l with | .mem c _ _ => c == 0 | _ => false) && !(s.readLoc 0 l).2
  | .error _ => false

theorem exists_of_soundPlaces {s : State} {e : Except Cause (List Loc)} (h : soundPlaces s e = true) :
    ∃ ls, e = .ok ls ∧ (∀ l ∈ ls, ∃ pa k, l = .mem 0 pa k) ∧ ∀ l ∈ ls, (s.readLoc 0 l).2 = false := by
  cases e with
  | error c => exact absurd h (by simp [soundPlaces])
  | ok ls =>
    simp only [soundPlaces, List.all_eq_true, Bool.and_eq_true, Bool.not_eq_true'] at h
    refine ⟨ls, rfl, fun l hl => ?_, fun l hl => (h l hl).2⟩
    have := (h l hl).1
    cases l <;> simp at this
    exact this ▸ ⟨_, _, rfl⟩

/-- A round opens: its total stands in 2,048 bytes. -/
theorem witness_round_open :
    let m := stationCmd .openRound 0x3F800000 0x01000001
    let s := stationed m []
    let s1 := s.walkBytes m.asid 0 m.src (openT m.w1 * tileBytes true)
    s.mergeHeld m = false ∧ s.mergeStation m = .ok 0 ∧ s.openRound 1 0 5 = none ∧ openT m.w1 = 1 ∧ bit m.w1 24 = true
      ∧ 2 * (openT m.w1 * tileBytes true) ≤ s.landingFree 0
      ∧ ∃ ls, s1.enginePlaces 0 m.asid m.gang m.src (openT m.w1 * tileBytes true) { read := true, write := true } = .ok ls
        ∧ (∀ l ∈ ls, ∃ pa k, l = .mem 0 pa k) ∧ ∀ l ∈ ls, (s1.readLoc 0 l).2 = false :=
  ⟨by decide +kernel, rfl, by decide +kernel, rfl, rfl, by decide +kernel, exists_of_soundPlaces (by decide +kernel)⟩

/-- What STAGE_TILES asks of a PUT, and whether the bytes of its next chunk, which begins at a place, are found. -/
def Staging (m : MergeCmd) (start : Nat) (found : Bool) : Prop :=
  let r := openedRound []
  let s := stationed m [(8, r)]
  m.op = .put ∧ m.done < m.sent ∧ s.mergeStation m = .ok 0 ∧ s.openRound 1 0 5 = some (8, r) ∧ mapGet s.rounds 8 = some r
    ∧ r.refusal m true = none ∧ (cidOf m.w0 = r.head ∨ tileBytes r.bf16 ≤ s.landingFree 0)
    ∧ m.chunk r.bf16 = (List.range 256).map (start + ·)
    ∧ answered (placesOrFault (s.tileByte m) ((List.range 256).map (start + ·))) = found

/-- A PUT that has read 1,792 of its tile's 2,048 bytes. -/
def almost : MergeCmd := { stationCmd .put 0x40000000 0 with part := List.replicate 1792 (0, false) }

/-- A chunk of a tile, of the head contributor and of a later one: the first chunk, the last one, and a source that no page
holds. -/
theorem witness_stage :
    Staging (stationCmd .put 0x40000000 0) 0 true ∧ Staging (stationCmd .put 0x40000001 0) 0 true
    ∧ Staging { stationCmd .put 0x40000000 0 with src := 0x20000 } 0 false ∧ Staging almost 1792 true := by
  refine ⟨?_, ?_, ?_, ⟨rfl, by decide, rfl, rfl, rfl, by decide +kernel, .inl rfl, ?_, by decide +kernel⟩⟩
  · unfold Staging; decide +kernel
  · unfold Staging; decide +kernel
  · unfold Staging; decide +kernel
  · have h : almost.part.length = 1792 := List.length_replicate
    simp only [MergeCmd.chunk, MergeCmd.at_, h]; decide +kernel

/-- A marker for the station of a paired peer. -/
theorem witness_marker :
    let m := { stationCmd .endGroup 1 0 with ref := 0x8000000300000005 }
    let s := stationed m []
    mapGet s.merges 7 = some m ∧ m.done < m.sent ∧ s.mergeBehind m = false ∧ refRem m.ref = true
      ∧ s.mutual m.asid (refPeer m.ref) = some 9 := by decide +kernel

/-- A contributor whose group is closed, with its scale or rejected. -/
def closed (sc : Option Word) : Contributor :=
  { Contributor.fresh with gang := some (2, false), ended := true, scale := some sc }

/-- An END closes a contributor. -/
theorem witness_end :
    let m := stationCmd .endGroup 1 0
    let s := stationed m [(8, openedRound [])]
    m.done < m.sent ∧ s.mergeBehind m = false ∧ s.mergeStation m = .ok 0 ∧ s.openRound 1 0 5 = some (8, openedRound [])
      ∧ (openedRound []).refusal m false = none :=
  ⟨by decide, by decide +kernel, rfl, by decide +kernel, by decide +kernel⟩

/-- A round whose head is closed with a scale, or rejected. -/
def closedRound (sc : Option Word) (h : Nat) : Round := { openedRound [(h, closed sc)] with head := h }

/-- What CONTRIBUTOR_COMMIT asks of it. -/
def CommitsHead (sc : Option Word) (h : Nat) : Prop :=
  let r := closedRound sc h
  let s := stationed (stationCmd .drop 0 0) [(8, r)]
  s.openRound 1 0 5 = some (8, r) ∧ mapGet s.rounds 8 = some r ∧ r.headReady = true ∧ s.reachable 0 = true
    ∧ (r.contributor r.head).commitScale = sc

/-- The head commits, with a scale and rejected, before the last contributor and at it. -/
theorem witness_contributor_commit : CommitsHead none 0 ∧ CommitsHead (some 0x3F800000) 1 ∧ CommitsHead (some 0x3F000000) 0
    ∧ (closedRound none 0).head + 1 ≠ (closedRound none 0).k
    ∧ (closedRound none 1).head + 1 = (closedRound none 1).k := by
  unfold CommitsHead; decide +kernel

/-- A row line of a total walked to. -/
def State.toLine (s : State) (r : Round) (i : Nat) : State := s.walkBytes r.asid r.col (r.tot + BitVec.ofNat 64 (32 * i)) 32

/-- A row line of a total written, if it is found. -/
def lineStep (r : Round) (p : State × Bool) (i : Nat) : State × Bool :=
  match (State.toLine p.1 r i).totalLine r i with
  | .ok ls => ((State.toLine p.1 r i).engineWrite r.col r.asid ((r.tot.toNat + 32 * i) % 2 ^ 48) ls
      ((r.totalBytes.drop (32 * i)).take 32), p.2)
  | .error _ => (State.toLine p.1 r i, false)

/-- The first lines of a total written, one after the other, and whether each was found. -/
def linesFound (s : State) (r : Round) (n : Nat) : State × Bool := (List.range n).foldl (lineStep r) (s, true)

theorem linesFound_sound (s : State) (r : Round) (n : Nat) :
    (linesFound s r n).1 = s.writeLines r n
      ∧ ((linesFound s r n).2 = true → ∀ i < n, ∃ ls, (State.toLine (s.writeLines r i) r i).totalLine r i = .ok ls) := by
  induction n with
  | zero => exact ⟨rfl, nofun⟩
  | succ n ih =>
    have e : (linesFound s r (n + 1)) = lineStep r (linesFound s r n) n := by
      simp only [linesFound, List.range_succ, List.foldl_append, List.foldl_cons, List.foldl_nil]
    have f : s.writeLines r (n + 1) = (match (State.toLine (s.writeLines r n) r n).totalLine r n with
      | .ok ls => (State.toLine (s.writeLines r n) r n).engineWrite r.col r.asid ((r.tot.toNat + 32 * n) % 2 ^ 48) ls
          ((r.totalBytes.drop (32 * n)).take 32)
      | .error _ => State.toLine (s.writeLines r n) r n) := by
      simp only [State.writeLines, List.range_succ, List.foldl_append, List.foldl_cons, List.foldl_nil]; rfl
    rw [e, f]
    simp only [lineStep, ih.1]
    cases h : (State.toLine (s.writeLines r n) r n).totalLine r n with
    | error c => exact ⟨rfl, nofun⟩
    | ok ls =>
      refine ⟨rfl, fun k i hi => ?_⟩
      obtain hi | rfl := Nat.lt_succ_iff_lt_or_eq.1 hi
      · exact ih.2 k i hi
      · exact ⟨ls, h⟩

/-- A round about to complete, with a total of eight row lines. -/
def lastRound : Round := { closedRound none 1 with total := [List.replicate 128 0] }

theorem witness_total : ∃ place : Nat → List Loc, lastRound.head + 1 = lastRound.k ∧ (lastRound.contributor 1).commitScale = none
    ∧ (totalBytesOf lastRound lastRound.total).length / 32 = 8
    ∧ ∀ i < 8, (((stationed (stationCmd .drop 0 0) [(8, lastRound)]).writeLines lastRound.advance i).walkBytes 1 0
        (lastRound.tot + BitVec.ofNat 64 (32 * i)) 32).totalLine lastRound i = .ok (place i) := by
  have h := (linesFound_sound (stationed (stationCmd .drop 0 0) [(8, lastRound)]) lastRound.advance 8).2 (by decide +kernel)
  choose! place hp using h
  exact ⟨place, rfl, rfl, by decide +kernel, hp⟩

/-- A round is dropped. -/
theorem witness_drop :
    let m := stationCmd .drop 0 0
    let s := stationed m [(8, openedRound [])]
    m.done < m.sent ∧ s.mergeStation m = .ok 0 ∧ s.findRound 1 0 5 = some (8, openedRound []) :=
  ⟨by decide, rfl, by decide +kernel⟩

/-- The queue sends. -/
theorem witness_send :
    let m := { stationCmd .put 0x40000000 0 with sent := 0 }
    let s := stationed m [(8, openedRound [])]
    (s.column 0).failed ≠ 2 ∧ (s.column 0).halted = false ∧ (∀ kv ∈ s.merges, kv.2.col = 0 → kv.2.op ≠ .rank)
      ∧ s.nextTransfer 0 = some m ∧ refRem m.ref = false := by decide +kernel

/-- A station learns that a gang has retired and that one was killed. -/
theorem witness_notice : ∀ retired ∈ [true, false],
    let s : State := { stationed (stationCmd .drop 0 0) [(8, openedRound [(0, closed none)])] with notices := [(0, 2, retired)] }
    (s.notices.find? fun q => q.1 == 0 && q.2.1 == 2) = some (0, 2, retired) := by decide +kernel

/-- A copy or bank command of the warp's. -/
def copyCmd (op : CopyOp) (dst src : Addr) (len : Nat) : CopyCmd :=
  { op := op, dst := dst, src := src, len := len, row := len, dstride := 0, sstride := 0, barrier := 0, link := 0
    ord := ⟨false, false, 0⟩, dreg := 8, pc := 0, col := 0, asid := 1, warp := 4, block := 3, gang := 2, handle := 1
    promise := none, done := 0, fault := none, stage := 0, bank := (op == .bzero || op == .bcopy || op == .bfence) }

/-- A machine with one such command. -/
def copying (c : CopyCmd) : State :=
  let s := bed 0
  { s with copies := [(7, c)], pairsIn := [(3 * 8192 + 9, 1)]
           contexts := s.contexts.map fun kv => (kv.1, { kv.2 with pairs := [(3, 9)] }) }

theorem copying_canonical (c : CopyCmd) : Canonical (copying c) :=
  ⟨rfl, rfl, rfl, rfl, nofun, .nil, rfl, rfl, rfl, ⟨rfl, rfl, rfl⟩, ⟨rfl, rfl, rfl⟩⟩

/-- What both kinds of command ask of the machine. -/
def bankMet (op : CopyOp) (len : Nat) : Prop :=
  let c := copyCmd op 0 0 len
  let s := copying c
  c.bank = true ∧ c.stage ≠ 2 ∧ s.gangRuns c.gang = true ∧ (s.column 0).failed ≠ 2 ∧ (s.column 0).halted = false
    ∧ s.bankReady 7 c = true ∧ s.copyHeld c = false

/-- The bytes of the chunk a copy has come to. -/
def chunkIdx (c : CopyCmd) : List Nat := (List.range (min 256 (c.len - c.done))).map (c.done + ·)

/-- A machine once the walks for the chunk a copy has come to are made. -/
def chunkWalked (s : State) (c : CopyCmd) : State := (s.walkSide c false (chunkIdx c)).walkSide c true (chunkIdx c)

/-- The first chunk, a middle one and the last one. -/
theorem witness_copy_engine :
    (∀ op ∈ [CopyOp.cpy, .cpy2, .cpyz], ∀ p ∈ [(1, 0, 0), (256, 0, 0), (768, 256, 1), (700, 512, 1)],
      let c := { copyCmd op 0x1000 0 p.1 with done := p.2.1, stage := p.2.2 }
      let s := copying c
      (mapFind s.copies fun _ c => c.col == 0 && !c.bank && c.stage != 2 && s.gangRuns c.gang) = some (7, c)
        ∧ s.copyHeld c = false
        ∧ c.done < c.len ∧ c.done % 256 = 0 ∧ bit c.barrier 31 = false ∧ (s.block c.block).map Block.retired = some false
        ∧ answered (placesOrFault ((chunkWalked s c).copyByte c false) (chunkIdx c)) = true
        ∧ answered (placesOrFault ((chunkWalked s c).copyByte c true) (chunkIdx c)) = true)
    ∧ (let c := { copyCmd .cpyx 0x1000 0 300 with link := 3 }
       let s := copying c
       (mapFind s.copies fun _ c => c.col == 0 && !c.bank && c.stage != 2 && s.gangRuns c.gang) = some (7, c)
        ∧ answered (placesOrFault ((chunkWalked s c).copyByte c false) (chunkIdx c)) = true
        ∧ answered (placesOrFault ((chunkWalked s c).copyByte c true) (chunkIdx c)) = true)
    ∧ (let c := copyCmd .cpy 0x1000 0x10000 1
       let s := copying c
       (mapFind s.copies fun _ c => c.col == 0 && !c.bank && c.stage != 2 && s.gangRuns c.gang) = some (7, c)
        ∧ answered (placesOrFault ((chunkWalked s c).copyByte c false) (chunkIdx c)) = false)
    ∧ ∀ done ∈ [0, 1024],
       let c := { copyCmd .bzero 0 0 2048 with done := done }
       let s := copying c
       (s.block c.block).map Block.retired = some false ∧ answered ((s.walkUnit c (done / 1024)).bankUnit c true (done / 1024)) = true
        ∧ (let c := { copyCmd .bcopy 0 4096 2048 with done := done }
           answered (((copying c).walkUnit c (done / 1024)).bankUnit c false (done / 1024)) = true) := by decide +kernel

theorem witness_bank : bankMet .bfence 0 ∧ bankMet .bzero 1024 ∧ bankMet .bcopy 1024 := by unfold bankMet; decide +kernel

/-- A machine whose column has a change of its partition waiting, up and down. -/
theorem witness_partition : ∀ v ∈ [0, 12],
    let s : State := { bed 0 with columns := (bed 0).columns.map fun kv => (kv.1, { kv.2 with parts := [(v, 4)] }) }
    (s.column 0).parts = (v, 4) :: [] ∧ v ≤ 12 ∧ (s.column 0).cwp ≤ 12 ∧ s.poolHeld 0 4 = false ∧ s.beforePart 4 = false
      ∧ (∀ kv ∈ s.warps, kv.2.rest = none) ∧ ∀ kv ∈ s.arrivals, kv.2.2.1 ≠ 0 := by decide +kernel

/-- A matrix command on tile 0, with one descriptor and slot for both operands. -/
def matCmd (op : MatOp) (addr : Addr) (stride w3 : Word) (slot : Nat) : MatCmd :=
  let d : List Word := [BitVec.ofNat 32 (addr.toNat % 2 ^ 32), BitVec.ofNat 32 (addr.toNat / 2 ^ 32), stride, w3]
  { op := op, tile := 0, descA := d, descB := d, slotA := slot, slotB := slot, ord := ⟨false, false, 0⟩, warp := 4, block := 3
    batch := 1, next := 0, pc := 0 }

/-- A block whose tile 0 has FLT at a value. -/
def tiled (flt : Bool) : Block :=
  { gang := 2, g := 0, col := 0, core := 0, nwarp := 1, oct := 8, tiles := { Tile.clear with flt := flt } :: List.replicate 3 Tile.clear
    bar := [], poison := false, lost := false, retired := false, counted := [], queue := [] }

/-- A machine whose engine performs a command next, on a tile with FLT at a value. -/
def engaged (m : MatCmd) (flt : Bool) : State :=
  { bed 0 with cores := [(0, { Core.idle with engine := [m] })], blocks := [(3, tiled flt)] }

theorem engaged_canonical (m : MatCmd) (flt : Bool) : Canonical (engaged m flt) :=
  ⟨rfl, rfl, rfl, rfl, nofun, .nil, rfl, rfl, rfl, ⟨rfl, rfl, rfl⟩, ⟨rfl, rfl, rfl⟩⟩

/-- Each command, on a tile with FLT set and clear. -/
theorem witness_engine : ∀ op ∈ [MatOp.mma, .mmat, .mzero, .mldz, .mst], ∀ flt ∈ [true, false],
    let m := matCmd op 0 0 0 0
    Next (engaged m flt) 0 0 m (tiled flt) ∧ (tiled flt).tiles[m.tile]? = some { Tile.clear with flt := flt } := by
  unfold Next; decide +kernel

/-- Are the elements of an operand there, without poison? -/
def soundElems (e : Except Cause (List MatElem)) : Bool :=
  match e with | .ok es => es.all fun x => !x.psn | .error _ => false

theorem exists_of_soundElems {e : Except Cause (List MatElem)} (h : soundElems e = true) :
    ∃ es, e = .ok es ∧ ∀ x ∈ es, x.psn = false := by
  cases e with
  | error c => exact absurd h (by simp [soundElems])
  | ok es => exact ⟨es, rfl, by simpa [soundElems] using h⟩

/-- The slots of the record of the tests: INT8 and FP16. -/
def int8Slot : Slot64 := { fmt := 5, zpb := 0, sat := false, rnd := .rne, scale := 0x3F800000 }
/-- The slot of FP16. -/
def fp16Slot : Slot64 := { fmt := 2, zpb := 0, sat := false, rnd := .rne, scale := 0x3F800000 }

/-- What an engine's command needs in these machines. -/
def context : MatCtx := { col := 0, core := 0, asid := 1, gang := 2, rcd := recordIn 0 }

theorem context_slots (m : MatCmd) : matCtxOf (engaged m false) 0 0 (tiled false) = context
    ∧ context.rcd.slot 0 = int8Slot ∧ context.rcd.slot 3 = fp16Slot := ⟨rfl, by decide +kernel, by decide +kernel⟩

theorem matElem_stride (s : State) (c : MatCtx) (d : Desc) (w j b : Nat) (h : d.stride = 0) :
    s.matElem c d w j b = s.matElem c d w 0 b := by
  simp only [State.matElem, h, Nat.mul_zero]

/-- Is an element there, without poison? -/
def soundElem (e : Except Cause (Nat × Bool)) : Bool := match e with | .ok p => !p.2 | .error _ => false

theorem elemsOrFault_sound (f : Nat → Except Cause MatElem) (l : List Nat) (h : ∀ i ∈ l, ∃ e, f i = .ok e ∧ e.psn = false) :
    ∃ es, elemsOrFault f l = .ok es ∧ ∀ e ∈ es, e.psn = false := by
  induction l with
  | nil => exact ⟨[], rfl, nofun⟩
  | cons i rest ih =>
    obtain ⟨e, h1, h2⟩ := h i (List.mem_cons_self ..)
    obtain ⟨es, h3, h4⟩ := ih fun j hj => h j (List.mem_cons_of_mem _ hj)
    exact ⟨e :: es, by simp only [elemsOrFault, h1, h3], by simpa using ⟨h2, h4⟩⟩

/-- A chunk is there when the elements of the first line are, and every line lies at one place. -/
theorem chunkOf_sound (s : State) (c : MatCtx) (d : Desc) (sl : Slot64) (along : Bool) (n ch w : Nat) (hz : sl.zblock = 0)
    (hw : slotBits sl.fmt = w) (h0 : d.stride = 0) (hc : 0 < ch)
    (h : ∀ k < max n ch, soundElem (s.matElem c d w 0 (k * w)) = true) :
    ∃ es, s.chunkOf c d sl along n ch 0 = .ok es ∧ ∀ e ∈ es, e.psn = false := by
  refine elemsOrFault_sound _ _ fun p hp => ?_
  have hp : p < n * ch := List.mem_range.mp hp
  have h1 := h (p / ch) (lt_of_lt_of_le (Nat.div_lt_of_lt_mul (by rwa [Nat.mul_comm])) (le_max_left _ _))
  have h2 := h (p % ch) (lt_of_lt_of_le (Nat.mod_lt _ hc) (le_max_right _ _))
  rw [Nat.zero_mul, Nat.zero_add]
  simp only [State.operand, hw, hz, if_true]
  rw [matElem_stride _ _ _ _ (p / ch) _ h0, matElem_stride _ _ _ _ (p % ch) _ h0]
  cases along
  · generalize s.matElem c d w 0 (p / ch * w) = e at h1
    cases e with
    | ok q => exact ⟨_, rfl, by simpa [soundElem] using h1⟩
    | error _ => exact absurd h1 (by simp [soundElem])
  · generalize s.matElem c d w 0 (p % ch * w) = e at h2
    cases e with
    | ok q => exact ⟨_, rfl, by simpa [soundElem] using h2⟩
    | error _ => exact absurd h2 (by simp [soundElem])

/-- A machine once the walks for the first chunk of both operands are made. -/
def mmaWalked (s : State) (d : Desc) (sl : Slot64) (ch : Nat) : State :=
  (s.matWalk context d (chunkPieces d sl (!d.ori) 192 ch 0)).matWalk context d (chunkPieces d sl d.ori 128 ch 0)

/-- MMA of one chunk of 32 INT8 elements, with every line at one place. -/
theorem witness_mma_int :
    let m := matCmd .mma 0 0 32 0
    let d := descOf m.descA
    let s := mmaWalked (engaged m false) d int8Slot 32
    matPair false int8Slot.fmt int8Slot.fmt = some (32, true) ∧ d.k / 32 = 1
      ∧ (∃ as, s.chunkOf context d int8Slot (!d.ori) 192 32 0 = .ok as ∧ ∀ e ∈ as, e.psn = false)
      ∧ ∃ bs, s.chunkOf context d int8Slot d.ori 128 32 0 = .ok bs ∧ ∀ e ∈ bs, e.psn = false :=
  ⟨by decide, by decide, chunkOf_sound _ _ _ _ _ _ _ 8 (by decide) rfl rfl (by decide) (by decide +kernel),
    chunkOf_sound _ _ _ _ _ _ _ 8 (by decide) rfl rfl (by decide) (by decide +kernel)⟩

/-- MMA of one chunk of 16 FP16 elements, with every line at one place. -/
theorem witness_mma_float :
    let m := matCmd .mma 0 0 16 3
    let d := descOf m.descA
    let s := mmaWalked (engaged m false) d fp16Slot 16
    matPair false fp16Slot.fmt fp16Slot.fmt = some (16, false) ∧ d.k / 16 = 1
      ∧ (∃ as, s.chunkOf context d fp16Slot (!d.ori) 192 16 0 = .ok as ∧ ∀ e ∈ as, e.psn = false)
      ∧ ∃ bs, s.chunkOf context d fp16Slot d.ori 128 16 0 = .ok bs ∧ ∀ e ∈ bs, e.psn = false :=
  ⟨by decide, by decide, chunkOf_sound _ _ _ _ _ _ _ 16 (by decide) rfl rfl (by decide) (by decide +kernel),
    chunkOf_sound _ _ _ _ _ _ _ 16 (by decide) rfl rfl (by decide) (by decide +kernel)⟩

/-- A line of MLDZ of an INT8 slot. -/
def int8Line (s : State) (d : Desc) (n : Nat) : Except Cause (List MatElem) :=
  elemsOrFault (fun i => match s.matElem context d 8 0 (i * 8) with
    | .error e => .error e
    | .ok (x, p) => .ok { v := slotVal 5 x 0, raw := x, psn := p }) (List.range n)

theorem matLine_int8 (s : State) (m : MatCmd) (j : Nat) (hs : (context.rcd.slot m.slotA).fmt = 5)
    (h0 : (descOf m.descA).stride = 0) : s.matLine context m j = int8Line s (descOf m.descA) (lineCount m).2 := by
  simp only [State.matLine, int8Line, hs, matElem_stride _ _ _ _ j _ h0]; rfl

/-- A command of MLDZ that has come to a line. -/
def lineCmd (w3 : Word) (n : Nat) : MatCmd := { matCmd .mldz 0 0 w3 0 with next := n }

/-- A machine once the walks for the line a command has come to are made. -/
def lineWalked (m : MatCmd) : State :=
  (engaged m false).matWalk context (descOf m.descA)
    ((descOf m.descA).pieces m.next 0 ((lineCount m).2 * slotBits (context.rcd.slot m.slotA).fmt / 8))

/-- MLDZ in both orientations, at its first line and at its last. -/
theorem witness_mldz : ∀ p ∈ [((0 : Word), 0), (0x10000, 127)],
    p.2 < (lineCount (lineCmd p.1 p.2)).1 ∧ Next (engaged (lineCmd p.1 p.2) false) 0 0 (lineCmd p.1 p.2) (tiled false)
      ∧ ∃ es, (lineWalked (lineCmd p.1 p.2)).matLine context (lineCmd p.1 p.2) p.2 = .ok es ∧ ∀ e ∈ es, e.psn = false := by
  have h : ∀ p ∈ [((0 : Word), 0), (0x10000, 127)], soundElems (int8Line (lineWalked (lineCmd p.1 p.2))
      (descOf (lineCmd p.1 p.2).descA) (lineCount (lineCmd p.1 p.2)).2) = true := by
    simp only [List.forall_mem_cons]
    exact ⟨by decide +kernel, by decide +kernel, nofun⟩
  have hl : ∀ p ∈ [((0 : Word), 0), (0x10000, 127)], p.2 < (lineCount (lineCmd p.1 p.2)).1
      ∧ Next (engaged (lineCmd p.1 p.2) false) 0 0 (lineCmd p.1 p.2) (tiled false) := by unfold Next; decide +kernel
  intro p hp
  obtain ⟨es, h1, h2⟩ := exists_of_soundElems (h p hp)
  exact ⟨(hl p hp).1, (hl p hp).2, es,
    (matLine_int8 _ _ _ (show (context.rcd.slot 0).fmt = 5 by decide +kernel) rfl).trans h1, h2⟩

/-- MST of an FP16 slot: a line in DRAM, and one in the pool window. -/
theorem witness_mst_dram :
    let m := { matCmd .mst 0 0 0 3 with next := 191 }
    answered ((lineWalked m).mstPlaces context m 191) = true := by decide +kernel
theorem witness_mst_pool :
    let m := matCmd .mst 0x8000000000000000 0 0x10000 3
    answered ((lineWalked m).mstPlaces context m 0) = true := by decide +kernel

/-- A warp in a wait. -/
def waitingIn (k : Wait) (x : Warp) : Warp := { x with wait := k, waitPc := 0x40 }

/-- A machine of two ready warps of one block on a slot, the first holding it at a monopoly count of 100 under a limit of 50. -/
def monopoly (f : Warp → Warp) : State :=
  let s := bed 0
  { s with
    warps := [(4, f (seated 0)), (5, { seated 0 with wcore := 4, num := 1 })]
    contexts := s.contexts.map fun kv => (kv.1, { kv.2 with wdogl := [(0, 50)] })
    cores := [(0, { Core.idle with slots := { holder := some 4, mono := 100, claim := none, last := some 4 } :: List.replicate 3 Slot.idle })] }

theorem monopoly_canonical (f : Warp → Warp) : Canonical (monopoly f) :=
  ⟨rfl, rfl, rfl, rfl, nofun, .nil, rfl, rfl, rfl, ⟨rfl, rfl, rfl⟩, ⟨rfl, rfl, rfl⟩⟩

/-- The watchdog, with a run in flight and without one. -/
theorem witness_watchdog : ∀ f ∈ [fun x : Warp => { x with begun := true }, fun x : Warp => { x with run := some x.newRun }],
    let s := monopoly f
    let x := f (seated 0)
    ((s.core 0 0).slots.getD 0 Slot.idle).holder = some 4 ∧ s.warp 4 = some x
      ∧ s.watchdogFor 4 x = some 50 ∧ 50 ≤ ((s.core 0 0).slots.getD 0 Slot.idle).mono ∧ Calm x
      ∧ x.wait = .none ∧ x.resident = true ∧ x.arrived = none ∧ x.rest = none := by
  simp only [List.forall_mem_cons]
  exact ⟨⟨rfl, rfl, by decide +kernel, by decide +kernel, ⟨rfl, rfl, rfl, rfl⟩, rfl, rfl, rfl, rfl⟩,
    ⟨rfl, rfl, by decide +kernel, by decide +kernel, ⟨rfl, rfl, rfl, rfl⟩, rfl, rfl, rfl, rfl⟩, nofun⟩

/-- A sleeper whose target has come. -/
theorem witness_sleep_end : ∃ (s : State) (w : Nat) (x : Warp) (k : Nat), Canonical s ∧ s.warp w = some x ∧ Calm x
    ∧ x.wait = .sleep k ∧ x.resident = true ∧ k ≤ s.cycOf x.col :=
  ⟨bed 0 (waitingIn (.sleep 0)), 4, _, 0, bed_canonical _ _, rfl, ⟨rfl, rfl, rfl, rfl⟩, rfl, rfl, by decide⟩

/-- A machine that waits on a copy whose promise has passed. -/
def late : State :=
  { armed (waitingIn (.cwait 8 1)) with copies := [(7, { copyCmd .cpy 0x1000 0 256 with promise := some 0 })] }

theorem witness_promise : ∃ (w : Nat) (x : Warp) (d : Nat) (h : Word) (k : Nat) (c : CopyCmd) (p : Nat) (ps : List Place),
    late.warp w = some x ∧ Calm x ∧ x.wait = .cwait d h ∧ late.copyOf x h = some (k, c) ∧ c.stage ≠ 2
    ∧ c.fault = none ∧ c.promise = some p ∧ p ≤ late.cycOf x.col ∧ Delivers late x ps ∧ x.resident = true := by
  obtain ⟨ps, h⟩ := exists_of_answered (e := frameAt late (waitingIn (.cwait 8 1) (seated 0))
    (late.framePtr (waitingIn (.cwait 8 1) (seated 0))) { write := true }) (by decide +kernel)
  exact ⟨4, waitingIn (.cwait 8 1) (seated 0), 8, 1, 7, { copyCmd .cpy 0x1000 0 256 with promise := some 0 }, 0, ps, rfl,
    ⟨rfl, rfl, rfl, rfl⟩, rfl, by decide +kernel, by decide, rfl, rfl, by decide, ⟨rfl, by decide +kernel, h⟩, rfl⟩

theorem late_canonical : Canonical late :=
  ⟨rfl, rfl, rfl, rfl, nofun, .nil, rfl, rfl, rfl, ⟨rfl, rfl, rfl⟩, ⟨rfl, rfl, rfl⟩⟩

/-- An arrival on a barrier object of two, the first and the last, with a warp that waits for it. -/
def arriving (n : Word) : State :=
  { bed 0 (waitingIn (.waitb 0 32 0 none)) with
    arrivals := [(7, (2, 0, 32, n))], spad := cellsSet [] (spadKey 0 32) (leBytes 4 2) }

theorem witness_barrier_arrival :
    mapGet (arriving 1).arrivals 7 = some (2, 0, 32, 1) ∧ mapGet (arriving 2).arrivals 7 = some (2, 0, 32, 2)
      ∧ (∀ kv ∈ (arriving 1).arrivals, kv.1 ≠ 7 → (kv.2.2.1, kv.2.2.2.1) ≠ (0, 32))
      ∧ (∀ kv ∈ (arriving 1).warps, Calm kv.2) ∧ ((arriving 1).column 0).failed ≠ 2
      ∧ (∀ i < 16, (arriving 1).spadForeign 0 (32 + i) = false) ∧ ¬ objectWord (arriving 1) 0 32 0 ≤ objectWord (arriving 1) 0 32 4 + 1
      ∧ objectWord (arriving 2) 0 32 0 ≤ objectWord (arriving 2) 0 32 4 + 2 := by
  unfold Calm; decide +kernel

theorem arriving_canonical : Canonical (arriving 1) ∧ Canonical (arriving 2) :=
  ⟨⟨rfl, rfl, rfl, rfl, nofun, .nil, rfl, rfl, rfl, ⟨rfl, rfl, rfl⟩, ⟨rfl, by decide +kernel, rfl⟩⟩,
    ⟨rfl, rfl, rfl, rfl, nofun, .nil, rfl, rfl, rfl, ⟨rfl, rfl, rfl⟩, ⟨rfl, by decide +kernel, rfl⟩⟩⟩

/-- An exchange that a warp stands arrived at. -/
def exchanging (red : Bool) (x : Warp) : Warp :=
  { x with
    arrived := some { red := red, f := blankExt, vals := [Lanes.zero], mask := BitVec.allOnes 64, q := 0, since := 0, pend := 6, pc := 0
                      nextPc := 16 } }

/-- An exchange of a gang of one completes. -/
theorem witness_exchange : ∀ red ∈ [true, false],
    let s := bed 0 (exchanging red)
    let x := exchanging red (seated 0)
    let ms := s.members x
    let live := arrivedOf ms
    s.warp 4 = some x ∧ x.arrived.isSome = true ∧ (∀ m ∈ s.members x, m.lost = true ∨ m.sent.isSome = true)
      ∧ (live.map fun q => q.2.1).Nodup ∧ x.swapReq = false ∧ (∀ q ∈ live, q.2.1 = 4) ∧ ∃ ref ∈ live, live.head? = some ref ∧ (∀ q ∈ live, ref.2.2.agrees q.2.2 = true)
      ∧ (ref.2.2.red = true ∨ ref.2.2.f.sub ≠ 3 ∨ ref.2.2.f.x.toNat % 256 < ms.length) := by decide +kernel

/-- An exchange of a gang of two, whose second block has not come after 2^20 clk. -/
def outwaited : State :=
  let s := bed 0 (exchanging true)
  { s with gangs := s.gangs.map (fun kv => (kv.1, { kv.2 with size := 2 })), cyc := List.replicate 128 (2 ^ 20) }

theorem witness_timeout : ∃ a, (exchanging true (seated 0)).arrived = some a ∧ outwaited.warp 4 = some (exchanging true (seated 0))
    ∧ (exchanging true (seated 0)).resident = true ∧ a.since + 2 ^ 20 ≤ outwaited.cycOf 0
    ∧ ∃ m ∈ outwaited.members (exchanging true (seated 0)), m.lost = false ∧ m.sent = none :=
  ⟨_, rfl, rfl, rfl, by decide +kernel, by decide +kernel⟩

/-- A machine whose context has a save area, in which a swapped-out warp's record stands. -/
def saved : State :=
  let x := { seated 0 with swapped := true }
  let s := bed 0 fun _ => x
  { s with records := [(recordKey 1 0 0 0, x.holder)]
           contexts := s.contexts.map fun kv => (kv.1, { kv.2 with save := [(0, (2 ^ 21, 1))] }) }

/-- Swap-out and swap-in, from the warp's own copy and from its record. -/
theorem witness_swap :
    (let x := { seated 0 with swapReq := true }
     let s := bed 0 fun _ => x
     s.warp 4 = some x ∧ x.swapReq = true ∧ x.resident = true ∧ x.rest = none ∧ x.pend = [])
    ∧ (let x := { seated 0 with swapped := true }
       let s := bed 0 fun _ => x
       s.warp 4 = some x ∧ s.mayReturn 4 x = true ∧ (s.recordRead x 0x10000 0xA80).1 = []
        ∧ (saved.mayReturn 4 x = true ∧ saved.warp 4 = some x ∧ (saved.recordRead x 0x10000 0xA80).1 ≠ [])
        ∧ x.saved = none) := by decide +kernel
/-- The 256 bytes of a record that is valid (R131, R132): one gang of one block of one warp, one octant. -/
def recordBytes : List Byte :=
  let n : Nat := 2 ^ 64 + 2 ^ 96 + 2 ^ 128 + 1 * 2 ^ 160 + 1 * 2 ^ 168 + 1 * 2 ^ 182
    + (List.range 8).foldl (fun a k => a + 0x3F80000000000005 * 2 ^ (1536 + 64 * k)) 0
  leBytes 256 n

/-- A machine of context 1 with grids, nothing resident, and a save area on column 0. -/
def scheduling (grids : AMap Grid) : State :=
  let s := bed 0
  { s with
    warps := [], blocks := [], gangs := [], grids := grids
    contexts := s.contexts.map fun kv => (kv.1, { kv.2 with save := [(0, (0, 0))], priv := [(0, (0, 65536))] }) }

theorem scheduling_canonical (g : AMap Grid) : Canonical (scheduling g) :=
  ⟨rfl, rfl, rfl, rfl, nofun, .nil, rfl, rfl, rfl, ⟨rfl, rfl, rfl⟩, ⟨rfl, rfl, rfl⟩⟩

/-- A grid of the record. -/
def smallGrid (st : GridState) : Grid := { newGrid 1 1 recordBytes 5 with state := st }

/-- A machine of queue 0 of context 1 with one record at address 0. -/
def ringing : State :=
  let s := scheduling []
  { s with
    dev := { s.dev with queues := s.dev.queues.set 0 { Queue.reset with qctl := 0x00010081, qtail := 1, asid := some 1 } }
    mem := cellsSet [] (memKey 0 (2 ^ 20)) recordBytes }

/-- Are the bytes of a record there, without poison, and is it valid? -/
def soundRecord (s : State) (e : Except Cause (List Loc)) : Bool :=
  match e with
  | .ok ls =>
    let bs := ls.map fun l => (s.readLoc 128 l).1
    ls.all (fun l => !(s.readLoc 128 l).2) && !badRecord bs && (recordOf bs).disp == 0 && (recordOf bs).parent == 0
  | .error _ => false

theorem witness_record :
    let k := ringing.dev.queue 0
    let ptr := k.qbase + BitVec.ofNat 64 (256 * (k.qhead.toNat % k.size))
    k.asid = some 1 ∧ bit k.qctl 0 = true ∧ k.qhead ≠ k.qtail ∧ (ringing.ctx 1).live = true ∧ ringing.pendingCount 1 0 < 1024
      ∧ ringing.commandWaits 1 0 = false
      ∧ ringing.gridByHandle 1 (2 ^ 31 + 0 * 2 ^ 27 + k.n % 2 ^ 27) = none ∧ bit ptr 63 = false
      ∧ (let col := ((ringing.ctx 1).pcol (ptr.toNat / 2 ^ 48 % 256)).getD 0
         let s1 := ringing.walkBytes 1 col ptr 256
         soundRecord s1 (s1.enginePlaces col 1 0 ptr 256 { read := true }) = true) := by
  decide +kernel

theorem ringing_canonical : Canonical ringing :=
  ⟨by decide +kernel, rfl, rfl, rfl, nofun, .nil, rfl, rfl, rfl, ⟨rfl, rfl, rfl⟩, ⟨rfl, rfl, rfl⟩⟩

/-- A grid waits in a command queue. -/
theorem witness_command :
    let s := scheduling [(1, smallGrid .command)]
    s.grid 1 = some (smallGrid .command) ∧ (smallGrid .command).state = .command ∧ s.pendingCount 1 0 < 1024
      ∧ ∀ kv ∈ s.grids, kv.2.state = .command → s.pendingCount kv.2.asid 0 < 1024 →
        kv = (1, smallGrid .command) ∨ (smallGrid .command).order < kv.2.order := by decide +kernel

/-- A gang may be placed. -/
theorem witness_place :
    let s := scheduling [(1, smallGrid .pending)]
    s.failedPred = none
      ∧ (s.readyGrids.find? fun kv => !kv.2.judged && (s.emptied.site kv.2.asid kv.2.rcd).isNone) = none
      ∧ s.firstFit s.waiting 0 [] = some (⟨1, smallGrid .pending, none⟩, .place { col := 0, base := 0 }, [])
      ∧ s.grid 1 = some (smallGrid .pending) := by decide +kernel

/-- A machine whose gang 2 has a second block, and whose first block's warp has retired. -/
def halfDone : State :=
  let s := bed 0 fun x => { x with retired := true }
  { s with blocks := s.blocks ++ [(4, { tiled false with gang := 2, g := 1, core := 1 })] }

theorem witness_block_retire :
    halfDone.block 3 = (bed 0).block 3 ∧ ((bed 0).block 3).map Block.retired = some false
      ∧ ((bed 0).block 3).map Block.queue = some []
      ∧ (∀ kv ∈ halfDone.warps, kv.2.block = 3 → kv.2.retired = true) ∧ (∀ m ∈ (halfDone.core 0 0).engine, m.block ≠ 3)
      ∧ ∃ kv ∈ halfDone.blocks, kv.1 ≠ 3 ∧ kv.2.gang = 2 ∧ kv.2.retired = false ∧ kv.2.lost = false := by decide +kernel

theorem halfDone_canonical : Canonical halfDone :=
  ⟨rfl, rfl, rfl, rfl, nofun, .nil, rfl, rfl, rfl, ⟨rfl, rfl, rfl⟩, ⟨rfl, rfl, rfl⟩⟩

/-- The gang of the machine in a state, its warp halted, its grid the small one, and a save area on column 0. -/
def ganged (st : GangState) : State :=
  let s := bed 0 fun x => { x with halted := true }
  { s with
    gangs := s.gangs.map (fun kv => (kv.1, { kv.2 with state := st, pool := [] })), grids := [(1, smallGrid .pending)]
    contexts := s.contexts.map fun kv => (kv.1, { kv.2 with save := [(0, (0, 0))], priv := [(0, (0, 65536))] }) }

theorem ganged_canonical (st : GangState) : Canonical (ganged st) :=
  ⟨rfl, rfl, rfl, rfl, nofun, .nil, rfl, rfl, rfl, ⟨rfl, rfl, rfl⟩, ⟨rfl, rfl, rfl⟩⟩

/-- Pre-emption, resumption and relaunch. -/
theorem witness_gangs :
    (((ganged .running).gang 2).map Gang.state = some .running ∧ ∀ kv ∈ (ganged .running).gangWarps 2, kv.2.rest = none)
    ∧ (let s := bed 0 fun x => { x with rest := some { run := x.newRun, place := 1, fences := [] } }
       (s.gang 2).map Gang.state = some .running ∧ ∃ kv ∈ s.gangWarps 2, kv.2.rest.isSome = true)
    ∧ (∃ kv ∈ (ganged .preempted).blocks, kv.2.gang = 2 ∧ kv.2.retired = false ∧ kv.2.lost = false)
    ∧ ((ganged .preempted).firstFit (ganged .preempted).waiting 0 []
        = some (⟨1, smallGrid .pending, some 2⟩, .resume 2, []))
    ∧ (∃ k ∈ ((ganged .preempted).gang 2), ∃ x ∈ (ganged .preempted).grid k.grid,
        k.state = .preempted ∧ x = smallGrid .pending ∧ ∀ kv ∈ (ganged .preempted).warps, Calm kv.2)
    ∧ ∃ k ∈ ((ganged .killed).gang 2), ∃ x ∈ (ganged .killed).grid k.grid, k.state = .killed
        ∧ (ganged .killed).firstFit (ganged .killed).waiting 0 []
          = some (⟨1, x, some 2⟩, .relaunch 2 { col := 0, base := 0 }, []) := by
  unfold Calm; decide +kernel

/-- A column that holds no block. -/
theorem witness_failure : ∀ kind ∈ [1, 2], 127 < 128 ∧ ((bed 0).column 127).live = true
    ∧ ((bed 0).column 127).failed < kind ∧ (∀ kv ∈ (bed 0).blocks, kv.2.col ≠ 127)
    ∧ (∀ c < 4, ∀ e ∈ ((bed 0).core 127 c).l1, e.dirty = false)
    ∧ (((bed 0).modColumn 127 fun c => { c with failed := kind }).logColumn 127).isSome = true := by decide +kernel
/-! ### Single steps, with results worked out in the specification -/

/-- A warp whose V registers hold some words in every thread, and the others nothing. -/
def given (l : List (Nat × Nat)) (x : Warp) : Warp :=
  { x with regs := { x.regs with v := l.map fun p =>
      (p.1, { phys := 100 + p.1, lanes := { val := List.replicate 64 (BitVec.ofNat 32 p.2), poison := 0 } }) } }

/-- What thread 0 of V register `n` holds in the run's buffer after an instruction. -/
def after (i : Instr) (l : List (Nat × Nat)) (n : Nat) : Option Word :=
  match exec i (bed 0 (given l)) with
  | .next t => ((t.warp 4).bind Warp.run).bind fun r => (mapGet r.work.v n).map fun v => v.lanes.val.getD 0 0
  | .fault _ | .refused _ => none

/-- What thread 0 is to receive in register `n` of the result group of a long-latency instruction. -/
def due (i : Instr) (l : List (Nat × Nat)) (n : Nat) : Option Word :=
  match exec i (bed 0 (given l)) with
  | .next t => (t.warp 4).bind fun x => x.pend.head?.bind fun p => (p.vals[n]?).map fun v => v.val.getD 0 0
  | .fault _ | .refused _ => none

/-- Three operands from V1, V2 and V3. -/
def three (ty : Ty) : Fields := { blankExt with ty := ty, d := .v 4, a := .v 1, b := .v 2, c := .v 3 }

/-- Errors of storage that strike a warp with a V register and a run in flight (R409). -/
theorem witness_upset : ∀ u ∈ [Upset.corrected 0, .journal 4, .lane 4 1 63],
    let s : State := { bed 0 (fun x => given [(1, 7)] { x with run := some x.newRun }) with agenda := [.upset u] }
    s.agenda = [.upset u] ∧ (s.warp 4).map Warp.arrived = some none
      ∧ ((s.warp 4).bind fun x => mapGet x.regs.v 1).isSome = true := by
  decide +kernel

/-- INEG and IABS of the most negative value, and with SAT (R174). -/
theorem test_most_negative :
    after (.ineg { three .s32 with b := .zero, c := .zero }) [(1, 0x80000000)] 4 = some 0x80000000
    ∧ after (.iabs { three .s32 with b := .zero, c := .zero, sat := true }) [(1, 0x80000000)] 4 = some 0x7FFFFFFF := by
  decide +kernel

/-- The dot products of the worked kernel of R176: one that a running clamp would get wrong, one that clamps, one that wraps. -/
theorem test_dot_product :
    after (.dp4 { three .s8x4 with sat := true }) [(1, 0x7F7F7F7F), (2, 0x80807F7F), (3, 0x7FFFFD78)] 4 = some 0x7FFFFC7A
    ∧ after (.dp4 { three .s8x4 with sat := true }) [(1, 0x7F7F7F7F), (2, 0x7F7F7F7F), (3, 0x7FFFFD78)] 4 = some 0x7FFFFFFF := by
  decide +kernel

/-- PRMT widens a signed byte (R183): byte 2 of A and its sign. -/
theorem test_permute :
    after (.prmt (three .b32)) [(1, 0x00F00000), (2, 0), (3, 0x0A0A0A02)] 4 = some 0xFFFFFFF0
    ∧ after (.prmt (three .b32)) [(1, 0x00700000), (2, 0), (3, 0x0A0A0A02)] 4 = some 0x00000070 := by decide +kernel

/-- FMIN and FMAX of the two zeros and of NaNs (R186). -/
theorem test_min_max :
    after (.fmin { three .f32 with c := .zero }) [(1, 0), (2, 0x80000000)] 4 = some 0x80000000
    ∧ after (.fmax { three .f32 with c := .zero }) [(1, 0), (2, 0x80000000)] 4 = some 0
    ∧ after (.fmin { three .f32 with c := .zero }) [(1, 0xFF800001), (2, 0x40000000)] 4 = some 0x40000000
    ∧ after (.fmax { three .f32 with c := .zero }) [(1, 0xFF800001), (2, 0x7F800002)] 4 = some 0x7FC00000 := by decide +kernel

/-- FFMA and FDOT2 round once; FMUL rounds a tie to even (R185). -/
theorem test_one_rounding :
    after (.ffma (three .f32)) [(1, 0x3F800800), (2, 0x3F800800), (3, 0xBF801000)] 4 = some 0x33800000
    ∧ after (.fmul { three .f32 with c := .zero }) [(1, 0x3F800800), (2, 0x3F800800)] 4 = some 0x3F801000
    ∧ after (.fdot2 (three .bf16x2)) [(1, 0x3F804B80), (2, 0x3F803F80), (3, 0x3F800000)] 4 = some 0x4B800001 := by
  decide +kernel

/-- Gradual underflow, a NaN's canonical form, and FNEG of a NaN (R157, R158). -/
theorem test_float_edges :
    after (.fmul { three .f32 with c := .zero }) [(1, 0x00800000), (2, 0x3F000000)] 4 = some 0x00400000
    ∧ after (.fadd { three .f32 with c := .zero }) [(1, 0xFF800001), (2, 0x3F800000)] 4 = some 0x7FC00000
    ∧ after (.fneg { three .f32 with b := .zero, c := .zero }) [(1, 0xFF800001)] 4 = some 0x7F800001
    ∧ after (.fscl { three .f32 with c := .zero }) [(1, 0x3FC00000), (2, 0xFFFFFF6B)] 4 = some 2
    ∧ after (.frnd { three .f32 with b := .zero, c := .zero }) [(1, 0x40200000)] 4 = some 0x40000000
    ∧ after (.frnd { three .f32 with b := .zero, c := .zero, rnd := .ru }) [(1, 0xBF000000)] 4 = some 0x80000000 := by
  decide +kernel

/-- FDIV by a zero, with SAT too; FSQRT of a negative number (R189). -/
theorem test_divide :
    due (.fdiv { three .f32 with c := .zero }) [(1, 0x3F800000), (2, 0x80000000)] 0 = some 0xFF800000
    ∧ due (.fdiv { three .f32 with c := .zero, sat := true }) [(1, 0x3F800000), (2, 0x80000000)] 0 = some 0xFF7FFFFF
    ∧ due (.fsqrt { three .f32 with b := .zero, c := .zero }) [(1, 0xBF800000)] 0 = some 0x7FC00000 := by decide +kernel

/-- The special functions that land on a segment end (R196-R199). -/
theorem test_special_functions :
    due (.rcp { three .f32 with b := .zero, c := .zero }) [(1, 0x3FC00000)] 0 = some 0x3F2AAAAB
    ∧ due (.rcp { three .f32 with b := .zero, c := .zero }) [(1, 0xC0800000)] 0 = some 0xBE800000
    ∧ due (.exp2 { three .f32 with b := .zero, c := .zero }) [(1, 0x40400000)] 0 = some 0x41000000
    ∧ due (.sin { three .f32 with b := .zero, c := .zero }) [(1, 0x39000000)] 0 = some 0x39000000 := by decide +kernel

/-- Integers and floats into bytes: the low bits kept, with SAT, and a float source always clamped (R191, R161). -/
theorem test_convert :
    let l := [(8, 300), (9, 0xFFFFFFFB), (10, 127), (11, 0xFFFFFF38)]
    let m := [(8, 0x43960000), (9, 0xC0A00000), (10, 0x42FE0000), (11, 0xC3480000)]
    let f := { blankExt with ty := .s8x4, d := .v 4, a := .v 8, aw := .w4 }
    after (.cvt { f with sub := 0 }) l 4 = some 0x387FFB2C ∧ after (.cvt { f with sub := 0, sat := true }) l 4 = some 0x807FFB7F
      ∧ after (.cvt { f with sub := 8 }) m 4 = some 0x807FFB7F := by decide +kernel

/-- A machine whose slot 2 is OB4 at scale 0.5 in blocks of 32 (the slot of the chapter on number formats). -/
def withOb4 (l : List (Nat × Nat)) : State :=
  let s := bed 0 (given l)
  { s with grids := s.grids.map fun kv => (kv.1, { kv.2 with rcd := { kv.2.rcd with slots := [0, 0, 0x3F00000000000057] } }) }

/-- QPK of eight values into OB4 with the zero point 8, and QUPK of the word back (R193). -/
theorem test_quantise :
    (match exec (.qpk { blankExt with d := .v 20, a := .v 8, aw := .w8, b := .imm 24, x := 2 }) (withOb4 [(8, 0xC0200000),
        (9, 0x3F000000), (10, 0x40E00000), (11, 0xC0A00000), (12, 0), (13, 0x3FA00000), (14, 0x7FC00000), (15, 0x40400000)]) with
      | .next t => ((t.warp 4).bind Warp.run).bind fun r => (mapGet r.work.v 20).map fun v => v.lanes.val.getD 0 0
      | .fault _ | .refused _ => none) = some 0xE8A80F93
    ∧ (match exec (.qupk { blankExt with d := .v 24, dw := .w8, a := .v 20, b := .imm 24, x := 2 }) (withOb4 [(20, 0xE8A80F93)]) with
      | .next t => ((t.warp 4).bind Warp.run).bind fun r =>
          some ((List.range 8).map fun i => ((mapGet r.work.v (24 + i)).map fun v => v.lanes.val.getD 0 0).getD 1)
      | .fault _ | .refused _ => none)
      = some [0xC0200000, 0x3F000000, 0x40600000, 0xC0800000, 0, 0x3F800000, 0, 0x40400000] := by decide +kernel

/-- LSCK finds a NaN; ICMP compares as signed and as natural numbers (R177, R205). -/
theorem test_predicates :
    let p (i : Instr) (l : List (Nat × Nat)) : Option Mask := match exec i (bed 0 (given l)) with
      | .next t => ((t.warp 4).bind Warp.run).map fun r => r.work.p.getD 2 0
      | .fault _ | .refused _ => none
    p (.lsck { blankExt with ty := .f32, d := .p 2, a := .v 1 }) [(1, 0x7FC00000)] = some (BitVec.allOnes 64)
      ∧ p (.icmp { blankExt with sub := 2, d := .p 2, a := .v 1, b := .v 2 }) [(1, 0xFFFFFFFF), (2, 1)] = some (BitVec.allOnes 64)
      ∧ p (.icmp { blankExt with ty := .n32, sub := 2, d := .p 2, a := .v 1, b := .v 2 }) [(1, 0xFFFFFFFF), (2, 1)] = some 0 := by
  decide +kernel

/-- Conversions at the edges of the formats (R154, R158, R159). -/
theorem test_convert_edges :
    let f := { blankExt with d := .v 4, a := .v 8, sub := 8 }
    let g := { f with aw := .w2 }
    after (.cvt { g with ty := .bf16x2 }) [(8, 0x3F800001), (9, 0x3F818000)] 4 = some 0x3F823F80
      ∧ after (.cvt { g with ty := .bf16x2, rnd := .ru }) [(8, 0x3F800001), (9, 0x3F818000)] 4 = some 0x3F823F81
      ∧ after (.cvt { g with ty := .f16x2 }) [(8, 0x477FF000), (9, 0x477FF000)] 4 = some 0x7C007C00
      ∧ after (.cvt { g with ty := .f16x2, sat := true }) [(8, 0x477FF000), (9, 0x477FF000)] 4 = some 0x7BFF7BFF
      ∧ after (.cvt { f with ty := .e4m3x4, aw := .w4 }) [(8, 0x43E80000), (9, 0x43E88000), (10, 0x7F800000), (11, 0)] 4
        = some 0x007F7F7E
      ∧ after (.cvt { f with ty := .e5m2x4, aw := .w4 }) [(8, 0x37000000), (9, 0x37C00000), (10, 0x7F800000), (11, 0)] 4
        = some 0x007C0200 := by decide +kernel

/-- MUPD of the worked table of R202: thread 0's parameter, moments and step; a NaN gradient changes nothing. -/
theorem test_update :
    let s (g p m v : Nat) : State :=
      let s := bed 0 fun x => withS [0, 0, 0, 0, 0, 0, 0, 0, 0x3D800000, 0x3E000000, 0x3D800000, 0x33800000, 0x3E800000, 0x41000000,
        0x41800000, 0] (given [(4, g), (8, p), (9, m), (10, v), (11, 0)] x)
      { s with contexts := s.contexts.map fun kv => (kv.1, { kv.2 with sreg := [(39, 0x44800000)] }) }
    let r (s : State) : Option (List Word) := match exec (.mupd { blankExt with ty := .f32, d := .v 8, dw := .w4, a := .v 4, b := .s 8, bw := .w8 }) s with
      | .next t => (t.warp 4).bind fun x => x.pend.head?.map fun p => p.vals.map fun v => v.val.getD 0 0
      | .fault _ | .refused _ => none
    r (s 0x44000000 0x3F800000 0 0) = some [0x3F6C0000, 0x3D800000, 0x3C800000, 0x3D9FFFFF]
      ∧ r (s 0x7FC00000 0x3F800000 0x3F000000 0x3E800000) = some [0x3F800000, 0x3F000000, 0x3E800000, 0]
      ∧ r (s 0 0x40000000 0 0) = some [0x3FFC0000, 0, 0, 0x3D000000] := by decide +kernel

/-- Two machines about to issue NOP: one whose line of code is under retry, and one where another line is (R411). -/
def retried (line : Nat) : State :=
  let s := onNop
  { s with columns := mapSet s.columns 0 { s.column 0 with retry := [(line / 8 % 8, line, 1, 0)] } }

/-- Does a step answer a next state of which a question about the two holds? -/
def stepped (s : State) (p : State → State → Bool) : Bool :=
  match step s with | .next t => p s t | .fault _ | .refused _ => false

/-- R411: what needs the line under retry waits, and nothing of it takes place; what does not runs. -/
theorem test_line_under_retry :
    stepped (retried (2 ^ 15)) (fun s t => t.warps == s.warps && t.columns == s.columns && !t.blocked) = true
    ∧ stepped (retried (2 ^ 15 + 32)) (fun s t => t.warps != s.warps && !t.blocked) = true := by decide +kernel

/-- R404: a flow leaves the escape channel once it holds no packet in flight. -/
theorem test_flow_empty : ((State.reset.upset (.flowEmpty 3)).dev.flows = [])
    ∧ (({ State.reset with dev := { State.reset.dev with flows := [3, 5] } } : State).upset (.flowEmpty 3)).dev.flows = [5] := by
  decide +kernel

/-- R405: the scratchpad of a slice-failed column reads as poison. -/
theorem test_failed_scratchpad :
    ({ State.reset with columns := [(0, { Column.reset with failed := 2 })] } : State).readLoc 1 (.spad 0 64) = (0, true) := by
  decide +kernel
end Sys2Proof.Tests
end

section
/-! Every step answers a next state (R1, R8, R54, R59, R127). The only place where the model can fault is an issue with no
warp issuing; a step issues only for a warp that is there, which the noting of its code lines leaves in its place. -/

namespace Sys2Proof.Machine

open Sys2Proof

/-- An outcome that is a next state. -/
def Goes (o : Host.Outcome State Fault Refusal) : Prop := ∃ t, o = .next t

theorem goes_next (t : State) : Goes (.next t) := ⟨t, rfl⟩

/-! ### Instructions and events -/

/-- Every encoded instruction is one issue of its opcode's body, whatever form it is named in. -/
theorem exec_issues {i : Instr} {op : Opcode} {f : Fields} (h : i.encoded = some (op, f)) (s : State) :
    exec i s = s.issue op f (actsAlways op) (machineCheck op) (bodyOf op) := by
  cases i <;> cases h <;> rfl

/-- What is neither encoded nor an unassigned opcode is an event. -/
theorem isEvent_or_unassigned {i : Instr} (h : i.encoded = none) : isEvent i = true ∨ ∃ v, i = .unassignedOpcode v := by
  unfold isEvent
  split
  · exact .inr ⟨_, rfl⟩
  · exact .inl (by rw [h]; rfl)

/-- An event's meaning is a next state outright; every other constructor is no event. -/
theorem exec_event_goes {i : Instr} (h : isEvent i = true) (s : State) : Goes (exec i s) := by
  cases i <;> first | exact goes_next _ | exact absurd h Bool.false_ne_true

/-- The issuing warp is there, so that its instruction's issue has an end. -/
theorem issue_goes {s : State} {w : Nat} {x : Warp} (h : Issuing s w x) (op : Opcode) (f : Fields) (always : Bool)
    (pre : Cx → Bool) (body : Cx → Step) : Goes (s.issue op f always pre body) := by
  obtain ⟨hc, hx⟩ := h
  unfold State.issue
  simp only [hc, hx]
  exact goes_next _

theorem exec_issuing_goes (i : Instr) {s : State} {w : Nat} {x : Warp} (h : Issuing s w x) : Goes (exec i s) := by
  cases hi : i.encoded with
  | some p => exact exec_issues hi s ▸ issue_goes h _ _ _ _ _
  | none =>
    rcases isEvent_or_unassigned hi with he | ⟨v, rfl⟩
    · exact exec_event_goes he s
    · show Goes (execUnassignedOpcode v s)
      unfold execUnassignedOpcode
      simp only [h.1]
      exact goes_next _

/-! ### A warp's turn -/

theorem kept_warp {s t : State} (h : Kept s t) (w : Nat) : t.warp w = s.warp w :=
  (h (w + 1)).others w (Nat.ne_of_lt (Nat.lt_succ_self w))

@[simp] theorem noteCode_warp (s : State) (x : Warp) (p : Place) (w : Nat) : (s.noteCode x p).warp w = s.warp w := by
  unfold State.noteCode
  split
  · rfl
  · split
    · rfl
    · split <;> rfl

/-- A fetch noted leaves every warp as it is. -/
theorem touchCode_warp (s : State) (x : Warp) (w : Nat) : (s.touchCode x).warp w = s.warp w := by
  unfold State.touchCode
  split
  · rfl
  · refine List.foldlRecOn (motive := fun t : State => t.warp w = s.warp w) _ _ (by split <;> rfl) fun t ht p _ => ?_
    rw [noteCode_warp, kept_warp (kept_touch t _ _ _ _ _), ht]

theorem issueNext_goes {s : State} {w : Nat} {x : Warp} (h : s.warp w = some x) : Goes (s.issueNext w x) := by
  unfold State.issueNext
  split
  · exact exec_issuing_goes _ ⟨rfl, (touchCode_warp s x w).trans h⟩
  · exact goes_next _
  · exact goes_next _

theorem issueTurn_goes (s : State) (w : Nat) : Goes (s.issueTurn w) := by
  unfold State.issueTurn
  split
  · exact goes_next _
  · split
    · exact goes_next _
    · split
      · exact goes_next _
      · split
        · exact goes_next _
        · simp only []
          split
          · next h => exact issueNext_goes h
          · exact goes_next _

/-! ### Every turn -/

theorem unlessBlocked_goes (s : State) {o : Host.Outcome State Fault Refusal} (h : Goes o) : Goes (s.unlessBlocked o) := by
  obtain ⟨t, rfl⟩ := h
  show Goes (if t.blocked && !s.blocked then .next s else .next t)
  split <;> exact goes_next _

theorem arbitrated_goes {o : Host.Outcome State Fault Refusal} (h : Goes o) : Goes (arbitrated o) := by
  obtain ⟨t, rfl⟩ := h
  exact goes_next _

theorem act_goes (s : State) (t : Turn) : Goes (s.act t) := by
  cases t with
  | issue w => exact unlessBlocked_goes s (issueTurn_goes s w)
  | event i =>
    show Goes (if isEvent i then s.unlessBlocked (exec i s) else .next s)
    split
    · next h => exact unlessBlocked_goes s (exec_event_goes h s)
    · exact goes_next _
  | clocks n => exact goes_next _
  | upset u => exact goes_next _

/-- The turn that comes, named by the agenda or not, answers a next state. -/
theorem takeTurn_goes (s : State) : Goes s.takeTurn := by
  unfold State.takeTurn
  split
  · exact arbitrated_goes (act_goes _ _)
  · split
    · exact arbitrated_goes (act_goes _ _)
    · exact goes_next _

/-- Settles O4: a step issues only with a warp that is there, and an event's meaning is a next state outright. -/
theorem everyStepGoesOn : Obligations.EveryStepGoesOn := takeTurn_goes

end Sys2Proof.Machine
end

section
/-! What the caches' bookkeeping leaves of a read of column memory and of the scratchpads: the bytes and their keys, and the
poison but for what stands in the array or in an L1 already (R276, R367, R394, R399, R400). -/

namespace Sys2Proof.Machine

open Sys2Proof

/-- No error stands in an array, no failed read, and no poisoned line in an L1: nothing from which poison could come. -/
def Unpoisoned (s : State) : Prop :=
  s.errs = [] ∧ s.readPsn = [] ∧ ∀ c, ∀ k < 4, ∀ e ∈ (s.core c k).l1, e.psn = false

/-- One state follows another by bookkeeping of the caches: beside what `Kept` says, keys, tags and the transfers of peers
are as before, no error and no failed read has come, and poison has only spread where there was some. -/
structure Undisturbed (s t : State) : Prop where
  kept : Kept s t
  keys : t.keys = s.keys
  keyTag : t.keyTag = s.keyTag
  spadTag : t.spadTag = s.spadTag
  inbound : t.inbound = s.inbound
  failed : ∀ c, (t.column c).failed = (s.column c).failed
  errs : s.errs = [] → t.errs = []
  readPsn : s.readPsn = [] → t.readPsn = []
  marked : ∀ n ∈ s.memPsn, n ∈ t.memPsn
  clear : Unpoisoned s → t.memPsn = s.memPsn ∧ ∀ c, ∀ k < 4, ∀ e ∈ (t.core c k).l1, e.psn = false

theorem unpoisoned_of_undisturbed {s t : State} (h : Undisturbed s t) (hs : Unpoisoned s) : Unpoisoned t :=
  ⟨h.errs hs.1, h.readPsn hs.2.1, (h.clear hs).2⟩

theorem undisturbed_same (s : State) : Undisturbed s s :=
  ⟨kept_same s, rfl, rfl, rfl, rfl, fun _ => rfl, id, id, fun _ => id, fun h => ⟨rfl, h.2.2⟩⟩

theorem undisturbed_trans {s t u : State} (h : Undisturbed s t) (g : Undisturbed t u) : Undisturbed s u :=
  ⟨kept_trans h.kept g.kept, g.keys.trans h.keys, g.keyTag.trans h.keyTag, g.spadTag.trans h.spadTag,
    g.inbound.trans h.inbound, fun c => (g.failed c).trans (h.failed c), fun e => g.errs (h.errs e),
    fun e => g.readPsn (h.readPsn e), fun n hn => g.marked n (h.marked n hn), fun hs =>
      have ht := g.clear (unpoisoned_of_undisturbed h hs)
      ⟨ht.1.trans (h.clear hs).1, ht.2⟩⟩

theorem undisturbed_ite {p : Prop} [Decidable p] {s t u : State} (h : Undisturbed s t) (g : Undisturbed s u) :
    Undisturbed s (if p then t else u) := by
  split
  · exact h
  · exact g

theorem undisturbed_foldl {α : Type} {g : State → α → State} (h : ∀ s a, Undisturbed s (g s a)) (l : List α)
    (s : State) : Undisturbed s (l.foldl g s) :=
  List.foldlRecOn (motive := Undisturbed s) l g (undisturbed_same s) fun t ht a _ => undisturbed_trans ht (h t a)

/-! ### One part changed -/

/-- A change to fields that no read of a column's memory meets. -/
theorem undisturbed_of {s t : State} (hk : Kept s t) (h : t = { s with
    contexts := t.contexts, blocked := t.blocked, msgs := t.msgs, dev := t.dev, host := t.host, hostPsn := t.hostPsn
    hostCopy := t.hostCopy, below := t.below, spadPsn := t.spadPsn, peerPsn := t.peerPsn }) : Undisturbed s t := by
  refine ⟨hk, ?_, ?_, ?_, ?_, ?_, ?_, ?_, ?_, ?_⟩ <;> rw [h]
  · exact fun _ => rfl
  · exact id
  · exact id
  · exact fun _ => id
  · exact fun hs => ⟨rfl, hs.2.2⟩

theorem undisturbed_meter (s : State) (a c n k : Nat) : Undisturbed s (s.meter a c n k) :=
  undisturbed_of (kept_meter s a c n k) rfl

theorem undisturbed_trySend (s : State) (v : Nat) : Undisturbed s (s.trySend v) := by
  refine undisturbed_of (kept_trySend s v) ?_
  unfold State.trySend
  simp only []
  split
  · rfl
  · split <;> rfl

theorem undisturbed_raiseVector (s : State) (v : Nat) : Undisturbed s (s.raiseVector v) :=
  undisturbed_trans (undisturbed_of (kept_of rfl) rfl) (undisturbed_trySend _ v)

/-- A column changed, but not in whether it has failed. -/
theorem undisturbed_modColumn (s : State) (c : Nat) (f : Column → Column) (hf : ∀ x, (f x).failed = x.failed) :
    Undisturbed s (s.modColumn c f) := by
  refine ⟨kept_modColumn s c f, rfl, rfl, rfl, rfl, fun d => ?_, id, id, fun _ => id, fun hs => ⟨rfl, hs.2.2⟩⟩
  by_cases hd : d = c
  · rw [hd, State.column_modColumn, hf]
  · rw [State.column_modColumn_ne s f hd]

/-- A core changed, with no poisoned L1 line that it had not. -/
theorem undisturbed_modCore (s : State) (c : Nat) {k : Nat} (f : Core → Core) (hk : k < 4)
    (hf : ∀ x, ∀ e ∈ (f x).l1, ∃ q ∈ x.l1, e.psn = q.psn) : Undisturbed s (s.modCore c k f) := by
  refine ⟨kept_modCore s c k f, rfl, rfl, rfl, rfl, fun _ => rfl, id, id, fun _ => id, fun hs => ⟨rfl, ?_⟩⟩
  intro d j hj e he
  by_cases hd : 4 * d + j = 4 * c + k
  · have : (s.modCore c k f).core d j = f (s.core c k) := by simp [State.core, State.modCore, hd]
    rw [this] at he
    obtain ⟨q, hq, hp⟩ := hf _ e he
    rw [hp]
    exact hs.2.2 c k hk q hq
  · have : (s.modCore c k f).core d j = s.core d j := mapGetD_mapSet_ne _ _ _ hd
    rw [this] at he
    exact hs.2.2 d j hj e he

/-! ### Poison -/

theorem mem_setIns {n k : Nat} : ∀ {l : List Nat}, n ∈ l → n ∈ setIns l k
  | x :: l, h => by
    unfold setIns
    split
    · exact List.mem_cons_of_mem _ h
    · split
      · exact h
      · rcases List.mem_cons.1 h with rfl | h
        · exact List.mem_cons_self
        · exact List.mem_cons_of_mem _ (mem_setIns h)

/-- A line poisoned, in a machine that follows one where poison could come from somewhere. -/
theorem undisturbed_poison {s t : State} (h : Undisturbed s t) (hs : ¬ Unpoisoned s) (n : Nat) :
    Undisturbed s { t with memPsn := setIns t.memPsn n } :=
  ⟨kept_trans h.kept (kept_of rfl), h.keys, h.keyTag, h.spadTag, h.inbound, h.failed, h.errs, h.readPsn,
    fun m hm => mem_setIns (h.marked m hm), fun g => absurd g hs⟩

theorem undisturbed_errGone (s : State) (k : Nat) : Undisturbed s { s with errs := mapErase s.errs k } :=
  ⟨kept_of rfl, rfl, rfl, rfl, rfl, fun _ => rfl, fun h => by simp only [h]; rfl, id, fun _ => id,
    fun h => ⟨rfl, h.2.2⟩⟩

/-- Failed reads changed, of which none stands where none stood. -/
theorem undisturbed_reads (s : State) {m : AMap Bool} (hm : s.readPsn = [] → m = []) :
    Undisturbed s { s with readPsn := m } :=
  ⟨kept_of rfl, rfl, rfl, rfl, rfl, fun _ => rfl, id, hm, fun _ => id, fun h => ⟨rfl, h.2.2⟩⟩

theorem undisturbed_readsOver (s : State) (c a : Nat) : Undisturbed s (s.readsOver c a) :=
  undisturbed_reads s fun h => by rw [h]; rfl

theorem undisturbed_readMade (s : State) (k : Nat) : Undisturbed s (s.readMade k) :=
  undisturbed_reads s fun h => by rw [h]; rfl

theorem undisturbed_fillMade (s : State) (c a : Nat) : Undisturbed s (s.fillMade c a) :=
  undisturbed_reads s fun h => by rw [h]; rfl

theorem undisturbed_storePsn (s : State) (c a : Nat) : Undisturbed s (s.storePsn c a) := by
  refine ⟨kept_storePsn s c a, rfl, rfl, rfl, rfl, fun _ => rfl, id, fun h => ?_, fun n hn => ?_,
    fun hs => ⟨?_, hs.2.2⟩⟩
  · simp only [State.storePsn, h]; rfl
  · refine List.foldlRecOn (motive := fun l : List Nat => n ∈ l) _ _ hn fun l hl kv _ => ?_
    split
    · exact mem_setIns hl
    · exact hl
  · simp only [State.storePsn, hs.2.1]; rfl

theorem undisturbed_markLine {s t : State} (h : Undisturbed s t) (hs : ¬ Unpoisoned s) (v : Nat) (l : Loc) :
    Undisturbed s (t.markLine v l true) := by
  cases l with
  | mem c pa k => exact undisturbed_poison h hs _
  | spad c o => exact undisturbed_trans h (undisturbed_of (kept_markLine _ _ _ _) rfl)
  | peer d a p => exact undisturbed_trans h (undisturbed_of (kept_markLine _ _ _ _) rfl)
  | host pa =>
    refine undisturbed_trans h (undisturbed_of (kept_markLine _ _ _ _) ?_)
    unfold State.markLine
    simp only []
    split <;> rfl

/-! ### Lines read from the array -/

theorem undisturbed_cellLog (s : State) (c l y p k : Nat) : Undisturbed s (s.cellLog c l y p k) := by
  unfold State.cellLog
  simp only []
  split
  · refine undisturbed_trans ?_ (undisturbed_raiseVector _ _)
    exact undisturbed_modColumn _ _ _ fun _ => rfl
  · exact undisturbed_modColumn _ _ _ fun _ => rfl

theorem undisturbed_upkeep (s : State) (c k : Nat) : Undisturbed s (s.upkeep c k) := undisturbed_modColumn s c _ fun _ => rfl

theorem undisturbed_needLine (s : State) (c l : Nat) : Undisturbed s (s.needLine c l) := by
  unfold State.needLine
  exact undisturbed_ite (undisturbed_of (kept_of rfl) rfl) (undisturbed_same s)

/-- An error of a line comes to poison only where there was an error. -/
theorem undisturbed_correctLine (s : State) (c l o m : Nat) : Undisturbed s (s.correctLine c l o m) := by
  unfold State.correctLine
  simp only []
  refine undisturbed_trans (undisturbed_needLine s c l) ?_
  generalize s.needLine c l = t
  split
  · exact undisturbed_same t
  · next sym pat he =>
    have hs : ¬ Unpoisoned t := fun h => by rw [h.1] at he; cases he
    exact undisturbed_ite
      (undisturbed_trans (undisturbed_poison (undisturbed_errGone t _) hs _) (undisturbed_cellLog _ _ _ _ _ _))
      (undisturbed_trans (undisturbed_trans (undisturbed_errGone t _) (undisturbed_upkeep _ _ _))
        (undisturbed_cellLog _ _ _ _ _ _))

theorem undisturbed_readLines (s : State) (c f n : Nat) : Undisturbed s (s.readLines c f n) := by
  unfold State.readLines
  exact undisturbed_ite (undisturbed_same s)
    (undisturbed_foldl (fun s _ => undisturbed_trans (undisturbed_correctLine s _ _ _ _) (undisturbed_readMade _ _)) _ _)

theorem undisturbed_correctSector (s : State) (c a : Nat) : Undisturbed s (s.correctSector c a) := by
  unfold State.correctSector
  exact undisturbed_ite (undisturbed_same s) (undisturbed_foldl (fun s _ => undisturbed_correctLine s _ _ _ _) _ _)

theorem undisturbed_correctWalk (s : State) (a p l o : Nat) : Undisturbed s (s.correctWalk a p l o) := by
  unfold State.correctWalk
  split
  · exact undisturbed_ite (undisturbed_same s) (undisturbed_foldl (fun s _ => undisturbed_readLines s _ _ _) _ _)
  · exact undisturbed_same s

/-- Lines read from the array by an engine or the host (R399, R411). -/
theorem undisturbed_arrayRead (s : State) (ls : List Loc) : Undisturbed s (s.arrayRead ls) := by
  refine undisturbed_foldl (fun s l => ?_) _ s
  cases l with
  | mem c pa k => exact undisturbed_ite (undisturbed_same s) (undisturbed_readLines s _ _ _)
  | host _ | spad _ _ | peer _ _ _ => exact undisturbed_same s

/-! ### Walks -/

theorem undisturbed_fillTlb (s : State) (p : Nat) (e : TlbEntry) : Undisturbed s (s.fillTlb p e) := by
  unfold State.fillTlb
  refine undisturbed_trans (undisturbed_ite (undisturbed_same s)
    (undisturbed_trans (undisturbed_meter _ _ _ _ _) (undisturbed_correctWalk _ _ _ _ _)))
    (undisturbed_modColumn _ _ _ fun x => ?_)
  split
  · rfl
  · split <;> rfl

theorem undisturbed_walkPtr (s : State) (a c : Nat) (ptr : Addr) : Undisturbed s (s.walkPtr a c ptr) := by
  unfold State.walkPtr
  split
  · exact undisturbed_same s
  · split
    · exact undisturbed_same s
    · split
      · exact undisturbed_fillTlb s _ _
      · exact undisturbed_trans (undisturbed_meter _ _ _ _ _) (undisturbed_correctWalk _ _ _ _ _)

theorem undisturbed_walkBytes (s : State) (a c : Nat) (ptr : Addr) (n : Nat) : Undisturbed s (s.walkBytes a c ptr n) := by
  unfold State.walkBytes
  exact undisturbed_ite (undisturbed_same s) (undisturbed_foldl (fun s _ => undisturbed_walkPtr s _ _ _) _ _)

/-! ### Sectors and host lines -/

theorem undisturbed_cleanLines (s : State) (hit : Nat → Bool) : Undisturbed s (s.cleanLines hit) := by
  refine undisturbed_of (kept_cleanLines s hit) ?_
  unfold State.cleanLines
  obtain ⟨m, p, c, hs, -⟩ := cleanFold_spec hit s.hostCopy s
  rw [hs]

theorem undisturbed_fetchHost (s : State) (c p : Nat) : Undisturbed s (s.fetchHost c p) := by
  refine undisturbed_of (kept_fetchHost s c p) ?_
  unfold State.fetchHost
  split <;> rfl

theorem undisturbed_ownHost (s : State) (c p a : Nat) (b : Bool) : Undisturbed s (s.ownHost c p a b) := by
  refine undisturbed_of (kept_ownHost s c p a b) ?_
  unfold State.ownHost
  split
  · split <;> rfl
  · rfl

theorem undisturbed_dropSector (s : State) (a c : Nat) (x : Sector) : Undisturbed s (s.dropSector a c x) := by
  unfold State.dropSector
  refine undisturbed_trans ?_ (undisturbed_modColumn _ _ _ fun _ => rfl)
  exact undisturbed_ite (undisturbed_ite (undisturbed_same s) (undisturbed_readsOver _ _ _))
    (undisturbed_ite (undisturbed_cleanLines _ _)
      (undisturbed_trans (undisturbed_storePsn _ _ _) (undisturbed_meter _ _ _ _ _)))

theorem undisturbed_freeWay (s : State) (a c l t w : Nat) (z : Bool) : Undisturbed s (s.freeWay a c l t w z).2 := by
  unfold State.freeWay
  simp only []
  split
  · exact undisturbed_same s
  · split
    · exact undisturbed_dropSector _ _ _ _
    · exact undisturbed_same s

theorem undisturbed_noteSector (s : State) (asid col addr slot off slice : Nat) (host : Bool) (t : Touch) :
    Undisturbed s (s.noteSector asid col addr slot off slice host t) := by
  have sectors (s : State) (f : Column → List Sector) :
      Undisturbed s (s.modColumn col fun c => { c with sectors := f c }) := undisturbed_modColumn s col _ fun _ => rfl
  unfold State.noteSector
  simp only []
  split
  · refine undisturbed_ite ?_ (undisturbed_ite ?_ (sectors _ _)) <;>
      exact undisturbed_trans (sectors _ _) (undisturbed_trans (undisturbed_freeWay _ _ _ _ _ _ _) (sectors _ _))
  · refine undisturbed_trans (undisturbed_trans (undisturbed_trans ?_
      (undisturbed_ite (undisturbed_freeWay _ _ _ _ _ _ _) (undisturbed_same _)))
      (undisturbed_freeWay _ _ _ _ _ _ _)) (sectors _ _)
    exact undisturbed_ite (undisturbed_same _) (undisturbed_ite (undisturbed_meter _ _ _ _ _)
      (undisturbed_trans (undisturbed_trans (undisturbed_meter _ _ _ _ _) (undisturbed_correctSector _ _ _))
        (undisturbed_fillMade _ _ _)))

theorem undisturbed_touchSector (s : State) (asid col addr slot off : Nat) (host : Bool) (t : Touch) :
    Undisturbed s (s.touchSector asid col addr slot off host t) := by
  unfold State.touchSector
  simp only []
  refine undisturbed_trans ?_ (undisturbed_noteSector _ _ _ _ _ _ _ _ _)
  have counted (f : Column → AMap Nat) :
      Undisturbed s (s.modColumn col fun c => { c with requests := f c }) := undisturbed_modColumn s col _ fun _ => rfl
  split
  · exact undisturbed_trans (counted _) (undisturbed_dropSector _ _ _ _)
  · exact counted _

theorem undisturbed_touchLoc (s : State) (a c : Nat) (l : Loc) (o : Nat) (t : Touch) :
    Undisturbed s (s.touchLoc a c l o t) := by
  unfold State.touchLoc
  split
  · exact undisturbed_touchSector _ _ _ _ _ _ _ _
  · exact undisturbed_trans (undisturbed_trans (undisturbed_fetchHost _ _ _) (undisturbed_ownHost _ _ _ _ _))
      (undisturbed_touchSector _ _ _ _ _ _ _ _)
  · exact undisturbed_same s
  · exact undisturbed_same s

/-- The sectors of other keys at an address dropped (R368). -/
theorem undisturbed_dropForeign (s : State) (c a : Nat) : Undisturbed s (s.dropForeign c a) :=
  undisturbed_foldl (fun s _ => undisturbed_dropSector s _ _ _) _ s

/-! ### L1 lines -/

theorem undisturbed_settleBelow (s : State) (l : Loc) : Undisturbed s (s.settleBelow l) := by
  refine undisturbed_of (kept_settleBelow s l) ?_
  cases l <;> rfl

/-- A line written back takes its own poison with it, and no other. -/
theorem undisturbed_writeBack {s t : State} (h : Undisturbed s t) (c : Nat) {e : L1Line} (he : Unpoisoned s → e.psn = false) :
    Undisturbed s (t.writeBack c e) := by
  unfold State.writeBack
  refine undisturbed_ite (undisturbed_trans ?_
    (undisturbed_trans (undisturbed_settleBelow _ _) (undisturbed_touchLoc _ _ _ _ _ _))) h
  split
  · next hp =>
    have hs : ¬ Unpoisoned s := fun hs => by rw [he hs] at hp; cases hp
    exact undisturbed_markLine (undisturbed_markLine h hs _ _) hs _ _
  · exact h

theorem undisturbed_cleanL1 (s : State) (c : Nat) (hit : L1Line → Bool) : Undisturbed s (s.cleanL1 c hit) := by
  refine List.foldlRecOn (motive := Undisturbed s) _ _ (undisturbed_same s) fun t ht k hk => ?_
  simp only []
  refine undisturbed_trans ht (undisturbed_ite (undisturbed_same t)
    (undisturbed_trans ?_ (undisturbed_modCore _ _ _ (List.mem_range.1 hk) ?_)))
  · refine List.foldlRecOn (motive := Undisturbed t) _ _ (undisturbed_same t) fun u hu e he => ?_
    exact undisturbed_writeBack hu c fun hs => hs.2.2 c k (List.mem_range.1 hk) e (List.mem_of_mem_filter he)
  · intro x e he
    obtain ⟨q, hq, rfl⟩ := List.mem_map.1 he
    exact ⟨q, hq, by split <;> rfl⟩

theorem undisturbed_flushLine (s : State) (c : Nat) (l : Loc) : Undisturbed s (s.flushLine c l) := undisturbed_cleanL1 s c _

theorem undisturbed_shootL1 (s : State) (c k : Nat) (l : Loc) (own : Bool) : Undisturbed s (s.shootL1 c k l own) := by
  refine List.foldlRecOn (motive := Undisturbed s) _ _ (undisturbed_same s) fun t ht j hj => undisturbed_trans ht ?_
  refine undisturbed_ite (undisturbed_same t) (undisturbed_ite (undisturbed_same t) ?_)
  exact undisturbed_modCore _ _ _ (List.mem_range.1 hj) fun x e he => ⟨e, List.mem_of_mem_filter he, rfl⟩

/-- What an engine's access leaves in the caches. -/
theorem undisturbed_engineTouch (s : State) (c a o : Nat) (ls : List Loc) (store : Bool) :
    Undisturbed s (s.engineTouch c a o ls store) := by
  refine undisturbed_foldl (fun s l => ?_) _ s
  refine undisturbed_trans (undisturbed_touchLoc s a c l o { store := store }) (undisturbed_ite ?_ (undisturbed_same _))
  split <;> exact undisturbed_shootL1 _ _ _ _ _

end Sys2Proof.Machine
end

section
/-! What a walk does not meet (R363-R366): the transfers of peers that wait, and host memory with its copies. -/

namespace Sys2Proof.Machine

open Sys2Proof

/-- A machine with other transfers of peers waiting, and another host memory. -/
def State.apart (s : State) (i : AMap Inbound) (h : List Host.Cell) (c : AMap HostLine) (p : List Nat) : State :=
  { s with inbound := i, host := h, hostCopy := c, hostPsn := p }

section
variable (i : AMap Inbound) (h : List Host.Cell) (c : AMap HostLine) (p : List Nat)

@[simp] theorem apart_errs (s : State) : (s.apart i h c p).errs = s.errs := rfl
@[simp] theorem apart_column (s : State) (n : Nat) : (s.apart i h c p).column n = s.column n := rfl
@[simp] theorem apart_ctx (s : State) (n : Nat) : (s.apart i h c p).ctx n = s.ctx n := rfl
@[simp] theorem apart_calm (s : State) (n : Nat) : (s.apart i h c p).calm n = s.calm n := rfl
@[simp] theorem apart_pte (s : State) (n a : Nat) : (s.apart i h c p).pte n a = s.pte n a := rfl
@[simp] theorem apart_resolve (s : State) (a n : Nat) (ptr : Addr) :
    (s.apart i h c p).resolve a n ptr = s.resolve a n ptr := rfl
@[simp] theorem apart_meter (s : State) (a col n k : Nat) :
    (s.apart i h c p).meter a col n k = (s.meter a col n k).apart i h c p := rfl
@[simp] theorem apart_modColumn (s : State) (col : Nat) (f : Column → Column) :
    (s.apart i h c p).modColumn col f = (s.modColumn col f).apart i h c p := rfl

theorem apart_ite {b : Prop} [Decidable b] (s t : State) :
    (if b then s else t).apart i h c p = if b then s.apart i h c p else t.apart i h c p := by
  split <;> rfl

theorem apart_trySend (s : State) (v : Nat) : (s.apart i h c p).trySend v = (s.trySend v).apart i h c p := by
  simp only [State.trySend, apart_ite]
  rfl

@[simp] theorem apart_raiseVector (s : State) (v : Nat) : (s.apart i h c p).raiseVector v = (s.raiseVector v).apart i h c p :=
  apart_trySend i h c p { s with dev := { s.dev with irqst := s.dev.irqst ||| (1#32 <<< v) } } v

@[simp] theorem apart_cellLog (s : State) (col l y q k : Nat) :
    (s.apart i h c p).cellLog col l y q k = (s.cellLog col l y q k).apart i h c p := by
  simp only [State.cellLog, apart_ite, apart_modColumn, apart_raiseVector]
  rfl

@[simp] theorem apart_needLine (s : State) (col l : Nat) :
    (s.apart i h c p).needLine col l = (s.needLine col l).apart i h c p := by
  simp only [State.needLine, apart_ite]
  rfl

@[simp] theorem apart_correctLine (s : State) (col l o m : Nat) :
    (s.apart i h c p).correctLine col l o m = (s.correctLine col l o m).apart i h c p := by
  simp only [State.correctLine, apart_needLine, apart_errs]
  generalize s.needLine col l = t
  cases mapGet t.errs (memKey col (32 * l) / 32) with
  | none => rfl
  | some e =>
    simp only [apart_ite, ← apart_cellLog]
    rfl

@[simp] theorem apart_readLines (s : State) (col f n : Nat) :
    (s.apart i h c p).readLines col f n = (s.readLines col f n).apart i h c p := by
  rw [State.readLines, State.readLines, apart_ite]
  exact if_congr Iff.rfl rfl (List.foldl_hom (fun s : State => s.apart i h c p) fun s k => by rw [apart_correctLine]; rfl)

@[simp] theorem apart_walkPath (s : State) (q o : Nat) :
    ∀ (l : List Nat) (t : Nat), (s.apart i h c p).walkPath q o l t = s.walkPath q o l t
  | [], _ => rfl
  | level :: rest, t => by simp only [State.walkPath, apart_pte, apart_walkPath s q o rest]

@[simp] theorem apart_correctWalk (s : State) (a q l o : Nat) :
    (s.apart i h c p).correctWalk a q l o = (s.correctWalk a q l o).apart i h c p := by
  simp only [State.correctWalk, apart_walkPath, apart_ctx, apart_calm]
  cases (s.ctx a).rootOf q l with
  | none => rfl
  | some root =>
    simp only [apart_ite]
    exact if_congr Iff.rfl rfl (List.foldl_hom (fun s : State => s.apart i h c p) fun s k => apart_readLines i h c p s _ _ _)

@[simp] theorem apart_fillTlb (s : State) (q : Nat) (e : TlbEntry) :
    (s.apart i h c p).fillTlb q e = (s.fillTlb q e).apart i h c p := by
  simp only [State.fillTlb, apart_meter, apart_correctWalk, ← apart_modColumn, apart_ite]
  rfl

theorem apart_walkFrom (s : State) (a q l o : Nat) (ptr : Addr) : ∀ (ls : List Nat) (t : Nat),
    (s.apart i h c p).walkFrom a q l o ptr ls t = s.walkFrom a q l o ptr ls t
  | [], _ => rfl
  | level :: rest, t => by
    simp only [State.walkFrom, apart_pte, apart_walkFrom s a q l o ptr rest]
    rfl

@[simp] theorem apart_leaf (s : State) (a q l o : Nat) (ptr : Addr) :
    (s.apart i h c p).leaf a q l o ptr = s.leaf a q l o ptr := by
  simp only [State.leaf, apart_walkFrom, apart_column, apart_ctx]

theorem apart_walkPtr (s : State) (a col : Nat) (ptr : Addr) :
    (s.apart i h c p).walkPtr a col ptr = (s.walkPtr a col ptr).apart i h c p := by
  simp only [State.walkPtr, apart_leaf, apart_fillTlb, apart_walkPath, apart_meter, apart_correctWalk, apart_ctx, apart_resolve]
  cases s.resolve a col ptr with
  | error _ => rfl
  | ok lo =>
    simp only []
    cases (s.ctx a).pcol lo.1 with
    | none => rfl
    | some q => cases hl : s.leaf a q lo.1 lo.2 ptr <;> simp only [hl]

/-- The walks of an access are the same beside any host memory. -/
theorem apart_walkBytes (s : State) (a col : Nat) (ptr : Addr) (n : Nat) :
    (s.apart i h c p).walkBytes a col ptr n = (s.walkBytes a col ptr n).apart i h c p := by
  simp only [State.walkBytes, apart_ite]
  exact if_congr Iff.rfl rfl (List.foldl_hom (fun s : State => s.apart i h c p) fun s k => apart_walkPtr i h c p s _ _ _)

/-- And so are the places that the access then finds. -/
theorem apart_enginePlaces (s : State) (col a g : Nat) (ptr : Addr) (n : Nat) (need : Need) :
    (s.apart i h c p).enginePlaces col a g ptr n need = s.enginePlaces col a g ptr n need := by
  simp only [State.enginePlaces, State.engineByte, State.enginePlace, apart_leaf, apart_resolve, apart_column]
  rfl

end

/-- The walks of an access leave host memory and its copies as they are. -/
theorem walkBytes_host (s : State) (a col : Nat) (ptr : Addr) (n : Nat) :
    (s.walkBytes a col ptr n).host = s.host ∧ (s.walkBytes a col ptr n).hostCopy = s.hostCopy
      ∧ (s.walkBytes a col ptr n).hostPsn = s.hostPsn := by
  have h : s.walkBytes a col ptr n = _ := apart_walkBytes s.inbound s.host s.hostCopy s.hostPsn s a col ptr n
  rw [h]
  exact ⟨rfl, rfl, rfl⟩

end Sys2Proof.Machine
end

section
/-! What column memory and the scratchpads read after bytes are written (R367, R368, R394): a byte written reads back, and
every other byte that is named under a key its line is written with reads as before. -/

namespace Sys2Proof.Machine

open Sys2Proof

/-! ### Cells and keys -/

/-- Cells kept by their addresses. -/
theorem cellGet_filter (q : Nat → Bool) : ∀ {m : List Host.Cell} {lo : Nat}, cellsFrom lo m = true → ∀ k,
    cellGet (m.filter fun c => q c.1) k = if q k then cellGet m k else 0
  | [], _, _, k => by simp [cellGet]
  | (a, b) :: r, lo, h, k => by
    simp only [cellsFrom, Bool.and_eq_true, decide_eq_true_eq] at h
    have ih := cellGet_filter q h.2 k
    by_cases ha : a = k
    · subst ha
      by_cases hq : q a
      · simp [hq, cellGet]
      · have : cellGet r a = 0 := cellGet_below h.2 (Nat.lt_succ_self a)
        simp [hq, ih]
    · by_cases hk : k < a
      · have : cellGet r k = 0 := cellGet_below h.2 (by omega)
        by_cases hq : q a <;> simp [hq, cellGet, ha, hk, ih, this]
      · by_cases hq : q a <;> simp [hq, cellGet, ha, hk, ih]

/-- Entries of a sparse map kept by their keys. -/
theorem mapGet_filter {α : Type} (q : Nat → Bool) : ∀ (m : AMap α) (n : Nat),
    mapGet (m.filter fun kv => q kv.1) n = if q n then mapGet m n else none
  | [], n => by simp [mapGet]
  | (k, v) :: r, n => by
    have ih := mapGet_filter q r n
    by_cases hk : k = n
    · subst hk
      by_cases hq : q k <;> simp [hq, mapGet, ih]
    · by_cases hq : q k <;> simp [hq, mapGet, hk, ih]

/-- A run of bytes reads alike in memories that agree there. -/
theorem cellsGet_congr {m n : List Host.Cell} {a k : Nat} (h : ∀ i < k, cellGet m (a + i) = cellGet n (a + i)) :
    cellsGet m a k = cellsGet n a k :=
  List.map_congr_left fun i hi => h i (List.mem_range.1 hi)

/-- What a DRAM byte reads depends on its line, its line's key, and the key it is read under. -/
theorem dramByte_congr {s t : State} {c d pa qa k j : Nat} (hkey : memKey c pa = memKey d qa)
    (hslot : t.keyOf k = s.keyOf j) (htag : mapGet t.keyTag (memKey c pa / 32) = mapGet s.keyTag (memKey c pa / 32))
    (hline : ∀ i < 32, cellGet t.mem (32 * (memKey c pa / 32) + i) = cellGet s.mem (32 * (memKey c pa / 32) + i)) :
    t.dramByte c pa k = s.dramByte d qa j := by
  have hbyte : cellGet t.mem (memKey c pa) = cellGet s.mem (memKey c pa) := by
    have := hline (memKey c pa % 32) (Nat.mod_lt _ (by omega))
    rwa [Nat.div_add_mod] at this
  unfold State.dramByte
  simp only [← hkey, htag, hslot, hbyte, cellsGet_congr hline]

/-- A DRAM byte whose line stands under the key it is read under. -/
theorem dramByte_tagged {s : State} {c pa k : Nat} (h : mapGet s.keyTag (memKey c pa / 32) = some (s.keyOf k)) :
    s.dramByte c pa k = cellGet s.mem (memKey c pa) := by
  unfold State.dramByte
  simp only [h, if_true]

theorem memKey_base (c pa : Nat) : memKey c (pa - pa % 32) = 32 * (memKey c pa / 32) := by
  unfold memKey
  omega

theorem memKey_add (c pa i : Nat) : memKey c (pa + i) = memKey c pa + i := by
  unfold memKey
  omega

/-! ### A line brought under a key -/

/-- The bytes of the line of a DRAM byte, as a key slot reads them. -/
def State.lineUnder (s : State) (c pa k : Nat) : List Byte := (List.range 32).map fun i => s.dramByte c (pa - pa % 32 + i) k

theorem lineUnder_length (s : State) (c pa k : Nat) : (s.lineUnder c pa k).length = 32 := by simp [State.lineUnder]

theorem lineUnder_getD (s : State) (c pa k : Nat) {i : Nat} (hi : i < 32) :
    (s.lineUnder c pa k).getD i 0 = s.dramByte c (pa - pa % 32 + i) k := by
  simp [State.lineUnder, hi]

/-- A line that stands under the key already is left; any other is written anew, as the key reads it. -/
theorem rekeyLine_cases (s : State) (c pa k : Nat) :
    (mapGet s.keyTag (memKey c pa / 32) = some (s.keyOf k) ∧ s.rekeyLine c pa k = s)
      ∨ s.rekeyLine c pa k = { s with
          mem := cellsSet s.mem (32 * (memKey c pa / 32)) (s.lineUnder c pa k)
          keyTag := mapSet s.keyTag (memKey c pa / 32) (s.keyOf k) } := by
  rw [← memKey_base]
  unfold State.rekeyLine
  simp only []
  split
  · next h => exact .inl ⟨h, rfl⟩
  · exact .inr rfl

theorem rekeyLine_tagged (s : State) (c pa k : Nat) :
    mapGet (s.rekeyLine c pa k).keyTag (memKey c pa / 32) = some (s.keyOf k) := by
  rcases rekeyLine_cases s c pa k with ⟨h, he⟩ | he <;> rw [he]
  · exact h
  · exact mapGet_mapSet_same _ _ _

theorem wf_rekeyLine {s : State} (h : Memory.wf s.mem = true) (c pa k : Nat) : Memory.wf (s.rekeyLine c pa k).mem = true := by
  rcases rekeyLine_cases s c pa k with ⟨-, he⟩ | he <;> rw [he]
  · exact h
  · dsimp only
    exact wf_cellsSet _ _ h

/-- Bringing a line under a key changes nothing but column memory and its tags. -/
theorem rekeyLine_frame (s : State) (c pa k : Nat) :
    s.rekeyLine c pa k = { s with mem := (s.rekeyLine c pa k).mem, keyTag := (s.rekeyLine c pa k).keyTag } := by
  rcases rekeyLine_cases s c pa k with ⟨-, he⟩ | he <;> rw [he]

theorem rekeyLine_keyOf (s : State) (c pa k n : Nat) : (s.rekeyLine c pa k).keyOf n = s.keyOf n := by
  rw [rekeyLine_frame]; rfl

/-- Bringing a line under a key changes no byte that is read under it, and no other line. -/
theorem dramByte_rekeyLine {s : State} (hw : Memory.wf s.mem = true) {c pa k d qa j : Nat}
    (hk : memKey c pa / 32 = memKey d qa / 32 → s.keyOf k = s.keyOf j) :
    (s.rekeyLine c pa k).dramByte d qa j = s.dramByte d qa j := by
  have htag := rekeyLine_tagged s c pa k
  have hkey := rekeyLine_keyOf s c pa k j
  rcases rekeyLine_cases s c pa k with ⟨-, he⟩ | he
  · rw [he]
  have hlen := lineUnder_length s c pa k
  by_cases hl : memKey d qa / 32 = memKey c pa / 32
  · rw [dramByte_tagged (by rw [hl, htag, hkey, hk hl.symm]), he]
    dsimp only
    have hat : memKey d qa = 32 * (memKey c pa / 32) + memKey d qa % 32 := by omega
    have hlt : memKey d qa % 32 < 32 := Nat.mod_lt _ (by omega)
    calc cellGet (cellsSet s.mem (32 * (memKey c pa / 32)) (s.lineUnder c pa k)) (memKey d qa)
        = (s.lineUnder c pa k).getD (memKey d qa % 32) 0 := by
          rw [hat, cellGet_cellsSet_inside _ _ _ hw (by omega), ← hat]
      _ = s.dramByte c (pa - pa % 32 + memKey d qa % 32) k := lineUnder_getD s c pa k hlt
      _ = s.dramByte d qa j :=
          dramByte_congr (by rw [memKey_add, memKey_base]; omega) (hk hl.symm) rfl fun _ _ => rfl
  · refine dramByte_congr rfl hkey ?_ fun i hi => ?_ <;> rw [he] <;> dsimp only
    · rw [mapGet_mapSet_ne _ _ hl]
    · rw [cellGet_cellsSet_outside _ _ _ hw (by omega)]

/-- A byte of column memory written: it reads back, and every other byte as before. -/
theorem dramByte_putDram {s : State} (hw : Memory.wf s.mem = true) {c pa k d qa j : Nat} (b : Byte)
    (hk : memKey c pa / 32 = memKey d qa / 32 → s.keyOf k = s.keyOf j) :
    (s.putDram c pa k b).dramByte d qa j = if memKey c pa = memKey d qa then b else s.dramByte d qa j := by
  have htag := rekeyLine_tagged s c pa k
  have hw' := wf_rekeyLine hw c pa k
  have hkey := rekeyLine_keyOf s c pa k j
  rw [← dramByte_rekeyLine hw hk]
  unfold State.putDram
  simp only []
  generalize s.rekeyLine c pa k = t at htag hw' hkey
  by_cases hl : memKey d qa / 32 = memKey c pa / 32
  · have ht : mapGet t.keyTag (memKey d qa / 32) = some (t.keyOf j) := by rw [hl, htag, hk hl.symm, hkey]
    rw [dramByte_tagged ht, dramByte_tagged (by exact ht)]
    split
    · next h => rw [h]; exact cellGet_cellSet_same hw' _ _
    · next h => exact cellGet_cellSet_ne hw' b (Ne.symm h)
  · rw [if_neg fun h => hl (by rw [h])]
    exact dramByte_congr rfl rfl rfl fun i _ => cellGet_cellSet_ne hw' b (by omega)

/-! ### Scratchpads -/

/-- A byte of a scratchpad as its context reads it (R368). -/
def State.spadByte (s : State) (c o : Nat) : Byte := if s.spadForeign c o then 0 else cellGet s.spad (spadKey c o)

/-- Foreign bytes read 0 before their sector is cleared and after, and every other byte as before. -/
theorem spadByte_cleared {s : State} (hw : Memory.wf s.spad = true) {c o : Nat} (hf : s.spadForeign c o = true) (d p : Nat) :
    let t := s.clearSpad c (o / 1024 * 1024) (o / 1024 * 1024 + 1024)
    t.spadByte d p = s.spadByte d p ∧ (spadKey d p / 1024 = spadKey c o / 1024 → t.spadForeign d p = false) := by
  have hlo : spadKey c (o / 1024 * 1024) = 1024 * (spadKey c o / 1024) := by unfold spadKey; omega
  have hhi : spadKey c (o / 1024 * 1024 + 1024) = 1024 * (spadKey c o / 1024) + 1024 := by unfold spadKey; omega
  have htag := mapGet_filter (fun n => decide (1024 * n < spadKey c (o / 1024 * 1024))
    || decide (spadKey c (o / 1024 * 1024 + 1024) ≤ 1024 * n)) s.spadTag (spadKey d p / 1024)
  have hcell := cellGet_filter (fun n => decide (n < spadKey c (o / 1024 * 1024))
    || decide (spadKey c (o / 1024 * 1024 + 1024) ≤ n)) hw (spadKey d p)
  simp only [hlo, hhi, Bool.or_eq_true, decide_eq_true_eq] at htag hcell
  unfold State.spadByte State.spadForeign State.clearSpad
  unfold State.spadForeign at hf
  simp only [hlo, hhi] at htag hcell ⊢
  by_cases hs : spadKey d p / 1024 = spadKey c o / 1024
  · rw [if_neg (by omega)] at htag hcell
    rw [htag, hcell, hs, hf]
    exact ⟨rfl, fun _ => rfl⟩
  · rw [if_pos (by omega)] at htag hcell
    rw [htag, hcell]
    exact ⟨rfl, fun h => absurd h hs⟩

/-- A byte of a scratchpad written, its sector cleared first where it is another's: it reads back, and every other byte as
before. -/
theorem spadByte_putByte {s : State} (hw : Memory.wf s.spad = true) (v c o : Nat) (b : Byte) (d p : Nat) :
    (s.putByte v (.spad c o) b).spadByte d p = if spadKey c o = spadKey d p then b else s.spadByte d p := by
  have hset {t : State} (ht : Memory.wf t.spad = true)
      (hf : spadKey d p / 1024 = spadKey c o / 1024 → t.spadForeign d p = false) :
      ({ t with spad := cellSet t.spad (spadKey c o) b } : State).spadByte d p
        = if spadKey c o = spadKey d p then b else t.spadByte d p := by
    show (if t.spadForeign d p then 0 else cellGet (cellSet t.spad (spadKey c o) b) (spadKey d p)) = _
    split_ifs with h1 h2 h2
    · rw [hf (by rw [h2])] at h1; cases h1
    · simp [State.spadByte, h1]
    · rw [h2, cellGet_cellSet_same ht]
    · rw [cellGet_cellSet_ne ht b (Ne.symm h2)]; simp [State.spadByte, h1]
  unfold State.putByte
  simp only []
  split
  · next hf =>
    obtain ⟨he, -⟩ := spadByte_cleared hw hf d p
    rw [hset (wf_filter hw _) fun h => (spadByte_cleared hw hf d p).2 h, he]
  · next hf =>
    refine hset hw fun h => ?_
    simpa [State.spadForeign, h] using hf

/-! ### One byte written at any place -/

theorem putByte_mem (s : State) (v c pa k : Nat) (b : Byte) : ∃ m t,
    s.putByte v (.mem c pa k) b = { s with mem := m, keyTag := t } ∧ (Memory.wf s.mem = true → Memory.wf m = true) := by
  refine ⟨cellSet (s.rekeyLine c pa k).mem (memKey c pa) b, (s.rekeyLine c pa k).keyTag, ?_, fun h =>
    wf_cellSet (wf_rekeyLine h c pa k) _ _⟩
  unfold State.putByte State.putDram
  simp only []
  rw [rekeyLine_frame]

theorem putByte_host (s : State) (v pa : Nat) (b : Byte) : ∃ m, s.putByte v (.host pa) b = { s with hostCopy := m } := by
  have hf : ∃ m, s.fetchHost v pa = { s with hostCopy := m } := by
    unfold State.fetchHost
    split <;> exact ⟨_, rfl⟩
  obtain ⟨m, hf⟩ := hf
  unfold State.putByte
  simp only [hf]
  split <;> exact ⟨_, rfl⟩

theorem putByte_spad (s : State) (v c o : Nat) (b : Byte) : ∃ m t p,
    s.putByte v (.spad c o) b = { s with spad := m, spadTag := t, spadPsn := p }
      ∧ (Memory.wf s.spad = true → Memory.wf m = true) := by
  unfold State.putByte
  simp only []
  split
  · exact ⟨_, _, _, rfl, fun h => wf_cellSet (wf_filter h _) _ _⟩
  · exact ⟨_, _, _, rfl, fun h => wf_cellSet h _ _⟩

/-- What a write of one byte keeps: the keys, and the canonical form of what it writes. -/
theorem putByte_frame (s : State) (v : Nat) (l : Loc) (b : Byte) :
    (s.putByte v l b).keys = s.keys ∧ (Memory.wf s.mem = true → Memory.wf (s.putByte v l b).mem = true)
      ∧ (Memory.wf s.spad = true → Memory.wf (s.putByte v l b).spad = true) := by
  cases l with
  | mem c pa k =>
    obtain ⟨m, t, he, hw⟩ := putByte_mem s v c pa k b
    rw [he]
    exact ⟨rfl, hw, id⟩
  | host pa =>
    obtain ⟨m, he⟩ := putByte_host s v pa b
    rw [he]
    exact ⟨rfl, id, id⟩
  | spad c o =>
    obtain ⟨m, t, p, he, hw⟩ := putByte_spad s v c o b
    rw [he]
    exact ⟨rfl, id, hw⟩
  | peer d a p => exact ⟨rfl, id, id⟩

/-- A byte written at a place, as it is read there and everywhere else in column memory and in the scratchpads. -/
theorem readLoc_putByte {s : State} (hm : Memory.wf s.mem = true) (hs : Memory.wf s.spad = true) (v u : Nat) (b : Byte)
    {l m : Loc} (hh : Here m) (hk : SameKey s l m) :
    ((s.putByte v l b).readLoc u m).1 = if cellOf l = cellOf m then b else (s.readLoc u m).1 := by
  cases m with
  | host _ | peer _ _ _ => exact hh.elim
  | mem d qa j =>
    show (s.putByte v l b).dramByte d qa j = if _ then b else s.dramByte d qa j
    cases l with
    | mem c pa k =>
      show (s.putDram c pa k b).dramByte d qa j = if ((0, memKey c pa) : Nat × Nat) = (0, memKey d qa) then b else _
      simpa only [Prod.mk.injEq, true_and] using dramByte_putDram hm b hk
    | host pa =>
      obtain ⟨m, he⟩ := putByte_host s v pa b
      rw [he]
      rfl
    | spad c o =>
      obtain ⟨m, t, p, he, -⟩ := putByte_spad s v c o b
      rw [he]
      rfl
    | peer _ _ _ => rfl
  | spad d p =>
    show (s.putByte v l b).spadByte d p = if _ then b else s.spadByte d p
    cases l with
    | mem c pa k =>
      obtain ⟨m, t, he, -⟩ := putByte_mem s v c pa k b
      rw [he]
      rfl
    | host pa =>
      obtain ⟨m, he⟩ := putByte_host s v pa b
      rw [he]
      rfl
    | spad c o => simpa only [cellOf, Prod.mk.injEq, true_and] using spadByte_putByte hs v c o b d p
    | peer _ _ _ => rfl

/-! ### Bytes written in order -/

theorem sameKey_of_keys {s t : State} (h : t.keys = s.keys) {l m : Loc} (hk : SameKey s l m) : SameKey t l m := by
  cases l with
  | mem c pa k =>
    cases m with
    | mem d qa j =>
      intro hl
      simp only [State.keyOf, h]
      exact hk hl
    | host _ | spad _ _ | peer _ _ _ => trivial
  | host _ | spad _ _ | peer _ _ _ => trivial

/-- The last of some bytes, with one written before them. -/
theorem lastByte_cons (b : ByteW) (bs : List ByteW) (l : Loc) :
    lastByte (b :: bs) l = (lastByte bs l).or (if cellOf b.loc = cellOf l then some b.byte else none) := by
  unfold lastByte
  rw [List.reverse_cons, List.find?_append]
  cases bs.reverse.find? fun b => cellOf b.loc == cellOf l with
  | some c => rfl
  | none => by_cases h : cellOf b.loc = cellOf l <;> simp [h]

/-- Which byte is the last one does not depend on poison. -/
theorem lastByte_map (f : ByteW → ByteW) (hf : ∀ b, (f b).loc = b.loc ∧ (f b).byte = b.byte) (bs : List ByteW) (l : Loc) :
    lastByte (bs.map f) l = lastByte bs l := by
  induction bs with
  | nil => rfl
  | cons b bs ih => rw [List.map_cons, lastByte_cons, lastByte_cons, ih, (hf b).1, (hf b).2]

/-- Every place reads the last of some bytes written there in order, and what it read before where none was. -/
theorem readLoc_putBytes (v u : Nat) {m : Loc} (hh : Here m) : ∀ (bs : List ByteW) {s : State}, Memory.wf s.mem = true →
    Memory.wf s.spad = true → (∀ b ∈ bs, SameKey s b.loc m) →
    ((bs.foldl (fun s b => s.putByte v b.loc b.byte) s).readLoc u m).1 = (lastByte bs m).getD (s.readLoc u m).1
  | [], _, _, _, _ => rfl
  | b :: bs, s, hm, hs, hk => by
    obtain ⟨hkeys, hm', hs'⟩ := putByte_frame s v b.loc b.byte
    rw [List.foldl_cons, readLoc_putBytes v u hh bs (hm' hm) (hs' hs)
      fun c hc => sameKey_of_keys hkeys (hk c (List.mem_cons_of_mem _ hc)),
      readLoc_putByte hm hs v u b.byte hh (hk b List.mem_cons_self), lastByte_cons]
    cases lastByte bs m with
    | some c => rfl
    | none => by_cases h : cellOf b.loc = cellOf m <;> simp [h]

/-- States whose column memory and scratchpads stand alike, byte and key. -/
structure SameArrays (s t : State) : Prop where
  mem : t.mem = s.mem
  keyTag : t.keyTag = s.keyTag
  keys : t.keys = s.keys
  spad : t.spad = s.spad
  spadTag : t.spadTag = s.spadTag

theorem sameArrays_trans {s t u : State} (h : SameArrays s t) (g : SameArrays t u) : SameArrays s u :=
  ⟨g.mem.trans h.mem, g.keyTag.trans h.keyTag, g.keys.trans h.keys, g.spad.trans h.spad, g.spadTag.trans h.spadTag⟩

theorem sameArrays_of_undisturbed {s t : State} (h : Undisturbed s t) : SameArrays s t :=
  ⟨(h.kept 0).mem, h.keyTag, h.keys, (h.kept 0).spad, h.spadTag⟩

theorem readLoc_sameArrays {s t : State} (h : SameArrays s t) (u : Nat) {m : Loc} (hh : Here m) :
    (t.readLoc u m).1 = (s.readLoc u m).1 := by
  cases m with
  | host _ | peer _ _ _ => exact hh.elim
  | mem d qa j =>
    exact dramByte_congr rfl (by unfold State.keyOf; rw [h.keys]) (by rw [h.keyTag]) fun i _ => by rw [h.mem]
  | spad d p =>
    have hf : t.spadForeign d p = s.spadForeign d p := by unfold State.spadForeign; rw [h.spadTag, h.keys]
    simp only [State.readLoc, hf, h.spad]

/-- Marking poison changes no byte. -/
theorem sameArrays_markLine (s : State) (v : Nat) (l : Loc) (b : Bool) : SameArrays s (s.markLine v l b) := by
  unfold State.markLine
  cases l with
  | mem c pa k => simp only []; split <;> exact ⟨rfl, rfl, rfl, rfl, rfl⟩
  | host pa => simp only []; split <;> exact ⟨rfl, rfl, rfl, rfl, rfl⟩
  | spad c o => exact ⟨rfl, rfl, rfl, rfl, rfl⟩
  | peer d a p => exact ⟨rfl, rfl, rfl, rfl, rfl⟩

theorem sameArrays_tellSo (s : State) (bs : List ByteW) : SameArrays s (s.tellSo bs) := by
  unfold State.tellSo
  split <;> exact ⟨rfl, rfl, rfl, rfl, rfl⟩

/-- Beside the bytes put, a write changes only poison and what SO loads are told (R245, R394). -/
theorem sameArrays_writeBytes (s : State) (v : Nat) (bs : List ByteW) :
    SameArrays (bs.foldl (fun s b => s.putByte v b.loc b.byte) s) (s.writeBytes v bs) := by
  unfold State.writeBytes
  refine sameArrays_trans ?_ (sameArrays_tellSo _ _)
  generalize bs.foldl (fun s b => s.putByte v b.loc b.byte) s = t
  refine List.foldlRecOn (motive := SameArrays t) _ _ ⟨rfl, rfl, rfl, rfl, rfl⟩ fun u hu b _ => sameArrays_trans hu ?_
  split
  · exact sameArrays_markLine u _ _ _
  · split
    · exact sameArrays_markLine u _ _ _
    · exact ⟨rfl, rfl, rfl, rfl, rfl⟩

/-- Bytes written between bookkeeping of the caches are stored. -/
theorem storesHere_of_writeBytes {s t u : State} (hm : Memory.wf s.mem = true) (hs : Memory.wf s.spad = true)
    (h : SameArrays s t) {v : Nat} {bs : List ByteW} (g : SameArrays (t.writeBytes v bs) u) : StoresHere s u bs := by
  intro l hl hk
  rw [readLoc_sameArrays g 0 hl, readLoc_sameArrays (sameArrays_writeBytes t v bs) 0 hl,
    readLoc_putBytes v 0 hl bs (by rw [h.mem]; exact hm) (by rw [h.spad]; exact hs)
      (fun b hb => sameKey_of_keys h.keys (hk b hb)), readLoc_sameArrays h 0 hl]

end Sys2Proof.Machine
end

section
/-! The host's apertures and peers' transfers (R323, R372, R373): what is read, and what is written where the translation
leads. -/

namespace Sys2Proof.Machine

open Sys2Proof

/-! ### What is read -/

theorem unwritten_of_kept {s t : State} (h : Kept s t) : Unwritten s t :=
  ⟨(h 0).mem, (h 0).spad, (h 0).peer, fun hw => ((h 0).host hw).2⟩

/-- Where no error and no failed read stands, a line is poisoned only as it is marked. -/
theorem dramPoison_marked {s : State} (he : s.errs = []) (hr : s.readPsn = []) (c pa : Nat) :
    s.dramPoison c pa = (s.memPsn.contains (memKey c pa / 32) || (s.column c).failed == 2) := by
  simp [State.dramPoison, State.readFailed, he, hr, mapGet]

/-- Bytes of column memory read after bookkeeping of the caches, as a host read answered with them. -/
theorem readOut_mem {s t u : State} (h : Undisturbed s t) {v : Nat} {ls : List Loc}
    (hl : ∀ l ∈ ls, ∃ c pa k, l = .mem c pa k)
    (hu : u.msgs.getLast? = some (.read (BitVec.ofNat 64 (leNat ((ls.map (t.readLoc v)).map Prod.fst)))
      ((ls.map (t.readLoc v)).any Prod.snd))) : ReadOut s u (ls.map (s.readLoc v)) := by
  have hbytes : (ls.map (t.readLoc v)).map Prod.fst = (ls.map (s.readLoc v)).map Prod.fst := by
    simp only [List.map_map]
    refine List.map_congr_left fun l hm => ?_
    obtain ⟨c, pa, k, rfl⟩ := hl l hm
    exact readLoc_sameArrays (sameArrays_of_undisturbed h) v trivial
  refine ⟨_, hbytes ▸ hu, fun he hr => ⟨fun hp => ?_, fun hn => ?_⟩⟩
  · simp only [List.any_map, List.any_eq_true, Function.comp] at hp ⊢
    obtain ⟨l, hm, hp⟩ := hp
    refine ⟨l, hm, ?_⟩
    obtain ⟨c, pa, k, rfl⟩ := hl l hm
    have hp : s.dramPoison c pa = true := hp
    show t.dramPoison c pa = true
    rw [dramPoison_marked he hr, Bool.or_eq_true, List.contains_iff_mem] at hp
    rw [dramPoison_marked (h.errs he) (h.readPsn hr), Bool.or_eq_true, List.contains_iff_mem, h.failed]
    exact hp.imp_left (h.marked _)
  · have hmarks : (ls.map (t.readLoc v)).map Prod.snd = (ls.map (s.readLoc v)).map Prod.snd := by
      simp only [List.map_map]
      refine List.map_congr_left fun l hm => ?_
      obtain ⟨c, pa, k, rfl⟩ := hl l hm
      show t.dramPoison c pa = s.dramPoison c pa
      rw [dramPoison_marked he hr, dramPoison_marked (h.errs he) (h.readPsn hr), h.failed, (h.clear ⟨he, hr, hn⟩).1]
    have hany (l : List (Byte × Bool)) : l.any Prod.snd = (l.map Prod.snd).any id := by simp [List.any_map]
    rw [hany, hany, hmarks]

/-- Bytes of host memory read where it stands as it did. -/
theorem readOut_host {s t u : State} (hh : t.host = s.host) (hc : t.hostCopy = s.hostCopy) (hp : t.hostPsn = s.hostPsn)
    {v : Nat} {ls : List Loc} (hl : ∀ l ∈ ls, ∃ pa, l = .host pa)
    (hu : u.msgs.getLast? = some (.read (BitVec.ofNat 64 (leNat ((ls.map (t.readLoc v)).map Prod.fst)))
      ((ls.map (t.readLoc v)).any Prod.snd))) : ReadOut s u (ls.map (s.readLoc v)) := by
  have hsame : ls.map (t.readLoc v) = ls.map (s.readLoc v) := by
    refine List.map_congr_left fun l hm => ?_
    obtain ⟨pa, rfl⟩ := hl l hm
    simp only [State.readLoc, hh, hc, hp]
  rw [hsame] at hu
  exact ⟨_, hu, fun _ _ => ⟨id, fun _ => rfl⟩⟩

/-! ### A transfer of the host -/

theorem mem_lineLocs {l : Loc} {ls : List Loc} (h : l ∈ lineLocs ls) : l ∈ ls := by
  have hall : ∀ x ∈ lineLocs ls, x ∈ ls := by
    refine List.foldlRecOn (motive := fun acc : List Loc => ∀ x ∈ acc, x ∈ ls) _ _ (by simp) fun acc ha k hk => ?_
    split
    · exact ha
    · simpa using fun x => Or.rec (ha x) fun e => e ▸ hk
  exact hall l h

/-- The dirty L1 lines of the column memory among some places written back (R276). -/
def State.flushed (s : State) (ls : List Loc) : State :=
  (lineLocs ls).foldl (fun s l => match l with | .mem c _ _ => s.flushLine c l | _ => s) s

theorem undisturbed_flushed (s : State) (ls : List Loc) : Undisturbed s (s.flushed ls) := by
  refine undisturbed_foldl (fun s l => ?_) _ s
  cases l with
  | mem c pa k => exact undisturbed_flushLine s c _
  | host _ | spad _ _ | peer _ _ _ => exact undisturbed_same s

theorem flushed_host (s : State) {ls : List Loc} (h : ∀ l ∈ ls, ∃ pa, l = .host pa) : s.flushed ls = s := by
  refine List.foldlRecOn (motive := (· = s)) _ _ rfl fun t ht l hm => ?_
  obtain ⟨pa, rfl⟩ := h l (mem_lineLocs hm)
  exact ht

/-- A read of the host answers with what its places hold once the dirty L1 lines among them are written back. -/
theorem hostTransfer_read (s : State) (v : Nat) (ls : List Loc) (data : List Byte) (put : State → State) :
    s.hostTransfer v ls false data put = (put (s.flushed ls)).send
      (.read (BitVec.ofNat 64 (leNat ((ls.map ((s.flushed ls).readLoc v)).map Prod.fst)))
        ((ls.map ((s.flushed ls).readLoc v)).any Prod.snd)) := rfl

/-- A write of the host writes its bytes; what it does besides is bookkeeping of the caches. -/
theorem hostTransfer_write (s : State) (v : Nat) (ls : List Loc) (data : List Byte) (put : State → State) :
    ∃ u, Undisturbed ((s.flushed ls).writeBytes v (writtenAt ls data)) u ∧ s.hostTransfer v ls true data put = put u := by
  refine ⟨_, undisturbed_trans (undisturbed_cleanLines _ fun k => k / 2 ^ 47 == v)
    (undisturbed_of (kept_copies rfl ?_) rfl), rfl⟩
  exact fun kv hk i _ hb => ⟨kv, List.mem_of_mem_filter hk, rfl, hb, rfl⟩

/-- A host read of column memory answers with its bytes (R372, R394). -/
theorem hostTransfer_reads_mem {s t : State} (h : Undisturbed s t) {v : Nat} {ls : List Loc}
    (hl : ∀ l ∈ ls, ∃ c pa k, l = .mem c pa k) (data : List Byte) {put : State → State} (hp : ∀ u, Kept u (put u)) :
    Unwritten s (t.hostTransfer v ls false data put)
      ∧ ReadOut s (t.hostTransfer v ls false data put) (ls.map (s.readLoc v)) := by
  have hf := undisturbed_trans h (undisturbed_flushed t ls)
  rw [hostTransfer_read]
  exact ⟨unwritten_of_kept (kept_trans (kept_trans hf.kept (hp _)) (kept_send _ _)),
    readOut_mem hf hl (by simp [State.send])⟩

/-- And so does one of host memory, which no L1 line is written back for. -/
theorem hostTransfer_reads_host {s t : State} (h : Kept s t) (hh : t.host = s.host) (hc : t.hostCopy = s.hostCopy)
    (hq : t.hostPsn = s.hostPsn) {v : Nat} {ls : List Loc} (hl : ∀ l ∈ ls, ∃ pa, l = .host pa) (data : List Byte)
    {put : State → State} (hp : ∀ u, Kept u (put u)) :
    Unwritten s (t.hostTransfer v ls false data put)
      ∧ ReadOut s (t.hostTransfer v ls false data put) (ls.map (s.readLoc v)) := by
  rw [hostTransfer_read, flushed_host t hl]
  exact ⟨unwritten_of_kept (kept_trans (kept_trans h (hp _)) (kept_send _ _)),
    readOut_host hh hc hq hl (by simp [State.send])⟩

/-- A host write stores its bytes (R372). -/
theorem hostTransfer_stores {s t : State} (hm : Memory.wf s.mem = true) (hs : Memory.wf s.spad = true) (h : Undisturbed s t)
    (v : Nat) (ls : List Loc) (data : List Byte) {put : State → State} (hp : ∀ u, Undisturbed u (put u)) :
    StoresHere s (t.hostTransfer v ls true data put) (writtenAt ls data) := by
  obtain ⟨u, hu, he⟩ := hostTransfer_write t v ls data put
  rw [he]
  exact storesHere_of_writeBytes hm hs (sameArrays_of_undisturbed (undisturbed_trans h (undisturbed_flushed t ls)))
    (sameArrays_of_undisturbed (undisturbed_trans hu (hp u)))

/-! ### The apertures of contexts -/

/-- The context of an aperture, its logical column there, and the pointer of an access (R372). -/
def Aperture.owner (a : Aperture) : Nat := a.ctl.toNat / 2 ^ 16 % 8192
def Aperture.lcol (a : Aperture) : Nat := a.ctl.toNat / 2 ^ 8 % 256
def Aperture.ptr (a : Aperture) (off : Nat) : Addr := BitVec.ofNat 64 (a.lcol * 2 ^ 48 + (a.off.toNat + off) % 2 ^ 48)

/-- An access that an aperture's registers and its context let through (R372). -/
def Aperture.Lets (a : Aperture) (s : State) (off n : Nat) (write : Bool) : Prop :=
  s.dev.bootst = 4 ∧ bit a.ctl 0 = true ∧ bit a.ctl 2 = false ∧ (write = true → bit a.ctl 1 = true)
    ∧ off + n ≤ a.len.toNat ∧ (s.ctx a.owner).live = true ∧ a.lcol ≠ 255

/-- The test of the model that refuses any other. -/
theorem refuses_eq_false (a : Aperture) (s : State) (off n : Nat) (write : Bool) :
    (!s.up || !bit a.ctl 0 || bit a.ctl 2 || (write && !bit a.ctl 1) || decide (a.len.toNat < off + n)
      || !(s.ctx (a.ctl.toNat / 2 ^ 16 % 8192)).live || a.ctl.toNat / 2 ^ 8 % 256 == 255) = false
      ↔ a.Lets s off n write := by
  unfold Aperture.Lets Aperture.owner Aperture.lcol State.up
  cases write <;> simp [and_assoc]

/-- What an access through an aperture leaves in the caches. -/
theorem undisturbed_touched (p asid off n k : Nat) (ls : List Loc) (write : Bool) (u : State) :
    Undisturbed u ((u.engineTouch p asid off ls write).meter asid p k n) :=
  undisturbed_trans (undisturbed_engineTouch u p asid off ls write) (undisturbed_meter _ _ _ _ _)

section
variable {s : State} {ap : Nat} {a : Aperture} (ha : s.dev.aps[ap]? = some a) {off : Nat} {data : List Byte}
include ha

theorem aperture_closed {write : Bool} (h : ¬ a.Lets s off (accessBytes data).length write) :
    s.aperture ap off write data = s.send .error := by
  rw [← refuses_eq_false, Bool.not_eq_false] at h
  unfold State.aperture
  simp only [ha]
  rw [if_pos h]

/-- What an aperture that is open does: the walks, and then what the translation of the access gives. -/
theorem aperture_open {write : Bool} (h : a.Lets s off (accessBytes data).length write) {p : Nat}
    (hp : (s.ctx a.owner).pcol a.lcol = some p) :
    let n := (accessBytes data).length
    let t := s.walkBytes a.owner p (a.ptr off) n
    let found := t.enginePlaces p a.owner 0 (a.ptr off) n { read := !write, write := write }
    (∀ c, found = .error c → s.aperture ap off write data = s.send .error)
    ∧ ∀ ls, found = .ok ls → s.aperture ap off write data = t.hostTransfer 128 ls write (accessBytes data) fun u =>
        (u.engineTouch p a.owner ((a.ptr off).toNat % 2 ^ 48) ls write).meter a.owner p 7 n := by
  rw [← refuses_eq_false] at h
  unfold Aperture.ptr
  unfold Aperture.owner Aperture.lcol at *
  unfold State.aperture
  simp only [ha]
  rw [if_neg (by rw [h]; exact Bool.false_ne_true)]
  simp only [hp, Option.getD_some]
  exact ⟨fun c hc => by rw [hc], fun ls hl => by rw [hl]⟩

theorem aperture_reads (h : a.Lets s off (accessBytes data).length false) {p : Nat}
    (hp : (s.ctx a.owner).pcol a.lcol = some p) {ls : List Loc}
    (hl : (s.walkBytes a.owner p (a.ptr off) (accessBytes data).length).enginePlaces p a.owner 0 (a.ptr off)
      (accessBytes data).length { read := true } = .ok ls) (h1 : OnePlace ls) :
    Unwritten s (s.aperture ap off false data) ∧ ReadOut s (s.aperture ap off false data) (ls.map (s.readLoc 128)) := by
  rw [(aperture_open ha h hp).2 ls hl]
  have hw := undisturbed_walkBytes s a.owner p (a.ptr off) (accessBytes data).length
  rcases h1 with hm | hm
  · exact hostTransfer_reads_mem hw hm _ fun u => (undisturbed_touched _ _ _ _ _ _ _ u).kept
  · obtain ⟨hh, hc, hq⟩ := walkBytes_host s a.owner p (a.ptr off) (accessBytes data).length
    exact hostTransfer_reads_host hw.kept hh hc hq hm _ fun u => (undisturbed_touched _ _ _ _ _ _ _ u).kept

theorem aperture_stores (hm : Memory.wf s.mem = true) (hs : Memory.wf s.spad = true)
    (h : a.Lets s off (accessBytes data).length true) {p : Nat} (hp : (s.ctx a.owner).pcol a.lcol = some p) {ls : List Loc}
    (hl : (s.walkBytes a.owner p (a.ptr off) (accessBytes data).length).enginePlaces p a.owner 0 (a.ptr off)
      (accessBytes data).length { write := true } = .ok ls) :
    StoresHere s (s.aperture ap off true data) (writtenAt ls (accessBytes data)) := by
  rw [(aperture_open ha h hp).2 ls hl]
  exact hostTransfer_stores hm hs (undisturbed_walkBytes _ _ _ _ _) _ _ _ (undisturbed_touched _ _ _ _ _ _ _)

end

/-! ### The table apertures -/

/-- The aperture of the tables whose window holds an access (R372). -/
def State.tableAt (s : State) (off n : Nat) : Option Aperture :=
  s.dev.aps.find? fun a => bit a.ctl 0 && bit a.ctl 2 && decide (a.win.toNat ≤ off)
    && decide (off + n ≤ a.win.toNat + a.len.toNat)

/-- The places of an access through it: DRAM under key slot 0. -/
def Aperture.tablePlaces (a : Aperture) (off n : Nat) : List Loc :=
  (List.range n).map fun i => .mem (a.ctl.toNat / 2 ^ 8 % 128) (a.off.toNat + (off - a.win.toNat) + i) 0

theorem tablePlaces_mem (a : Aperture) (off n : Nat) : ∀ l ∈ a.tablePlaces off n, ∃ c pa k, l = .mem c pa k := by
  intro l hl
  obtain ⟨i, -, rfl⟩ := List.mem_map.1 hl
  exact ⟨_, _, _, rfl⟩

theorem tableAperture_refuses {s : State} {off : Nat} {data : List Byte} {a : Aperture} {write : Bool}
    (ha : s.tableAt off (accessBytes data).length = some a)
    (h : s.dev.bootst ≠ 4 ∨ (write = true ∧ bit a.ctl 1 = false)
      ∨ 2 ^ 34 < a.off.toNat + (off - a.win.toNat) + (accessBytes data).length) :
    s.tableAperture off write data = s.send .error := by
  unfold State.tableAt at ha
  unfold State.tableAperture State.up
  simp only [ha]
  rw [if_pos (by simpa [or_assoc] using h)]

/-- What an access that the window lets through does, with the caches' bookkeeping before it and within it. -/
theorem tableAperture_accesses {s : State} {off : Nat} {data : List Byte} {a : Aperture} {write : Bool}
    (ha : s.tableAt off (accessBytes data).length = some a) (hu : s.dev.bootst = 4) (hw : write = true → bit a.ctl 1 = true)
    (hn : a.off.toNat + (off - a.win.toNat) + (accessBytes data).length ≤ 2 ^ 34) :
    ∃ t put, Undisturbed s t ∧ (∀ u, Undisturbed u (put u)) ∧ s.tableAperture off write data
      = t.hostTransfer 128 (a.tablePlaces off (accessBytes data).length) write (accessBytes data) put := by
  unfold State.tableAt at ha
  unfold State.tableAperture State.up
  simp only [ha]
  rw [if_neg (by simpa [hu, and_assoc] using ⟨hw, hn⟩)]
  refine ⟨_, _, ?_, fun u => ?_, rfl⟩
  · exact undisturbed_trans (undisturbed_trans (undisturbed_dropForeign _ _ _) (undisturbed_dropForeign _ _ _))
      (undisturbed_arrayRead _ _)
  · exact undisturbed_ite (undisturbed_foldl (fun u l => undisturbed_shootL1 u _ _ _ _) _ u) (undisturbed_same u)

theorem tableAperture_reads {s : State} {off : Nat} {data : List Byte} {a : Aperture}
    (ha : s.tableAt off (accessBytes data).length = some a) (hu : s.dev.bootst = 4)
    (hn : a.off.toNat + (off - a.win.toNat) + (accessBytes data).length ≤ 2 ^ 34) :
    Unwritten s (s.tableAperture off false data)
      ∧ ReadOut s (s.tableAperture off false data) ((a.tablePlaces off (accessBytes data).length).map (s.readLoc 128)) := by
  obtain ⟨t, put, ht, hp, he⟩ := tableAperture_accesses (write := false) ha hu nofun hn
  rw [he]
  exact hostTransfer_reads_mem ht (tablePlaces_mem a off _) _ fun u => (hp u).kept

theorem tableAperture_stores {s : State} (hm : Memory.wf s.mem = true) (hs : Memory.wf s.spad = true) {off : Nat}
    {data : List Byte} {a : Aperture} (ha : s.tableAt off (accessBytes data).length = some a) (hu : s.dev.bootst = 4)
    (hw : bit a.ctl 1 = true) (hn : a.off.toNat + (off - a.win.toNat) + (accessBytes data).length ≤ 2 ^ 34) :
    StoresHere s (s.tableAperture off true data)
      (writtenAt (a.tablePlaces off (accessBytes data).length) (accessBytes data)) := by
  obtain ⟨t, put, ht, hp, he⟩ := tableAperture_accesses (write := true) ha hu (fun _ => hw) hn
  rw [he]
  exact hostTransfer_stores hm hs ht _ _ _ hp

/-! ### Peers -/

/-- The walks of a peer's transfer are the same once it waits no more. -/
theorem walkBytes_inbound (s : State) (m : AMap Inbound) (a col : Nat) (ptr : Addr) (n : Nat) :
    ({ s with inbound := m } : State).walkBytes a col ptr n = { s.walkBytes a col ptr n with inbound := m } := by
  obtain ⟨hh, hc, hp⟩ := walkBytes_host s a col ptr n
  refine (apart_walkBytes m s.host s.hostCopy s.hostPsn s a col ptr n).trans ?_
  unfold State.apart
  rw [← hh, ← hc, ← hp]

theorem receive_unpaired {s : State} {n : Nat} {i : Inbound} (h : mapGet s.inbound n = some i) (hp : s.paired i = false) :
    s.receive n = ({ s with inbound := mapErase s.inbound n } : State).send .error := by
  have hp : ({ s with inbound := mapErase s.inbound n } : State).paired i = false := hp
  unfold State.receive
  simp only [h, hp]
  rfl

theorem receive_accesses {s : State} {n : Nat} {i : Inbound} (h : mapGet s.inbound n = some i) (hp : s.paired i = true)
    (ha : i.ask = .none) : s.receive n = ({ s with inbound := mapErase s.inbound n } : State).accessPeer i := by
  have hp : ({ s with inbound := mapErase s.inbound n } : State).paired i = true := hp
  unfold State.receive
  simp only [h, hp, ha]
  rfl

/-- Bytes with the poison that a transfer brings for all of them. -/
def poisonedAs (psn : Bool) (b : ByteW) : ByteW := { b with poison := psn }

/-- An engine's write stores its bytes, poisoned or not, and takes no transfer of a peer. -/
theorem engineWrite_spec (s : State) (col asid off : Nat) (ls : List Loc) (data : List Byte) (psn : Bool) :
    ∃ t, Undisturbed s t ∧ s.engineWrite col asid off ls (data.map fun b => (b, psn))
      = t.writeBytes col ((writtenAt ls data).map (poisonedAs psn)) := by
  have hb : (ls.zip (data.map fun b => (b, psn))).map
      (fun p => ({ loc := p.1, va := 0, byte := p.2.1, poison := p.2.2 } : ByteW)) = (writtenAt ls data).map (poisonedAs psn) := by
    rw [writtenAt, List.zip_map_right, List.map_map, List.map_map]
    rfl
  unfold State.engineWrite
  rw [hb]
  refine ⟨_, ?_, rfl⟩
  exact undisturbed_trans (undisturbed_foldl (fun u l => undisturbed_flushLine u _ _) _ _) (undisturbed_engineTouch _ _ _ _ _ _)

theorem storesHere_poisonedAs {s t : State} {bs : List ByteW} {psn : Bool} (h : StoresHere s t (bs.map (poisonedAs psn))) :
    StoresHere s t bs := by
  intro l hl hk
  rw [h l hl (by simpa [poisonedAs] using hk), lastByte_map (poisonedAs psn) fun b => ⟨rfl, rfl⟩]

/-- No write takes a transfer of a peer. -/
theorem markLine_inbound (s : State) (v : Nat) (l : Loc) (b : Bool) : (s.markLine v l b).inbound = s.inbound := by
  unfold State.markLine
  cases l with
  | mem c pa k => simp only []; split <;> rfl
  | host pa => simp only []; split <;> rfl
  | spad c o => rfl
  | peer d a p => rfl

theorem putByte_inbound (s : State) (v : Nat) (l : Loc) (b : Byte) : (s.putByte v l b).inbound = s.inbound := by
  cases l with
  | mem c pa k => obtain ⟨m, t, he, -⟩ := putByte_mem s v c pa k b; rw [he]
  | host pa => obtain ⟨m, he⟩ := putByte_host s v pa b; rw [he]
  | spad c o => obtain ⟨m, t, p, he, -⟩ := putByte_spad s v c o b; rw [he]
  | peer d a p => rfl

theorem writeBytes_inbound (s : State) (v : Nat) (bs : List ByteW) : (s.writeBytes v bs).inbound = s.inbound := by
  have tellSo (t : State) : (t.tellSo bs).inbound = t.inbound := by unfold State.tellSo; split <;> rfl
  unfold State.writeBytes
  rw [tellSo]
  refine List.foldlRecOn (motive := fun t : State => t.inbound = s.inbound) _ _ ?_ fun t ht b _ => ?_
  · exact List.foldlRecOn (motive := fun t : State => t.inbound = s.inbound) _ _ rfl fun t ht b _ =>
      (putByte_inbound t v _ _).trans ht
  · split
    · exact (markLine_inbound t v _ _).trans ht
    · split
      · exact (markLine_inbound t v _ _).trans ht
      · exact ht

/-- A peer's transfer by a pointer performed (R323): what it writes, or what it answers. -/
theorem accessPeer_spec {s t : State} (hm : Memory.wf s.mem = true) (hs : Memory.wf s.spad = true) {i : Inbound}
    (hb : bit i.ptr 63 = false) {col : Nat} (hc : ((s.ctx i.asid).pcol (i.ptr.toNat / 2 ^ 48 % 256)).getD 128 = col)
    (hw : s.walkBytes i.asid col i.ptr i.data.length = t) {ls : List Loc}
    (hl : t.enginePlaces col i.asid 0 i.ptr i.data.length { read := !i.write, write := i.write } = .ok ls) :
    (s.accessPeer i).inbound = s.inbound
      ∧ (i.write = true → StoresHere s (s.accessPeer i) (writtenAt ls i.data))
      ∧ (i.write = false → Unwritten s (s.accessPeer i) ∧ (s.accessPeer i).msgs.getLast?
        = some (.flits (ls.map fun l => (t.readLoc col l).1.toNat) (ls.any fun l => (t.readLoc col l).2))) := by
  have ht : Undisturbed s t := hw ▸ undisturbed_walkBytes _ _ _ _ _
  have he : s.accessPeer i = if i.write then t.engineWrite col i.asid (i.ptr.toNat % 2 ^ 48) ls (i.data.map fun b => (b, i.psn))
      else (t.engineTouch col i.asid (i.ptr.toNat % 2 ^ 48) ls false).send
        (.flits ((t.engineRead col ls).map fun b => b.1.toNat) ((t.engineRead col ls).any Prod.snd)) := by
    unfold State.accessPeer
    simp only [hb, hc, hw]
    rw [if_neg Bool.false_ne_true, hl]
  cases hi : i.write with
  | true =>
    rw [hi, if_pos rfl] at he
    obtain ⟨u, hu, hue⟩ := engineWrite_spec t col i.asid (i.ptr.toNat % 2 ^ 48) ls i.data i.psn
    have hu := undisturbed_trans ht hu
    rw [he, hue]
    refine ⟨(writeBytes_inbound _ _ _).trans hu.inbound, fun _ => storesHere_poisonedAs (psn := i.psn) ?_, nofun⟩
    exact storesHere_of_writeBytes hm hs (sameArrays_of_undisturbed hu) ⟨rfl, rfl, rfl, rfl, rfl⟩
  | false =>
    rw [hi, if_neg Bool.false_ne_true] at he
    have hu := undisturbed_trans ht (undisturbed_engineTouch t col i.asid (i.ptr.toNat % 2 ^ 48) ls false)
    rw [he]
    refine ⟨hu.inbound, nofun, fun _ => ⟨unwritten_of_kept (kept_trans hu.kept (kept_send _ _)), ?_⟩⟩
    simp [State.send, State.engineRead, Function.comp_def]

end Sys2Proof.Machine
end

section
/-! The device's registers (R135, R136, R360, R374, R378, R382): what a write of each does, and what a read of it gives. -/

namespace Sys2Proof.Machine

open Sys2Proof

/-! ### The launch queues -/

theorem up_of_booted {s : State} (h : s.dev.bootst = 4) : s.up = true := by simp [State.up, h]

theorem not_up {s : State} (h : s.dev.bootst ≠ 4) : s.up = false := by simp [State.up, h]

theorem modQueue_up {s : State} (hu : s.dev.bootst = 4) {q : Nat} (hq : q < 16) (f : Queue → Queue) :
    s.modQueue q f = { s with dev := { s.dev with queues := s.dev.queues.set q (f (s.dev.queue q)) } } := by
  unfold State.modQueue
  rw [if_neg (by simp [up_of_booted hu, hq])]

/-- A queue after it is changed. -/
theorem queue_modQueue {s : State} (hl : s.dev.queues.length = 16) (hu : s.dev.bootst = 4) {q : Nat} (hq : q < 16)
    (f : Queue → Queue) : (s.modQueue q f).dev.queue q = f (s.dev.queue q) := by
  rw [modQueue_up hu hq]
  simp [Dev.queue, List.getD_eq_getElem?_getD, hl, hq]

/-- A change that leaves the queue as it is. -/
theorem modQueue_same {s : State} (hu : s.dev.bootst = 4) {q : Nat} (hq : q < 16) {f : Queue → Queue}
    (hf : f (s.dev.queue q) = s.dev.queue q) : s.modQueue q f = s := by
  rw [modQueue_up hu hq, hf]
  simp only [Dev.queue, set_getD_same]

theorem bit_control (v : Word) : bit (v &&& 0x1FFF00F1) 0 = bit v 0 := by
  simp only [bit, BitVec.getLsbD_and]
  rw [show (0x1FFF00F1 : Word).getLsbD 0 = true from rfl, Bool.and_true]

/-- QCTL of a queue that is not enabled, written to enable it with a size that a queue has. -/
theorem control_enables {k : Queue} {v : Word} (hk : bit k.qctl 0 = false) (hv : bit v 0 = true)
    (hn : (v &&& 0x1FFF00F1).toNat / 16 % 16 < 12) :
    let asid := (v &&& 0x1FFF00F1).toNat / 2 ^ 16
    k.control v = { k with qctl := v &&& 0x1FFF00F1, qhead := 0, qtail := 0, qdone := 0, asid := some asid
                           n := if k.asid = some asid then k.n else 0 } := by
  rw [← bit_control] at hv
  unfold Queue.control
  simp only [hk, hv]
  rw [if_neg Bool.false_ne_true, if_neg (by simp), if_neg (by omega)]

theorem control_size {k : Queue} {v : Word} (hk : bit k.qctl 0 = false) (hv : bit v 0 = true)
    (hn : 12 ≤ (v &&& 0x1FFF00F1).toNat / 16 % 16) : k.control v = k := by
  rw [← bit_control] at hv
  unfold Queue.control
  simp only [hk, hv]
  rw [if_neg Bool.false_ne_true, if_neg (by simp), if_pos hn]

/-- QCTL of an enabled queue takes what clears its enable bit, and no other change. -/
theorem control_disables {k : Queue} {v : Word} (hk : bit k.qctl 0 = true) (hv : bit v 0 = false)
    (he : (v &&& 0x1FFF00F1) ||| 1 = k.qctl) : k.control v = { k with qctl := v &&& 0x1FFF00F1 } := by
  rw [← bit_control] at hv
  unfold Queue.control
  simp only [hk, hv]
  rw [if_pos trivial, if_neg (not_not_intro he), if_neg Bool.false_ne_true]

theorem control_enabled {k : Queue} {v : Word} (hk : bit k.qctl 0 = true) (he : (v &&& 0x1FFF00F1) ||| 1 ≠ k.qctl) :
    k.control v = k := by
  unfold Queue.control
  simp only [hk]
  rw [if_pos trivial, if_pos he]

/-- A write in the range of the queues' registers is one of a register of a queue. -/
theorem writeRegister_queue {s : State} (hu : s.dev.bootst = 4) {q off : Nat} (hq : q < 16) (ho : off < 64) (v : Addr) :
    s.writeRegister (0x10000 + 64 * q + off) v = s.writeQueue q off v := by
  have hn : (0x10000 + 64 * q + off - 0x10000) / 64 = q := by omega
  have hr : (0x10000 + 64 * q + off) % 64 = off := by omega
  unfold State.writeRegister
  simp only [up_of_booted hu, hn, hr]
  rw [if_neg (by omega), if_neg (by omega), if_neg (by omega), if_neg (by simp), if_neg (by omega), if_neg (by omega),
    if_neg (by omega), if_pos (by omega)]

/-- QBASE is written where the queue is not enabled. -/
theorem writeRegister_qbase {s : State} (hl : s.dev.queues.length = 16) (hu : s.dev.bootst = 4) {q : Nat} (hq : q < 16)
    (v : Addr) : (s.writeRegister (0x10000 + 64 * q) v).dev.queue q
      = if bit (s.dev.queue q).qctl 0 then s.dev.queue q else { s.dev.queue q with qbase := v } := by
  have h : s.writeRegister (0x10000 + 64 * q) v = s.writeQueue q 0 v := writeRegister_queue hu hq (off := 0) (by omega) v
  rw [h]
  exact queue_modQueue hl hu hq _

/-- QHEAD and QDONE are the device's own. -/
theorem writeRegister_readOnly {s : State} (hu : s.dev.bootst = 4) {q : Nat} (hq : q < 16) {off : Nat}
    (ho : off ∈ [0x10, 0x20]) (v : Addr) : s.writeRegister (0x10000 + 64 * q + off) v = s := by
  simp only [List.mem_cons, List.not_mem_nil, or_false] at ho
  rw [writeRegister_queue hu hq (by omega)]
  rcases ho with rfl | rfl <;> exact modQueue_same hu hq rfl

/-- And a read there one of a register of a queue. -/
theorem read_queue {s : State} (hu : s.dev.bootst = 4) {q off : Nat} (hq : q < 16) (ho : off < 64) :
    s.register (0x10000 + 64 * q + off) = (s.dev.queue q).read off := by
  have hn : (0x10000 + 64 * q + off - 0x10000) / 64 = q := by omega
  have hr : (0x10000 + 64 * q + off) % 64 = off := by omega
  unfold State.register
  simp only [up_of_booted hu, hn, hr]
  rw [if_neg (by omega), if_neg (by omega), if_neg (by omega), if_neg (by omega), if_neg (by omega), if_neg (by omega),
    if_neg (by simp), if_neg (by omega), if_neg (by omega), if_neg (by omega), if_neg (by omega), if_pos (by omega)]

/-! ### The other registers -/

theorem writeWdogd_up {s : State} (hu : s.dev.bootst = 4) (v : Word) :
    s.writeWdogd v = { s with dev := { s.dev with wdogd := if v = 0 then 1 else v } } := by
  unfold State.writeWdogd
  rw [if_pos (up_of_booted hu)]

/-- Before the device is up, and in the recovery state, only the mailbox answers (R378). -/
theorem writeRegister_down {s : State} (hu : s.dev.bootst ≠ 4) {addr : Nat} (h0 : addr ≠ 0x1000) (h1 : addr ≠ 0x1008)
    (h2 : addr ≠ 0x1010) (v : Addr) : s.writeRegister addr v = s := by
  unfold State.writeRegister
  simp only [not_up hu]
  rw [if_neg h0, if_neg h1, if_neg h2, if_pos Bool.not_false]

theorem read_down {s : State} (hu : s.dev.bootst ≠ 4) {addr : Nat} (h0 : addr ≠ 0) (h : addr < 0x1000 ∨ 0x101C ≤ addr) :
    s.register addr = 0 := by
  unfold State.register
  simp only [not_up hu]
  rw [if_neg h0, if_neg (by omega), if_neg (by omega), if_neg (by omega), if_neg (by omega), if_neg (by omega),
    if_pos Bool.not_false]

theorem trySend_irqen (s : State) (v : Nat) : (s.trySend v).dev.irqen = s.dev.irqen := by
  unfold State.trySend
  simp only []
  split
  · rfl
  · split <;> rfl

/-- The interrupt registers written (R374): bits of IRQST cleared, and IRQEN set. -/
theorem writeIrq_status (s : State) (v : Word) : (s.writeIrq false v).dev.irqst = s.dev.irqst &&& ~~~v := rfl

theorem writeIrq_enable (s : State) (v : Word) : (s.writeIrq true v).dev.irqen = v &&& 0x3F :=
  List.foldlRecOn (motive := fun t : State => t.dev.irqen = v &&& 0x3F) _ _ rfl fun t ht k _ => (trySend_irqen t k).trans ht

/-- CMCMD written with CREATE and an ASID (R360). -/
theorem manageCommand_create {s : State} {v : Word} {asid : Nat} (ha : asid < 8192) (hb : s.dev.busy = none)
    (hv : v.toNat = 1 + asid * 2 ^ 16) : s.manageCommand v = s.createCtx asid := by
  have h1 : v.toNat / 2 ^ 16 = asid := by omega
  have h2 : v.toNat % 256 = 1 := by omega
  unfold State.manageCommand
  simp only [hb, h1, h2]
  rw [if_neg (by simp), if_neg (by omega)]

theorem manageCommand_busy {s : State} {v : Word} (hb : s.dev.busy.isSome = true) : s.manageCommand v = s := by
  unfold State.manageCommand
  rw [if_pos hb]

section
variable {s : State} (hu : s.dev.bootst = 4)
include hu

theorem writeRegister_irqst (v : Addr) : s.writeRegister 0x100 v = s.writeIrq false (loWord v) := by
  simp [State.writeRegister, up_of_booted hu]

theorem writeRegister_irqen (v : Addr) : s.writeRegister 0x104 v = s.writeIrq true (loWord v) := by
  simp [State.writeRegister, up_of_booted hu]

theorem writeRegister_cmcmd (v : Addr) : s.writeRegister 0x20000 v = s.manageCommand (loWord v) := by
  simp [State.writeRegister, up_of_booted hu]

theorem writeRegister_cmarg0 (v : Addr) : s.writeRegister 0x20008 v = { s with dev := { s.dev with cmarg0 := v } } := by
  simp [State.writeRegister, up_of_booted hu]

theorem read_irqst : s.register 0x100 = (s.dev.irqst &&& 0x3F).setWidth 64 := by
  simp [State.register, up_of_booted hu]

theorem read_irqen : s.register 0x104 = s.dev.irqen.setWidth 64 := by
  simp [State.register, up_of_booted hu]

theorem read_wdogd : s.register 0x20024 = s.dev.wdogd.setWidth 64 := by
  simp [State.register, up_of_booted hu]

/-- Bit 0 of CMSTAT is that a command is under way. -/
theorem read_cmstat :
    s.register 0x20020 = (s.dev.cmstat ||| (if s.dev.busy = none then 0 else 1)).setWidth 64 := by
  have hb : (if s.dev.busy.isSome then (1 : Word) else 0) = if s.dev.busy = none then 0 else 1 := by
    cases s.dev.busy <;> rfl
  rw [← hb]
  simp [State.register, up_of_booted hu]

end

/-- CMKEY reads zero. -/
theorem read_cmkey (s : State) {k : Nat} (hk : k < 8) : s.register (0x20040 + 8 * k) = 0 := by
  by_cases hu : s.dev.bootst = 4
  · unfold State.register
    simp only [up_of_booted hu]
    iterate 6 rw [if_neg (by omega)]
    rw [if_neg (by simp)]
    iterate 13 rw [if_neg (by omega)]
  · exact read_down hu (by omega) (by omega)

end Sys2Proof.Machine
end

section
/-! The host's registers and apertures and the transfers of peers, put together from the rules for each. -/

namespace Sys2Proof.Machine

open Sys2Proof

/-- Settles O55: each register by its own write and read, and each access by what its translation gives; the walks and the
caches' bookkeeping around an access change no byte of column memory. -/
theorem hostAccessesComplete : Obligations.HostAccessesComplete := by
  intro s hs error up
  refine ⟨fun q v hq hu => ?queues, fun v hu => congrArg _ (writeWdogd_up hu v), fun v => rfl, fun v => rfl,
    fun addr v hu h0 h1 h2 => congrArg _ (writeRegister_down hu h0 h1 h2 v),
    fun v hu => congrArg _ (writeRegister_cmarg0 hu v), fun v hu => ?irqst, fun v hu => ?irqen,
    fun asid v hu ha hb hv => ?create, fun v hu hb => ?busy,
    fun hu => ⟨read_irqst hu, read_irqen hu, read_cmstat hu, read_wdogd hu⟩,
    fun k hk => read_cmkey s hk, rfl, rfl, rfl, fun addr hu h0 h => read_down hu h0 h,
    fun ap off data a ha => ?apertures, fun off data a ha => ?tables, fun n i hi => ?peers⟩
  case queues =>
    intro k v'
    have queue (f : Queue → Queue) : (s.modQueue q f).dev.queue q = f k := queue_modQueue hs.queues hu hq f
    refine ⟨fun hk hv hn => ⟨_, rfl, ?_⟩, fun hk hv hn => ⟨_, rfl, (queue _).trans (control_size hk hv hn)⟩,
      fun hk hv he => ⟨_, rfl, (queue _).trans (control_disables hk hv he)⟩,
      fun hk he => ⟨_, rfl, (queue _).trans (control_enabled hk he)⟩, ⟨_, rfl, queue _⟩,
      fun x => ⟨fun hk => ⟨_, rfl, ?_⟩, fun hk => ⟨_, rfl, ?_⟩,
        fun off ho => congrArg _ (writeRegister_readOnly hu hq ho x),
        read_queue hu hq (off := 0) (by omega), read_queue hu hq (by omega), read_queue hu hq (by omega)⟩⟩
    · beta_reduce
      rw [queue, control_enables hk hv hn]
      exact ⟨rfl, rfl, rfl, rfl, rfl, rfl, rfl⟩
    · exact (writeRegister_qbase hs.queues hu hq x).trans (if_neg (Bool.eq_false_iff.1 hk))
    · exact (writeRegister_qbase hs.queues hu hq x).trans (if_pos hk)
  case irqst => exact ⟨_, rfl, by rw [writeRegister_irqst hu]; exact writeIrq_status s _⟩
  case irqen => exact ⟨_, rfl, by rw [writeRegister_irqen hu]; exact writeIrq_enable s _⟩
  case create => exact congrArg _ ((writeRegister_cmcmd hu v).trans (manageCommand_create ha hb hv))
  case busy => exact congrArg _ ((writeRegister_cmcmd hu v).trans (manageCommand_busy hb))
  case apertures =>
    intro bs l asid ptr open_
    exact ⟨fun write h => congrArg _ (aperture_closed ha h), fun p hp =>
      ⟨fun write c h hc => congrArg _ ((aperture_open ha h hp).1 c hc),
        fun ls h hl h1 => ⟨_, rfl, aperture_reads ha h hp hl h1⟩,
        fun ls h hl => ⟨_, rfl, aperture_stores ha hs.mem hs.spad h hp hl⟩⟩⟩
  case tables =>
    intro bs col pa ls
    exact ⟨fun write h => congrArg _ (tableAperture_refuses ha h), fun hu hn => ⟨_, rfl, tableAperture_reads ha hu hn⟩,
      fun hu hw hn => ⟨_, rfl, tableAperture_stores hs.mem hs.spad ha hu hw hn⟩⟩
  case peers =>
    intro col s1
    refine ⟨fun hp => congrArg _ (receive_unpaired hi hp), fun ls hp ha hb hl => ⟨_, rfl, ?_⟩⟩
    rw [receive_accesses hi hp ha]
    exact accessPeer_spec (s := { s with inbound := mapErase s.inbound n }) hs.mem hs.spad hb rfl
      (walkBytes_inbound s (mapErase s.inbound n) i.asid col i.ptr i.data.length)
      ((apart_enginePlaces _ s1.host s1.hostCopy s1.hostPsn s1 col i.asid 0 i.ptr _ _).trans hl)

end Sys2Proof.Machine
end

section
/-! The canonical form of the memories (R9, R18, R135, R145, R222, R252, R372, R374): what leaves it alone, the
answers that carry it, and the operations on bytes, lines and caches. There is one lemma per operation of the model that is more than a change of
records the form does not speak of. -/

namespace Sys2Proof.Machine

open Sys2Proof

/-- A key set in a map keeps its keys rising. -/
theorem rising_mapSet {α : Type} {n : Nat} {x : α} : ∀ {m : AMap α}, m.Pairwise (fun a b => a.1 < b.1) →
    (mapSet m n x).Pairwise fun a b => a.1 < b.1
  | [], _ => List.pairwise_singleton _ _
  | (k, v) :: r, h => by
    obtain ⟨hk, hr⟩ := List.pairwise_cons.1 h
    unfold mapSet
    split
    · next hn =>
      refine List.pairwise_cons.2 ⟨fun b hb => ?_, h⟩
      rcases List.mem_cons.1 hb with rfl | hb
      · exact hn
      · exact hn.trans (hk b hb)
    · next hn =>
      split
      · next he => exact List.pairwise_cons.2 ⟨he ▸ hk, hr⟩
      · next he =>
        refine List.pairwise_cons.2 ⟨fun b hb => ?_, rising_mapSet hr⟩
        rcases mem_mapSet hb with rfl | hb
        · exact Nat.lt_of_le_of_ne (Nat.not_lt.1 hn) he
        · exact hk b hb

/-! ### What a step leaves alone -/

/-- The canonical form does not depend on what is neither a memory, a clock, a host line nor the device. -/
theorem canonical_frame {s : State} (h : Canonical s)
    {agenda cur fresh nextId columns cores warps blocks gangs grids contexts
    rounds copies merges arrivals inbound notices keys pairsIn keyTag memPsn readPsn below spadPsn hostPsn spadTag peerPsn errs
    blocked codePages oldWords records msgs} :
    Canonical { s with
      agenda := agenda, cur := cur, fresh := fresh, nextId := nextId, columns := columns, cores := cores, warps := warps
      blocks := blocks, gangs := gangs, grids := grids, contexts := contexts, rounds := rounds, copies := copies
      merges := merges, arrivals := arrivals, inbound := inbound, notices := notices, keys := keys, pairsIn := pairsIn
      keyTag := keyTag, memPsn := memPsn, readPsn := readPsn, below := below, spadPsn := spadPsn, hostPsn := hostPsn
      spadTag := spadTag, peerPsn := peerPsn, errs := errs, blocked := blocked, codePages := codePages
      oldWords := oldWords, records := records, msgs := msgs } := { h with }

/-- Nor on the device's registers outside its queues, apertures, towers and vectors. -/
theorem canonical_device {s : State} (h : Canonical s)
    {wdogd cmcmd cmarg0 cmarg1 cmarg2 cmstat cmkey irqst irqen irqSent fwcmd
    fwaddr fwlen fwstat fwver staged flash bootst flows linkKeys retries halted spdm serial identity measured weights thermLog
    busy} :
    Canonical { s with dev := { s.dev with
      wdogd := wdogd, cmcmd := cmcmd, cmarg0 := cmarg0, cmarg1 := cmarg1, cmarg2 := cmarg2, cmstat := cmstat, cmkey := cmkey
      irqst := irqst, irqen := irqen, irqSent := irqSent, fwcmd := fwcmd, fwaddr := fwaddr, fwlen := fwlen, fwstat := fwstat
      fwver := fwver, staged := staged, flash := flash, bootst := bootst, flows := flows, linkKeys := linkKeys
      retries := retries, halted := halted, spdm := spdm, serial := serial, identity := identity, measured := measured
      weights := weights, thermLog := thermLog, busy := busy } } := { h with }

/-- A queue of the device changed. -/
theorem canonical_setQueue {s : State} (h : Canonical s) {q : Nat} {k : Queue} :
    Canonical { s with dev := { s.dev with queues := s.dev.queues.set q k } } :=
  { h with queues := (List.length_set ..).trans h.queues }

/-- A tower's power limit changed. -/
theorem canonical_setThrottle {s : State} (h : Canonical s) {t n : Nat} :
    Canonical { s with dev := { s.dev with mxthr := s.dev.mxthr.set t n } } := by
  obtain ⟨budget, throttle, calm⟩ := h.towers
  exact { h with towers := ⟨budget, (List.length_set ..).trans throttle, calm⟩ }

theorem canonical_ite {p : Prop} [Decidable p] {s t : State} (h : Canonical s) (g : Canonical t) :
    Canonical (if p then s else t) := by
  split
  · exact h
  · exact g

/-- Something more done in one case. -/
theorem canonical_opt {p : Prop} [Decidable p] {s t : State} (ht : Canonical s → Canonical t) (h : Canonical s) :
    Canonical (if p then t else s) :=
  canonical_ite (ht h) h

/-- Something more done but in one case. -/
theorem canonical_unless {p : Prop} [Decidable p] {s t : State} (ht : Canonical s → Canonical t) (h : Canonical s) :
    Canonical (if p then s else t) :=
  canonical_ite h (ht h)

theorem canonical_foldl {α : Type} {g : State → α → State} (hg : ∀ {s} a, Canonical s → Canonical (g s a)) {l : List α}
    {s : State} (h : Canonical s) : Canonical (l.foldl g s) :=
  List.foldlRecOn (motive := Canonical) l g h fun _ ht a _ => hg a ht

/-- A fold that carries something else beside the machine. -/
theorem canonical_foldl_fst {α β : Type} {g : State × β → α → State × β}
    (hg : ∀ {acc} a, Canonical acc.1 → Canonical (g acc a).1) {l : List α} {s : State} (h : Canonical s) {b : β} :
    Canonical (l.foldl g (s, b)).1 :=
  List.foldlRecOn (motive := fun acc : State × β => Canonical acc.1) l g h fun _ ht a _ => hg a ht

theorem canonical_foldl_snd {α β : Type} {g : β × State → α → β × State}
    (hg : ∀ {acc} a, Canonical acc.2 → Canonical (g acc a).2) {l : List α} {s : State} (h : Canonical s) {b : β} :
    Canonical (l.foldl g (b, s)).2 :=
  List.foldlRecOn (motive := fun acc : β × State => Canonical acc.2) l g h fun _ ht a _ => hg a ht

/-! ### Memories -/

/-- Column memory written, with the keys that its lines are written under. -/
theorem canonical_mem {s : State} (h : Canonical s) {m : List Host.Cell} (hm : Memory.wf m = true) {keyTag} :
    Canonical { s with mem := m, keyTag := keyTag } := { h with mem := hm }

theorem length_cellsGet (m : List Host.Cell) (a n : Nat) : (cellsGet m a n).length = n := by
  simp [cellsGet]

/-- A host line put in its place. -/
theorem canonical_putLine {s : State} (h : Canonical s) {k : Nat} {x : HostLine} (hx : x.bytes.length = 64) :
    Canonical { s with hostCopy := mapSet s.hostCopy k x } :=
  { h with
    copies := fun kv hk => by
      rcases mem_mapSet hk with rfl | hk
      · exact hx
      · exact h.copies kv hk
    rising := rising_mapSet h.rising }

/-- Host lines changed, each in its place. -/
theorem canonical_mapLines {s : State} (h : Canonical s) {f : Nat → HostLine → HostLine}
    (hf : ∀ k x, x.bytes.length = 64 → (f k x).bytes.length = 64) : Canonical
    { s with hostCopy := mapAll s.hostCopy f } :=
  { h with
    copies := fun kv hk => by
      obtain ⟨q, hq, rfl⟩ := mem_mapAll hk
      exact hf q.1 q.2 (h.copies q hq)
    rising := List.pairwise_map.2 h.rising }

/-- Host lines dropped. -/
theorem canonical_dropLines {s : State} (h : Canonical s) {p : Nat × HostLine → Bool} :
    Canonical { s with hostCopy := s.hostCopy.filter p } :=
  { h with
    copies := fun kv hk => h.copies kv (List.mem_of_mem_filter hk)
    rising := h.rising.filter p }

/-! ### What a body answers -/

/-- The machine that a body leaves, whether it completes or stops, is canonical. -/
def Leaves (r : Step) : Prop :=
  match r with
  | .ok c => Canonical c.s
  | .error e => Canonical e.2

theorem leaves_ok {r : Step} (h : Leaves r) {c : Cx} (he : r = .ok c) : Canonical c.s := by
  subst he
  exact h

theorem leaves_error {r : Step} (h : Leaves r) {e : Stop × State} (he : r = .error e) : Canonical e.2 := by
  subst he
  exact h

theorem leaves_ite {p : Prop} [Decidable p] {r q : Step} (h : Leaves r) (g : Leaves q) : Leaves (if p then r else q) := by
  split
  · exact h
  · exact g

theorem leaves_map {r : Step} (h : Leaves r) {f : Cx → Cx} (hf : ∀ {c}, Canonical c.s → Canonical (f c).s) :
    Leaves (r.map f) := by
  cases r with
  | ok c => exact hf h
  | error e => exact h

/-- The machine in an answer taken apart. -/
theorem canonical_proj1 {α : Type} {p : α × State} (h : Canonical p.2) {a : α} {t : State} (he : p = (a, t)) :
    Canonical t := by
  subst he
  exact h

/-! ### What may not be there -/

/-- A machine that an operation may answer is canonical. -/
def Offers (o : Option State) : Prop := ∀ t, o = some t → Canonical t

theorem offers_some {s : State} (h : Canonical s) : Offers (some s) := fun _ he => by
  cases he
  exact h

theorem offers_none : Offers none := fun _ he => nomatch he

/-- The next state of a step, where there is one, is canonical. -/
def Lands (o : Host.Outcome State Fault Refusal) : Prop := ∀ t, o = .next t → Canonical t

theorem lands_next {s : State} (h : Canonical s) : Lands (.next s) := fun _ he => by
  cases he
  exact h

/-! ### Reset -/

theorem canonical_reset : Canonical State.reset where
  mem := rfl
  spad := rfl
  host := rfl
  peer := rfl
  copies := nofun
  rising := .nil
  clocks := List.length_replicate
  queues := List.length_replicate
  apertures := List.length_replicate
  towers := ⟨List.length_replicate, List.length_replicate, List.length_replicate⟩
  vectors := ⟨List.length_replicate, List.length_replicate, List.length_replicate⟩

/-! ### The machine's tables and its vectors -/

theorem canonical_modWarp {s : State} (h : Canonical s) {w : Nat} {f : Warp → Warp} : Canonical (s.modWarp w f) := by
  unfold State.modWarp
  split
  · exact canonical_frame h
  · exact h

theorem canonical_modBlock {s : State} (h : Canonical s) {b : Nat} {f : Block → Block} : Canonical (s.modBlock b f) := by
  unfold State.modBlock
  split
  · exact canonical_frame h
  · exact h

theorem canonical_modGang {s : State} (h : Canonical s) {g : Nat} {f : Gang → Gang} : Canonical (s.modGang g f) := by
  unfold State.modGang
  split
  · exact canonical_frame h
  · exact h

theorem canonical_modGrid {s : State} (h : Canonical s) {g : Nat} {f : Grid → Grid} : Canonical (s.modGrid g f) := by
  unfold State.modGrid
  split
  · exact canonical_frame h
  · exact h

theorem canonical_trySend {s : State} (h : Canonical s) {v : Nat} : Canonical (s.trySend v) := by
  obtain ⟨table, masked, pending⟩ := h.vectors
  unfold State.trySend
  exact canonical_ite h (canonical_ite { h with vectors := ⟨table, masked, (List.length_set ..).trans pending⟩ }
    { h with vectors := ⟨table, masked, (List.length_set ..).trans pending⟩ })

theorem canonical_raiseVector {s : State} (h : Canonical s) {v : Nat} : Canonical (s.raiseVector v) :=
  canonical_trySend (canonical_device h)

theorem canonical_cellLog {s : State} (h : Canonical s) {col line sym pat kind : Nat} :
    Canonical (s.cellLog col line sym pat kind) :=
  canonical_opt (fun ht => canonical_raiseVector ht) (canonical_frame h)

theorem canonical_transferLog {s : State} (h : Canonical s) {col line lane tries beat dir kind : Nat} :
    Canonical (s.transferLog col line lane tries beat dir kind) :=
  canonical_opt (fun ht => canonical_raiseVector ht) (canonical_frame h)

/-! ### Consumed poison -/

theorem canonical_consume {s : State} (h : Canonical s) {x : Warp} {n : Nat} : Canonical (s.consume x n) :=
  canonical_ite h (canonical_modBlock (canonical_frame h))

/-! ### Bytes, lines and caches -/

theorem canonical_rekeyLine {s : State} (h : Canonical s) {col pa slot : Nat} : Canonical (s.rekeyLine col pa slot) := by
  unfold State.rekeyLine
  simp only []
  split
  · exact h
  · exact canonical_mem h (wf_cellsSet _ _ h.mem)

theorem canonical_fetchHost {s : State} (h : Canonical s) {col pa : Nat} : Canonical (s.fetchHost col pa) := by
  unfold State.fetchHost
  split
  · exact h
  · exact canonical_putLine h (length_cellsGet _ _ _)

theorem canonical_putDram {s : State} (h : Canonical s) {col pa slot : Nat} {b : Byte} :
    Canonical (s.putDram col pa slot b) :=
  { canonical_rekeyLine h with mem := wf_cellSet (canonical_rekeyLine h).mem _ _ }

theorem canonical_clearSpad {s : State} (h : Canonical s) {col lo hi : Nat} : Canonical (s.clearSpad col lo hi) :=
  { h with spad := wf_filter h.spad _ }

theorem canonical_putByte {s : State} (h : Canonical s) {viewer : Nat} {l : Loc} {b : Byte} :
    Canonical (s.putByte viewer l b) := by
  cases l with
  | mem c pa k => exact canonical_putDram h
  | host pa =>
    have hf := canonical_fetchHost h (col := viewer) (pa := pa)
    unfold State.putByte
    simp only []
    split
    · next x hx => exact canonical_putLine hf ((List.length_set ..).trans (hf.copies _ (mapGet_mem hx)))
    · exact hf
  | spad c o =>
    have hc : Canonical (if s.spadForeign c o then s.clearSpad c (o / 1024 * 1024) (o / 1024 * 1024 + 1024) else s) :=
      canonical_ite (canonical_clearSpad h) h
    exact { hc with spad := wf_cellSet hc.spad _ _ }
  | peer d a p => exact { h with peer := wf_cellSet h.peer _ _ }

theorem canonical_markLine {s : State} (h : Canonical s) {viewer : Nat} {l : Loc} {psn : Bool} :
    Canonical (s.markLine viewer l psn) := by
  cases l with
  | mem c pa k => exact canonical_ite (canonical_frame h) (canonical_frame h)
  | spad c o => exact canonical_frame h
  | peer d a p => exact canonical_frame h
  | host pa =>
    unfold State.markLine
    simp only []
    split
    · next x hx => exact canonical_putLine h (h.copies _ (mapGet_mem hx))
    · exact canonical_frame h

theorem canonical_tellSo {s : State} (h : Canonical s) {bs : List ByteW} : Canonical (s.tellSo bs) :=
  canonical_ite h (canonical_frame h)

theorem canonical_writeBytes {s : State} (h : Canonical s) {viewer : Nat} {bs : List ByteW} :
    Canonical (s.writeBytes viewer bs) := by
  refine canonical_tellSo (canonical_foldl (fun _ ht => ?_) (canonical_foldl (fun _ ht => canonical_putByte ht) h))
  exact canonical_ite (canonical_markLine ht) (canonical_opt (fun hu => canonical_markLine hu) ht)

theorem canonical_cleanHost {s : State} (h : Canonical s) {k : Nat} {x : HostLine} : Canonical (s.cleanHost k x) := by
  obtain ⟨m, p, c, he, hm⟩ := cleanHost_spec s k x
  rw [he]
  refine { h with host := ?_ }
  rcases hm with rfl | rfl
  · exact h.host
  · exact (dirtyFold_spec x _ _ _ h.host).1

theorem canonical_cleanLines {s : State} (h : Canonical s) {hit : Nat → Bool} : Canonical (s.cleanLines hit) := by
  have hs : Canonical (s.hostCopy.foldl (fun s kv => if hit kv.1 then s.cleanHost kv.1 kv.2 else s) s) :=
    canonical_foldl (fun _ ht => canonical_ite (canonical_cleanHost ht) ht) h
  have hl := canonical_mapLines h (f := fun k x => if hit k then { x with dirty := 0 } else x) fun k x hx => by
    split
    · exact hx
    · exact hx
  exact { hs with copies := hl.copies, rising := hl.rising }

theorem canonical_dropSector {s : State} (h : Canonical s) {asid col : Nat} {x : Sector} :
    Canonical (s.dropSector asid col x) := by
  refine canonical_frame (canonical_ite (canonical_ite h (canonical_frame h)) ?_)
  exact canonical_ite (canonical_cleanLines h) (canonical_frame h)

theorem canonical_needLine {s : State} (h : Canonical s) {col line : Nat} : Canonical (s.needLine col line) :=
  canonical_ite (canonical_frame h) h

theorem canonical_correctLine {s : State} (h : Canonical s) {col line one more : Nat} :
    Canonical (s.correctLine col line one more) := by
  unfold State.correctLine
  simp only []
  split
  · exact canonical_needLine h
  · refine canonical_ite ?_ ?_
    · exact canonical_cellLog (canonical_frame (canonical_needLine h))
    · exact canonical_cellLog (canonical_frame (canonical_needLine h))

theorem canonical_readLines {s : State} (h : Canonical s) {col first n : Nat} : Canonical (s.readLines col first n) :=
  canonical_ite h (canonical_foldl (fun _ ht => canonical_frame (canonical_correctLine ht)) h)

theorem canonical_correctSector {s : State} (h : Canonical s) {col addr : Nat} : Canonical (s.correctSector col addr) :=
  canonical_ite h (canonical_foldl (fun _ ht => canonical_correctLine ht) h)

theorem canonical_freeWay {s : State} (h : Canonical s) {asid col slice set ways : Nat} {zero : Bool} :
    Canonical (s.freeWay asid col slice set ways zero).2 := by
  unfold State.freeWay
  simp only []
  split
  · exact h
  · split
    · exact canonical_dropSector h
    · exact h

theorem canonical_noteSector {s : State} (h : Canonical s) {asid col addr slot off slice : Nat} {host : Bool}
    {t : Touch} :
    Canonical (s.noteSector asid col addr slot off slice host t) := by
  unfold State.noteSector
  simp only []
  split
  · exact canonical_ite (canonical_frame (canonical_freeWay (canonical_frame h)))
      (canonical_ite (canonical_frame (canonical_freeWay (canonical_frame h))) (canonical_frame h))
  · refine canonical_frame (canonical_freeWay ?_)
    have filled : Canonical (if t.zero then s else if host then s.meter asid col 7 1024
        else ((s.meter asid col 4 1024).correctSector col addr).fillMade col addr) :=
      canonical_ite h (canonical_ite (canonical_frame h) (canonical_frame (canonical_correctSector (canonical_frame h))))
    exact canonical_ite (canonical_freeWay filled) filled

theorem canonical_touchSector {s : State} (h : Canonical s) {asid col addr slot off : Nat} {host : Bool} {t : Touch} :
    Canonical (s.touchSector asid col addr slot off host t) := by
  unfold State.touchSector
  simp only []
  refine canonical_noteSector ?_
  split
  · exact canonical_dropSector (canonical_frame h)
  · exact canonical_frame h

theorem canonical_correctWalk {s : State} (h : Canonical s) {asid p l off : Nat} :
    Canonical (s.correctWalk asid p l off) := by
  unfold State.correctWalk
  split
  · exact canonical_ite h (canonical_foldl (fun _ ht => canonical_readLines ht) h)
  · exact h

theorem canonical_fillTlb {s : State} (h : Canonical s) {p : Nat} {e : TlbEntry} : Canonical (s.fillTlb p e) :=
  canonical_frame (canonical_ite h (canonical_correctWalk (canonical_frame h)))

theorem canonical_walkPtr {s : State} (h : Canonical s) {asid col : Nat} {ptr : Addr} :
    Canonical (s.walkPtr asid col ptr) := by
  unfold State.walkPtr
  simp only []
  split
  · exact h
  · split
    · exact h
    · split
      · exact canonical_fillTlb h
      · exact canonical_correctWalk (canonical_frame h)

theorem canonical_walkBytes {s : State} (h : Canonical s) {asid col : Nat} {ptr : Addr} {n : Nat} :
    Canonical (s.walkBytes asid col ptr n) :=
  canonical_ite h (canonical_foldl (fun _ ht => canonical_walkPtr ht) h)

theorem canonical_ownHost {s : State} (h : Canonical s) {col pa asid : Nat} {store : Bool} :
    Canonical (s.ownHost col pa asid store) := by
  unfold State.ownHost
  split
  · next x hx => exact canonical_ite (canonical_putLine h (h.copies _ (mapGet_mem hx))) h
  · exact h

theorem canonical_touchLoc {s : State} (h : Canonical s) {asid col : Nat} {l : Loc} {off : Nat} {t : Touch} :
    Canonical (s.touchLoc asid col l off t) := by
  unfold State.touchLoc
  split
  · exact canonical_touchSector h
  · exact canonical_touchSector (canonical_ownHost (canonical_fetchHost h))
  · exact h
  · exact h

theorem canonical_keepBelow {s : State} (h : Canonical s) {l : Loc} : Canonical (s.keepBelow l) := by
  unfold State.keepBelow
  simp only []
  split
  · exact canonical_frame h
  · exact h

theorem canonical_dropDirty {s : State} (h : Canonical s) {l : Loc} : Canonical (s.dropDirty l) := by
  unfold State.dropDirty
  split
  · simp only []
    split
    · exact h
    · exact { h with mem := wf_cellsSet _ _ h.mem }
  · exact h

theorem canonical_settleBelow {s : State} (h : Canonical s) {l : Loc} : Canonical (s.settleBelow l) := by
  unfold State.settleBelow
  split
  · exact canonical_frame h
  · exact h

theorem canonical_writeBack {s : State} (h : Canonical s) {col : Nat} {e : L1Line} : Canonical (s.writeBack col e) := by
  refine canonical_ite (canonical_touchLoc ?_) h
  exact canonical_settleBelow (canonical_ite (canonical_markLine (canonical_markLine h)) h)

theorem canonical_fillL1 {s : State} (h : Canonical s) {col core asid : Nat} {pl : Place} {p : Nat} {e : TlbEntry}
    {t : Touch} :
    Canonical (s.fillL1 col core asid pl p e t) := by
  unfold State.fillL1
  simp only []
  refine canonical_frame ?_
  refine canonical_foldl (fun _ ht => ?_) ?_
  · exact canonical_writeBack ht
  · split
    · exact canonical_frame h
    · exact h

theorem canonical_touch {s : State} (h : Canonical s) {col core asid : Nat} {pl : Place} {t : Touch} :
    Canonical (s.touch col core asid pl t) := by
  unfold State.touch
  cases pl.leaf with
  | none =>
    generalize (t.noL1 || t.colAx || (t.store && !t.priv)) = b
    cases b with
    | false => exact h
    | true => exact canonical_touchLoc h
  | some pe =>
    have hf := canonical_fillTlb h (p := pe.1) (e := pe.2)
    simp only []
    split
    · exact canonical_fillL1 (canonical_ite hf (canonical_touchLoc hf))
    · exact hf
    · exact canonical_touchLoc hf

theorem canonical_shootL1 {s : State} (h : Canonical s) {col core : Nat} {l : Loc} {own : Bool} :
    Canonical (s.shootL1 col core l own) :=
  canonical_foldl (fun _ ht => canonical_ite ht (canonical_ite ht (canonical_frame ht))) h

theorem canonical_refreshL1 {s : State} (h : Canonical s) {col core : Nat} {l : Loc} :
    Canonical (s.refreshL1 col core l) :=
  canonical_ite (canonical_frame h) h

theorem canonical_releaseHost {s : State} (h : Canonical s) {col : Nat} : Canonical (s.releaseHost col) :=
  canonical_cleanLines h

theorem canonical_acquireHost {s : State} (h : Canonical s) {col core : Nat} : Canonical (s.acquireHost col core) := by
  refine canonical_frame (canonical_frame (canonical_mapLines (canonical_dropLines h) fun k x hx => ?_))
  split
  · simp [State.refetched]
  · exact hx

theorem canonical_takeHost {s : State} (h : Canonical s) {col pa : Nat} : Canonical (s.takeHost col pa) :=
  canonical_fetchHost (canonical_dropLines (canonical_foldl (fun _ ht => canonical_shootL1 ht)
    (canonical_cleanLines (canonical_cleanLines h))))

theorem canonical_writeBackDue {s : State} (h : Canonical s) : Canonical (s.writeBackDue) := canonical_cleanLines h

theorem canonical_acquire {s : State} (h : Canonical s) {col core scope : Nat} : Canonical (s.acquire col core scope) :=
  canonical_ite (canonical_acquireHost h) h

theorem canonical_release {s : State} (h : Canonical s) {col scope : Nat} : Canonical (s.release col scope) :=
  canonical_ite (canonical_releaseHost h) h

/-! ### Stores -/

theorem canonical_cleanL1 {s : State} (h : Canonical s) {col : Nat} {hit : L1Line → Bool} :
    Canonical (s.cleanL1 col hit) := by
  refine canonical_foldl (fun _ ht => ?_) h
  exact canonical_ite ht (canonical_frame (canonical_foldl (fun _ hu => canonical_writeBack hu) ht))

theorem canonical_flushLine {s : State} (h : Canonical s) {col : Nat} {l : Loc} : Canonical (s.flushLine col l) :=
  canonical_cleanL1 h

theorem canonical_fillStored {s : State} (h : Canonical s) {col core asid : Nat} {y : ByteW} :
    Canonical (s.fillStored col core asid y) := by
  unfold State.fillStored
  split
  · exact canonical_frame h
  · split
    · exact canonical_touch h
    · exact h

theorem canonical_beforeStore {s : State} (h : Canonical s) {col core : Nat} {away : Bool} {l : Loc} :
    Canonical (s.beforeStore col core away l) :=
  canonical_ite (canonical_ite h (canonical_keepBelow h)) (canonical_flushLine h)

theorem canonical_requestStore {s : State} (h : Canonical s) {col core asid : Nat} {away : Bool} {b : BufStore}
    {y : ByteW} :
    Canonical (s.requestStore col core asid away b y) :=
  canonical_ite h (canonical_touchLoc h)

theorem canonical_afterStore {s : State} (h : Canonical s) {col core : Nat} {away : Bool} {y : ByteW} :
    Canonical (s.afterStore col core away y) := by
  refine canonical_ite ?_ ?_
  · exact canonical_refreshL1 (canonical_frame (canonical_shootL1 h))
  · exact canonical_refreshL1 (canonical_shootL1 h)

theorem canonical_cleanStored {s : State} (h : Canonical s) {col : Nat} {bs : List ByteW} :
    Canonical (s.cleanStored col bs) :=
  canonical_cleanLines h

theorem canonical_releaseStore {s : State} (h : Canonical s) {x : Warp} {b : BufStore} :
    Canonical (s.releaseStore x b) := by
  refine canonical_ite (canonical_writeBytes h) (canonical_opt (fun hs => canonical_cleanStored hs) ?_)
  refine canonical_foldl (fun _ ht => canonical_afterStore ht) (canonical_writeBytes ?_)
  refine canonical_foldl (fun _ ht => canonical_requestStore ht) ?_
  refine canonical_foldl (fun _ ht => canonical_beforeStore ht) ?_
  exact canonical_opt (fun hs => canonical_foldl (fun _ ht => canonical_fillStored ht) hs) (canonical_frame h)

theorem canonical_onSector {s : State} (h : Canonical s) {asid col : Nat} {l : Loc} {g : Sector → Option Sector} :
    Canonical (s.onSector asid col l g) := by
  unfold State.onSector
  simp only []
  refine canonical_foldl (fun _ ht => ?_) h
  split
  · exact canonical_dropSector ht
  · exact canonical_frame (canonical_ite ht (canonical_ite (canonical_cleanLines ht) (canonical_frame ht)))

theorem canonical_dropL1Sector {s : State} (h : Canonical s) {col : Nat} {l : Loc} : Canonical (s.dropL1Sector col l) :=
  canonical_foldl (fun _ ht => canonical_ite ht (canonical_frame ht)) h

theorem canonical_cleanSector {s : State} (h : Canonical s) {asid col : Nat} {l : Loc} :
    Canonical (s.cleanSector asid col l) :=
  canonical_onSector (canonical_cleanL1 h)

theorem canonical_forgetHost {s : State} (h : Canonical s) {col : Nat} {l : Loc} : Canonical (s.forgetHost col l) := by
  unfold State.forgetHost
  split
  · exact canonical_dropLines h
  · exact h

theorem canonical_flushSector {s : State} (h : Canonical s) {asid col : Nat} {l : Loc} :
    Canonical (s.flushSector asid col l) :=
  canonical_forgetHost (canonical_dropL1Sector (canonical_onSector (canonical_cleanSector h)))

end Sys2Proof.Machine
end

section
/-! Dropped work, traps and issues keep the canonical form. -/

namespace Sys2Proof.Machine

open Sys2Proof

/-! ### Warps, blocks and gangs dropped -/

theorem canonical_imprint {s : State} (h : Canonical s) {x : Warp} {l : List (Nat × Lanes)} : Canonical (s.imprint x l) :=
  canonical_ite h (canonical_frame h)

theorem canonical_discardRun {s : State} (h : Canonical s) {w : Nat} : Canonical (s.discardRun w) := by
  unfold State.discardRun
  split
  · split
    · exact canonical_frame (canonical_imprint h)
    · exact canonical_frame h
  · exact h

theorem canonical_leaveSlot {s : State} (h : Canonical s) {w : Nat} : Canonical (s.leaveSlot w) := by
  unfold State.leaveSlot
  split
  · exact h
  · exact canonical_ite (canonical_frame h) h

theorem canonical_dropPrivate {s : State} (h : Canonical s) {w : Nat} : Canonical (s.dropPrivate w) := by
  unfold State.dropPrivate
  simp only []
  split
  · exact h
  · refine canonical_foldl (fun _ ht => ?_) h
    exact canonical_ite ht (canonical_frame (canonical_foldl (fun _ hu => canonical_dropDirty hu) ht))

theorem canonical_releaseRest {s : State} (h : Canonical s) {w : Nat} : Canonical (s.releaseRest w) := by
  unfold State.releaseRest
  split
  · exact h
  · split
    · exact canonical_foldl (fun _ ht => canonical_releaseStore ht) h
    · exact h

theorem canonical_dropWarp {s : State} (h : Canonical s) {w : Nat} : Canonical (s.dropWarp w) := by
  have hr := canonical_discardRun (canonical_releaseRest h (w := w)) (w := w)
  unfold State.dropWarp
  simp only []
  refine canonical_frame (canonical_leaveSlot ?_)
  have hl : Canonical (match (s.releaseRest w).discardRun w, (s.releaseRest w).warp w with
      | t, some x => t.imprint x x.leaves
      | t, none => t) := by
    split
    · exact canonical_imprint hr
    · exact hr
  exact canonical_ite hl (canonical_dropPrivate hl)

theorem canonical_dropBlock {s : State} (h : Canonical s) {b : Nat} : Canonical (s.dropBlock b) := by
  unfold State.dropBlock
  simp only []
  split
  · exact h
  · refine canonical_frame ?_
    refine canonical_ite ?_ ?_
    · exact canonical_foldl (fun _ ht => canonical_dropWarp ht) h
    · exact canonical_frame (canonical_foldl (fun _ ht => canonical_dropWarp ht) h)

theorem canonical_tellPeers {s : State} (h : Canonical s) {g : Nat} {retired : Bool} :
    Canonical (s.tellPeers g retired) :=
  canonical_foldl (fun _ ht => canonical_frame ht) h

theorem canonical_clearGang {s : State} (h : Canonical s) {g : Nat} : Canonical (s.clearGang g) :=
  canonical_modGang (canonical_frame (canonical_tellPeers (canonical_foldl (fun _ ht => canonical_dropBlock ht) h)))

theorem canonical_deviceWrite {s : State} (h : Canonical s) {asid : Nat} {ptr : Addr} {bs : List Byte} :
    Canonical (s.deviceWrite asid ptr bs) := by
  refine canonical_foldl (fun i ht => ?_) (canonical_walkBytes h)
  split
  · exact { ht with host := wf_cellSet ht.host _ _ }
  · exact canonical_putByte ht
  · exact ht

theorem canonical_complete {s : State} (h : Canonical s) {g : Grid} {status : Nat} : Canonical (s.complete g status) := by
  unfold State.complete
  split
  · exact h
  · exact canonical_raiseVector (canonical_setQueue (canonical_deviceWrite h))

theorem canonical_retireGrid {s : State} (h : Canonical s) {fuel g : Nat} : Canonical (State.retireGrid fuel s g) := by
  induction fuel generalizing s g with
  | zero => exact h
  | succ fuel ih =>
    unfold State.retireGrid
    split
    · exact h
    · next x _ =>
      refine canonical_ite h ?_
      have hc := canonical_foldl (l := s.gangsOf g) (fun kv ht => canonical_foldl (l := kv.2.columns)
        (fun c ht => canonical_releaseHost ht (col := c)) ht) h
      have hm (f : Grid → Grid) := canonical_modGrid hc (g := g) (f := f)
      simp only []
      split
      · refine ih ?_
        split
        · exact ih (canonical_complete (canonical_frame (canonical_frame (hm _))))
        · exact canonical_complete (canonical_frame (hm _))
      · split
        · exact ih (canonical_complete (canonical_frame (canonical_frame (hm _))))
        · exact canonical_complete (canonical_frame (hm _))

theorem canonical_releaseGang {s : State} (h : Canonical s) {g : Nat} : Canonical (s.releaseGang g) := by
  unfold State.releaseGang
  split
  · exact canonical_foldl (fun _ ht => canonical_releaseHost ht) h
  · exact h

theorem canonical_endGrid {s : State} (h : Canonical s) {g : Nat} : Canonical (s.endGrid g) := by
  refine canonical_retireGrid (canonical_modGrid ?_)
  refine canonical_foldl (fun _ ht => ?_) h
  exact canonical_ite ht (canonical_modGang (canonical_releaseGang (canonical_clearGang ht)))

theorem canonical_killGang {s : State} (h : Canonical s) {g : Nat} : Canonical (s.killGang g) := by
  unfold State.killGang
  split
  · exact h
  · split
    · exact h
    · exact canonical_ite (canonical_modGang (canonical_releaseGang (canonical_clearGang h))) (canonical_endGrid h)

theorem canonical_doubleTrap {s : State} (h : Canonical s) {x : Warp} : Canonical (s.doubleTrap x) := by
  unfold State.doubleTrap
  split
  · exact h
  · exact canonical_endGrid h

theorem canonical_unhandled {s : State} (h : Canonical s) {x : Warp} {code : Nat} : Canonical (s.unhandled x code) := by
  unfold State.unhandled
  split
  · exact h
  · exact canonical_endGrid (canonical_modGrid h)

/-! ### Traps and the end of an issue -/

theorem leaves_stop {c : Cx} (h : Canonical c.s) {st : Stop} : Leaves (c.stop st) := h

theorem leaves_raise {c : Cx} (h : Canonical c.s) {code info : Nat} {addr : Addr} {mask : Mask} :
    Leaves (c.raise code info addr mask) := by
  unfold Cx.raise
  exact leaves_stop h

theorem leaves_raiseAll {c : Cx} (h : Canonical c.s) {code info : Nat} : Leaves (c.raiseAll code info) := by
  unfold Cx.raiseAll
  exact leaves_raise h

theorem leaves_illegal {c : Cx} (h : Canonical c.s) : Leaves (c.illegal) := by
  unfold Cx.illegal
  exact leaves_raiseAll h

theorem canonical_pressureDiscard {s : State} (h : Canonical s) {w bank : Nat} :
    Canonical (s.pressureDiscard w bank) := by
  unfold State.pressureDiscard
  simp only []
  split
  · exact h
  · split
    · split
      · exact canonical_modWarp (canonical_frame h)
      · exact canonical_frame h
    · exact canonical_frame h

theorem canonical_saveAt {s : State} (h : Canonical s) {asid col off : Nat} {bs : List Byte} :
    Canonical (s.saveAt asid col off bs) := by
  unfold State.saveAt
  simp only []
  split
  · exact h
  · exact canonical_foldl (fun _ ht => canonical_putDram ht) (canonical_frame h)

theorem canonical_savedAt {s : State} (h : Canonical s) {asid col off n : Nat} :
    Canonical (s.savedAt asid col off n).2 := by
  unfold State.savedAt
  simp only []
  split
  · exact h
  · exact canonical_readLines (canonical_frame h)

theorem canonical_saveBytes {s : State} (h : Canonical s) {x : Warp} {off : Nat} {bs : List Byte} :
    Canonical (s.saveBytes x off bs) :=
  canonical_frame (canonical_saveAt h)

theorem canonical_recordRead {s : State} (h : Canonical s) {x : Warp} {off n : Nat} :
    Canonical (s.recordRead x off n).2 := by
  unfold State.recordRead
  split
  · exact canonical_savedAt h
  · exact h

theorem canonical_saveEntries {s : State} (h : Canonical s) {x : Warp} {c : List Entry} : Canonical (s.saveEntries x c) :=
  canonical_saveBytes (canonical_saveBytes h)

theorem canonical_saveTrap {s : State} (h : Canonical s) {x : Warp} {v : Saved} : Canonical (s.saveTrap x v) :=
  canonical_saveBytes (canonical_saveBytes (canonical_saveBytes (canonical_saveEntries h)))

theorem canonical_loadTrap {s : State} (h : Canonical s) {x : Warp} {v : Saved} : Canonical (s.loadTrap x v).2 := by
  have reads (a b c d e f : Nat) : Canonical
      ((((s.recordRead x a b).2.recordRead x c d).2.recordRead x e f).2) :=
    canonical_recordRead (canonical_recordRead (canonical_recordRead h))
  unfold State.loadTrap
  simp only []
  split
  · exact reads _ _ _ _ _ _
  · exact reads _ _ _ _ _ _

theorem canonical_arrival {s : State} (h : Canonical s) {w n : Nat} : Canonical (s.arrival w n) := by
  unfold State.arrival
  simp only []
  split
  · exact h
  · split
    · exact h
    · split
      · exact h
      · refine canonical_frame ?_
        split
        · refine canonical_frame ?_
          split
          · exact canonical_saveEntries (canonical_frame h)
          · exact canonical_frame h
        · split
          · exact canonical_saveEntries (canonical_frame h)
          · exact canonical_frame h

theorem canonical_storeThrough {s : State} (h : Canonical s) {col core asid : Nat} {ps : List Place} {bs : List ByteW} :
    Canonical (s.storeThrough col core asid ps bs) := by
  refine canonical_foldl (fun _ ht => canonical_refreshL1 ht) ?_
  exact canonical_writeBytes (canonical_foldl (fun _ ht => canonical_shootL1 (canonical_touch ht)) h)

theorem canonical_loadTouch {s : State} (h : Canonical s) {col core asid : Nat} {ps : List Place} :
    Canonical (s.loadTouch col core asid ps) :=
  canonical_foldl (fun _ ht => canonical_touch ht) h

theorem canonical_takeTrap {s : State} (h : Canonical s) {w : Nat} {c : Cause} {mask : Mask} {tpc rpc : Addr}
    {irrv bskip : Bool} :
    Canonical (s.takeTrap w c mask tpc rpc irrv bskip) := by
  unfold State.takeTrap
  simp only []
  split
  · exact h
  · split
    · exact canonical_doubleTrap h
    · split
      · exact canonical_unhandled h
      · split
        · exact canonical_doubleTrap h
        · exact canonical_frame (canonical_saveTrap (canonical_storeThrough h))

theorem canonical_returnTrap {s : State} (h : Canonical s) {w : Nat} :
    (∀ t, s.returnTrap w = .ok t → Canonical t) ∧ ∀ e, s.returnTrap w = .error e → Canonical e.2 := by
  unfold State.returnTrap
  split
  · refine ⟨fun t he => ?_, fun e he => nomatch he⟩
    cases he
    exact h
  · simp only []
    split
    · refine ⟨(fun t he => nomatch he), fun e he => ?_⟩
      cases he
      exact h
    · refine ⟨fun t he => ?_, fun e he => nomatch he⟩
      cases he
      refine canonical_frame ?_
      split
      · exact canonical_loadTrap (canonical_loadTouch h)
      · exact canonical_loadTouch h

theorem leaves_gate {c : Cx} (h : Canonical c.s) {op : Opcode} : Leaves (c.gate op) := by
  unfold Cx.gate
  simp only []
  split
  · exact leaves_stop h
  · split
    · exact leaves_stop h
    · split
      · exact leaves_ite (leaves_stop h) (leaves_raiseAll h)
      · split
        · exact leaves_ite (leaves_stop h) (leaves_raiseAll h)
        · split
          · exact h
          · split
            · exact leaves_stop h
            · split
              · exact leaves_raiseAll h
              · exact h

theorem canonical_walked {s : State} (h : Canonical s) {w : Nat} {c : Cause} : Canonical (s.walked w c) := by
  unfold State.walked
  simp only []
  split
  · exact h
  · split
    · exact canonical_walkPtr h
    · exact h

theorem canonical_stopped {s : State} (h : Canonical s) {w : Nat} {pc : Addr} {st : Stop} :
    Canonical (s.stopped w pc st) := by
  unfold State.stopped
  simp only []
  split
  · exact canonical_takeTrap (canonical_discardRun (canonical_walked h))
  · exact canonical_pressureDiscard h
  · exact canonical_arrival h
  · exact h
  · split
    · exact canonical_killGang (canonical_discardRun h)
    · exact h
  · exact canonical_modWarp h

/-- An issue ends as its body does: with the warp put back, or stopped at the machine that the body left. -/
theorem lands_issue {s : State} (h : Canonical s) {op : Opcode} {f : Fields} {always : Bool} {pre : Cx → Bool}
    {body : Cx → Step}
    (hb : ∀ {c}, Canonical c.s → Leaves (body c)) : Lands (s.issue op f always pre body) := by
  unfold State.issue
  split
  · exact fun t he => nomatch he
  · next w _ =>
    split
    · exact fun t he => nomatch he
    · next x _ =>
      have gated : Leaves (match (s.cx w x f).gate op with
          | .error e => .error e
          | .ok c => if c.act = 0 ∧ !always then .ok c else body c) := by
        split
        · next he => exact leaves_error (leaves_gate h) he
        · next he => exact leaves_ite (leaves_ok (leaves_gate h) he) (hb (leaves_ok (leaves_gate h) he))
      have goes := leaves_ite (p := (!pre (s.cx w x f)) = true) (r := (s.cx w x f).illegal) h gated
      refine lands_next ?_
      split
      · next he => exact canonical_frame (leaves_ok goes he)
      · next he => exact canonical_stopped (leaves_error goes he)

end Sys2Proof.Machine
end

section
/-! The bodies of the instructions keep the canonical form, whether they complete or stop. -/

namespace Sys2Proof.Machine

open Sys2Proof

/-! ### Operands and destinations -/

theorem canonical_cx_consume {c : Cx} (h : Canonical c.s) {psn : Mask} : Canonical
    (c.consume psn).s := canonical_consume h

theorem leaves_writeV {c : Cx} (h : Canonical c.s) {v j : Nat} {mask : Mask} {new : Lanes} :
    Leaves (c.writeV v j mask new) := by
  unfold Cx.writeV
  simp only []
  split
  · split
    · exact h
    · exact h
  · split
    · exact leaves_raiseAll h
    · split
      · exact leaves_stop h
      · exact h

theorem leaves_writeVs {c : Cx} (h : Canonical c.s) {v : Nat} {mask : Mask} {vals : List Lanes} {j : Nat} :
    Leaves (c.writeVs v mask vals j) := by
  induction vals generalizing c j with
  | nil => exact h
  | cons l rest ih =>
    unfold Cx.writeVs
    split
    · next he => exact ih (leaves_ok (leaves_writeV h) he)
    · next he => exact leaves_error (leaves_writeV h) he

theorem leaves_writeDest {c : Cx} (h : Canonical c.s) {mask : Mask} {vals : List Lanes} : Leaves
    (c.writeDest mask vals) := by
  unfold Cx.writeDest
  split
  · exact leaves_writeVs h
  · by_cases hm : mask = 0
    · rw [if_pos hm]
      exact h
    · rw [if_neg hm]
      exact h
  · exact h
  · exact h

theorem leaves_writeResult {c : Cx} (h : Canonical c.s) {latch : Option Nat} {mask : Mask} {vals : List Lanes} :
    Leaves (c.writeResult latch mask vals) := by
  unfold Cx.writeResult
  simp only []
  split
  · next he =>
      exact leaves_error (leaves_writeDest h) he
  · next he =>
      have hc := leaves_ok (leaves_writeDest h) he
      split
      · split
        · split
          · exact hc
          · exact hc
        · split
          · exact hc
          · exact hc
      · split
        · exact hc
        · exact hc

theorem canonical_writeP {c : Cx} (h : Canonical c.s) {mask bits : Mask} : Canonical (c.writeP mask bits).s := by
  unfold Cx.writeP
  split
  · split
    · exact h
    · exact h
  · exact h

theorem leaves_alu {c : Cx} (h : Canonical c.s) {latch : Option Nat} {n : Nat} {as : List Arg} {g : Nat → List Word} :
    Leaves (c.alu latch n as g) := by
  unfold Cx.alu
  exact leaves_writeResult (canonical_cx_consume h)

theorem leaves_aluP {c : Cx} (h : Canonical c.s) {as : List Arg} {g : Nat → Bool} : Leaves (c.aluP as g) := by
  unfold Cx.aluP
  refine leaves_ite ?_ ?_
  · exact leaves_ite (canonical_cx_consume h) (canonical_writeP (canonical_cx_consume h))
  · exact canonical_writeP (canonical_cx_consume h)

theorem leaves_takeDest {c : Cx} (h : Canonical c.s) {n : Nat} : Leaves (c.takeDest n) := by
  unfold Cx.takeDest
  split
  · exact leaves_writeVs h
  · exact h

theorem leaves_later {c : Cx} (h : Canonical c.s) {latch : Option Nat} {mask : Mask} {vals : List Lanes} {fx : PendFx}
    {ready : Bool} :
    Leaves (c.later latch mask vals fx ready) := by
  unfold Cx.later
  simp only []
  split
  · next he =>
      exact leaves_error (leaves_takeDest h) he
  · next he =>
      have hc := leaves_ok (leaves_takeDest h) he
      exact canonical_frame hc

theorem leaves_aluLater {c : Cx} (h : Canonical c.s) {latch : Option Nat} {n : Nat} {as : List Arg}
    {g : Nat → List Word} :
    Leaves (c.aluLater latch n as g) := by
  unfold Cx.aluLater
  exact leaves_later (canonical_cx_consume h)

/-! ### Elementwise operations -/

theorem leaves_int2 {c : Cx} (h : Canonical c.s) {g : Int → Int → Int} : Leaves (c.int2 g) := by
  unfold Cx.int2
  exact leaves_alu h

theorem leaves_int1 {c : Cx} (h : Canonical c.s) {g : Int → Int} : Leaves (c.int1 g) := by
  unfold Cx.int1
  exact leaves_alu h

theorem leaves_bits2 {c : Cx} (h : Canonical c.s) {g : Word → Word → Word} : Leaves (c.bits2 g) := by
  unfold Cx.bits2
  exact leaves_alu h

/-! ### Integer arithmetic -/

theorem leaves_intSum {c : Cx} (h : Canonical c.s) {g : Int → Int → Int} : Leaves (c.intSum g) := by
  unfold Cx.intSum
  exact leaves_alu h

theorem leaves_bodyLea {c : Cx} (h : Canonical c.s) : Leaves (bodyLea c) := by
  unfold bodyLea
  exact leaves_alu h

theorem leaves_bodyIaddx {c : Cx} (h : Canonical c.s) : Leaves (bodyIaddx c) := by
  unfold bodyIaddx
  exact leaves_alu h

theorem leaves_bodyIcmp {c : Cx} (h : Canonical c.s) : Leaves (bodyIcmp c) := by
  unfold bodyIcmp
  exact leaves_aluP h

/-! ### Bits, selection and votes -/

theorem leaves_bodyNot {c : Cx} (h : Canonical c.s) : Leaves (bodyNot c) := by
  unfold bodyNot
  exact leaves_alu h

theorem leaves_bodyBrev {c : Cx} (h : Canonical c.s) : Leaves (bodyBrev c) := by
  unfold bodyBrev
  exact leaves_alu h

theorem leaves_shift {c : Cx} (h : Canonical c.s) {g : Nat → Nat → Nat → Nat} : Leaves (c.shift g) := by
  unfold Cx.shift
  exact leaves_alu h

theorem leaves_countBits {c : Cx} (h : Canonical c.s) {g : Nat → Nat → Nat} : Leaves (c.countBits g) := by
  unfold Cx.countBits
  exact leaves_alu h

theorem leaves_bodyBfe {c : Cx} (h : Canonical c.s) : Leaves (bodyBfe c) := by
  unfold bodyBfe
  exact leaves_alu h

theorem leaves_bodyBfi {c : Cx} (h : Canonical c.s) : Leaves (bodyBfi c) := by
  unfold bodyBfi
  exact leaves_alu h

theorem leaves_bodySel {c : Cx} (h : Canonical c.s) : Leaves (bodySel c) := by
  unfold bodySel
  exact leaves_writeResult (canonical_cx_consume h)

theorem leaves_bodyMov {c : Cx} (h : Canonical c.s) : Leaves (bodyMov c) := by
  unfold bodyMov
  exact leaves_writeResult h

theorem leaves_bodyPlop {c : Cx} (h : Canonical c.s) : Leaves (bodyPlop c) := by
  unfold bodyPlop
  exact leaves_aluP h

theorem leaves_bodyPmov {c : Cx} (h : Canonical c.s) : Leaves (bodyPmov c) := by
  unfold bodyPmov
  simp only []
  split
  · exact leaves_aluP h
  · split
    · split
      · exact canonical_cx_consume h
      · exact canonical_writeP (canonical_cx_consume h)
    · exact canonical_writeP (canonical_cx_consume h)

theorem leaves_bodyVote {c : Cx} (h : Canonical c.s) : Leaves (bodyVote c) := by
  unfold bodyVote
  simp only []
  split
  · exact canonical_writeP h
  · exact canonical_writeP h
  · exact leaves_writeResult h
  · exact canonical_writeP h
  · exact leaves_writeResult h
  · exact leaves_writeResult h

theorem leaves_bodyPack {c : Cx} (h : Canonical c.s) : Leaves (bodyPack c) := by
  unfold bodyPack
  exact leaves_alu h

theorem leaves_bodyUnpk {c : Cx} (h : Canonical c.s) : Leaves (bodyUnpk c) := by
  unfold bodyUnpk
  exact leaves_alu h

theorem leaves_bodyPrmt {c : Cx} (h : Canonical c.s) : Leaves (bodyPrmt c) := by
  unfold bodyPrmt
  exact leaves_alu h

/-! ### Floating point -/

theorem leaves_float2 {c : Cx} (h : Canonical c.s) {g : Fmt → Nat → Nat → Nat} : Leaves (c.float2 g) := by
  unfold Cx.float2
  exact leaves_alu h

theorem leaves_bodyFadd {c : Cx} (h : Canonical c.s) : Leaves (bodyFadd c) := by
  unfold bodyFadd
  exact leaves_float2 h

theorem leaves_bodyFsub {c : Cx} (h : Canonical c.s) : Leaves (bodyFsub c) := by
  unfold bodyFsub
  exact leaves_float2 h

theorem leaves_bodyFmul {c : Cx} (h : Canonical c.s) : Leaves (bodyFmul c) := by
  unfold bodyFmul
  exact leaves_float2 h

theorem leaves_bodyFfma {c : Cx} (h : Canonical c.s) : Leaves (bodyFfma c) := by
  unfold bodyFfma
  exact leaves_alu h

theorem leaves_bodyFmin {c : Cx} (h : Canonical c.s) : Leaves (bodyFmin c) := by
  unfold bodyFmin
  exact leaves_float2 h

theorem leaves_bodyFmax {c : Cx} (h : Canonical c.s) : Leaves (bodyFmax c) := by
  unfold bodyFmax
  exact leaves_float2 h

theorem leaves_signOnly {c : Cx} (h : Canonical c.s) {abs : Bool} : Leaves (c.signOnly abs) := by
  unfold Cx.signOnly
  exact leaves_alu h

theorem leaves_bodyFcmp {c : Cx} (h : Canonical c.s) : Leaves (bodyFcmp c) := by
  unfold bodyFcmp
  exact leaves_aluP h

theorem leaves_bodyFclass {c : Cx} (h : Canonical c.s) : Leaves (bodyFclass c) := by
  unfold bodyFclass
  exact leaves_aluP h

theorem leaves_bodyFrnd {c : Cx} (h : Canonical c.s) : Leaves (bodyFrnd c) := by
  unfold bodyFrnd
  exact leaves_alu h

theorem leaves_bodyFdiv {c : Cx} (h : Canonical c.s) : Leaves (bodyFdiv c) := by
  unfold bodyFdiv
  exact leaves_aluLater h

theorem leaves_bodyFsqrt {c : Cx} (h : Canonical c.s) : Leaves (bodyFsqrt c) := by
  unfold bodyFsqrt
  exact leaves_aluLater h

theorem leaves_bodyFscl {c : Cx} (h : Canonical c.s) : Leaves (bodyFscl c) := by
  unfold bodyFscl
  exact leaves_alu h

theorem leaves_bodyFdot2 {c : Cx} (h : Canonical c.s) : Leaves (bodyFdot2 c) := by
  unfold bodyFdot2
  exact leaves_alu h

theorem leaves_bodyCvt {c : Cx} (h : Canonical c.s) : Leaves (bodyCvt c) := by
  unfold bodyCvt
  simp only []
  split
  · exact leaves_illegal h
  · exact leaves_alu h

theorem leaves_bodyCvts {c : Cx} (h : Canonical c.s) : Leaves (bodyCvts c) := by
  unfold bodyCvts
  exact leaves_ite (leaves_alu h) (leaves_alu h)

theorem leaves_bodyQpk {c : Cx} (h : Canonical c.s) : Leaves (bodyQpk c) := by
  unfold bodyQpk
  exact leaves_alu h

theorem leaves_bodyQupk {c : Cx} (h : Canonical c.s) : Leaves (bodyQupk c) := by
  unfold bodyQupk
  simp only []
  refine leaves_alu ?_
  split
  · exact h
  · exact h

/-! ### Special functions -/

theorem leaves_special {c : Cx} (h : Canonical c.s) {g : Sfu} : Leaves (c.special g) := by
  unfold Cx.special
  exact leaves_aluLater h

/-! ### Fetching -/

theorem canonical_noteCode {s : State} (h : Canonical s) {x : Warp} {p : Place} : Canonical (s.noteCode x p) := by
  unfold State.noteCode
  split
  · exact h
  · split
    · exact h
    · split
      · exact canonical_frame h
      · exact h

theorem canonical_touchCode {s : State} (h : Canonical s) {x : Warp} : Canonical (s.touchCode x) := by
  unfold State.touchCode
  split
  · exact h
  · exact canonical_foldl (fun _ ht => canonical_noteCode (canonical_touch ht)) (canonical_ite h (canonical_frame h))

theorem canonical_trapAtPc {s : State} (h : Canonical s) {w : Nat} {c : Cause} : Canonical (s.trapAtPc w c) := by
  unfold State.trapAtPc
  split
  · exact h
  · exact canonical_stopped h

theorem lands_execUnassignedOpcode {v : Word} {s : State} (h : Canonical s) : Lands (execUnassignedOpcode v s) := by
  unfold execUnassignedOpcode
  split
  · exact fun t he => nomatch he
  · exact lands_next (canonical_trapAtPc h)

/-! ### Control -/

theorem canonical_jumpIfEmpty {c : Cx} (h : Canonical c.s) : Canonical (c.jumpIfEmpty).s := by
  unfold Cx.jumpIfEmpty
  split
  · exact h
  · exact h

theorem leaves_nestCheck {c : Cx} (h : Canonical c.s) {g : Cx → Step} (hg : Leaves (g c)) : Leaves (c.nestCheck g) :=
  leaves_ite h (leaves_ite h hg)

theorem leaves_bodyIf {c : Cx} (h : Canonical c.s) : Leaves (bodyIf c) := by
  unfold bodyIf
  exact leaves_nestCheck h (canonical_jumpIfEmpty h)

theorem leaves_needDepth {c : Cx} (h : Canonical c.s) {g : Cx → Step} (hg : Leaves (g c)) : Leaves (c.needDepth g) :=
  leaves_ite h hg

theorem leaves_bodyElse {c : Cx} (h : Canonical c.s) : Leaves (bodyElse c) := by
  unfold bodyElse
  exact leaves_needDepth h (canonical_jumpIfEmpty h)

theorem leaves_bodyEndif {c : Cx} (h : Canonical c.s) : Leaves (bodyEndif c) := by
  unfold bodyEndif
  exact leaves_needDepth h h

theorem leaves_bodyLoop {c : Cx} (h : Canonical c.s) : Leaves (bodyLoop c) := by
  unfold bodyLoop
  exact leaves_nestCheck h h

theorem leaves_leave {c : Cx} (h : Canonical c.s) {value : Nat} : Leaves (c.leave value) := by
  unfold Cx.leave
  exact leaves_ite (leaves_raiseAll h) h

theorem leaves_bodyEndloop {c : Cx} (h : Canonical c.s) : Leaves (bodyEndloop c) := by
  unfold bodyEndloop
  exact leaves_needDepth h (leaves_ite h h)

theorem leaves_bodyExit {c : Cx} (h : Canonical c.s) : Leaves (bodyExit c) := h

theorem leaves_bodyNop {c : Cx} (h : Canonical c.s) : Leaves (bodyNop c) := h

theorem leaves_bodyJmp {c : Cx} (h : Canonical c.s) : Leaves (bodyJmp c) := by
  unfold bodyJmp
  split
  · exact h
  · exact h

theorem leaves_bodyCall {c : Cx} (h : Canonical c.s) : Leaves (bodyCall c) := by
  unfold bodyCall
  simp only []
  split
  · exact h
  · split
    · exact h
    · exact h

theorem leaves_bodyRet {c : Cx} (h : Canonical c.s) : Leaves (bodyRet c) := by
  unfold bodyRet
  simp only []
  split
  · exact h
  · split
    · exact h
    · exact canonical_cx_consume h

theorem leaves_bodyYield {c : Cx} (h : Canonical c.s) : Leaves (bodyYield c) := by
  unfold bodyYield
  split
  · exact h
  · exact h

theorem leaves_bodySleep {c : Cx} (h : Canonical c.s) : Leaves (bodySleep c) := by
  unfold bodySleep
  simp only []
  split
  · exact h
  · split
    · exact h
    · exact canonical_cx_consume h

theorem leaves_bodyBkpt {c : Cx} (h : Canonical c.s) : Leaves (bodyBkpt c) := by
  unfold bodyBkpt
  exact leaves_ite h (leaves_ite h (leaves_raise h))

theorem leaves_barrier {c : Cx} (h : Canonical c.s) {e : RunEnd} : Leaves (c.barrier e) := by
  unfold Cx.barrier
  simp only []
  split
  · exact h
  · split
    · exact h
    · exact h

theorem leaves_bodyTrap {c : Cx} (h : Canonical c.s) : Leaves (bodyTrap c) := by
  unfold bodyTrap
  split
  · exact h
  · exact h

theorem leaves_bodyTret {c : Cx} (h : Canonical c.s) : Leaves (bodyTret c) := by
  unfold bodyTret
  exact leaves_ite h (leaves_ite h (leaves_illegal h))

/-! ### Accesses -/

theorem leaves_faults {c : Cx} (h : Canonical c.s) {fs : List (Nat × Cause)} {g : Cx → Step} (hg : Leaves (g c)) :
    Leaves (c.faults fs g) := by
  unfold Cx.faults
  split
  · exact hg
  · exact h

theorem canonical_touchAll {c : Cx} (h : Canonical c.s) {ps : List Place} {t : Touch} : Canonical (c.touchAll ps t).s :=
  canonical_foldl (fun _ ht => canonical_touch ht) h

theorem leaves_loadResult {c : Cx} (h : Canonical c.s) {n : Nat} {psn : Mask} {got : List (Nat × List (Byte × Bool))} :
    Leaves (c.loadResult n psn got) := by
  unfold Cx.loadResult
  exact leaves_later h

theorem canonical_readNoted {c : Cx} (h : Canonical c.s) {key : Place → Nat} {as : List Access} {t : Touch} :
    Canonical (c.readNoted key as t).s :=
  canonical_touchAll h

theorem leaves_loadBehindFence {c : Cx} (h : Canonical c.s) {key : Place → Nat} {as : List Access} {psn : Mask} :
    Leaves (c.loadBehindFence key as psn) := by
  unfold Cx.loadBehindFence
  exact leaves_later h

theorem leaves_loadFrom {c : Cx} (h : Canonical c.s) {key : Place → Nat} {as : List Access} {t : Touch} {psn : Mask} :
    Leaves (c.loadFrom key as t psn) := by
  unfold Cx.loadFrom
  exact leaves_ite (leaves_loadBehindFence (canonical_touchAll h)) (leaves_loadResult (canonical_readNoted h))

/-! ### Training -/

theorem leaves_scalar {c : Cx} (h : Canonical c.s) {as : List Arg} {n : Nat} {g : Cx → Step} (hg : Leaves (g c)) :
    Leaves (c.scalar as n g) := by
  refine leaves_ite h (leaves_ite hg ?_)
  simp only []
  split
  · exact canonical_cx_consume h
  · exact canonical_cx_consume h

theorem leaves_scalarQ {c : Cx} (h : Canonical c.s) {as : List Arg} {n : Nat} {g : Cx → Step} (hg : Leaves (g c)) :
    Leaves (c.scalarQ as n g) := by
  refine leaves_ite h (leaves_ite hg ?_)
  split
  · exact canonical_cx_consume h
  · exact canonical_cx_consume h

theorem canonical_putS {c : Cx} (h : Canonical c.s) {ws : List Word} : Canonical (c.putS ws).s := by
  unfold Cx.putS
  split
  · exact h
  · exact h

theorem leaves_bodyLsupd {c : Cx} (h : Canonical c.s) : Leaves (bodyLsupd c) := by
  unfold bodyLsupd
  simp only []
  refine leaves_scalar h ?_
  split
  · exact canonical_putS h
  · exact h

theorem leaves_bodyMupd {c : Cx} (h : Canonical c.s) : Leaves (bodyMupd c) := by
  unfold bodyMupd
  exact leaves_later (canonical_cx_consume h)

theorem leaves_bodyLsck {c : Cx} (h : Canonical c.s) : Leaves (bodyLsck c) := by
  unfold bodyLsck
  exact leaves_aluP h

theorem leaves_bodyGnrm {c : Cx} (h : Canonical c.s) : Leaves (bodyGnrm c) := by
  unfold bodyGnrm
  exact leaves_aluLater h

/-! ### Special registers -/

theorem leaves_bodySread {c : Cx} (h : Canonical c.s) : Leaves (bodySread c) := by
  unfold bodySread
  exact leaves_alu h

theorem leaves_bodySwrite {c : Cx} (h : Canonical c.s) : Leaves (bodySwrite c) := by
  unfold bodySwrite
  exact leaves_ite h (leaves_ite (canonical_cx_consume h) h)

theorem leaves_bodySysr {c : Cx} (h : Canonical c.s) : Leaves (bodySysr c) := by
  unfold bodySysr
  exact leaves_scalar h (leaves_ite (leaves_stop h) (canonical_putS h))

theorem leaves_bodySysw {c : Cx} (h : Canonical c.s) : Leaves (bodySysw c) := by
  unfold bodySysw
  exact leaves_scalar h h

theorem canonical_setSystem {s : State} (h : Canonical s) {x : Warp} {n : Nat} {v : Addr} :
    Canonical (s.setSystem x n v) := by
  unfold State.setSystem
  simp only []
  split
  · exact canonical_frame h
  · exact canonical_modGrid h
  · exact canonical_modGrid h
  · exact h

theorem leaves_bodyChkerr {c : Cx} (h : Canonical c.s) : Leaves (bodyChkerr c) := by
  unfold bodyChkerr
  simp only []
  refine leaves_scalar h ?_
  split
  · exact leaves_stop h
  · split
    · exact canonical_putS h
    · exact h

theorem leaves_bodyRdctr {c : Cx} (h : Canonical c.s) : Leaves (bodyRdctr c) := by
  unfold bodyRdctr
  exact leaves_ite (leaves_later h) (leaves_later h)

/-! ### Loads, stores and atomics -/

theorem canonical_releases {c : Cx} (h : Canonical c.s) : Canonical (c.releases).s := by
  unfold Cx.releases
  split
  · exact h
  · exact h

theorem canonical_acquiring {c : Cx} (h : Canonical c.s) : Canonical (c.acquiring).s := by
  unfold Cx.acquiring
  split
  · exact canonical_acquire h
  · exact h

theorem leaves_bodyLd {c : Cx} (h : Canonical c.s) : Leaves (bodyLd c) := by
  unfold bodyLd
  exact leaves_faults h (leaves_loadFrom (canonical_acquiring (canonical_cx_consume h)))

theorem leaves_bodySt {c : Cx} (h : Canonical c.s) : Leaves (bodySt c) := by
  unfold bodySt
  simp only []
  refine leaves_faults h ?_
  split
  · exact canonical_releases (canonical_foldl (fun _ ht => canonical_fillTlb ht) (canonical_cx_consume h))
  · exact canonical_foldl (fun _ ht1 => canonical_fillTlb ht1) (canonical_cx_consume h)

theorem leaves_bodyLdl {c : Cx} (h : Canonical c.s) : Leaves (bodyLdl c) := by
  unfold bodyLdl
  exact leaves_faults h (leaves_loadFrom (canonical_cx_consume h))

theorem leaves_bodyStl {c : Cx} (h : Canonical c.s) : Leaves (bodyStl c) := by
  unfold bodyStl
  exact leaves_faults h (canonical_foldl (fun _ ht => canonical_fillTlb ht) (canonical_cx_consume h))

theorem leaves_bodyLdk {c : Cx} (h : Canonical c.s) : Leaves (bodyLdk c) := by
  unfold bodyLdk
  refine leaves_faults h (leaves_ite (leaves_loadResult (canonical_cx_consume h)) ?_)
  exact leaves_faults h (leaves_loadFrom (canonical_cx_consume h))

theorem leaves_bodyPref {c : Cx} (h : Canonical c.s) : Leaves (bodyPref c) := by
  unfold bodyPref
  exact canonical_touchAll (canonical_cx_consume h)

theorem leaves_bodyCctl {c : Cx} (h : Canonical c.s) : Leaves (bodyCctl c) := by
  unfold bodyCctl
  simp only []
  split
  · exact canonical_cx_consume h
  · refine leaves_faults h ?_
    split
    · exact canonical_foldl (fun _ ht => canonical_fillTlb ht) (canonical_cx_consume h)
    · exact canonical_foldl (fun _ ht1 => canonical_fillTlb ht1) (canonical_cx_consume h)

theorem leaves_bodyPhase {c : Cx} (h : Canonical c.s) : Leaves (bodyPhase c) := by
  unfold bodyPhase
  exact leaves_scalar h h

theorem leaves_bodyFence {c : Cx} (h : Canonical c.s) : Leaves (bodyFence c) := by
  unfold bodyFence
  simp only []
  refine leaves_scalar h ?_
  split
  · exact canonical_acquire h
  · exact canonical_acquire h
  · exact canonical_releases h

theorem leaves_bodyCpart {c : Cx} (h : Canonical c.s) : Leaves (bodyCpart c) := by
  unfold bodyCpart
  exact leaves_scalar h (leaves_ite (leaves_raiseAll h) (leaves_ite (leaves_raiseAll h) h))

theorem leaves_bodyPld {c : Cx} (h : Canonical c.s) : Leaves (bodyPld c) := by
  unfold bodyPld
  refine leaves_faults h ?_
  refine leaves_ite h ?_
  simp only []
  refine leaves_ite (leaves_loadBehindFence ?_) (leaves_loadResult ?_)
  · exact canonical_frame (canonical_cx_consume h)
  · exact canonical_frame (canonical_cx_consume h)

theorem leaves_bodyPst {c : Cx} (h : Canonical c.s) : Leaves (bodyPst c) := by
  unfold bodyPst
  exact leaves_faults h (canonical_frame (canonical_cx_consume h))

theorem canonical_endAtomic {c d : Cx} (h : Canonical d.s) {op : AtomKind} {regs : Nat} {accs : List Access}
    {addr : Nat → Addr} : Canonical (c.endAtomic d op regs accs addr).s := by
  unfold Cx.endAtomic
  simp only []
  split
  · exact h
  · exact h

theorem leaves_atomic {c : Cx} (h : Canonical c.s) {op : AtomKind} {psn : Mask} {regs : Nat} {accs : List Access}
    {addr : Nat → Addr} : Leaves (c.atomic op psn regs accs addr) :=
  leaves_ite (canonical_endAtomic (canonical_cx_consume h))
    (leaves_map (leaves_later (canonical_cx_consume h)) fun hd => canonical_endAtomic hd)

theorem leaves_memAtomic {c : Cx} (h : Canonical c.s) {op : AtomKind} {regs : Nat} : Leaves (c.memAtomic op regs) := by
  unfold Cx.memAtomic
  exact leaves_faults h (leaves_atomic h)

theorem leaves_bodyPatom {c : Cx} (h : Canonical c.s) : Leaves (bodyPatom c) := by
  unfold bodyPatom
  refine leaves_faults h ?_
  simp only []
  refine leaves_atomic ?_
  exact canonical_frame h

/-! ### Across lanes and warps -/

theorem leaves_bodyPtrc {c : Cx} (h : Canonical c.s) : Leaves (bodyPtrc c) := by
  unfold bodyPtrc
  simp only []
  split
  · exact leaves_alu h
  · exact leaves_alu h
  · exact leaves_alu h
  · exact leaves_alu h
  · exact leaves_aluP h
  · exact leaves_alu h
  · exact leaves_aluP h

theorem leaves_moveLanes {c : Cx} (h : Canonical c.s) {n : Nat} {psn : Mask} {src : Nat → List (Word × Bool)} :
    Leaves (c.moveLanes n psn src) := by
  unfold Cx.moveLanes
  exact leaves_later (canonical_cx_consume h)

theorem leaves_bodyBset {c : Cx} (h : Canonical c.s) : Leaves (bodyBset c) := by
  unfold bodyBset
  refine leaves_ite h (leaves_ite (canonical_cx_consume h) ?_)
  exact leaves_faults h (leaves_ite (leaves_later (canonical_touchAll h)) (leaves_later (canonical_readNoted h)))

theorem leaves_bodyBperm {c : Cx} (h : Canonical c.s) : Leaves (bodyBperm c) := by
  unfold bodyBperm
  simp only []
  split
  · exact leaves_stop h
  · exact leaves_moveLanes h

theorem leaves_exchange {c : Cx} (h : Canonical c.s) {red : Bool} {n : Nat} : Leaves (c.exchange red n) :=
  leaves_map (leaves_later h) fun hc => hc

theorem leaves_object {c : Cx} (h : Canonical c.s) {as : List Arg} {g : Cx → Nat → Nat → Step}
    (hg : ∀ {c} col off, Canonical c.s → Leaves (g c col off)) : Leaves (c.object as g) := by
  refine leaves_scalar h ?_
  split
  · exact h
  · exact hg _ _ (canonical_frame h)
  · exact h

theorem leaves_bodyArrv {c : Cx} (h : Canonical c.s) : Leaves (bodyArrv c) := by
  unfold bodyArrv
  refine leaves_object h fun {c} col off hc => ?_
  simp only []
  split
  · exact canonical_releases hc
  · exact hc

theorem leaves_bodyWaitb {c : Cx} (h : Canonical c.s) : Leaves (bodyWaitb c) := by
  unfold bodyWaitb
  refine leaves_object h fun {c} col off hc => ?_
  exact hc

/-! ### Copies queued -/

theorem leaves_queueCopy {c : Cx} (h : Canonical c.s) {k : CopyCheck} {cmd : CopyCmd} : Leaves (c.queueCopy k cmd) := by
  unfold Cx.queueCopy
  split
  · exact leaves_stop h
  · exact h

theorem leaves_bodyCpy {c : Cx} (h : Canonical c.s) : Leaves (bodyCpy c) := by
  unfold bodyCpy
  exact leaves_scalarQ h (leaves_queueCopy h)

theorem leaves_bodyCpy2 {c : Cx} (h : Canonical c.s) : Leaves (bodyCpy2 c) := by
  unfold bodyCpy2
  exact leaves_scalarQ h (leaves_queueCopy h)

theorem leaves_bodyCpyz {c : Cx} (h : Canonical c.s) : Leaves (bodyCpyz c) := by
  unfold bodyCpyz
  exact leaves_scalarQ h (leaves_queueCopy h)

theorem leaves_bodyCpyx {c : Cx} (h : Canonical c.s) : Leaves (bodyCpyx c) := by
  unfold bodyCpyx
  exact leaves_scalarQ h (leaves_queueCopy h)

theorem leaves_bodyBzero {c : Cx} (h : Canonical c.s) : Leaves (bodyBzero c) := by
  unfold bodyBzero
  exact leaves_scalarQ h (leaves_queueCopy h)

theorem leaves_bankTwo {c : Cx} (h : Canonical c.s) {op : CopyOp} : Leaves (c.bankTwo op) := by
  unfold Cx.bankTwo
  exact leaves_scalarQ h (leaves_queueCopy h)

theorem leaves_bodyBfence {c : Cx} (h : Canonical c.s) : Leaves (bodyBfence c) := by
  unfold bodyBfence
  exact leaves_scalar h h

theorem leaves_bodyCwait {c : Cx} (h : Canonical c.s) : Leaves (bodyCwait c) := by
  unfold bodyCwait
  simp only []
  refine leaves_scalar h ?_
  split
  · exact h
  · exact h

/-! ### Launches queued -/

theorem leaves_recordCheck {c : Cx} (h : Canonical c.s) {a : Addr} {g : Cx → Step} (hg : Leaves (g c)) :
    Leaves (c.recordCheck a g) := leaves_ite h (leaves_ite h hg)

theorem leaves_bodyLaunch {c : Cx} (h : Canonical c.s) : Leaves (bodyLaunch c) := by
  unfold bodyLaunch
  simp only []
  refine leaves_scalarQ h ?_
  refine leaves_recordCheck h ?_
  split
  · exact canonical_releases h
  · exact h

theorem leaves_bodyTape {c : Cx} (h : Canonical c.s) : Leaves (bodyTape c) := by
  unfold bodyTape
  simp only []
  split
  · exact leaves_scalarQ h (leaves_recordCheck h h)
  · exact leaves_scalar h h
  · exact leaves_scalar h h

theorem leaves_bodyGwait {c : Cx} (h : Canonical c.s) : Leaves (bodyGwait c) := by
  unfold bodyGwait
  exact leaves_scalar h h

/-! ### Matrix commands queued -/

theorem leaves_wholeWarp {c : Cx} (h : Canonical c.s) {g : Cx → Step} (hg : Leaves (g c)) : Leaves (c.wholeWarp g) :=
  leaves_ite h hg

theorem leaves_descriptors {c : Cx} (h : Canonical c.s) {ds : List (Desc × List Nat × Layout)} {g : Cx → Step}
    (hg : Leaves (g c)) : Leaves (c.descriptors ds g) := by
  unfold Cx.descriptors
  split
  · exact h
  · split
    · exact h
    · exact hg

theorem leaves_queueMat {c : Cx} (h : Canonical c.s) {op : MatOp} {a b : List Word} : Leaves (c.queueMat op a b) := h

theorem leaves_multiply {c : Cx} (h : Canonical c.s) {op : MatOp} : Leaves (c.multiply op) := by
  unfold Cx.multiply
  exact leaves_wholeWarp h (leaves_scalar h (leaves_descriptors h (leaves_queueMat h)))

theorem leaves_tileMove {c : Cx} (h : Canonical c.s) {op : MatOp} : Leaves (c.tileMove op) := by
  unfold Cx.tileMove
  exact leaves_wholeWarp h (leaves_scalar h (leaves_descriptors h (leaves_queueMat h)))

theorem leaves_bodyMzero {c : Cx} (h : Canonical c.s) : Leaves (bodyMzero c) := by
  unfold bodyMzero
  exact leaves_wholeWarp h (leaves_scalar h (leaves_queueMat h))

theorem leaves_bodyMfence {c : Cx} (h : Canonical c.s) : Leaves (bodyMfence c) := by
  unfold bodyMfence
  refine leaves_wholeWarp h ?_
  refine leaves_scalar h ?_
  split
  · exact h
  · exact h

theorem leaves_bodyMwait {c : Cx} (h : Canonical c.s) : Leaves (bodyMwait c) := by
  unfold bodyMwait
  exact leaves_wholeWarp h (leaves_scalar h h)

theorem leaves_bodyMstat {c : Cx} (h : Canonical c.s) : Leaves (bodyMstat c) := by
  unfold bodyMstat
  exact leaves_wholeWarp h (leaves_ite h (leaves_later h))

end Sys2Proof.Machine
end

section
/-! Engines, stations, the scheduler and the end of runs keep the canonical form. -/

namespace Sys2Proof.Machine

open Sys2Proof

/-! ### What engines share -/

theorem canonical_engineTouch {s : State} (h : Canonical s) {col asid off : Nat} {ls : List Loc} {store : Bool} :
    Canonical (s.engineTouch col asid off ls store) := by
  unfold State.engineTouch
  simp only []
  refine canonical_foldl (fun _ ht => ?_) h
  split
  · split
    · exact canonical_shootL1 (canonical_touchLoc ht)
    · exact canonical_shootL1 (canonical_touchLoc ht)
  · exact canonical_touchLoc ht

theorem canonical_arrayRead {s : State} (h : Canonical s) {ls : List Loc} : Canonical (s.arrayRead ls) := by
  unfold State.arrayRead
  simp only []
  refine canonical_foldl (fun _ ht => ?_) h
  split
  · exact canonical_ite ht (canonical_readLines ht)
  · exact ht

theorem canonical_deviceRead {s : State} (h : Canonical s) {viewer col asid : Nat} {ptr : Addr} {n : Nat} :
    Canonical (s.deviceRead viewer col asid ptr n).2 := by
  unfold State.deviceRead
  simp only []
  split
  · exact canonical_walkBytes h
  · exact canonical_arrayRead (canonical_walkBytes h)

theorem canonical_engineWrite {s : State} (h : Canonical s) {col asid off : Nat} {ls : List Loc}
    {bs : List (Byte × Bool)} :
    Canonical (s.engineWrite col asid off ls bs) :=
  canonical_writeBytes (canonical_engineTouch (canonical_foldl (fun _ ht => canonical_flushLine ht) h))

theorem canonical_engineAcquire {s : State} (h : Canonical s) {col core : Nat} {o : Ord} :
    Canonical (s.engineAcquire col core o) :=
  canonical_ite (canonical_acquire h) h

theorem canonical_engineRelease {s : State} (h : Canonical s) {col : Nat} {o : Ord} : Canonical (s.engineRelease col o) :=
  canonical_ite (canonical_release h) h

theorem canonical_engineConsume {s : State} (h : Canonical s) {asid col block : Nat} :
    Canonical (s.engineConsume asid col block) :=
  canonical_modBlock (canonical_frame h)

/-! ### Rounds and stations -/

theorem canonical_modRound {s : State} (h : Canonical s) {n : Nat} {f : Round → Round} : Canonical (s.modRound n f) := by
  unfold State.modRound
  split
  · exact canonical_frame h
  · exact h

theorem canonical_refuse {s : State} (h : Canonical s) {m : MergeCmd} {code cont tile : Nat} {addr : Addr} :
    Canonical (s.refuse m code cont tile addr) :=
  canonical_modWarp h

theorem canonical_tellWaiters {s : State} (h : Canonical s) {r : Round} {fate : Nat} : Canonical (s.tellWaiters r fate) :=
  canonical_frame (canonical_foldl (fun _ ht => canonical_frame ht) h)

theorem canonical_openAt {s : State} (h : Canonical s) {m : MergeCmd} {st : Nat} : Canonical (s.openAt m st) := by
  unfold State.openAt
  simp only []
  split
  · exact canonical_frame (canonical_refuse h)
  · split
    · exact canonical_frame (canonical_refuse h)
    · split
      · exact canonical_frame (canonical_refuse h)
      · split
        · exact canonical_frame (canonical_refuse (canonical_walkBytes (canonical_engineAcquire h)))
        · refine canonical_ite (canonical_frame (canonical_refuse h)) (canonical_frame ?_)
          refine canonical_engineRelease (canonical_frame ?_)
          exact canonical_engineTouch (canonical_frame (canonical_walkBytes (canonical_engineAcquire h)))

theorem canonical_readTile {s : State} (h : Canonical s) {m : MergeCmd} {half : Bool} {p : State × List (Byte × Bool)}
    (he : s.readTile m half = .ok p) : Canonical p.1 := by
  unfold State.readTile at he
  split at he
  · cases he
  · cases he
    refine canonical_ite (canonical_engineConsume ?_) ?_
    all_goals exact canonical_engineTouch (canonical_frame (canonical_walkBytes (canonical_ite (canonical_engineAcquire h) h)))

theorem canonical_stageTile {s : State} (h : Canonical s) {m : MergeCmd} {st : Nat} : Canonical (s.stageTile m st) := by
  unfold State.stageTile
  simp only []
  split
  · exact canonical_frame (canonical_refuse h)
  · split
    · exact canonical_frame (canonical_refuse h)
    · refine canonical_ite (canonical_frame h) ?_
      split
      · exact canonical_frame (canonical_refuse (canonical_modRound h))
      · next he =>
        have ht := canonical_readTile h he
        exact canonical_ite (canonical_frame ht) (canonical_ite
          (canonical_frame (canonical_engineRelease (canonical_modRound ht))) (canonical_frame (canonical_modRound ht)))

theorem canonical_endGroupAt {s : State} (h : Canonical s) {m : MergeCmd} {st : Nat} : Canonical (s.endGroupAt m st) := by
  unfold State.endGroupAt
  simp only []
  split
  · exact canonical_frame (canonical_refuse h)
  · split
    · exact canonical_frame (canonical_refuse h)
    · exact canonical_frame (canonical_engineRelease (canonical_modRound h))

theorem canonical_writeLines {s : State} (h : Canonical s) {r : Round} {n : Nat} : Canonical (s.writeLines r n) := by
  unfold State.writeLines
  simp only []
  refine canonical_foldl (fun _ ht => ?_) h
  split
  · exact canonical_engineWrite (canonical_walkBytes ht)
  · exact canonical_walkBytes ht

theorem canonical_writeTotal {s : State} (h : Canonical s) {r : Round} : Canonical (s.writeTotal r) :=
  canonical_writeLines h

theorem canonical_completeRound {s : State} (h : Canonical s) {n : Nat} {r : Round} : Canonical (s.completeRound n r) :=
  canonical_tellWaiters (canonical_frame (canonical_release (canonical_writeTotal h)))

theorem canonical_dropRound {s : State} (h : Canonical s) {n : Nat} {r : Round} : Canonical (s.dropRound n r) :=
  canonical_tellWaiters (canonical_frame h)

theorem canonical_dropAt {s : State} (h : Canonical s) {m : MergeCmd} {st : Nat} : Canonical (s.dropAt m st) := by
  unfold State.dropAt
  split
  · exact canonical_frame (canonical_refuse h)
  · exact canonical_frame (canonical_dropRound h)

theorem offers_setRank {s : State} (h : Canonical s) {m : MergeCmd} : Offers (s.setRank m) := by
  unfold State.setRank
  simp only []
  split
  · exact offers_some (canonical_frame h)
  · split
    · exact offers_some (canonical_frame h)
    · split
      · exact offers_some (canonical_frame h)
      · exact offers_none

theorem canonical_notePeer {s : State} (h : Canonical s) {m : MergeCmd} : Canonical (s.notePeer m) :=
  canonical_ite h (canonical_modGang h)

theorem canonical_sendOn {s : State} (h : Canonical s) {m : MergeCmd} {pasid : Nat} {bs : List (Byte × Bool)} :
    Canonical (s.sendOn m pasid bs) :=
  canonical_frame (canonical_notePeer (canonical_frame h))

theorem canonical_faultPeer {s : State} (h : Canonical s) {m : MergeCmd} {pasid : Nat} :
    Canonical (s.faultPeer m pasid) :=
  canonical_frame (canonical_notePeer h)

theorem canonical_sendPeer {s : State} (h : Canonical s) {m : MergeCmd} : Canonical (s.sendPeer m) := by
  unfold State.sendPeer
  split
  · exact canonical_frame (canonical_refuse h)
  · refine canonical_ite (canonical_sendOn h) ?_
    simp only []
    split
    · exact canonical_frame (canonical_refuse (canonical_faultPeer h))
    · next he => exact canonical_ite (canonical_frame (canonical_readTile h he)) (canonical_sendOn (canonical_readTile h he))

theorem canonical_mergeAnswered {s : State} (h : Canonical s) {n code cont tile : Nat} {addr : Addr} :
    Canonical (s.mergeAnswered n code cont tile addr) := by
  unfold State.mergeAnswered
  simp only []
  split
  · exact h
  · refine canonical_ite h (canonical_ite (canonical_frame (canonical_engineRelease h)) ?_)
    exact canonical_frame (canonical_refuse h)

theorem canonical_sendNext {s : State} (h : Canonical s) {col : Nat} : Canonical (s.sendNext col) := by
  have hr : Canonical (match s.merges.find? fun kv => kv.2.col == col && kv.2.op == .rank with
      | some (_, m) => match s.setRank m with
        | some t => t.endMerge m
        | none => s
      | none => s) := by
    split
    · split
      · next he => exact canonical_frame (offers_setRank h _ he)
      · exact h
    · exact h
  unfold State.sendNext
  simp only []
  split
  · exact hr
  · exact canonical_frame hr

/-! ### Merge commands queued -/

theorem leaves_mergeCheck {c : Cx} (h : Canonical c.s) {l : List (Bool × Cause)} {g : Cx → Step} (hg : Leaves (g c)) :
    Leaves (c.mergeCheck l g) := by
  unfold Cx.mergeCheck
  split
  · exact h
  · exact hg

theorem leaves_bodyMrgOpen {c : Cx} (h : Canonical c.s) : Leaves (bodyMrgOpen c) := by
  unfold bodyMrgOpen
  exact leaves_scalar h (leaves_mergeCheck h h)

theorem leaves_bodyMrgPut {c : Cx} (h : Canonical c.s) : Leaves (bodyMrgPut c) := by
  unfold bodyMrgPut
  exact leaves_scalar h (leaves_mergeCheck h h)

theorem leaves_bodyMrgEnd {c : Cx} (h : Canonical c.s) : Leaves (bodyMrgEnd c) := by
  unfold bodyMrgEnd
  exact leaves_scalar h (leaves_mergeCheck h h)

theorem leaves_bodyMrgRank {c : Cx} (h : Canonical c.s) : Leaves (bodyMrgRank c) := by
  unfold bodyMrgRank
  exact leaves_scalar h (leaves_mergeCheck h h)

theorem leaves_bodyMrgDrop {c : Cx} (h : Canonical c.s) : Leaves (bodyMrgDrop c) := by
  unfold bodyMrgDrop
  exact leaves_scalar h (leaves_mergeCheck h h)

theorem leaves_bodyMrgWait {c : Cx} (h : Canonical c.s) : Leaves (bodyMrgWait c) := by
  unfold bodyMrgWait
  simp only []
  refine leaves_scalar h ?_
  refine leaves_mergeCheck h ?_
  split
  · exact h
  · exact h

theorem leaves_bodyMrgStat {c : Cx} (h : Canonical c.s) : Leaves (bodyMrgStat c) := by
  unfold bodyMrgStat
  refine leaves_ite (leaves_later h) (leaves_ite (leaves_later (canonical_cx_consume h)) ?_)
  refine leaves_mergeCheck h (leaves_ite (leaves_stop h) ?_)
  simp only []
  refine leaves_later ?_
  exact h

/-! ### Saving and restoring -/

theorem canonical_tagSpad {s : State} (h : Canonical s) {asid col lo hi : Nat} :
    Canonical (s.tagSpad asid col lo hi) := by
  unfold State.tagSpad
  simp only []
  split
  · exact h
  · exact canonical_frame h

theorem canonical_setWays {s : State} (h : Canonical s) {col v : Nat} : Canonical (s.setWays col v) := by
  refine canonical_frame ?_
  refine canonical_ite ?_ (canonical_clearSpad h)
  exact canonical_clearSpad (canonical_foldl (fun _ ht => canonical_dropSector ht) h)

theorem canonical_arriveAt {s : State} (h : Canonical s) {col off : Nat} {n : Word} : Canonical (s.arriveAt col off n) :=
  canonical_ite h (canonical_foldl (fun _ ht => canonical_putByte ht) h)

theorem canonical_settleSome {s : State} (h : Canonical s) {mine : Nat × Nat × Nat × Word → Bool} :
    Canonical (s.settleSome mine) :=
  canonical_foldl (fun _ ht => canonical_arriveAt ht) (canonical_frame h)

theorem canonical_settleGang {s : State} (h : Canonical s) {g : Nat} : Canonical (s.settleGang g) :=
  canonical_settleSome h

theorem canonical_nextPart {s : State} (h : Canonical s) {col : Nat} : Canonical (s.nextPart col) := by
  unfold State.nextPart
  split
  · exact h
  · exact canonical_ite h (canonical_frame (canonical_setWays (canonical_settleSome h)))

theorem canonical_release77 {s : State} (h : Canonical s) {w : Nat} : Canonical (s.release77 w) :=
  canonical_modWarp (canonical_leaveSlot (canonical_frame h))

theorem canonical_saveWarp {s : State} (h : Canonical s) {x : Warp} : Canonical (s.saveWarp x) :=
  canonical_foldl (fun _ ht => canonical_saveBytes ht) h

theorem canonical_loadV {s : State} (h : Canonical s) {x : Warp} {live : Nat} : Canonical (s.loadV x live).2 := by
  refine canonical_foldl_snd (fun _ ht => ?_) h
  split
  · exact canonical_recordRead ht
  · exact ht

theorem canonical_loadWarp {s : State} (h : Canonical s) {x : Warp} : Canonical (s.loadWarp x).2 := by
  unfold State.loadWarp
  simp only []
  split
  · exact canonical_recordRead h
  · split
    · exact canonical_saveTrap (canonical_loadV (canonical_recordRead h))
    · exact canonical_loadV (canonical_recordRead h)

theorem canonical_loadBlock {s : State} (h : Canonical s) {b : Nat} : Canonical (s.loadBlock b) := by
  unfold State.loadBlock
  split
  · exact h
  · refine canonical_ite h (canonical_modBlock (canonical_foldl_snd (fun _ ht => ?_) h))
    split
    · exact ht
    · exact canonical_savedAt (canonical_savedAt ht)

theorem canonical_saveBlock {s : State} (h : Canonical s) {b : Nat} : Canonical (s.saveBlock b) := by
  unfold State.saveBlock
  simp only []
  split
  · exact h
  · refine canonical_saveAt ?_
    exact canonical_foldl (fun _ ht => canonical_saveAt (canonical_ite ht (canonical_saveAt ht))) (canonical_frame h)

theorem canonical_savePool {s : State} (h : Canonical s) {asid col base len : Nat} :
    Canonical (s.savePool asid col base len) := by
  unfold State.savePool
  simp only []
  split
  · exact h
  · exact canonical_foldl (fun _ ht => canonical_markLine (canonical_putDram ht)) (canonical_frame h)

theorem canonical_loadPool {s : State} (h : Canonical s) {asid col dest old new len : Nat} :
    Canonical (s.loadPool asid col dest old new len) :=
  canonical_foldl (fun _ ht => canonical_markLine (canonical_putByte ht)) (canonical_savedAt h)

theorem canonical_receiveAll {s : State} (h : Canonical s) {w : Nat} : Canonical (s.receiveAll w) := by
  unfold State.receiveAll
  split
  · exact h
  · exact canonical_foldl (fun _ ht => canonical_arrival ht) h

theorem canonical_leaveCore {s : State} (h : Canonical s) {w : Nat} : Canonical (s.leaveCore w) := by
  unfold State.leaveCore
  simp only []
  split
  · exact canonical_saveWarp (canonical_leaveSlot (canonical_receiveAll (canonical_discardRun h)))
  · exact canonical_leaveSlot (canonical_receiveAll (canonical_discardRun h))

theorem canonical_swapOutWarp {s : State} (h : Canonical s) {w : Nat} : Canonical (s.swapOutWarp w) :=
  canonical_modWarp (canonical_leaveCore h)

theorem canonical_saveEngines {s : State} (h : Canonical s) {asid g : Nat} {columns : List Nat} :
    Canonical (s.saveEngines asid g columns) := by
  refine canonical_foldl (fun _ ht => canonical_ite ht (canonical_saveAt ht)) ?_
  exact canonical_foldl (fun _ ht => canonical_ite ht (canonical_modBlock (canonical_frame (canonical_saveAt ht)))) h

theorem canonical_preemptGang {s : State} (h : Canonical s) {g : Nat} : Canonical (s.preemptGang g) := by
  unfold State.preemptGang
  simp only []
  split
  · exact h
  · refine canonical_ite h (canonical_modGang (canonical_foldl (fun _ ht => canonical_releaseHost ht) ?_))
    refine canonical_unless (fun hs => canonical_foldl (fun _ ht => canonical_savePool ht) hs) ?_
    refine canonical_saveEngines (canonical_foldl (fun _ ht => canonical_saveBlock ht) ?_)
    refine canonical_foldl (fun _ ht => ?_) (canonical_settleGang h)
    exact canonical_modWarp (canonical_ite ht (canonical_leaveCore ht))

/-! ### Grids and their placing -/

theorem canonical_dispatch {s : State} (h : Canonical s) {asid : Nat} {r : Record} : Canonical (s.dispatch asid r).2 := by
  unfold State.dispatch
  split
  · exact h
  · split
    · exact h
    · simp only []
      split
      · next he => exact canonical_proj1 (canonical_deviceRead h) he
      · next he => exact canonical_proj1 (canonical_deviceRead h) he

theorem canonical_acceptGrid {s : State} (h : Canonical s) {g : Nat} {wait bad : Bool} :
    Canonical (s.acceptGrid g wait bad) := by
  unfold State.acceptGrid
  simp only []
  split
  · exact h
  · split
    · refine canonical_modGrid ?_
      split
      · exact h
      · exact canonical_dispatch h
    · refine canonical_endGrid ?_
      refine canonical_modGrid ?_
      split
      · exact h
      · exact canonical_dispatch h

theorem canonical_addGrid {s : State} (h : Canonical s) {g : Nat} {x : Grid} : Canonical
    (s.addGrid g x) := canonical_frame h

theorem canonical_forget {s : State} (h : Canonical s) : Canonical s.forget := canonical_frame h

theorem canonical_modCtx {s : State} (h : Canonical s) {asid : Nat} {f : Context → Context} : Canonical
    (s.modCtx asid f) :=
  canonical_frame h

theorem canonical_takeId {s : State} (h : Canonical s) : Canonical s.takeId.2 := canonical_frame h

theorem canonical_acceptRecord {s : State} (h : Canonical s) {q : Nat} : Canonical (s.acceptRecord q) := by
  unfold State.acceptRecord
  simp only []
  split
  · exact h
  · refine canonical_ite h (canonical_acceptGrid (canonical_forget (canonical_addGrid ?_)))
    refine canonical_modCtx (canonical_setQueue (canonical_takeId (canonical_takeId ?_)))
    split
    · next he => exact canonical_proj1 (canonical_deviceRead h) he
    · next he => exact canonical_proj1 (canonical_deviceRead h) he

theorem canonical_addChild {s : State} (h : Canonical s) {parent : Nat} {bs : List Byte} {held : Bool} :
    Canonical (s.addChild parent bs held).2.2 := by
  unfold State.addChild
  simp only []
  split
  · exact h
  · exact canonical_frame (canonical_ite (canonical_frame h) (canonical_frame h))

theorem canonical_drainTape {s : State} (h : Canonical s) {parent : Nat} : Canonical (s.drainTape parent).2.2 := by
  unfold State.drainTape
  split
  · exact h
  · refine canonical_frame (canonical_foldl_fst (fun _ ht => ?_) (canonical_frame h))
    exact canonical_acceptGrid (canonical_frame ht)

theorem canonical_pushTape {s : State} (h : Canonical s) {asid : Nat} {bs : List Byte} {ind : Bool} :
    Canonical (s.pushTape asid bs ind).2 := by
  unfold State.pushTape
  simp only []
  split
  · exact h
  · exact canonical_frame h

theorem canonical_enterPending {s : State} (h : Canonical s) : Canonical (s.enterPending) := by
  unfold State.enterPending
  simp only []
  split
  · exact canonical_modGrid h
  · exact h

theorem canonical_placeBlock {s : State} (h : Canonical s) {asid : Nat} {r : Record} {gang g col core : Nat} :
    Canonical (s.placeBlock asid r gang g col core) :=
  canonical_foldl (fun _ ht => canonical_modWarp (canonical_frame ht)) (canonical_frame h)

theorem canonical_scrubPrivate {s : State} (h : Canonical s) {g : Nat} {all : Bool} :
    Canonical (s.scrubPrivate g all) := by
  unfold State.scrubPrivate
  simp only []
  refine canonical_foldl (fun _ ht => ?_) h
  refine canonical_foldl (fun _ ht1 => ?_) (canonical_ite ht (canonical_walkBytes ht))
  split
  · exact canonical_ite (canonical_writeBytes ht1) ht1
  · exact ht1

theorem canonical_placeAt {s : State} (h : Canonical s) {gid : Nat} {k : Gang} {x : Grid} {site : Site} :
    Canonical (s.placeAt gid k x site) := by
  refine canonical_foldl (fun _ ht => ?_) ?_
  · exact canonical_foldl (fun _ hu => canonical_acquireHost hu) ht
  · refine canonical_scrubPrivate (canonical_foldl (fun _ ht => canonical_placeBlock ht) (canonical_modGrid ?_))
    refine canonical_frame (canonical_foldl (fun _ ht => canonical_tagSpad (canonical_clearSpad ht)) ?_)
    exact canonical_foldl (fun _ ht => canonical_ite ht (canonical_setWays ht)) h

theorem canonical_preemptAll {s : State} (h : Canonical s) {l : List Nat} : Canonical (s.preemptAll l) :=
  canonical_foldl (fun _ ht => canonical_preemptGang ht) h

theorem canonical_passOver {s : State} (h : Canonical s) {g : Nat} {x : Grid} {passed : List Nat} :
    Canonical (s.passOver g x passed) :=
  canonical_foldl (fun _ ht => canonical_modGrid ht) (canonical_modGrid h)

theorem canonical_placeNext {s : State} (h : Canonical s) {g : Nat} {x : Grid} {k : Site} :
    Canonical (s.placeNext g x k) :=
  canonical_placeAt (canonical_modGrid (canonical_frame h))

theorem canonical_schedule {s : State} (h : Canonical s) : Canonical (s.schedule) := by
  unfold State.schedule
  simp only []
  split
  · exact canonical_endGrid h
  · split
    · exact canonical_endGrid h
    · split
      · exact canonical_placeNext (canonical_passOver (canonical_frame h))
      · split
        · exact canonical_placeNext (canonical_passOver (canonical_preemptAll (canonical_frame h)))
        · exact canonical_preemptAll (canonical_frame h)
      · exact canonical_frame h
      · exact canonical_frame h
      · exact canonical_frame h

theorem canonical_performHeld {s : State} (h : Canonical s) {g : Nat} : Canonical (s.performHeld g) := by
  unfold State.performHeld
  simp only []
  split
  · exact h
  · refine canonical_modGang ?_
    refine canonical_foldl (fun _ ht => ?_) h
    split
    · exact canonical_acceptGrid (canonical_modGrid (canonical_frame ht))
    · exact canonical_pushTape ht
    · exact canonical_drainTape ht
    · exact canonical_frame ht

theorem canonical_retireGang {s : State} (h : Canonical s) {g : Nat} : Canonical (s.retireGang g) := by
  unfold State.retireGang
  simp only []
  split
  · exact h
  · refine canonical_ite h (canonical_ite (canonical_killGang h) (canonical_retireGrid (canonical_modGrid ?_)))
    refine canonical_modGang (canonical_performHeld ?_)
    exact canonical_foldl (fun _ ht => canonical_dropBlock ht) (canonical_frame (canonical_tellPeers h))

theorem canonical_retireBlock {s : State} (h : Canonical s) {b : Nat} : Canonical (s.retireBlock b) := by
  unfold State.retireBlock
  simp only []
  split
  · exact h
  · refine canonical_ite h (canonical_retireGang ?_)
    exact canonical_modBlock (canonical_foldl (fun _ ht => canonical_dropWarp ht) h)

/-! ### Waits -/

theorem canonical_unclaim {s : State} (h : Canonical s) {x : Warp} {w : Nat} : Canonical (s.unclaim x w) :=
  canonical_ite (canonical_frame h) h

theorem canonical_boundary {s : State} (h : Canonical s) {w : Nat} : Canonical (s.boundary w) := by
  unfold State.boundary
  simp only []
  split
  · exact h
  · split
    · exact h
    · split
      · exact canonical_takeTrap (canonical_frame h)
      · exact canonical_ite h (canonical_frame (canonical_unclaim (canonical_frame h)))

theorem canonical_barCheck {s : State} (h : Canonical s) {b n : Nat} : Canonical (s.barCheck b n) := by
  unfold State.barCheck
  simp only []
  split
  · exact h
  · refine canonical_ite h ?_
    refine canonical_foldl (fun _ ht => ?_) (canonical_modBlock h)
    exact canonical_boundary (canonical_ite (canonical_modWarp ht) ht)

theorem canonical_gbarCheck {s : State} (h : Canonical s) {g n : Nat} : Canonical (s.gbarCheck g n) := by
  unfold State.gbarCheck
  simp only []
  split
  · exact h
  · refine canonical_ite h ?_
    refine canonical_foldl (fun _ ht => ?_) (canonical_modGang h)
    exact canonical_boundary (canonical_ite (canonical_modWarp (canonical_acquire ht)) ht)

theorem canonical_barriersOf {s : State} (h : Canonical s) {b : Nat} : Canonical (s.barriersOf b) := by
  unfold State.barriersOf
  simp only []
  split
  · exact h
  · exact canonical_foldl (fun _ ht => canonical_gbarCheck ht) (canonical_foldl (fun _ ht => canonical_barCheck ht) h)

theorem canonical_retireWarp {s : State} (h : Canonical s) {w : Nat} : Canonical (s.retireWarp w) := by
  unfold State.retireWarp
  simp only []
  split
  · exact h
  · refine canonical_barriersOf ?_
    refine canonical_modWarp ?_
    split
    · exact canonical_imprint (canonical_release77 (canonical_dropPrivate (canonical_receiveAll h)))
    · exact canonical_release77 (canonical_dropPrivate (canonical_receiveAll h))

theorem canonical_wake {s : State} (h : Canonical s) {w d : Nat} {v : Word} : Canonical (s.wake w d v) :=
  canonical_modWarp h

theorem canonical_wakeTrap {s : State} (h : Canonical s) {w : Nat} {x : Warp} {code info : Nat} {addr : Addr}
    {again : Bool} :
    Canonical (s.wakeTrap w x code info addr again) :=
  canonical_takeTrap (canonical_modWarp h)

theorem canonical_endCwait {s : State} (hs : Canonical s) {w : Nat} {x : Warp} {d : Nat} {h : Word} :
    Canonical (s.endCwait w x d h) := by
  unfold State.endCwait
  simp only []
  split
  · exact canonical_wake hs
  · split
    · exact canonical_wakeTrap (canonical_acquire (canonical_frame hs))
    · refine canonical_ite ?_ ?_
      · exact canonical_wake (canonical_acquire (canonical_frame hs))
      · exact canonical_wakeTrap (canonical_frame hs)

theorem canonical_endMwait {s : State} (h : Canonical s) {w : Nat} {x : Warp} {n : Word} :
    Canonical (s.endMwait w x n) := by
  unfold State.endMwait
  simp only []
  split
  · exact canonical_wakeTrap (canonical_modWarp h)
  · exact canonical_modWarp h

theorem canonical_endMrgWait {s : State} (h : Canonical s) {w : Nat} {x : Warp} {d : Nat} {ref : Addr} {fate : Nat} :
    Canonical (s.endMrgWait w x d ref fate) := by
  unfold State.endMrgWait
  simp only []
  split
  · exact canonical_wakeTrap (canonical_modWarp h)
  · split
    · exact canonical_wakeTrap h
    · split
      · exact h
      · exact canonical_frame (canonical_wake (canonical_ite (canonical_acquire h) h))

theorem canonical_endWait {s : State} (h : Canonical s) {w : Nat} : Canonical (s.endWait w) := by
  unfold State.endWait
  simp only []
  split
  · exact h
  · split
    · exact h
    · refine canonical_boundary ?_
      split
      · exact h
      · exact h
      · exact h
      · refine canonical_modWarp ?_
        split
        · exact canonical_acquire h
        · exact h
      · exact canonical_modWarp h
      · exact canonical_modWarp h
      · exact canonical_endCwait h
      · exact canonical_endMwait h
      · exact canonical_endMrgWait h
      · exact canonical_ite (canonical_wake h) (canonical_wake (canonical_acquire h))

theorem canonical_wakeAt {s : State} (h : Canonical s) {col off : Nat} : Canonical (s.wakeAt col off) := by
  unfold State.wakeAt
  refine canonical_foldl (fun _ ht => ?_) h
  split
  · split
    · exact canonical_ite (canonical_endWait ht) ht
    · exact ht
  · exact ht

theorem canonical_performArrival {s : State} (h : Canonical s) {n : Nat} : Canonical (s.performArrival n) := by
  unfold State.performArrival
  split
  · exact h
  · exact canonical_wakeAt (canonical_arriveAt (canonical_frame h))

theorem canonical_settleArrivals {s : State} (h : Canonical s) : Canonical (s.settleArrivals) :=
  canonical_foldl (fun _ ht => canonical_performArrival ht) h

theorem canonical_exchangeTrap {s : State} (h : Canonical s) {w code info : Nat} :
    Canonical (s.exchangeTrap w code info) := by
  unfold State.exchangeTrap
  simp only []
  split
  · exact h
  · split
    · exact h
    · exact canonical_boundary (canonical_takeTrap (canonical_modWarp (canonical_discardRun h)))

theorem canonical_deliver {s : State} (h : Canonical s) {w : Nat} {a : Arrival} {vals : List Lanes} :
    Canonical (s.deliver w a vals) := by
  unfold State.deliver
  simp only []
  refine canonical_boundary ?_
  refine canonical_modWarp ?_
  split
  · exact canonical_consume h
  · exact h

theorem canonical_completeExchange {s : State} (h : Canonical s) {w : Nat} : Canonical (s.completeExchange w) := by
  unfold State.completeExchange
  simp only []
  split
  · exact h
  · split
    · exact h
    · split
      · exact h
      · split
        · exact canonical_foldl (fun _ ht => canonical_exchangeTrap ht) h
        · split
          · exact canonical_foldl (fun _ ht1 => canonical_exchangeTrap ht1) h
          · refine canonical_foldl (fun _ ht3 => ?_) (canonical_foldl (fun _ ht2 => canonical_deliver ht2) h)
            split
            · exact canonical_ite (canonical_modWarp ht3) ht3
            · exact ht3

/-! ### Commit -/

theorem canonical_readRecord {s : State} (h : Canonical s) {x : Warp} {ptr : Addr} :
    Canonical (s.readRecord x ptr).2 := by
  unfold State.readRecord
  simp only []
  split
  · exact canonical_walkPtr h
  · exact canonical_loadTouch h

theorem canonical_passCmds {s : State} (h : Canonical s) {x : Warp} {r : Run} {due : List BufStore} {n m : Nat} :
    Canonical (s.passCmds x r due n m).1 := by
  refine canonical_foldl_fst (fun _ ht => ?_) h
  simp only []
  split
  · exact canonical_readRecord ht
  · exact canonical_readRecord ht
  · split
    · refine canonical_wakeAt (canonical_arriveAt ?_)
      split
      · exact canonical_release ht
      · exact ht
    · exact ht
  · exact ht

theorem canonical_releaseStores {x : Warp} {r : Run} {due bs : List BufStore} {m n : Nat} {s : State} (h : Canonical s) :
    Canonical (releaseStores x r due m bs n s).1 := by
  induction bs generalizing n s with
  | nil => exact canonical_passCmds h
  | cons b more ih => exact ih (canonical_releaseStore (canonical_passCmds h))

theorem canonical_releaseHeld {s : State} (h : Canonical s) {col : Nat} {bs : List BufStore} :
    Canonical (s.releaseHeld col bs) :=
  canonical_release h

theorem canonical_putCommit {s : State} (h : Canonical s) {w : Nat} {r : Run} {i d : Nat} {vs : List Word} {psn : Bool} :
    Canonical (s.putCommit w r i d vs psn) :=
  canonical_modWarp h

theorem canonical_acceptCopy {s : State} (h : Canonical s) {w : Nat} {r : Run} {i : Nat} {c : CopyCmd} :
    Canonical (s.acceptCopy w r i c) :=
  canonical_ite (canonical_frame h) (canonical_putCommit (canonical_frame (canonical_frame h)))

theorem canonical_launchAt {s : State} (h : Canonical s) {w : Nat} {x : Warp} {r : Run} {i d : Nat} {bs : List Byte}
    {rel : Option Nat} : Canonical (s.launchAt w x r i d bs rel) := by
  have hr : Canonical (match rel with
      | some k => s.release x.col k
      | none => s) := by
    split
    · exact canonical_release h
    · exact h
  unfold State.launchAt
  simp only []
  split
  · exact hr
  · exact canonical_ite (canonical_modGang (canonical_putCommit (canonical_addChild hr)))
      (canonical_acceptGrid (canonical_putCommit (canonical_addChild hr)))

theorem canonical_tapeAt {s : State} (h : Canonical s) {w : Nat} {x : Warp} {r : Run} {i kind : Nat} {ind : Bool}
    {d : Nat} {bs : List Byte} :
    Canonical (s.tapeAt w x r i kind ind d bs) := by
  unfold State.tapeAt
  simp only []
  split
  · exact h
  · split
    · exact canonical_ite (canonical_putCommit (canonical_modGang h)) (canonical_putCommit (canonical_pushTape h))
    · exact canonical_ite (canonical_putCommit (canonical_modGang h)) (canonical_putCommit (canonical_drainTape h))
    · exact canonical_ite (canonical_putCommit (canonical_modGang h)) (canonical_putCommit (canonical_frame h))

theorem canonical_cctlAt {s : State} (h : Canonical s) {x : Warp} {sub : Nat} {line : Nat × Nat × Loc} :
    Canonical (s.cctlAt x sub line) := by
  unfold State.cctlAt
  simp only []
  split
  · exact canonical_frame (canonical_foldl (fun _ ht => canonical_writeBack ht) h)
  · exact canonical_frame h
  · exact canonical_frame (canonical_foldl (fun _ ht1 => canonical_writeBack ht1) h)
  · exact canonical_cleanSector h
  · exact canonical_ite (canonical_forgetHost (canonical_dropL1Sector (canonical_onSector h))) h
  · exact canonical_flushSector h
  · exact h
  · exact canonical_onSector (canonical_touchLoc h)

theorem canonical_commitCmd {s : State} (h : Canonical s) {w : Nat} {r : Run} {recs : List (Nat × List Byte)} {i : Nat}
    {q : QCmd} : Canonical (s.commitCmd w r recs i q) := by
  unfold State.commitCmd
  split
  · exact h
  · cases q with
    | mat m => exact canonical_frame h
    | mfence d => exact canonical_putCommit (canonical_modWarp h)
    | copy c => exact canonical_acceptCopy h
    | merge m =>
      simp only []
      split
      · split
        · next he => exact offers_setRank (canonical_frame h) _ he
        · exact canonical_frame h
      · exact canonical_frame h
    | phase next v => exact canonical_frame h
    | cpart v => exact canonical_frame h
    | arrv col off n rel =>
      refine canonical_frame (canonical_frame ?_)
      split
      · exact canonical_release h
      · exact h
    | launch d ptr rel => exact canonical_launchAt h
    | tape kind ind d ptr => exact canonical_tapeAt h
    | cctl sub locs => exact canonical_foldl (fun _ ht => canonical_cctlAt ht) h
    | fence kind scope => exact canonical_ite h (canonical_release h)
    | chkerr d mask => exact canonical_putCommit (canonical_frame h)
    | sreg n v => exact canonical_frame h
    | lsupd d flag => exact canonical_putCommit (canonical_frame h)
    | sysreg n v => exact canonical_setSystem h
    | mupd k negv => exact canonical_frame h
    | trn => exact canonical_frame h
    | poisoned d n => exact canonical_putCommit h

theorem canonical_commitCmds {s : State} (h : Canonical s) {w : Nat} {r : Run} {recs : List (Nat × List Byte)}
    {which : Nat → QCmd → Bool} :
    Canonical (s.commitCmds w r recs which) := by
  unfold State.commitCmds
  refine canonical_foldl (fun _ ht => ?_) h
  split
  · exact canonical_ite (canonical_commitCmd ht) ht
  · exact ht

theorem canonical_atomOne {s : State} (h : Canonical s) {x : Warp} {f : Fields} {ftz : Bool} {op : AtomKind}
    {a : AtomAcc} :
    Canonical (s.atomOne x f ftz op a).1 :=
  canonical_ite h (canonical_cleanStored (canonical_writeBytes (canonical_frame h)))

theorem canonical_atomLine {s : State} (h : Canonical s) {x : Warp} {a : AtomAcc} : Canonical (s.atomLine x a) := by
  unfold State.atomLine
  simp only []
  split
  · exact h
  · refine canonical_shootL1 ?_
    refine canonical_touchLoc ?_
    split
    · exact canonical_takeHost (canonical_flushLine h)
    · exact canonical_flushLine h

theorem canonical_performAtomic {s : State} (h : Canonical s) {w : Nat} {x : Warp} {f : Fields} {op : AtomKind}
    {accs : List AtomAcc} {pend : Nat} : Canonical (s.performAtomic w x f op accs pend) := by
  have hl {o} : Canonical ((atomLines accs).foldl (fun s a => s.atomLine x a) (s.engineRelease x.col o)) :=
    canonical_foldl (fun _ ht => canonical_atomLine ht) (canonical_engineRelease h)
  unfold State.performAtomic
  refine canonical_modWarp ?_
  refine canonical_ite (canonical_acquire (canonical_consume ?_)) (canonical_consume ?_)
  · refine canonical_foldl_fst (fun _ ht => ?_) hl
    exact canonical_atomOne ht
  · refine canonical_foldl_fst (fun _ ht => ?_) hl
    exact canonical_atomOne ht

theorem canonical_restartMono {s : State} (h : Canonical s) {w : Nat} : Canonical (s.restartMono w) := by
  unfold State.restartMono
  split
  · exact h
  · exact canonical_frame h

theorem canonical_enterWait {s : State} (h : Canonical s) {w : Nat} {r : Run} {wait : Wait} :
    Canonical (s.enterWait w r wait) :=
  canonical_modWarp h

theorem canonical_endRun {s : State} (h : Canonical s) {w : Nat} {x : Warp} {r : Run} {e : RunEnd} :
    Canonical (s.endRun w x r e) := by
  unfold State.endRun
  split
  · exact h
  · exact canonical_modWarp h
  · split
    · exact canonical_enterWait h
    · exact h
  · exact canonical_barCheck (canonical_modBlock (canonical_enterWait h))
  · simp only []
    split
    · exact canonical_gbarCheck (canonical_modGang (canonical_enterWait (canonical_release h)))
    · exact canonical_enterWait (canonical_release h)
  · exact canonical_enterWait (canonical_settleArrivals h)
  · exact canonical_enterWait h
  · exact canonical_enterWait h
  · refine canonical_enterWait ?_
    split
    · exact canonical_frame h
    · exact h
  · exact canonical_enterWait h
  · exact canonical_takeTrap h
  · split
    · next he => exact (canonical_returnTrap h).1 _ he
    · next he => exact canonical_takeTrap ((canonical_returnTrap h).2 _ he)
  · split
    · exact canonical_performAtomic h
    · exact canonical_modWarp h
    · exact h

theorem canonical_closeRun {s : State} (h : Canonical s) {w : Nat} {r : Run} : Canonical (s.closeRun w r) := by
  unfold State.closeRun
  simp only []
  split
  · exact h
  · refine canonical_boundary ?_
    split
    · exact canonical_opt (fun ht => canonical_retireWarp ht) (canonical_endRun h)
    · exact canonical_endRun h

theorem canonical_commitPart {s : State} (h : Canonical s) {w : Nat} {x : Warp} {r : Run} {n : Nat} :
    Canonical (s.commitPart w x r n) := by
  refine canonical_opt (fun hu => canonical_acquireHost hu) ?_
  refine canonical_opt (fun ht => canonical_settleArrivals ht) ?_
  exact canonical_commitCmds (canonical_releaseHeld (canonical_releaseStores h))

theorem canonical_commitFrom {s : State} (h : Canonical s) {w : Nat} {r : Run} {fences : List (Nat × Nat)} {n : Nat} :
    Canonical (s.commitFrom w r fences n) := by
  unfold State.commitFrom
  simp only []
  split
  · exact h
  · split
    · exact canonical_opt (fun ht => canonical_closeRun ht) (canonical_modWarp (canonical_commitPart h))
    · exact canonical_ite (canonical_closeRun (canonical_commitPart h)) (canonical_boundary (canonical_commitPart h))

theorem canonical_continueOnce {s : State} (h : Canonical s) {w : Nat} : Canonical (s.continueOnce w) := by
  unfold State.continueOnce
  simp only []
  split
  · exact h
  · split
    · exact h
    · refine canonical_ite h (canonical_frame (canonical_commitFrom ?_))
      exact canonical_modWarp (canonical_opt (fun ht => canonical_acquireHost ht) (canonical_settleArrivals h))

theorem canonical_continueRest {s : State} (h : Canonical s) {w : Nat} : Canonical (s.continueRest w) :=
  canonical_foldl (fun _ ht => canonical_continueOnce ht) h

theorem canonical_commitRun {s : State} (h : Canonical s) {w : Nat} {x : Warp} {r : Run} {counted : AMap (Nat × Word)} :
    Canonical (s.commitRun w x r counted) := by
  refine canonical_frame (canonical_commitFrom (canonical_modBlock ?_))
  exact canonical_opt (fun ht => canonical_restartMono ht) (canonical_frame (canonical_imprint h))

theorem canonical_decideCommit {s : State} (h : Canonical s) {w : Nat} : Canonical (s.decideCommit w) := by
  unfold State.decideCommit
  simp only []
  split
  · exact h
  · split
    · exact h
    · split
      · split
        · exact canonical_killGang (canonical_discardRun (canonical_frame h))
        · exact canonical_discardRun (canonical_frame h)
      · split
        · exact canonical_modWarp (canonical_discardRun h)
        · split
          · exact canonical_discardRun h
          · split
            · exact canonical_takeTrap (canonical_discardRun h)
            · exact canonical_commitRun h

theorem canonical_tryCommit {s : State} (h : Canonical s) {w : Nat} : Canonical (s.tryCommit w) := by
  unfold State.tryCommit
  split
  · exact h
  · split
    · exact h
    · exact canonical_ite h (canonical_decideCommit (canonical_settleArrivals h))

theorem canonical_changePart {s : State} (h : Canonical s) {col : Nat} : Canonical (s.changePart col) := by
  unfold State.changePart
  split
  · exact h
  · exact canonical_continueRest (canonical_nextPart h)

end Sys2Proof.Machine
end

section
/-! The events of engines, warps and gangs keep the canonical form. -/

namespace Sys2Proof.Machine

open Sys2Proof

/-! ### Copy and bank engines -/

theorem canonical_zeroSectors {s : State} (h : Canonical s) {c : CopyCmd} {idx : List Nat} {dst : List Loc} :
    Canonical (s.zeroSectors c idx dst) :=
  canonical_foldl (fun _ ht => canonical_ite (canonical_touchLoc ht) ht) h

theorem canonical_walkSide {s : State} (h : Canonical s) {c : CopyCmd} {write : Bool} {idx : List Nat} :
    Canonical (s.walkSide c write idx) :=
  canonical_ite h (canonical_foldl (fun _ ht => canonical_walkPtr ht) h)

theorem canonical_copyChunk {s : State} (h : Canonical s) {c : CopyCmd} {k : Nat} {t : State}
    (he : s.copyChunk c k = .ok t) : Canonical t := by
  unfold State.copyChunk at he
  simp only [] at he
  split at he
  · cases he
  · cases he
  · cases he
    have hw {bs src dst idx} : Canonical
        (if c.op = .cpyz then ((s.engineTouch c.col c.asid (c.src.toNat % 2 ^ 48) src false).engineWrite c.col c.asid
            (c.dst.toNat % 2 ^ 48) dst bs).zeroSectors c idx dst
          else (s.engineTouch c.col c.asid (c.src.toNat % 2 ^ 48) src false).engineWrite c.col c.asid
            (c.dst.toNat % 2 ^ 48) dst bs) :=
      canonical_ite (canonical_zeroSectors (canonical_engineWrite (canonical_engineTouch h)))
        (canonical_engineWrite (canonical_engineTouch h))
    exact canonical_ite (canonical_frame hw) (canonical_frame hw)

theorem canonical_endCopy {s : State} (h : Canonical s) {k : Nat} {c : CopyCmd} : Canonical (s.endCopy k c) :=
  canonical_ite (canonical_frame h) (canonical_frame h)

theorem canonical_finishCopy {s : State} (h : Canonical s) {k : Nat} {c : CopyCmd} : Canonical (s.finishCopy k c) := by
  unfold State.finishCopy
  split
  · exact canonical_endCopy (canonical_engineRelease h)
  · split
    · exact canonical_endCopy h
    · exact canonical_wakeAt (canonical_arriveAt (canonical_endCopy (canonical_engineRelease h)))

theorem canonical_performCopy {s : State} (h : Canonical s) {k : Nat} {c : CopyCmd} : Canonical (s.performCopy k c) := by
  have ha : Canonical (if c.stage = 0 then s.engineAcquire c.col 0 c.ord else s) :=
    canonical_opt (fun hs => canonical_engineAcquire hs) h
  have hw {idx} := canonical_walkSide (canonical_walkSide ha (c := c) (write := false) (idx := idx)) (c := c)
    (write := true) (idx := idx)
  unfold State.performCopy
  refine canonical_ite (canonical_finishCopy ha) ?_
  simp only []
  split
  · exact canonical_endCopy hw
  · next he =>
    have hc := canonical_copyChunk hw he
    exact canonical_ite (canonical_frame hc) (canonical_finishCopy hc)

theorem canonical_runCopy {s : State} (h : Canonical s) {col : Nat} : Canonical (s.runCopy col) := by
  unfold State.runCopy
  split
  · exact canonical_ite h (canonical_performCopy h)
  · exact h

theorem canonical_bankReads {s : State} (h : Canonical s) {c : CopyCmd} {ls : List Loc} :
    Canonical (s.bankReads c ls) := by
  unfold State.bankReads
  split
  · exact canonical_correctSector (canonical_cleanSector h)
  · exact h

theorem canonical_bankWrote {s : State} (h : Canonical s) {c : CopyCmd} {ls : List Loc} :
    Canonical (s.bankWrote c ls) := by
  unfold State.bankWrote
  simp only []
  split
  · refine canonical_foldl (fun _ ht => canonical_ite ht (canonical_frame ht)) ?_
    exact canonical_frame (canonical_foldl (fun _ ht => canonical_settleBelow ht) h)
  · exact h

theorem canonical_bankMeter {s : State} (h : Canonical s) {c : CopyCmd} : Canonical (s.bankMeter c) :=
  canonical_unless (fun ht => canonical_frame ht) (canonical_ite h (canonical_frame h))

theorem canonical_walkUnit {s : State} (h : Canonical s) {c : CopyCmd} {u : Nat} : Canonical (s.walkUnit c u) := by
  have hs {ptr : Addr} : Canonical (if 2 ^ 48 ≤ ptr.toNat % 2 ^ 48 + 1024 * u then s
      else s.walkBytes c.asid c.col (ptr + BitVec.ofNat 64 (1024 * u)) 1024) := canonical_ite h (canonical_walkBytes h)
  exact canonical_ite hs (canonical_ite hs (canonical_walkBytes hs))

theorem canonical_bankStep {s : State} (h : Canonical s) {c : CopyCmd} {u : Nat} {p : State × Option Nat}
    (he : s.bankStep c u = .ok p) : Canonical p.1 := by
  unfold State.bankStep at he
  split at he
  · split at he
    · cases he
    · cases he
      exact canonical_bankWrote (canonical_writeBytes h)
  · split at he
    · cases he
    · cases he
    · cases he
      exact canonical_bankReads (canonical_bankReads h)
  · split at he
    · cases he
    · cases he
    · cases he
      exact canonical_bankWrote (canonical_writeBytes (canonical_bankReads h))

theorem canonical_performBank {s : State} (h : Canonical s) {n : Nat} {c : CopyCmd} : Canonical (s.performBank n c) := by
  have ha : Canonical (if c.stage = 0 then s.engineAcquire c.col 0 c.ord else s) := canonical_ite (canonical_engineAcquire h) h
  unfold State.performBank
  refine canonical_ite (canonical_endCopy (canonical_engineRelease ha)) ?_
  have hw {u} := canonical_walkUnit ha (c := c) (u := u)
  simp only []
  split
  · exact canonical_endCopy hw
  · next he => exact canonical_endCopy (canonical_engineRelease (canonical_bankMeter (canonical_bankStep hw he)))
  · next he =>
    have hm := canonical_bankMeter (canonical_bankStep hw he) (c := c)
    exact canonical_ite (canonical_frame hm) (canonical_endCopy (canonical_engineRelease hm))

theorem canonical_runBank {s : State} (h : Canonical s) {col n : Nat} : Canonical (s.runBank col n) := by
  unfold State.runBank
  split
  · exact h
  · exact canonical_ite h (canonical_ite (canonical_continueRest (canonical_frame h)) (canonical_performBank h))

theorem canonical_expirePromise {s : State} (h : Canonical s) {w : Nat} : Canonical (s.expirePromise w) := by
  unfold State.expirePromise
  split
  · exact h
  · split
    · exact canonical_endWait h
    · exact h

/-! ### Matrix engine -/

theorem canonical_matTouch {s : State} (h : Canonical s) {c : MatCtx} {d : Desc} {os : List Nat} :
    Canonical (s.matTouch c d os) := by
  unfold State.matTouch
  split
  · exact canonical_engineTouch h
  · exact h

theorem canonical_matWalk {s : State} (h : Canonical s) {c : MatCtx} {d : Desc} {os : List Nat} :
    Canonical (s.matWalk c d os) :=
  canonical_ite h (canonical_foldl (fun _ ht => canonical_walkPtr ht) h)

theorem canonical_setTile {s : State} (h : Canonical s) {m : MatCmd} {t : Tile} : Canonical (s.setTile m t) :=
  canonical_modBlock h

theorem canonical_matFault {s : State} (h : Canonical s) {m : MatCmd} {t : Tile} {done : Nat} {addr : Addr} :
    Canonical (s.matFault m t done addr) :=
  canonical_modWarp (canonical_setTile h)

theorem canonical_unitDone {s : State} (h : Canonical s) {c : MatCtx} {m : MatCmd} {units : Nat} :
    Canonical (s.unitDone c m units).1 := by
  unfold State.unitDone
  split
  · exact h
  · exact canonical_engineRelease h

theorem canonical_unitBegin {s : State} (h : Canonical s) {c : MatCtx} {m : MatCmd} : Canonical (s.unitBegin c m) :=
  canonical_ite (canonical_engineAcquire h) h

theorem canonical_performMma {s : State} (h : Canonical s) {c : MatCtx} {m : MatCmd} :
    Canonical (s.performMma c m).1 := by
  unfold State.performMma
  simp only []
  split
  · exact h
  · exact h
  · split
    · exact canonical_matFault (canonical_matWalk (canonical_matWalk (canonical_unitBegin h)))
    · exact canonical_matFault (canonical_matWalk (canonical_matWalk (canonical_unitBegin h)))
    · refine canonical_unitDone (canonical_setTile (canonical_opt (fun hu => canonical_frame hu) ?_))
      refine canonical_opt (fun ht => canonical_engineConsume ht) ?_
      exact canonical_matTouch (canonical_matTouch (canonical_matWalk (canonical_matWalk (canonical_unitBegin h))))

theorem canonical_performMldz {s : State} (h : Canonical s) {c : MatCtx} {m : MatCmd} :
    Canonical (s.performMldz c m).1 := by
  unfold State.performMldz
  simp only []
  split
  · exact canonical_matFault (canonical_matWalk (canonical_unitBegin h))
  · refine canonical_unitDone (canonical_setTile (canonical_opt (fun ht => canonical_engineConsume ht) ?_))
    exact canonical_matTouch (canonical_matWalk (canonical_unitBegin h))

theorem canonical_performMst {s : State} (h : Canonical s) {c : MatCtx} {m : MatCmd} :
    Canonical (s.performMst c m).1 := by
  unfold State.performMst
  simp only []
  split
  · exact h
  · split
    · exact canonical_matFault (canonical_matWalk (canonical_unitBegin h))
    · exact canonical_unitDone (canonical_engineWrite (canonical_matWalk (canonical_unitBegin h)))

theorem canonical_putTiles {s : State} (h : Canonical s) {b : Nat} : Canonical (s.putTiles b) :=
  canonical_ite h (canonical_saveBlock h)

theorem canonical_switchTiles {s : State} (h : Canonical s) {col core b : Nat} :
    Canonical (s.switchTiles col core b) := by
  unfold State.switchTiles
  split
  · exact canonical_ite h (canonical_frame (canonical_loadBlock (canonical_putTiles h)))
  · exact canonical_frame h

theorem canonical_engineStep {s : State} (h : Canonical s) {col core : Nat} {kinds : List MatOp} :
    Canonical (s.engineStep col core kinds) := by
  unfold State.engineStep
  simp only []
  split
  · exact h
  · split
    · exact h
    · split
      · exact h
      · refine canonical_frame ?_
        split
        · exact canonical_performMma (canonical_switchTiles h)
        · exact canonical_performMma (canonical_switchTiles h)
        · exact canonical_setTile (canonical_switchTiles h)
        · exact canonical_performMldz (canonical_switchTiles h)
        · exact canonical_performMst (canonical_switchTiles h)

/-! ### Merge events -/

theorem canonical_atStation {s : State} (h : Canonical s) {m : MergeCmd} {f : Nat → State} (hf : ∀ st, Canonical (f st)) :
    Canonical (s.atStation m f) := by
  refine canonical_ite (canonical_sendPeer h) ?_
  split
  · exact hf _
  · exact canonical_frame (canonical_refuse h)

theorem canonical_commitHead {s : State} (h : Canonical s) {col asid round : Nat} :
    Canonical (s.commitHead col asid round) := by
  unfold State.commitHead
  simp only []
  split
  · exact h
  · exact canonical_ite h (canonical_ite (canonical_completeRound h) (canonical_frame h))

theorem canonical_takeNotice {s : State} (h : Canonical s) {col gang : Nat} : Canonical (s.takeNotice col gang) := by
  unfold State.takeNotice
  split
  · exact h
  · exact canonical_frame h

/-! ### Warp events -/

theorem canonical_giveUp {s : State} (h : Canonical s) {col core slot : Nat} {next : Option Nat} :
    Canonical (s.giveUp col core slot next) := by
  unfold State.giveUp
  simp only []
  split
  · exact h
  · exact canonical_ite h (canonical_modWarp (canonical_frame h))

theorem canonical_claimSlot {s : State} (h : Canonical s) {col core slot : Nat} : Canonical (s.claimSlot col core slot) :=
  canonical_unless (fun ht => canonical_frame ht) (canonical_giveUp h)

theorem canonical_endPhaseWaits {s : State} (h : Canonical s) : Canonical (s.endPhaseWaits) := by
  unfold State.endPhaseWaits
  refine canonical_foldl (fun _ ht => ?_) h
  split
  · exact canonical_ite ht (canonical_ite (canonical_endWait ht) (canonical_ite (canonical_frame ht) ht))
  · exact ht

theorem canonical_arbitrate {s : State} (h : Canonical s) : Canonical (s.arbitrate) :=
  canonical_foldl (fun _ ht => canonical_ite (canonical_claimSlot ht) ht) (canonical_endPhaseWaits h)

theorem canonical_giveSlot {s : State} (h : Canonical s) {w : Nat} {x : Warp} : Canonical (s.giveSlot w x) := by
  unfold State.giveSlot
  simp only []
  split
  · exact canonical_modWarp (canonical_ite h (canonical_frame h))
  · refine canonical_modWarp ?_
    refine canonical_frame ?_
    split
    · exact canonical_release77 h
    · exact h

theorem canonical_watchdog {s : State} (h : Canonical s) {col core slot : Nat} :
    Canonical (s.watchdog col core slot) := by
  unfold State.watchdog
  simp only []
  split
  · exact h
  · split
    · exact h
    · exact canonical_ite h (canonical_unless (fun ht => canonical_boundary ht) (canonical_modWarp h))

theorem lands_execSleepEnd {w : Nat} {s : State} (h : Canonical s) : Lands (execSleepEnd w s) := by
  unfold execSleepEnd
  refine lands_next ?_
  split
  · split
    · exact canonical_ite (canonical_endWait h) h
    · exact h
  · exact h

theorem canonical_timeOut {s : State} (h : Canonical s) {w : Nat} : Canonical (s.timeOut w) := by
  unfold State.timeOut
  split
  · exact h
  · split
    · exact h
    · exact canonical_ite h (canonical_exchangeTrap h)

theorem lands_execSwapOut {w : Nat} {s : State} (h : Canonical s) : Lands (execSwapOut w s) := by
  unfold execSwapOut
  refine lands_next ?_
  split
  · exact canonical_ite (canonical_swapOutWarp (canonical_releaseHost h)) h
  · exact h

theorem canonical_swapInWarp {s : State} (h : Canonical s) {w : Nat} : Canonical (s.swapInWarp w) := by
  unfold State.swapInWarp
  simp only []
  split
  · exact h
  · refine canonical_ite h (canonical_boundary (canonical_frame (canonical_frame ?_)))
    exact canonical_acquireHost (canonical_loadWarp h)

theorem canonical_resumeWarp {s : State} (h : Canonical s) {w col : Nat} {wait : Wait} :
    Canonical (s.resumeWarp w col wait) := by
  unfold State.resumeWarp
  simp only []
  split
  · exact h
  · exact canonical_ite (canonical_frame h) (canonical_frame h)

theorem canonical_resumePool {s : State} (h : Canonical s) {asid : Nat} {k : Gang} {r : Record} {cols : List Nat} :
    Canonical (s.resumePool asid k r cols).2 := by
  unfold State.resumePool
  simp only []
  split
  · exact h
  · refine canonical_foldl (fun _ ht => canonical_tagSpad (canonical_loadPool ht)) ?_
    exact canonical_foldl (fun _ ht => canonical_ite ht (canonical_setWays ht)) h

theorem canonical_restoreGang {s : State} (h : Canonical s) {g : Nat} : Canonical (s.restoreGang g) := by
  refine canonical_foldl (fun _ ht => ?_) ?_
  · exact canonical_ite ht (canonical_frame (canonical_loadWarp ht))
  · exact canonical_foldl (fun _ ht => canonical_loadBlock ht) h

theorem canonical_resumeBlocks {s : State} (h : Canonical s) {g : Nat} {dest : Nat → Nat} :
    Canonical (s.resumeBlocks g dest) :=
  canonical_foldl (fun _ ht => canonical_modBlock (canonical_ite (canonical_frame ht) (canonical_frame ht))) h

theorem canonical_resumeCopies {s : State} (h : Canonical s) {g : Nat} {dest : Nat → Nat} :
    Canonical (s.resumeCopies g dest) :=
  canonical_foldl (fun _ ht => canonical_frame ht) (canonical_frame h)

theorem canonical_resumeGang {s : State} (h : Canonical s) {g : Nat} : Canonical (s.resumeGang g) := by
  unfold State.resumeGang
  simp only []
  split
  · exact h
  · split
    · exact h
    · refine canonical_ite h (canonical_retireGang (canonical_foldl (fun _ ht => canonical_boundary ht) ?_))
      refine canonical_foldl (fun _ ht => ?_) ?_
      · exact canonical_foldl (fun _ hu => canonical_acquireHost hu) ht
      · refine canonical_foldl (fun _ ht => canonical_resumeWarp ht) (canonical_modGang (canonical_modGrid ?_))
        exact canonical_resumeCopies (canonical_resumeBlocks (canonical_resumePool (canonical_restoreGang h)))

theorem lands_execGangResume {gang : Nat} {s : State} (h : Canonical s) : Lands (execGangResume gang s) := by
  unfold execGangResume
  refine lands_next ?_
  split
  · exact h
  · split
    · exact canonical_ite (canonical_resumeGang (canonical_passOver h)) h
    · exact h

/-! ### Gang events -/

theorem canonical_relaunch {s : State} (h : Canonical s) {g : Nat} {site : Site} : Canonical (s.relaunch g site) := by
  unfold State.relaunch
  split
  · exact h
  · split
    · exact h
    · exact canonical_scrubPrivate (canonical_placeAt h)

theorem lands_execGangRelaunch {gang : Nat} {s : State} (h : Canonical s) : Lands (execGangRelaunch gang s) := by
  unfold execGangRelaunch
  refine lands_next ?_
  split
  · exact h
  · split
    · exact canonical_ite (canonical_relaunch (canonical_passOver h)) h
    · exact h

theorem canonical_haltColumn {s : State} (h : Canonical s) {col : Nat} {lost : List Nat} :
    Canonical (s.haltColumn col lost) := by
  refine canonical_foldl (fun _ ht => canonical_ite ht (canonical_frame ht)) ?_
  refine canonical_foldl (fun _ ht => canonical_modBlock ht) ?_
  refine canonical_foldl (fun _ ht => ?_) (canonical_cleanL1 h)
  exact canonical_modWarp (canonical_discardRun (canonical_leaveSlot (canonical_releaseRest ht)))

theorem canonical_postFailure {s : State} (h : Canonical s) {w g kind col : Nat} :
    Canonical (s.postFailure w g kind col) :=
  canonical_modWarp h

theorem canonical_gangLost {s : State} (h : Canonical s) {g kind col : Nat} {lost : List Nat} :
    Canonical (s.gangLost g kind col lost) := by
  refine canonical_ite (canonical_killGang h) (canonical_retireGang ?_)
  refine canonical_foldl (fun _ ht => canonical_boundary ht) ?_
  refine canonical_foldl (fun _ ht => canonical_barriersOf ht) ?_
  refine canonical_foldl (fun _ ht => canonical_modBlock ht) ?_
  exact canonical_foldl (fun _ ht => canonical_foldl (fun _ hu => canonical_postFailure hu) ht) h

theorem canonical_failColumn {s : State} (h : Canonical s) {col kind : Nat} : Canonical (s.failColumn col kind) := by
  unfold State.failColumn
  simp only []
  split
  · exact h
  · refine canonical_foldl (fun _ ht => ?_) ?_
    · exact canonical_gangLost ht
    · refine canonical_haltColumn ?_
      refine canonical_raiseVector ?_
      split
      · exact canonical_frame h
      · exact canonical_frame h

end Sys2Proof.Machine
end

section
/-! The events of the device and the errors of storage keep the canonical form. -/

namespace Sys2Proof.Machine

open Sys2Proof

/-! ### Faults, links and heat -/

theorem canonical_snoopColumn {s : State} (h : Canonical s) {line col : Nat} {invalidate : Bool} :
    Canonical (s.snoopColumn line col invalidate) :=
  canonical_ite (canonical_cleanLines (canonical_flushLine h))
    (canonical_shootL1 (canonical_dropLines (canonical_cleanLines (canonical_flushLine h))))

theorem canonical_moveBucket {s : State} (h : Canonical s) {col bucket slice : Nat} :
    Canonical (s.moveBucket col bucket slice) :=
  canonical_frame (canonical_foldl (fun _ ht => canonical_dropSector ht) h)

theorem canonical_rebalance {s : State} (h : Canonical s) {col : Nat} : Canonical (s.rebalance col) := by
  unfold State.rebalance
  simp only []
  refine canonical_frame ?_
  split
  · exact canonical_ite (canonical_moveBucket h) h
  · exact h

theorem canonical_lostTransfer {s : State} (h : Canonical s) {col line dir : Nat} :
    Canonical (s.lostTransfer col line dir) :=
  canonical_ite (canonical_frame h) (canonical_frame h)

theorem canonical_retryTransfer {s : State} (h : Canonical s) {col : Nat} : Canonical (s.retryTransfer col) := by
  unfold State.retryTransfer
  simp only []
  split
  · exact h
  · exact canonical_frame (canonical_ite (canonical_transferLog (canonical_frame h)) (canonical_frame (canonical_frame h)))

theorem canonical_testLane {s : State} (h : Canonical s) {col lane : Nat} : Canonical (s.testLane col lane) := by
  unfold State.testLane
  simp only []
  split
  · exact h
  · refine canonical_ite ?_ ?_
    · exact canonical_transferLog (canonical_lostTransfer (canonical_frame h))
    · refine canonical_frame (canonical_ite (canonical_transferLog (canonical_frame h)) ?_)
      exact canonical_transferLog (canonical_frame (canonical_lostTransfer (canonical_frame h)))

theorem canonical_retrain {s : State} (h : Canonical s) {col bus : Nat} : Canonical (s.retrain col bus) :=
  canonical_ite h (canonical_ite (canonical_frame h) (canonical_frame h))

theorem canonical_raiseThrottle {s : State} (h : Canonical s) {t : Nat} : Canonical (s.raiseThrottle t) :=
  canonical_frame (canonical_setThrottle h)

theorem canonical_markDraw {s : State} (h : Canonical s) {t : Nat} : Canonical (s.markDraw t) := by
  obtain ⟨budget, throttle, calm⟩ := h.towers
  exact { h with towers := ⟨budget, throttle, (List.length_set ..).trans calm⟩ }

theorem lands_execThrottleLower {tower draw : Nat} {s : State} (h : Canonical s) : Lands
    (execThrottleLower tower draw s) := by
  refine lands_next (canonical_ite h (canonical_ite (canonical_markDraw h) (canonical_ite h ?_)))
  exact canonical_setThrottle (canonical_markDraw h)

theorem lands_execThermalThrottle {tower : Nat} {s : State} (h : Canonical s) : Lands (execThermalThrottle tower s) := by
  unfold execThermalThrottle
  refine lands_next ?_
  split
  · exact h
  · exact canonical_raiseVector (canonical_raiseThrottle h)

theorem lands_execThermalHalt {s : State} (h : Canonical s) : Lands (execThermalHalt s) := by
  unfold execThermalHalt
  generalize hu : List.foldl _ s (List.range 128) = u
  have halted : Canonical u := hu ▸ canonical_foldl (fun _ ht => canonical_frame ht) h
  refine lands_next (canonical_raiseVector ?_)
  exact { halted with }

/-! ### The device -/

theorem canonical_coldReset {s : State} (h : Canonical s) : Canonical s.coldReset :=
  { canonical_reset with mem := h.mem, host := h.host, peer := h.peer }

theorem canonical_bootColumns {s : State} (h : Canonical s) {x : Image} : Canonical (s.bootColumns x) :=
  canonical_foldl (fun _ ht => canonical_frame ht) h

theorem canonical_bootRecord {s : State} (h : Canonical s) : Canonical (s.bootRecord) :=
  canonical_device (canonical_bootColumns h)

theorem canonical_endStage {s : State} (h : Canonical s) {ok : Bool} : Canonical (s.endStage ok) := by
  unfold State.endStage
  split
  · exact h
  · split
    · exact canonical_device h
    · split
      · exact canonical_ite (canonical_bootRecord h) (canonical_device h)
      · exact canonical_ite (canonical_device h) (canonical_device h)
      · exact canonical_device h

theorem canonical_endFirmware {s : State} (h : Canonical s) {cmd : Word} {result : Nat} :
    Canonical (s.endFirmware cmd result) :=
  canonical_unless (fun ht => canonical_raiseVector ht) (canonical_device h)

theorem canonical_stageImage {s : State} (h : Canonical s) {image : Nat} : Canonical (s.stageImage image) :=
  canonical_ite (canonical_endFirmware h) (canonical_ite (canonical_endFirmware h)
    (canonical_endFirmware (canonical_device h)))

theorem canonical_verifyImages {s : State} (h : Canonical s) {cmd : Word} : Canonical (s.verifyImages cmd) :=
  canonical_endFirmware (canonical_device h)

theorem canonical_commitImages {s : State} (h : Canonical s) {cmd : Word} : Canonical (s.commitImages cmd) := by
  refine canonical_ite (canonical_endFirmware h) (canonical_ite (canonical_endFirmware h) ?_)
  refine canonical_ite (canonical_endFirmware (canonical_frame h)) ?_
  exact canonical_frame (canonical_endFirmware (canonical_device h))

theorem canonical_firmwareCommand {s : State} (h : Canonical s) {v : Word} : Canonical (s.firmwareCommand v) := by
  unfold State.firmwareCommand
  simp only []
  split
  · exact canonical_endFirmware h
  · split
    · exact canonical_stageImage h
    · exact canonical_verifyImages h
    · exact canonical_commitImages h
    · exact canonical_coldReset h
    · exact canonical_endFirmware (canonical_device h)
    · exact canonical_endFirmware h

theorem canonical_endManage {s : State} (h : Canonical s) {code asid result : Nat} :
    Canonical (s.endManage code asid result) :=
  canonical_raiseVector (canonical_device h)

theorem canonical_manage {s : State} (h : Canonical s) {code asid : Nat} {checks : List (Bool × Nat)} {f : State → State}
    (hf : ∀ {u}, Canonical u → Canonical (f u)) : Canonical (s.manage code asid checks f) := by
  refine canonical_ite h ?_
  split
  · exact canonical_endManage h
  · exact canonical_endManage (hf h)

theorem canonical_remap {s : State} (h : Canonical s) {code asid : Nat} {checks : List (Bool × Nat)} {f : State → State}
    (hf : ∀ {u}, Canonical u → Canonical (f u)) : Canonical (s.remap code asid checks f) :=
  canonical_ite (canonical_device h) (canonical_manage h hf)

theorem canonical_dropMapped {s : State} (h : Canonical s) {asid : Nat} {hit : Nat → Nat → Nat → Nat → Bool} :
    Canonical (s.dropMapped asid hit) := by
  refine canonical_frame ?_
  exact canonical_foldl (fun _ ht => canonical_foldl (fun _ hu => canonical_writeBack hu) ht) (canonical_frame h)

theorem canonical_createCtx {s : State} (h : Canonical s) {asid : Nat} : Canonical (s.createCtx asid) :=
  canonical_manage h fun hu => canonical_frame hu

theorem canonical_dropSlots {s : State} (h : Canonical s) {asid : Nat} {slot : Nat → Bool} :
    Canonical (s.dropSlots asid slot) :=
  canonical_foldl (fun _ ht => canonical_foldl (fun _ hu => canonical_dropSector hu) ht) h

theorem canonical_destroyCtx {s : State} (h : Canonical s) {asid : Nat} : Canonical (s.destroyCtx asid) :=
  canonical_manage h fun hu => canonical_frame (canonical_dropSlots (canonical_frame (canonical_dropMapped hu)))

theorem canonical_mapColumn {s : State} (h : Canonical s) {asid : Nat} : Canonical (s.mapColumn asid) :=
  canonical_remap h fun hu => canonical_frame (canonical_dropMapped (canonical_frame hu))

theorem canonical_setRoot {s : State} (h : Canonical s) {asid : Nat} : Canonical (s.setRoot asid) :=
  canonical_remap h fun hu => canonical_frame (canonical_dropMapped (canonical_frame hu))

theorem canonical_invalidate {s : State} (h : Canonical s) {asid : Nat} : Canonical (s.invalidate asid) :=
  canonical_remap h fun hu => canonical_dropMapped (canonical_frame hu)

theorem canonical_endBusy {s : State} (h : Canonical s) : Canonical (s.endBusy) := by
  unfold State.endBusy
  split
  · exact h
  · exact canonical_ite (canonical_mapColumn h) (canonical_ite (canonical_setRoot h) (canonical_invalidate h))

theorem canonical_loadKey {s : State} (h : Canonical s) {asid : Nat} : Canonical (s.loadKey asid) := by
  unfold State.loadKey
  refine canonical_manage h fun hu => ?_
  exact canonical_frame (canonical_dropSlots hu)

theorem canonical_setSched {s : State} (h : Canonical s) {asid : Nat} : Canonical (s.setSched asid) := by
  unfold State.setSched
  refine canonical_manage h fun hu => ?_
  exact canonical_frame hu

theorem canonical_setPair {s : State} (h : Canonical s) {asid : Nat} : Canonical (s.setPair asid) := by
  unfold State.setPair
  refine canonical_manage h fun hu => ?_
  exact canonical_frame hu

theorem canonical_setSave {s : State} (h : Canonical s) {asid : Nat} : Canonical (s.setSave asid) := by
  unfold State.setSave
  refine canonical_manage h fun hu => ?_
  exact canonical_frame hu

theorem canonical_setPrivate {s : State} (h : Canonical s) {asid : Nat} : Canonical (s.setPrivate asid) := by
  unfold State.setPrivate
  refine canonical_manage h fun hu => ?_
  exact canonical_frame hu

theorem canonical_manageCommand {s : State} (h : Canonical s) {v : Word} : Canonical (s.manageCommand v) := by
  unfold State.manageCommand
  refine canonical_ite h (canonical_ite (canonical_manage h fun hu => hu) ?_)
  split
  · exact canonical_createCtx h
  · exact canonical_destroyCtx h
  · exact canonical_mapColumn h
  · exact canonical_setRoot h
  · exact canonical_invalidate h
  · exact canonical_loadKey h
  · exact canonical_setSched h
  · exact canonical_setPair h
  · exact canonical_setSave h
  · exact canonical_setPrivate h
  · exact canonical_manage h fun hu => hu

theorem canonical_writeWdogd {s : State} (h : Canonical s) {v : Word} : Canonical (s.writeWdogd v) :=
  canonical_ite (canonical_device h) h

theorem canonical_modQueue {s : State} (h : Canonical s) {q : Nat} {f : Queue → Queue} : Canonical (s.modQueue q f) :=
  canonical_ite h (canonical_setQueue h)

theorem canonical_writeQueue {s : State} (h : Canonical s) {q off : Nat} {v : Addr} : Canonical (s.writeQueue q off v) :=
  canonical_modQueue h

theorem canonical_writeMsix {s : State} (h : Canonical s) {v off : Nat} {x : Word} : Canonical (s.writeMsix v off x) := by
  obtain ⟨table, masked, pending⟩ := h.vectors
  have put (p : Addr × Word) : Canonical { s with dev := { s.dev with msix := s.dev.msix.set v p } } :=
    { h with vectors := ⟨(List.length_set ..).trans table, masked, pending⟩ }
  have mask (b : Bool) : Canonical { s with dev := { s.dev with msixMask := s.dev.msixMask.set v b } } :=
    { h with vectors := ⟨table, (List.length_set ..).trans masked, pending⟩ }
  unfold State.writeMsix
  simp only []
  split
  · exact put _
  · exact put _
  · exact put _
  · exact canonical_trySend (mask _)

theorem canonical_writeIrq {s : State} (h : Canonical s) {enable : Bool} {v : Word} : Canonical
    (s.writeIrq enable v) := by
  obtain ⟨table, masked, -⟩ := h.vectors
  exact canonical_ite (canonical_foldl (fun _ ht => canonical_trySend ht) (canonical_device h))
    { h with vectors := ⟨table, masked, (List.length_map ..).trans List.length_range⟩ }

theorem canonical_writeRegister {s : State} (h : Canonical s) {addr : Nat} {v : Addr} : Canonical
    (s.writeRegister addr v) := by
  have aperture : Canonical (match s.dev.aps[(addr - 0x30000) / 32]? with
      | some p => { s with dev := { s.dev with
          aps := s.dev.aps.set ((addr - 0x30000) / 32) (p.write (addr % 32) v) } }
      | none => s) := by
    split
    · exact { h with apertures := (List.length_set ..).trans h.apertures }
    · exact h
  unfold State.writeRegister
  refine canonical_ite (canonical_firmwareCommand h) ?_
  refine canonical_ite (canonical_device h) ?_
  refine canonical_ite (canonical_device h) ?_
  refine canonical_ite h ?_
  refine canonical_ite (canonical_writeIrq h) ?_
  refine canonical_ite (canonical_writeIrq h) ?_
  refine canonical_ite (canonical_writeMsix h) ?_
  refine canonical_ite (canonical_writeQueue h) ?_
  refine canonical_ite (canonical_manageCommand h) ?_
  refine canonical_ite (canonical_device h) ?_
  refine canonical_ite (canonical_device h) ?_
  refine canonical_ite (canonical_device h) ?_
  refine canonical_ite (canonical_writeWdogd h) ?_
  refine canonical_ite (canonical_device h) ?_
  exact canonical_ite aperture h

theorem canonical_hostTransfer {s : State} (h : Canonical s) {col : Nat} {ls : List Loc} {write : Bool} {data : List Byte}
    {put : State → State} (hput : ∀ {u}, Canonical u → Canonical (put u)) :
    Canonical (s.hostTransfer col ls write data put) := by
  have hs : Canonical ((lineLocs ls).foldl (fun s l => match l with | .mem c _ _ => s.flushLine c l | _ => s) s) := by
    refine canonical_foldl (fun l ht => ?_) h
    split
    · exact canonical_flushLine ht
    · exact ht
  refine canonical_ite ?_ ?_
  · exact hput (canonical_dropLines (canonical_releaseHost (canonical_writeBytes hs)))
  · exact canonical_frame (hput hs)

theorem canonical_aperture {s : State} (h : Canonical s) {ap off : Nat} {write : Bool} {data : List Byte} :
    Canonical (s.aperture ap off write data) := by
  unfold State.aperture
  simp only []
  split
  · exact canonical_frame h
  · split
    · exact canonical_frame h
    · split
      · exact canonical_frame h
      · exact canonical_hostTransfer (canonical_walkBytes h) (fun hu => canonical_frame (canonical_engineTouch hu))

theorem canonical_dropForeign {s : State} (h : Canonical s) {col addr : Nat} : Canonical (s.dropForeign col addr) :=
  canonical_foldl (fun _ ht => canonical_dropSector ht) h

theorem canonical_tableAperture {s : State} (h : Canonical s) {off : Nat} {write : Bool} {data : List Byte} :
    Canonical (s.tableAperture off write data) := by
  unfold State.tableAperture
  simp only []
  split
  · exact canonical_frame h
  · refine canonical_ite (canonical_frame h) ?_
    refine canonical_hostTransfer ?_ (fun hu => ?_)
    · exact canonical_arrayRead (canonical_dropForeign (canonical_dropForeign h))
    · exact canonical_ite (canonical_foldl (fun _ hu => canonical_shootL1 hu) hu) hu

theorem lands_execSetBudget {tower v : Nat} {s : State} (h : Canonical s) : Lands (execSetBudget tower v s) := by
  obtain ⟨budget, throttle, calm⟩ := h.towers
  have put : Canonical { s with dev := { s.dev with octbud := s.dev.octbud.set tower v } } :=
    { h with towers := ⟨(List.length_set ..).trans budget, throttle, calm⟩ }
  exact lands_next (canonical_ite (canonical_frame h) (canonical_frame put))

theorem canonical_measurement {s : State} (h : Canonical s) {n : Nat} : Canonical (s.measurement n) := by
  unfold State.measurement
  split
  · exact h
  · split
    · exact canonical_ite (canonical_frame h) h
    · exact h

theorem offers_stagePeer {s : State} (h : Canonical s) {i : Inbound} {m : MergeCmd} {st : Nat} : Offers
    (s.stagePeer i m st) := by
  unfold State.stagePeer
  simp only []
  split
  · exact offers_some (canonical_frame h)
  · split
    · exact offers_some (canonical_frame h)
    · split
      · exact offers_some (canonical_modRound h)
      · split
        · exact offers_none
        · exact offers_some (canonical_ite (canonical_frame (canonical_modRound h)) (canonical_modRound h))

theorem offers_mergePeer {s : State} (h : Canonical s) {i : Inbound} {m : MergeCmd} : Offers (s.mergePeer i m) := by
  unfold State.mergePeer
  split
  · exact offers_some (canonical_frame h)
  · split
    · exact offers_some (canonical_frame h)
    · split
      · exact offers_stagePeer h
      · refine offers_some ?_
        split
        · exact canonical_frame h
        · split
          · exact canonical_frame h
          · exact canonical_ite (canonical_modRound h) (canonical_frame (canonical_modRound h))
      · refine offers_some ?_
        split
        · exact canonical_frame h
        · exact canonical_frame (canonical_dropRound h)
      · exact offers_some (canonical_frame h)

theorem canonical_waitPeer {s : State} (h : Canonical s) {i : Inbound} {ref : Addr} {warp gang : Nat} :
    Canonical (s.waitPeer i ref warp gang) := by
  unfold State.waitPeer
  simp only []
  split
  · exact canonical_frame h
  · split
    · exact canonical_frame h
    · split
      · exact canonical_frame h
      · exact canonical_ite (canonical_frame h) (canonical_ite (canonical_frame h) (canonical_modRound h))

theorem canonical_accessPeer {s : State} (h : Canonical s) {i : Inbound} : Canonical (s.accessPeer i) := by
  unfold State.accessPeer
  simp only []
  split
  · exact canonical_frame (canonical_walkBytes h)
  · split
    · exact canonical_frame (canonical_walkBytes h)
    · refine canonical_ite ?_ ?_
      · exact canonical_engineWrite (canonical_walkBytes h)
      · exact canonical_frame (canonical_engineTouch (canonical_walkBytes h))

theorem canonical_receive {s : State} (h : Canonical s) {n : Nat} : Canonical (s.receive n) := by
  unfold State.receive
  split
  · exact h
  · have ht : Canonical { s with inbound := mapErase s.inbound n } := canonical_frame h
    refine canonical_ite (canonical_frame ht) ?_
    split
    · exact canonical_accessPeer ht
    · cases hm : State.mergePeer _ _ _ with
      | none => exact h
      | some t => exact offers_mergePeer ht t hm
    · exact canonical_frame ht
    · exact canonical_waitPeer ht
    · exact canonical_frame ht

/-! ### Time -/

theorem canonical_shareIdle {s : State} (h : Canonical s) {col n : Nat} : Canonical (s.shareIdle col n) :=
  canonical_ite h (canonical_frame (canonical_foldl (fun _ ht => canonical_frame ht) h))

theorem canonical_countClocks {s : State} (h : Canonical s) {n : Nat} : Canonical (s.countClocks n) := by
  unfold State.countClocks
  simp only []
  refine canonical_foldl (fun _ ht4 => ?_) ?_
  · exact canonical_frame ht4
  · refine canonical_foldl (fun _ ht3 => ?_) ?_
    · exact canonical_ite ht3 (canonical_frame ht3)
    · refine canonical_foldl (fun _ ht => ?_) h
      refine canonical_foldl (fun _ ht2 => ?_) ?_
      · exact canonical_frame ht2
      · refine canonical_foldl (fun _ ht1 => ?_) ht
        split
        · exact canonical_frame ht1
        · exact ht1

theorem canonical_countMono {s : State} (h : Canonical s) {n : Nat} : Canonical (s.countMono n) :=
  canonical_foldl (fun _ ht => canonical_frame ht) h

theorem canonical_tick {s : State} (h : Canonical s) {n : Nat} : Canonical (s.tick n) := by
  have hs : Canonical ((((s.countClocks n).countMono n).columns.foldl (fun s kv => s.shareIdle kv.1 n))
      ((s.countClocks n).countMono n)) :=
    canonical_foldl (fun _ ht => canonical_shareIdle ht) (canonical_countMono (canonical_countClocks h))
  exact canonical_endBusy (canonical_writeBackDue { hs with clocks := (List.length_map ..).trans hs.clocks })

/-! ### Errors of storage -/

theorem canonical_strikeRegs {s : State} (h : Canonical s) {w : Nat} {f : Regs → Regs} : Canonical (s.strikeRegs w f) :=
  canonical_modWarp h

theorem canonical_strikeRun {s : State} (h : Canonical s) {w : Nat} : Canonical (s.strikeRun w) := by
  unfold State.strikeRun
  split
  · exact canonical_discardRun h
  · exact h

theorem canonical_strikeResult {s : State} (h : Canonical s) {w n : Nat} : Canonical (s.strikeResult w n) :=
  canonical_modWarp h

theorem canonical_strikeL1 {s : State} (h : Canonical s) {col core n : Nat} : Canonical (s.strikeL1 col core n) := by
  unfold State.strikeL1
  split
  · exact h
  · exact canonical_ite (canonical_frame (canonical_markLine (canonical_markLine h))) (canonical_frame h)

theorem canonical_strikeBelow {s : State} (h : Canonical s) {col pa slot : Nat} :
    Canonical (s.strikeBelow col pa slot) := by
  unfold State.strikeBelow
  simp only []
  split
  · exact canonical_frame h
  · exact canonical_markLine h

theorem canonical_strikeSector {s : State} (h : Canonical s) {col n line : Nat} : Canonical
    (s.strikeSector col n line) := by
  unfold State.strikeSector
  split
  · exact h
  · next x _ =>
    have hs : Canonical (if x.dirty then s else s.modColumn col fun c => { c with sectors := c.sectors.eraseIdx n }) :=
      canonical_ite h (canonical_frame h)
    simp only []
    split
    · exact canonical_ite (canonical_dropLines hs) (canonical_ite hs (canonical_markLine hs))
    · exact hs
    · exact canonical_ite (canonical_strikeBelow hs) hs

theorem canonical_strikeArray {s : State} (h : Canonical s) {col line sym pat : Nat} :
    Canonical (s.strikeArray col line sym pat) :=
  canonical_ite h (canonical_frame h)

theorem canonical_failTransfer {s : State} (h : Canonical s) {col line beat dir : Nat} :
    Canonical (s.failTransfer col line beat dir) :=
  canonical_ite h (canonical_frame h)

theorem canonical_strikeMatrix {s : State} (h : Canonical s) {col core : Nat} : Canonical (s.strikeMatrix col core) := by
  unfold State.strikeMatrix
  simp only []
  split
  · exact h
  · exact canonical_frame (canonical_matFault (canonical_frame h))

theorem canonical_strikeCopy {s : State} (h : Canonical s) {n : Nat} : Canonical (s.strikeCopy n) := by
  unfold State.strikeCopy
  split
  · exact h
  · refine canonical_ite h (canonical_ite (canonical_continueRest (canonical_frame h)) ?_)
    exact canonical_frame (canonical_endCopy h)

theorem canonical_strikeHandle {s : State} (h : Canonical s) {n : Nat} : Canonical (s.strikeHandle n) := by
  unfold State.strikeHandle
  split
  · exact h
  · exact canonical_ite h (canonical_frame h)

theorem canonical_faultAtStation {s : State} (h : Canonical s) {m : MergeCmd} : Canonical (s.faultAtStation m).1 := by
  unfold State.faultAtStation
  simp only []
  split
  · split
    · exact canonical_faultPeer h
    · exact h
  · split
    · exact h
    · split
      · exact h
      · split
        · exact h
        · exact canonical_modRound h

theorem canonical_faultMerge {s : State} (h : Canonical s) {m : MergeCmd} : Canonical (s.faultMerge m).1 := by
  unfold State.faultMerge
  split
  · exact canonical_faultAtStation h
  · exact canonical_faultAtStation h
  · exact h
  · exact h
  · exact h

theorem canonical_strikeMerge {s : State} (h : Canonical s) {n : Nat} : Canonical (s.strikeMerge n) := by
  unfold State.strikeMerge
  simp only []
  split
  · exact h
  · exact canonical_ite h (canonical_frame (canonical_refuse (canonical_faultMerge h)))

theorem canonical_strikeRecord {s : State} (h : Canonical s) {g : Nat} : Canonical (s.strikeRecord g) := by
  unfold State.strikeRecord
  split
  · split
    · exact canonical_endGrid h
    · exact canonical_endGrid h
    · exact canonical_modGrid h
    · exact h
  · exact h

theorem canonical_strikePush {s : State} (h : Canonical s) {gang n : Nat} : Canonical (s.strikePush gang n) :=
  canonical_modGang h

theorem canonical_hostStores {s : State} (h : Canonical s) {pa : Nat} {bs : List Byte} {poison : Bool} :
    Canonical (s.hostStores pa bs poison) := by
  have hb : Canonical { s with host := cellsSet s.host pa bs } := { h with host := wf_cellsSet _ _ h.host }
  exact canonical_ite h (canonical_ite (canonical_frame hb) (canonical_frame hb))

theorem canonical_peerStores {s : State} (h : Canonical s) {dev asid ptr : Nat} {bs : List Byte} {poison : Bool} :
    Canonical (s.peerStores dev asid ptr bs poison) :=
  canonical_writeBytes h

theorem canonical_upset {s : State} (h : Canonical s) {u : Upset} : Canonical (s.upset u) := by
  cases u with
  | corrected col => exact canonical_frame h
  | symbol col line sym pat => exact canonical_strikeArray h
  | transfer col line beat dir => exact canonical_failTransfer h
  | lane w reg t => exact canonical_strikeRegs h (f := fun r => r.strikeV reg t)
  | entry w k t => exact canonical_strikeRegs h (f := fun r => r.strikeC k t)
  | scalar w n => exact canonical_strikeRegs h (f := fun r => r.strikeS n)
  | disagree w n => exact canonical_strikeResult h
  | journal w => exact canonical_strikeRun h
  | l1Line col core n => exact canonical_strikeL1 h
  | sector col n line => exact canonical_strikeSector h
  | scratchpad col line => exact canonical_ite (canonical_markLine h) h
  | landing round cont tile line => unfold State.upset; exact canonical_modRound h
  | tile b z => exact canonical_modBlock h
  | tlbEntry col n => exact canonical_frame h
  | prediction col core n => exact canonical_frame h
  | matrixQueue col core => exact canonical_strikeMatrix h
  | copyQueue n => exact canonical_strikeCopy h
  | handle n => exact canonical_strikeHandle h
  | mergeQueue n => exact canonical_strikeMerge h
  | record g => exact canonical_strikeRecord h
  | wakeEntry asid n => exact canonical_frame h
  | heldPush gang n => exact canonical_strikePush h
  | hostStore pa bs poison => exact canonical_hostStores h
  | peerStore dev asid ptr bs poison => exact canonical_peerStores h
  | peerPairs dev pasid asid => exact canonical_frame h
  | peerSends i => exact canonical_frame h
  | mergeAnswer n code cont tile addr => exact canonical_mergeAnswered h
  | mergeFate w fate => unfold State.upset; exact canonical_modWarp h
  | flowEmpty flow => exact canonical_device h
  | registerRead addr => exact canonical_frame h
  | measurement n => exact canonical_measurement h

end Sys2Proof.Machine
end

section
/-! A turn keeps the canonical form, and so does a step. -/

namespace Sys2Proof.Machine

open Sys2Proof

theorem lands_unlessBlocked {s : State} (h : Canonical s) {o : Host.Outcome State Fault Refusal} (ho : Lands o) :
    Lands (s.unlessBlocked o) := by
  cases o with
  | next t =>
    unfold State.unlessBlocked
    simp only []
    split
    · exact lands_next h
    · exact ho
  | fault f => exact fun t he => nomatch he
  | refused r => exact fun t he => nomatch he

theorem lands_arbitrated {o : Host.Outcome State Fault Refusal} (ho : Lands o) : Lands (arbitrated o) := by
  cases o with
  | next t => exact lands_next (canonical_arbitrate (ho t rfl))
  | fault f => exact fun t he => nomatch he
  | refused r => exact fun t he => nomatch he

theorem lands_execRoundOpen {n : Nat} {s : State} (h : Canonical s) : Lands (execRoundOpen n s) := by
  refine lands_next ?_
  split
  · exact canonical_ite (canonical_atStation h fun _ => canonical_openAt h) h
  · exact h

theorem lands_execStageTiles {n : Nat} {s : State} (h : Canonical s) : Lands (execStageTiles n s) := by
  refine lands_next ?_
  split
  · exact canonical_atStation h fun _ => canonical_stageTile h
  · exact h

theorem lands_execMeasureContributor {n : Nat} {s : State} (h : Canonical s) : Lands (execMeasureContributor n s) := by
  refine lands_next ?_
  split
  · exact canonical_ite h (canonical_atStation h fun _ => canonical_endGroupAt h)
  · exact h

theorem lands_execRoundDrop {n : Nat} {s : State} (h : Canonical s) : Lands (execRoundDrop n s) := by
  refine lands_next ?_
  split
  · exact canonical_atStation h fun _ => canonical_dropAt h
  · exact h

/-- Every opcode has a body that leaves a canonical machine. -/
theorem leaves_bodyOf {c : Cx} (h : Canonical c.s) (op : Opcode) : Leaves (bodyOf op c) := by
  cases op with
  | nop => exact leaves_bodyNop h
  | ifBlock => exact leaves_bodyIf h
  | elseBlock => exact leaves_bodyElse h
  | endif => exact leaves_bodyEndif h
  | loop => exact leaves_bodyLoop h
  | endloop => exact leaves_bodyEndloop h
  | brk | cont => exact leaves_leave h
  | exit => exact leaves_bodyExit h
  | jmp => exact leaves_bodyJmp h
  | call => exact leaves_bodyCall h
  | ret => exact leaves_bodyRet h
  | yield => exact leaves_bodyYield h
  | sleep => exact leaves_bodySleep h
  | iadd | isub | imul | imulh | imin | imax => exact leaves_int2 h
  | imad | isad | dp4 | dp2 => exact leaves_intSum h
  | iabs | ineg => exact leaves_int1 h
  | lea => exact leaves_bodyLea h
  | icmp => exact leaves_bodyIcmp h
  | iaddx => exact leaves_bodyIaddx h
  | and | or | xor | andn => exact leaves_bits2 h
  | not => exact leaves_bodyNot h
  | shl | shr | sar | rotl => exact leaves_shift h
  | bfe => exact leaves_bodyBfe h
  | bfi => exact leaves_bodyBfi h
  | popc | clz => exact leaves_countBits h
  | brev => exact leaves_bodyBrev h
  | sel => exact leaves_bodySel h
  | mov => exact leaves_bodyMov h
  | plop => exact leaves_bodyPlop h
  | pmov => exact leaves_bodyPmov h
  | vote => exact leaves_bodyVote h
  | sread => exact leaves_bodySread h
  | swrite => exact leaves_bodySwrite h
  | pack => exact leaves_bodyPack h
  | unpk => exact leaves_bodyUnpk h
  | prmt => exact leaves_bodyPrmt h
  | fadd => exact leaves_bodyFadd h
  | fsub => exact leaves_bodyFsub h
  | fmul => exact leaves_bodyFmul h
  | ffma => exact leaves_bodyFfma h
  | fmin => exact leaves_bodyFmin h
  | fmax => exact leaves_bodyFmax h
  | fabs | fneg => exact leaves_signOnly h
  | fcmp => exact leaves_bodyFcmp h
  | fclass => exact leaves_bodyFclass h
  | frnd => exact leaves_bodyFrnd h
  | fdiv => exact leaves_bodyFdiv h
  | fsqrt => exact leaves_bodyFsqrt h
  | fscl => exact leaves_bodyFscl h
  | fdot2 => exact leaves_bodyFdot2 h
  | cvt => exact leaves_bodyCvt h
  | cvts => exact leaves_bodyCvts h
  | qpk => exact leaves_bodyQpk h
  | qupk => exact leaves_bodyQupk h
  | rcp | rsq | sqrt | exp2 | log2 | sin | cos | tanh | sigm | erf | gelu => exact leaves_special h
  | mupd => exact leaves_bodyMupd h
  | lsck => exact leaves_bodyLsck h
  | lsupd => exact leaves_bodyLsupd h
  | gnrm => exact leaves_bodyGnrm h
  | ld => exact leaves_bodyLd h
  | st => exact leaves_bodySt h
  | ldl => exact leaves_bodyLdl h
  | stl => exact leaves_bodyStl h
  | ldk => exact leaves_bodyLdk h
  | pref => exact leaves_bodyPref h
  | cctl => exact leaves_bodyCctl h
  | phase => exact leaves_bodyPhase h
  | fence => exact leaves_bodyFence h
  | cpart => exact leaves_bodyCpart h
  | atom | acas | afadd | red => exact leaves_memAtomic h
  | patom => exact leaves_bodyPatom h
  | xch | xred => exact leaves_exchange h
  | pld => exact leaves_bodyPld h
  | pst => exact leaves_bodyPst h
  | ptrc => exact leaves_bodyPtrc h
  | shfl | redx => exact leaves_moveLanes h
  | bset => exact leaves_bodyBset h
  | bperm => exact leaves_bodyBperm h
  | cpy => exact leaves_bodyCpy h
  | cpy2 => exact leaves_bodyCpy2 h
  | cpyz => exact leaves_bodyCpyz h
  | cwait => exact leaves_bodyCwait h
  | bzero => exact leaves_bodyBzero h
  | bcopy | bcmp => exact leaves_bankTwo h
  | bfence => exact leaves_bodyBfence h
  | cpyx => exact leaves_bodyCpyx h
  | mma | mmat => exact leaves_multiply h
  | mzero => exact leaves_bodyMzero h
  | mldz | mst => exact leaves_tileMove h
  | mfence => exact leaves_bodyMfence h
  | mwait => exact leaves_bodyMwait h
  | mstat => exact leaves_bodyMstat h
  | mrgOpen => exact leaves_bodyMrgOpen h
  | mrgPut => exact leaves_bodyMrgPut h
  | mrgEnd => exact leaves_bodyMrgEnd h
  | mrgWait => exact leaves_bodyMrgWait h
  | mrgStat => exact leaves_bodyMrgStat h
  | mrgRank => exact leaves_bodyMrgRank h
  | mrgDrop => exact leaves_bodyMrgDrop h
  | bar | gbar => exact leaves_barrier h
  | arrv => exact leaves_bodyArrv h
  | waitb => exact leaves_bodyWaitb h
  | launch => exact leaves_bodyLaunch h
  | tape => exact leaves_bodyTape h
  | gwait => exact leaves_bodyGwait h
  | trap => exact leaves_bodyTrap h
  | tret => exact leaves_bodyTret h
  | chkerr => exact leaves_bodyChkerr h
  | rdctr => exact leaves_bodyRdctr h
  | bkpt => exact leaves_bodyBkpt h
  | sysr => exact leaves_bodySysr h
  | sysw => exact leaves_bodySysw h

/-- Every event of another agent, and an unassigned opcode; the other constructors are encoded instructions. -/
theorem lands_event {i : Instr} (hi : i.encoded = none) {s : State} (h : Canonical s) : Lands (exec i s) := by
  cases i with
  | unassignedOpcode w => exact lands_execUnassignedOpcode (v := w) h
  | runCommit w => exact lands_next (canonical_tryCommit h)
  | longLatencyArrival w n => exact lands_next (canonical_arrival h)
  | watchdogLimit col core slot => exact lands_next (canonical_watchdog h)
  | sleepEnd w => exact lands_execSleepEnd h
  | exchangeComplete w => exact lands_next (canonical_completeExchange h)
  | exchangeTimeout w => exact lands_next (canonical_timeOut h)
  | barrierObjectArrive n => exact lands_next (canonical_performArrival h)
  | copyPromiseExpire w => exact lands_next (canonical_expirePromise h)
  | copyPerform col => exact lands_next (canonical_runCopy h)
  | bankCommandPerform col n => exact lands_next (canonical_runBank h)
  | mmaPerform col core => exact lands_next (canonical_engineStep h)
  | mzeroPerform col core => exact lands_next (canonical_engineStep h)
  | mldzPerform col core => exact lands_next (canonical_engineStep h)
  | mstPerform col core => exact lands_next (canonical_engineStep h)
  | contributorCommit col asid round => exact lands_next (canonical_commitHead h)
  | mergeTileSend col => exact lands_next (canonical_ite h (canonical_sendNext h))
  | mergeGangNotice col gang => exact lands_next (canonical_takeNotice h)
  | partitionChange col => exact lands_next (canonical_changePart h)
  | hostRecordAccept q => exact lands_next (canonical_ite (canonical_acceptRecord h) h)
  | blockRetire b => exact lands_next (canonical_ite (canonical_frame (canonical_retireBlock h)) (canonical_retireBlock h))
  | preemptionRequest gang => exact lands_next (canonical_preemptGang h)
  | gangResume gang => exact lands_execGangResume h
  | swapOut w => exact lands_execSwapOut h
  | swapIn w => exact lands_next (canonical_swapInWarp h)
  | gangRelaunch gang => exact lands_execGangRelaunch h
  | columnFailure col kind => exact lands_next (canonical_failColumn h)
  | hostWritebackTimeout col => exact lands_next (canonical_releaseHost h)
  | bootStageEnd ok => exact lands_next (canonical_endStage h)
  | qctlWrite q v => exact lands_next (canonical_modQueue h)
  | qtailWrite q v => exact lands_next (canonical_modQueue h)
  | wdogdWrite v => exact lands_next (canonical_writeWdogd h)
  | registerWrite addr v => exact lands_next (canonical_writeRegister h)
  | stage image => exact lands_next (canonical_stageImage h)
  | hostApertureAccess ap off write data => exact lands_next (canonical_aperture h)
  | tableApertureAccess off write data => exact lands_next (canonical_tableAperture h)
  | watikReceive n => exact lands_next (canonical_receive h)
  | rebalanceWindowEnd col => exact lands_next (canonical_ite h (canonical_rebalance h))
  | patrolScrub col line => exact lands_next (canonical_ite h (canonical_frame (canonical_correctLine h)))
  | transferRetry col => exact lands_next (canonical_retryTransfer h)
  | laneTest col lane => exact lands_next (canonical_ite h (canonical_testLane h))
  | retraining col bus => exact lands_next (canonical_retrain h)
  | flowEscape flow => exact lands_next (canonical_device h)
  | linkLevelRetry link => exact lands_next (canonical_device h)
  | throttleRaise tower draw => exact lands_next (canonical_ite (canonical_markDraw (canonical_raiseThrottle h)) h)
  | throttleLower tower draw => exact lands_execThrottleLower h
  | thermalThrottle tower => exact lands_execThermalThrottle h
  | create asid => exact lands_next (canonical_createCtx h)
  | destroy asid => exact lands_next (canonical_destroyCtx h)
  | mapcol asid => exact lands_next (canonical_mapColumn h)
  | setroot asid => exact lands_next (canonical_setRoot h)
  | inval asid => exact lands_next (canonical_invalidate h)
  | keyload asid => exact lands_next (canonical_loadKey h)
  | setsched asid => exact lands_next (canonical_setSched h)
  | pair asid => exact lands_next (canonical_setPair h)
  | savearea asid => exact lands_next (canonical_setSave h)
  | privarea asid => exact lands_next (canonical_setPrivate h)
  | readMeters asid col n => exact lands_next (canonical_ite (canonical_frame h) (canonical_frame h))
  | readLog col first n => exact lands_next (canonical_ite (canonical_frame h) (canonical_frame h))
  | collect asid => exact lands_next (canonical_ite (canonical_frame h) (canonical_frame (canonical_frame h)))
  | setBudget tower v => exact lands_execSetBudget h
  | setThrottle tower v => exact lands_next (canonical_ite (canonical_frame h) (canonical_frame (canonical_setThrottle h)))
  | spdmRequest nonce => exact lands_next (canonical_ite h (canonical_frame (canonical_device h)))
  | watikLinkTraining port => exact lands_next (canonical_ite h (canonical_device (canonical_frame h)))
  | cxlCacheSnoop line invalidate =>
    exact lands_next (canonical_frame (canonical_foldl (fun _ ht => canonical_snoopColumn ht) h))
  | commandGridAccept => exact lands_next (canonical_enterPending h)
  | gangPlace => exact lands_next (canonical_schedule h)
  | thermalHalt => exact lands_execThermalHalt h
  | coldReset | reset | powerLoss => exact lands_next (canonical_coldReset h)
  | verify => exact lands_next (canonical_verifyImages h)
  | commit => exact lands_next (canonical_commitImages h)
  | discard => exact lands_next (canonical_endFirmware (canonical_device h))
  | getContexts | bootStatus => exact lands_next (canonical_frame h)
  | roundOpen n => exact lands_execRoundOpen h
  | stageTiles n => exact lands_execStageTiles h
  | measureContributor n => exact lands_execMeasureContributor h
  | roundDrop n => exact lands_execRoundDrop h
  | _ => cases hi

/-- An encoded instruction is one issue of its opcode's body; what is not encoded is an event. -/
theorem lands_exec (i : Instr) {s : State} (h : Canonical s) : Lands (exec i s) := by
  cases hi : i.encoded with
  | some p => exact exec_issues hi s ▸ lands_issue h fun hc => leaves_bodyOf hc _
  | none => exact lands_event hi h

theorem lands_issueNext {s : State} (h : Canonical s) {w : Nat} {x : Warp} : Lands (s.issueNext w x) := by
  unfold State.issueNext
  split
  · exact lands_exec _ (canonical_frame (canonical_touchCode h))
  · exact lands_next (canonical_trapAtPc h)
  · exact lands_next (canonical_trapAtPc h)

theorem lands_issueTurn {s : State} (h : Canonical s) {w : Nat} : Lands (s.issueTurn w) := by
  unfold State.issueTurn
  split
  · exact lands_next h
  · split
    · exact lands_next h
    · split
      · exact lands_next (canonical_endWait h)
      · split
        · exact lands_next h
        · simp only []
          split
          · exact lands_issueNext (canonical_giveSlot (canonical_settleArrivals h))
          · exact lands_next (canonical_giveSlot (canonical_settleArrivals h))

theorem lands_act {s : State} (h : Canonical s) {t : Turn} : Lands (s.act t) := by
  cases t with
  | issue w => exact lands_unlessBlocked h (lands_issueTurn h)
  | event i =>
    unfold State.act
    simp only []
    split
    · exact lands_unlessBlocked h (lands_exec i h)
    · exact lands_next h
  | clocks n => exact lands_next (canonical_tick h)
  | upset u => exact lands_next (canonical_upset h)

/-- A turn of the agenda, or one that the machine takes by itself, and the arbitration after it. -/
theorem lands_takeTurn {s : State} (h : Canonical s) : Lands s.takeTurn := by
  unfold State.takeTurn
  split
  · exact lands_arbitrated (lands_act (canonical_frame h))
  · split
    · exact lands_arbitrated (lands_act (canonical_frame h))
    · exact lands_next h

/-- Settles O3, by the lemma of each operation that a turn is made of. -/
theorem stepKeepsCanonical : Obligations.StepKeepsCanonical := fun _ t h he => lands_takeTurn h t he

/-- Settles O2: reset leaves every memory empty, and every list of the device as long as it is. -/
theorem canonicalAtReset : Obligations.CanonicalAtReset := canonical_reset

end Sys2Proof.Machine
end

section
/-! The state after reset (R18, R130, R135, R145, R222, R360, R374, R382). -/

namespace Sys2Proof.Machine

open Sys2Proof

theorem reset_cycOf {c : Nat} (h : c < 128) : State.reset.cycOf c = 0 := List.getD_replicate _ h

theorem reset_queue {q : Nat} (h : q < 16) : State.reset.dev.queue q = Queue.reset := List.getD_replicate _ h

theorem reset_octbud {t : Nat} (h : t < 4) : State.reset.dev.octbud.getD t 0 = 1024 := List.getD_replicate _ h

theorem reset_mxthr {t : Nat} (h : t < 4) : State.reset.dev.mxthr.getD t 1 = 0 := List.getD_replicate _ h

theorem reset_column (c : Nat) : State.reset.column c = Column.reset := rfl

/-- Settles O1, from what reset leaves in each list of the device; the other registers stand as they are written. -/
theorem resetLeaves : Obligations.ResetLeaves := by
  refine ⟨fun _ => reset_cycOf, fun _ => rfl, rfl, fun q hq => ?_, fun _ ht => ⟨reset_octbud ht, reset_mxthr ht⟩,
    rfl, rfl, rfl, rfl, rfl, rfl, rfl, rfl, rfl, rfl, rfl, rfl, fun c _ => ?_⟩
  · rw [reset_queue hq]
    exact ⟨rfl, rfl, rfl, rfl, rfl, rfl⟩
  · rw [reset_column]
    exact ⟨rfl, rfl⟩

end Sys2Proof.Machine
end

section
/-! Boot and reset (R18, R378-R382): a cold start, and what the end of each boot stage leaves. -/

namespace Sys2Proof.Machine

open Sys2Proof

/-! ### A cold start -/

theorem coldReset_column (s : State) (c : Nat) : s.coldReset.column c = (s.column c).coldReset := by
  change (mapGet (mapAll s.columns fun _ k => k.coldReset) c).getD Column.reset = _
  rw [mapGet_mapAll]
  unfold State.column mapGetD
  cases mapGet s.columns c with
  | none => rfl
  | some k => rfl

theorem coldReset_coldStarted (s : State) : ColdStarted s s.coldReset where
  work := ⟨rfl, rfl, rfl, rfl, rfl, rfl⟩
  engines := ⟨rfl, rfl, rfl, rfl, rfl, rfl⟩
  clocks := rfl
  device := rfl
  keys := rfl
  columns := coldReset_column s
  memory := ⟨rfl, rfl, rfl, rfl⟩

/-! ### Columns changed one after another -/

theorem foldl_modColumn_eq (f : Nat → Column → Column) (l : List Nat) (s : State) :
    ∃ cols, l.foldl (fun s c => s.modColumn c (f c)) s = { s with columns := cols } :=
  List.foldlRecOn (motive := fun t : State => ∃ cols, t = { s with columns := cols }) l _ ⟨_, rfl⟩ fun _ ht c _ => by
    obtain ⟨cols, rfl⟩ := ht
    exact ⟨_, rfl⟩

theorem column_foldl_modColumn_of_notMem (f : Nat → Column → Column) {d : Nat} {l : List Nat} (s : State) (h : d ∉ l) :
    (l.foldl (fun s c => s.modColumn c (f c)) s).column d = s.column d := by
  refine List.foldlRecOn (motive := fun t : State => t.column d = s.column d) l _ rfl fun t ht c hc => ?_
  rw [State.column_modColumn_ne t _ fun hd : d = c => h (hd ▸ hc), ht]

theorem column_foldl_modColumn (f : Nat → Column → Column) {d : Nat} {l : List Nat} (s : State) (hl : l.Nodup) (h : d ∈ l) :
    (l.foldl (fun s c => s.modColumn c (f c)) s).column d = f d (s.column d) := by
  induction l generalizing s with
  | nil => cases h
  | cons c l ih =>
    obtain ⟨hc, hl⟩ := List.nodup_cons.1 hl
    by_cases hd : d = c
    · subst hd
      rw [List.foldl_cons, column_foldl_modColumn_of_notMem f _ hc, State.column_modColumn]
    · rw [List.foldl_cons, ih _ hl (List.mem_of_ne_of_mem hd h), State.column_modColumn_ne s _ hd]

/-! ### The boot stages -/

theorem bootColumns_eq (s : State) (x : Image) : ∃ cols, s.bootColumns x = { s with columns := cols } :=
  foldl_modColumn_eq (fun c k => { k with live := x.names c, spuse := x.spares c, spmap := x.spares c }) _ s

theorem bootColumns_column (s : State) (x : Image) {c : Nat} (hc : c < 128) : (s.bootColumns x).column c
    = { s.column c with live := x.names c, spuse := x.spares c, spmap := x.spares c } :=
  column_foldl_modColumn (fun c k => { k with live := x.names c, spuse := x.spares c, spmap := x.spares c }) s
    List.nodup_range (List.mem_range.2 hc)

theorem bootRecord_column (s : State) (c : Nat) : s.bootRecord.column c = (s.bootColumns s.dev.record).column c := by
  simp only [State.bootRecord]
  generalize s.bootColumns s.dev.record = t
  rfl

theorem bootRecord_eq (s : State) : ∃ cols, s.bootRecord = { s with
    columns := cols
    dev := { s.dev with
      bootst := 1, fwver := s.dev.record.version, serial := s.dev.record.serial
      identity := derivedKeys (imageId s.dev.record.bytes), measured := s.dev.record.measured
      weights := s.dev.record.weights } } := by
  obtain ⟨cols, hc⟩ := bootColumns_eq s s.dev.record
  simp only [State.bootRecord]
  rw [hc]
  exact ⟨cols, rfl⟩

theorem endStage_over {s : State} (h : 4 ≤ s.dev.bootst) (ok : Bool) : s.endStage ok = s := if_pos h

theorem endStage_failed {s : State} (h : s.dev.bootst < 4) : s.endStage false = s.recover := if_neg (Nat.not_le.2 h)

theorem endStage_record {s : State} (h : s.dev.bootst = 0) :
    s.endStage true = if s.dev.record.genuine then s.bootRecord else s.recover := by
  unfold State.endStage
  simp [h]

theorem endStage_firmware {s : State} (h : s.dev.bootst = 2) :
    s.endStage true = if s.dev.firmware.all Image.genuine then s.bootFirmware else s.recover := by
  unfold State.endStage
  simp [h]

theorem endStage_next {s : State} (h : s.dev.bootst = 1 ∨ s.dev.bootst = 3) :
    s.endStage true = { s with dev := { s.dev with bootst := s.dev.bootst + 1 } } := by
  unfold State.endStage
  rcases h with h | h
  · simp [h]
  · simp [h]

/-- The end of a boot stage changes the device's registers and the columns, and nothing else. -/
theorem bootStageEnd_answers {s t : State} {ok : Bool} {p : State → Prop} (he : s.endStage ok = t) {cols : AMap Column}
    {dev : Dev} (ht : t = { s with columns := cols, dev := dev }) (hp : p t) :
    Answers (.bootStageEnd ok) s fun t => p t ∧ t.contexts = s.contexts ∧ SameBytes s t ∧ SameWork s t := by
  refine ⟨t, congrArg _ he, hp, ?_⟩
  subst ht
  exact ⟨rfl, ⟨rfl, rfl, rfl, rfl⟩, rfl, rfl, rfl, rfl⟩

theorem bootRecord_answers {s : State} (h : s.dev.bootst = 0) (hg : s.dev.record.genuine = true) :
    Answers (.bootStageEnd true) s fun t => (t.dev = { s.dev with
        bootst := 1, fwver := s.dev.record.version, serial := s.dev.record.serial
        identity := derivedKeys (imageId s.dev.record.bytes), measured := s.dev.record.measured
        weights := s.dev.record.weights }
      ∧ ∀ c < 128, t.column c = { s.column c with
          live := s.dev.record.names c, spuse := s.dev.record.spares c, spmap := s.dev.record.spares c })
      ∧ t.contexts = s.contexts ∧ SameBytes s t ∧ SameWork s t := by
  obtain ⟨cols, hc⟩ := bootRecord_eq s
  refine bootStageEnd_answers ((endStage_record h).trans (if_pos hg)) hc ⟨by rw [hc], fun c hb => ?_⟩
  rw [bootRecord_column, bootColumns_column s s.dev.record hb]

/-- Settles O51: a cold start is one equation, and each end of a stage is the branch of the stage it ends. -/
theorem bootCompletes : Obligations.BootCompletes := by
  intro s
  have cold := coldReset_coldStarted s
  have recovers {ok} (h : s.endStage ok = s.recover) := bootStageEnd_answers
    (p := fun t => t.dev = { s.dev with bootst := 0xF, fwver := 0 } ∧ ∀ c, t.column c = s.column c) h rfl ⟨rfl, fun _ => rfl⟩
  refine ⟨⟨_, rfl, cold⟩, ⟨_, rfl, cold⟩, ⟨_, rfl, cold⟩, ⟨fun h => recovers (endStage_failed h), fun h hg => ?_,
    bootRecord_answers, fun h => bootStageEnd_answers (endStage_next h) rfl rfl, fun h hx => ?_, fun h hx => ?_⟩,
    fun ok h => congrArg _ (endStage_over h ok)⟩
  · exact recovers ((endStage_record h).trans (if_neg (by rw [hg]; exact Bool.false_ne_true)))
  · obtain ⟨x, hx, hg⟩ := hx
    refine recovers ((endStage_firmware h).trans (if_neg fun ha => ?_))
    exact Bool.false_ne_true (hg.symm.trans (List.all_eq_true.1 ha x hx))
  · exact bootStageEnd_answers ((endStage_firmware h).trans (if_pos (List.all_eq_true.2 hx))) rfl rfl

end Sys2Proof.Machine
end

section
/-! The turns of the agenda that no warp issues (R18, R77, R252, R409, R411): events, clocks and errors of storage, and the
arbitration after every turn. -/

namespace Sys2Proof.Machine

open Sys2Proof

/-! ### A turn of the agenda -/

theorem step_turn {s : State} {t : Turn} {rest : List Turn} (h : s.agenda = t :: rest) :
    step s = arbitrated (({ s with agenda := rest } : State).act t) := by
  unfold step State.takeTurn
  rw [h]

theorem act_event {i : Instr} (h : isEvent i = true) (s : State) : s.act (.event i) = s.unlessBlocked (exec i s) := if_pos h

theorem isEvent_of_unencoded {i : Instr} (h : i.encoded = none) (hv : ∀ v, i ≠ .unassignedOpcode v) : isEvent i = true :=
  (isEvent_or_unassigned h).resolve_right fun ⟨v, he⟩ => hv v he

/-! ### Arbitration -/

/-- Where no wait at a barrier object is over, the waits stay as they are. -/
theorem endPhaseWaits_same {s : State} (h : ∀ kv ∈ s.warps, ∀ x, s.warp kv.1 = some x → s.waitOver kv.1 x = true →
    ∀ c o p a, kv.2.wait ≠ .waitb c o p a) : s.endPhaseWaits = s := by
  refine List.foldlRecOn (motive := fun t => t = s) _ _ rfl fun t ht kv hk => ?_
  subst ht
  split
  · next hw hx =>
    refine if_pos ?_
    rw [Bool.not_eq_true', ← Bool.not_eq_true]
    exact fun ho => h kv hk _ hx ho _ _ _ _ hw
  · rfl

/-- Slots given and taken: of a warp only the moment since which it waits for its slot, and the identity that tells it. -/
structure Slotted (s t : State) : Prop where
  frame : t = { s with cores := t.cores, warps := t.warps, nextId := t.nextId }
  warps : ∀ w, ∃ n, t.warp w = (s.warp w).map fun x => { x with since := n }

theorem slotted_same {s t : State} (hf : t = { s with cores := t.cores, warps := t.warps, nextId := t.nextId })
    (hw : ∀ w, t.warp w = s.warp w) : Slotted s t := by
  refine ⟨hf, fun w => ?_⟩
  rw [hw w]
  cases s.warp w with
  | none => exact ⟨0, rfl⟩
  | some x => exact ⟨x.since, rfl⟩

theorem slotted_trans {s t u : State} (h : Slotted s t) (g : Slotted t u) : Slotted s u := by
  refine ⟨?_, fun w => ?_⟩
  · rw [g.frame, h.frame]
  · obtain ⟨n, hn⟩ := h.warps w
    obtain ⟨m, hm⟩ := g.warps w
    exact ⟨m, by rw [hm, hn, Option.map_map]; rfl⟩

theorem slotted_ite {p : Prop} [Decidable p] {s t u : State} (h : Slotted s t) (g : Slotted s u) :
    Slotted s (if p then t else u) := by
  split
  · exact h
  · exact g

theorem slotted_modCore (s : State) (c k : Nat) (f : Core → Core) : Slotted s (s.modCore c k f) :=
  slotted_same rfl fun _ => rfl

/-- A warp that waits for a slot from now on. -/
theorem slotted_since (s : State) (v n : Nat) : Slotted s (s.modWarp v fun x => { x with since := n }) := by
  cases hv : s.warp v with
  | none =>
    have hs : s.modWarp v (fun x => { x with since := n }) = s := by
      unfold State.modWarp
      rw [hv]
    rw [hs]
    exact slotted_same rfl fun _ => rfl
  | some x =>
    refine ⟨?_, fun w => ?_⟩
    · unfold State.modWarp
      rw [hv]
      rfl
    · by_cases hw : w = v
      · subst hw
        exact ⟨n, by rw [State.warp_modWarp _ hv, hv]; rfl⟩
      · rw [State.warp_modWarp_ne s _ hw]
        exact (slotted_same rfl fun _ => rfl : Slotted s s).warps w

theorem slotted_giveUp (s : State) (col core slot : Nat) (next : Option Nat) : Slotted s (s.giveUp col core slot next) := by
  unfold State.giveUp
  simp only []
  split
  · exact slotted_same rfl fun _ => rfl
  · split
    · exact slotted_same rfl fun _ => rfl
    · refine slotted_trans ?_ (slotted_since _ _ _)
      exact slotted_same rfl fun _ => rfl

theorem slotted_claimSlot (s : State) (col core slot : Nat) : Slotted s (s.claimSlot col core slot) := by
  unfold State.claimSlot
  refine slotted_trans (slotted_giveUp s col core slot (s.winner col core slot)) ?_
  exact slotted_ite (slotted_same rfl fun _ => rfl) (slotted_modCore _ _ _ _)

theorem arbitrate_slotted {s : State} (h : s.endPhaseWaits = s) : Slotted s s.arbitrate := by
  unfold State.arbitrate
  rw [h]
  refine List.foldlRecOn (motive := Slotted s) _ _ (slotted_same rfl fun _ => rfl) fun t ht kv _ => ?_
  split
  · exact slotted_trans ht (slotted_claimSlot t _ _ _)
  · exact ht

theorem warp_of_slotted {s t : State} (h : Slotted s t) (w : Nat) :
    t.warp w = (s.warp w).map fun x => { x with since := ((t.warp w).map Warp.since).getD 0 } := by
  obtain ⟨n, hn⟩ := h.warps w
  rw [hn]
  cases s.warp w with
  | none => rfl
  | some x => rfl

/-! ### Clocks -/

/-- Nothing but what the contexts, the columns and the cores count. -/
def Counted (s t : State) : Prop := t = { s with columns := t.columns, cores := t.cores, contexts := t.contexts }

theorem counted_same (s : State) : Counted s s := rfl

theorem counted_trans {s t u : State} (h : Counted s t) (g : Counted t u) : Counted s u := by
  unfold Counted at *
  rw [g, h]

theorem counted_foldl {α : Type} {f : State → α → State} (hf : ∀ s a, Counted s (f s a)) (l : List α) (s : State) :
    Counted s (l.foldl f s) :=
  List.foldlRecOn (motive := Counted s) l f (counted_same s) fun t ht a _ => counted_trans ht (hf t a)

theorem counted_meter (s : State) (asid col n k : Nat) : Counted s (s.meter asid col n k) := rfl

theorem counted_energy (s : State) (kind asid col n : Nat) : Counted s (s.energy kind asid col n) := rfl

theorem counted_countClocks (s : State) (n : Nat) : Counted s (s.countClocks n) := by
  refine counted_trans (counted_trans (counted_foldl (fun s kv => ?_) _ _) (counted_foldl (fun s kv => ?_) _ _))
    (counted_foldl (fun s kv => counted_energy _ _ _ _ _) _ _)
  · refine counted_trans (counted_foldl (fun s k => ?_) _ _) (counted_foldl (fun s e => ?_) _ _)
    · split
      · rfl
      · exact counted_same s
    · rfl
  · split
    · exact counted_same s
    · exact counted_energy _ _ _ _ _

theorem counted_modColumn (s : State) (c : Nat) (f : Column → Column) : Counted s (s.modColumn c f) := rfl

theorem counted_modCore (s : State) (c k : Nat) (f : Core → Core) : Counted s (s.modCore c k f) := rfl

theorem counted_countMono (s : State) (n : Nat) : Counted s (s.countMono n) :=
  counted_foldl (fun _ _ => counted_modCore _ _ _ _) _ _

theorem counted_shareIdle (s : State) (col n : Nat) : Counted s (s.shareIdle col n) := by
  unfold State.shareIdle
  simp only []
  split
  · exact counted_same s
  · refine counted_trans ?_ (counted_modColumn _ _ _)
    exact counted_foldl (fun s kv => counted_meter s _ _ _ _) _ s

/-- What `n` clocks count, and the clocks themselves: the machine before it writes back what is due. -/
def clocked (s : State) (n : Nat) : State :=
  let t := (s.countClocks n).countMono n
  let u := t.columns.foldl (fun u kv => u.shareIdle kv.1 n) t
  { u with cyc := u.cyc.map fun c => c + n }

theorem tick_eq (s : State) (n : Nat) : s.tick n = (clocked s n).writeBackDue.endBusy := rfl

theorem clocked_frame (s : State) (n : Nat) : ∃ columns cores contexts,
    clocked s n = { s with columns := columns, cores := cores, contexts := contexts, cyc := s.cyc.map (· + n) } := by
  have counted := counted_trans (counted_countClocks s n) (counted_countMono _ n)
  unfold clocked
  simp only []
  generalize (s.countClocks n).countMono n = t at counted
  have shared := counted_trans counted (counted_foldl (fun u (kv : Nat × Column) => counted_shareIdle u kv.1 n) t.columns t)
  generalize List.foldl _ t t.columns = u at shared
  rw [shared]
  exact ⟨_, _, _, rfl⟩

/-! ### Host lines written back when they are due -/

theorem mapGet_of_mem {α : Type} {kv : Nat × α} : ∀ {m : AMap α}, m.Pairwise (fun a b => a.1 < b.1) → kv ∈ m →
    mapGet m kv.1 = some kv.2
  | (k, v) :: r, h, hk => by
    obtain ⟨hlt, hr⟩ := List.pairwise_cons.1 h
    rcases List.mem_cons.1 hk with rfl | hk
    · exact if_pos rfl
    · exact (if_neg (Nat.ne_of_lt (hlt kv hk))).trans (mapGet_of_mem hr hk)

/-- A host line is written back where it has been dirty for 2^16 clocks of its column. -/
def dueLine (s : State) (k : Nat) : Bool :=
  match mapGet s.hostCopy k with
  | some h => h.dirty != 0 && decide (h.since + 2 ^ 16 ≤ s.cycOf (k / 2 ^ 47))
  | none => false

theorem writeBackDue_eq (s : State) : s.writeBackDue = s.cleanLines (dueLine s) := rfl

theorem cleanLines_frame (s : State) (hit : Nat → Bool) : ∃ host hostPsn contexts, s.cleanLines hit =
    { s with
      host := host, hostPsn := hostPsn, contexts := contexts
      hostCopy := mapAll s.hostCopy fun k h => if hit k then { h with dirty := 0 } else h } := by
  obtain ⟨host, hostPsn, contexts, hs, -⟩ := cleanFold_spec hit s.hostCopy s
  unfold State.cleanLines
  rw [hs]
  exact ⟨host, hostPsn, contexts, rfl⟩

theorem cleanLines_hostCopy (s : State) (hit : Nat → Bool) : (s.cleanLines hit).hostCopy
    = mapAll s.hostCopy fun k h => if hit k then { h with dirty := 0 } else h := rfl

/-- After the writing back no line has been dirty for 2^16 clocks. -/
theorem writeBackDue_due {s : State} (h : s.hostCopy.Pairwise fun a b => a.1 < b.1) {kv : Nat × HostLine}
    (hk : kv ∈ s.writeBackDue.hostCopy) (hd : kv.2.dirty ≠ 0) : s.cycOf (kv.1 / 2 ^ 47) < kv.2.since + 2 ^ 16 := by
  rw [writeBackDue_eq, cleanLines_hostCopy] at hk
  obtain ⟨q, hq, rfl⟩ := mem_mapAll hk
  by_cases hh : dueLine s q.1 = true
  · exact absurd (by rw [if_pos hh]) hd
  · simp only [if_neg hh] at hd ⊢
    unfold dueLine at hh
    rw [mapGet_of_mem h hq] at hh
    simpa [hd] using hh

theorem writeBackDue_written {s : State} (h : Canonical s) :
    WrittenBack s s.writeBackDue ∧ NoneDirtied s s.writeBackDue := by
  have kept := kept_cleanLines s (dueLine s) 0
  exact ⟨(kept.host h.host).2, kept.dirtied⟩

theorem endBusy_idle {s : State} (h : s.dev.busy = none) : s.endBusy = s := by
  unfold State.endBusy
  rw [h]

/-! ### Errors of storage -/

theorem strikeV_get (r : Regs) (n k : Nat) : mapGet (r.strikeV n k).v n
    = (mapGet r.v n).map fun v => { v with lanes := v.lanes.strike k } := by
  unfold Regs.strikeV
  rw [mapGet_mapAll]
  simp

theorem bit_strike (l : Lanes) {k j : Nat} (hk : k < 64) (hj : j < 64) :
    bit (l.strike k).poison j = (bit l.poison j || j == k) := by
  have struck : bit (BitVec.ofNat 64 (2 ^ k)) j = (j == k) := by
    unfold bit
    rw [BitVec.getLsbD_ofNat, Nat.testBit_two_pow, decide_eq_true hj, Bool.true_and]
    exact decide_eq_decide.2 eq_comm
  unfold Lanes.strike
  rw [bit_or, Nat.mod_eq_of_lt hk, struck]

theorem sameBytes_strikeRegs (s : State) (w : Nat) (f : Regs → Regs) : SameBytes s (s.strikeRegs w f) := by
  unfold State.strikeRegs State.modWarp
  split
  · exact ⟨rfl, rfl, rfl, rfl⟩
  · exact ⟨rfl, rfl, rfl, rfl⟩

theorem sameBytes_imprint (s : State) (x : Warp) (l : List (Nat × Lanes)) : SameBytes s (s.imprint x l) := by
  unfold State.imprint
  split
  · exact ⟨rfl, rfl, rfl, rfl⟩
  · exact ⟨rfl, rfl, rfl, rfl⟩

/-- A run whose journal is struck is discarded. -/
theorem strikeRun_discards {s : State} {w : Nat} {x : Warp} (h : s.warp w = some x) :
    (s.strikeRun w).warp w = some x.discard ∧ SameBytes s (s.strikeRun w) := by
  unfold State.strikeRun State.discardRun
  simp only [h]
  split
  · exact ⟨State.warp_setWarp _ _ _, sameBytes_imprint s x _⟩
  · exact ⟨State.warp_setWarp _ _ _, rfl, rfl, rfl, rfl⟩

/-- A corrected error is counted, up to the counter's end. -/
theorem upset_corrected (s : State) (col : Nat) :
    ((s.upset (.corrected col)).column col).secnt.toNat = min ((s.column col).secnt.toNat + 1) 0xFFFFFFFF := by
  refine (congrArg (fun c => c.secnt.toNat) (State.column_modColumn s col _)).trans ?_
  simp only []
  split
  · next h => rw [h]; rfl
  · next h => bv_omega

/-! ### The turns -/

theorem step_clocks {s : State} {n : Nat} {rest : List Turn} (h : s.agenda = .clocks n :: rest) (hs : Canonical s) :
    ∃ t, step s = .next t.endBusy.arbitrate ∧ (s.dev.busy = none → t.endBusy = t) ∧ t.agenda = rest
      ∧ t.cyc = s.cyc.map (· + n) ∧ t.mem = s.mem ∧ t.spad = s.spad ∧ t.peer = s.peer ∧ SameWork s t ∧ WrittenBack s t
      ∧ NoneDirtied s t ∧ ∀ kv ∈ t.hostCopy, kv.2.dirty ≠ 0 → t.cycOf (kv.1 / 2 ^ 47) < kv.2.since + 2 ^ 16 := by
  have hstep : step s = .next ((({ s with agenda := rest } : State).tick n).arbitrate) := step_turn h
  obtain ⟨columns, cores, contexts, hu⟩ := clocked_frame { s with agenda := rest } n
  rw [tick_eq, hu] at hstep
  have hc : Canonical { s with
      agenda := rest, columns := columns, cores := cores, contexts := contexts, cyc := s.cyc.map (· + n) } :=
    { hs with clocks := (List.length_map ..).trans hs.clocks }
  obtain ⟨written, dirtied⟩ := writeBackDue_written hc
  obtain ⟨host, hostPsn, contexts', ht⟩ := cleanLines_frame { s with
      agenda := rest, columns := columns, cores := cores, contexts := contexts, cyc := s.cyc.map (· + n) } (dueLine _)
  rw [← writeBackDue_eq] at ht
  have due := fun kv => writeBackDue_due hc.rising (kv := kv)
  refine ⟨_, hstep, ?_⟩
  rw [ht] at written dirtied due ⊢
  exact ⟨fun hb => endBusy_idle hb, rfl, rfl, rfl, rfl, rfl, ⟨rfl, rfl, rfl, rfl⟩, written, dirtied, due⟩

theorem step_upset {s : State} {u : Upset} {rest : List Turn} (h : s.agenda = .upset u :: rest) :
    step s = .next (({ s with agenda := rest } : State).upset u).arbitrate := step_turn h

theorem upset_lane {s : State} {w n k : Nat} {x : Warp} {r : VReg} (hk : k < 64) (hw : s.warp w = some x)
    (hr : mapGet x.regs.v n = some r) : SameBytes s (s.upset (.lane w n k)) ∧ ∃ y r',
      (s.upset (.lane w n k)).warp w = some y ∧ mapGet y.regs.v n = some r' ∧ r'.lanes.val = r.lanes.val
        ∧ ∀ j < 64, bit r'.lanes.poison j = (bit r.lanes.poison j || j == k) := by
  refine ⟨sameBytes_strikeRegs s w fun r => r.strikeV n k, _, _, State.warp_modWarp _ hw,
    (strikeV_get x.regs n k).trans (congrArg _ hr), rfl, fun j hj => bit_strike r.lanes hk hj⟩

/-- Settles O6: a turn is its act and the arbitration after it, and of the four turns each is one equation. -/
theorem stepRunsEvents : Obligations.StepRunsEvents := by
  intro s rest
  refine ⟨fun t ht => ?_, fun i ha hi hv => ?_, fun n ha hs => step_clocks ha hs, fun u ha => ?_⟩
  · have slotted := arbitrate_slotted (endPhaseWaits_same ht)
    exact ⟨slotted.frame, warp_of_slotted slotted⟩
  · exact (step_turn ha).trans (congrArg _ (act_event (isEvent_of_unencoded hi hv) _))
  · refine ⟨step_upset ha, fun col he => ?_, fun w x he hx => ?_, fun w n k x r he hk hx hr => ?_⟩
    · subst he
      exact ⟨rfl, upset_corrected _ col⟩
    · subst he
      exact strikeRun_discards hx
    · subst he
      exact upset_lane hk hx hr

end Sys2Proof.Machine
end

section
/-! The encoding (R37-R54, R59, R61): each word of a form is its fields side by side, so that what the decoder reads and what
the encoder writes are the same relation between an instruction and the words it begins. -/

namespace Sys2Proof

/-! ### The codes of the parts of an encoding -/

@[simp] theorem Opcode.ofCode_code (op : Opcode) : Opcode.ofCode op.code = some op := by cases op <;> rfl

theorem Opcode.ofCode_eq_some_iff {c : BitVec 8} {op : Opcode} : Opcode.ofCode c = some op ↔ op.code = c := by
  have all : ∀ c : BitVec 8, (Opcode.ofCode c).all (fun op => op.code == c) = true := by decide
  exact ⟨fun h => by simpa [h] using all c, fun h => h ▸ op.ofCode_code⟩

theorem Ty.ofCode_eq_some_iff {c : BitVec 5} {t : Ty} : Ty.ofCode c = some t ↔ t.code = c := by
  have all : ∀ c : BitVec 5, (Ty.ofCode c).all (fun t => t.code == c) = true := by decide
  exact ⟨fun h => by simpa [h] using all c, fun h => by subst h; cases t <;> rfl⟩

@[simp] theorem rndOf_code (r : Rnd) : rndOf r.code = r := by cases r <;> rfl

@[simp] theorem Rnd.code_rndOf : ∀ x : BitVec 2, (rndOf x).code = x := by decide

@[simp] theorem widOf_code (w : Wid) : widOf w.code = w := by cases w <;> rfl

@[simp] theorem Wid.code_widOf : ∀ x : BitVec 2, (widOf x).code = x := by decide

/-- The ranges of R46 do not meet, so a selector and its 9-bit code name each other. -/
theorem sel9_eq_some_iff {x : BitVec 9} {s : Sel} : sel9 x = some s ↔ s.code9 = x := by
  constructor
  · intro h
    simp only [sel9] at h
    split_ifs at h <;> cases h <;> simp only [Sel.code9] <;> bv_omega
  · rintro rfl
    cases s with
    | v n => revert n; decide
    | s n => revert n; decide
    | c n => revert n; decide
    | l n => revert n; decide
    | p n => revert n; decide
    | imm k => revert k; decide
    | zero => rfl
    | lit => rfl
    | litHi => rfl

/-- The selectors that a short form may hold, and their 6-bit codes (R42). -/
theorem sel6_eq_some_iff {uni : Bool} {x : BitVec 6} {s : Sel} :
    sel6 uni x = some s ↔ s.fits6 uni = true ∧ s.code6 = x := by
  constructor
  · intro h
    simp only [sel6] at h
    split_ifs at h <;> cases h <;> simp [Sel.code6, Sel.fits6, *] <;> bv_omega
  · rintro ⟨h, rfl⟩
    cases s with
    | v n => revert h; revert uni n; decide
    | s n => revert h; revert uni n; decide
    | c n => revert h; revert uni n; decide
    | l n => revert h; revert uni n; decide
    | zero => rfl
    | lit => rfl
    | litHi => cases h
    | p n => cases h
    | imm k => cases h

/-! ### The words of a form, field by field -/

/-- Two joined pairs are equal where their parts are. -/
theorem append_inj {m n : Nat} {x x' : BitVec m} {y y' : BitVec n} : x ++ y = x' ++ y' ↔ x = x' ∧ y = y' := by
  refine ⟨fun h => ⟨?_, ?_⟩, fun ⟨hx, hy⟩ => by rw [hx, hy]⟩
  · simpa only [BitVec.extractLsb'_append_eq_left] using congrArg (BitVec.extractLsb' n m) h
  · simpa only [BitVec.extractLsb'_append_eq_right] using congrArg (BitVec.extractLsb' 0 n) h

theorem flag_eq_iff {n : Nat} {w : BitVec n} {b : Bool} {i : Nat} : flag b = w.extractLsb' i 1 ↔ b = bit w i := by
  rw [BitVec.eq_of_getLsbD_eq_iff]
  simp [flag, bit]

/-- The bits that every form carries (R40). -/
theorem encodeCommon_eq_iff {op : Opcode} {f : Fields} {w : Word} :
    encodeCommon op f = w.extractLsb' 0 12 ↔ op.code = bits w 11 4 ∧ f.uni = bit w 3 ∧ f.rb = bit w 2
      ∧ (f.form == .ext) = bit w 1 ∧ f.lit.isSome = bit w 0 := by
  have layout : w.extractLsb' 4 8 ++ w.extractLsb' 3 1 ++ w.extractLsb' 2 1 ++ w.extractLsb' 1 1 ++ w.extractLsb' 0 1
      = w.extractLsb' 0 12 := by
    repeat rw [BitVec.extractLsb'_append_extractLsb'_eq_extractLsb' (by decide)]
  rw [← layout]
  unfold encodeCommon bits
  rw [append_inj]
  simp only [append_inj, flag_eq_iff, and_assoc]

/-- A short form's word is `w` where each field is what `w` has at its bits (R41). -/
theorem encodeShort_eq_iff {op : Opcode} {f : Fields} {w : Word} :
    encodeShort op f = w ↔ f.db = bit w 31 ∧ f.da = bit w 30 ∧ f.b.code6 = bits w 29 24 ∧ f.a.code6 = bits w 23 18
      ∧ f.d.code6 = bits w 17 12 ∧ encodeCommon op f = w.extractLsb' 0 12 := by
  have layout : w.extractLsb' 31 1 ++ w.extractLsb' 30 1 ++ w.extractLsb' 24 6 ++ w.extractLsb' 18 6
      ++ w.extractLsb' 12 6 ++ w.extractLsb' 0 12 = w := by
    repeat rw [BitVec.extractLsb'_append_extractLsb'_eq_extractLsb' (by decide)]
    exact BitVec.extractLsb'_eq_self
  conv_lhs => rw [← layout]
  unfold encodeShort bits
  rw [append_inj]
  simp only [append_inj, flag_eq_iff, and_assoc]

/-- Word 0 of an extended form (R44). -/
theorem encodeExt0_eq_iff {op : Opcode} {f : Fields} {w : Word} :
    encodeExt0 op f = w ↔ f.gp = bits w 31 29 ∧ f.la = bits w 28 25 ∧ f.rnd.code = bits w 24 23
      ∧ f.ty.code = bits w 22 18 ∧ f.sub = bits w 17 12 ∧ encodeCommon op f = w.extractLsb' 0 12 := by
  have layout : w.extractLsb' 29 3 ++ w.extractLsb' 25 4 ++ w.extractLsb' 23 2 ++ w.extractLsb' 18 5
      ++ w.extractLsb' 12 6 ++ w.extractLsb' 0 12 = w := by
    repeat rw [BitVec.extractLsb'_append_extractLsb'_eq_extractLsb' (by decide)]
    exact BitVec.extractLsb'_eq_self
  conv_lhs => rw [← layout]
  unfold encodeExt0 bits
  rw [append_inj]
  simp only [append_inj, and_assoc]

/-- Word 1 of an extended form (R44). -/
theorem encodeExt1_eq_iff {f : Fields} {w : Word} :
    encodeExt1 f = w ↔ f.da = bit w 31 ∧ f.b.code9 = bits w 30 22 ∧ f.aw.code = bits w 21 20
      ∧ f.a.code9 = bits w 19 11 ∧ f.dw.code = bits w 10 9 ∧ f.d.code9 = bits w 8 0 := by
  have layout : w.extractLsb' 31 1 ++ w.extractLsb' 22 9 ++ w.extractLsb' 20 2 ++ w.extractLsb' 11 9
      ++ w.extractLsb' 9 2 ++ w.extractLsb' 0 9 = w := by
    repeat rw [BitVec.extractLsb'_append_extractLsb'_eq_extractLsb' (by decide)]
    exact BitVec.extractLsb'_eq_self
  conv_lhs => rw [← layout]
  unfold encodeExt1 bits
  rw [append_inj]
  simp only [append_inj, flag_eq_iff, and_assoc]

/-- Word 2 of an extended form (R44). -/
theorem encodeExt2_eq_iff {f : Fields} {w : Word} :
    encodeExt2 f = w ↔ f.x = bits w 31 23 ∧ f.sat = bit w 22 ∧ f.absa = bit w 21 ∧ f.nb = bit w 20 ∧ f.na = bit w 19
      ∧ f.kc = bits w 18 16 ∧ f.keep = bit w 15 ∧ f.dc = bit w 14 ∧ f.db = bit w 13 ∧ f.cw.code = bits w 12 11
      ∧ f.c.code9 = bits w 10 2 ∧ f.bw.code = bits w 1 0 := by
  have layout : w.extractLsb' 23 9 ++ w.extractLsb' 22 1 ++ w.extractLsb' 21 1 ++ w.extractLsb' 20 1
      ++ w.extractLsb' 19 1 ++ w.extractLsb' 16 3 ++ w.extractLsb' 15 1 ++ w.extractLsb' 14 1 ++ w.extractLsb' 13 1
      ++ w.extractLsb' 11 2 ++ w.extractLsb' 2 9 ++ w.extractLsb' 0 2 = w := by
    repeat rw [BitVec.extractLsb'_append_extractLsb'_eq_extractLsb' (by decide)]
    exact BitVec.extractLsb'_eq_self
  conv_lhs => rw [← layout]
  unfold encodeExt2 bits
  rw [append_inj]
  simp only [append_inj, flag_eq_iff, and_assoc]

theorem loWord_eq (x : Addr) : loWord x = x.extractLsb' 0 32 := BitVec.setWidth_eq_extractLsb' (by decide)

theorem hiWord_eq (x : Addr) : hiWord x = x.extractLsb' 32 32 := by
  apply BitVec.eq_of_getLsbD_eq
  intro i hi
  simp [hiWord, hi]

/-- A literal's words, low word first (R38). -/
theorem encodeLit_pair (lo hi : Word) : encodeLit (some (pair lo hi)) = [lo, hi] := by
  have hlo : loWord (pair lo hi) = lo := (loWord_eq _).trans BitVec.extractLsb'_append_eq_right
  have hhi : hiWord (pair lo hi) = hi := (hiWord_eq _).trans BitVec.extractLsb'_append_eq_left
  simp only [encodeLit, hlo, hhi]

/-- A literal is the pair of its words. -/
@[simp] theorem pair_loWord_hiWord (x : Addr) : pair (loWord x) (hiWord x) = x := by
  rw [pair, loWord_eq, hiWord_eq, BitVec.extractLsb'_append_extractLsb'_eq_extractLsb' (by decide)]
  exact BitVec.extractLsb'_eq_self

/-- The length code (R37) as the form and the literal that it stands for. -/
theorem lenForm_eq_iff {w : Word} {form : Form} {hasLit : Bool} :
    lenForm w = (form, hasLit) ↔ (form == .ext) = bit w 1 ∧ hasLit = bit w 0 := by
  unfold lenForm
  rw [Prod.mk.injEq, @eq_comm _ (bit w 0)]
  cases form <;> cases bit w 1 <;> simp

/-! ### What is read of the words of a form -/

/-- A short form is told by the fields that its word holds, and its literal (R43). -/
theorem eq_of_shortDefaults {f : Fields} {ty : Ty} (hf : f.form = .short) (h : f.shortDefaults ty = true) :
    f = { form := .short, rb := f.rb, uni := f.uni, gp := 7, la := 0, rnd := .rne, ty := ty, sub := 0, d := f.d, a := f.a
          b := f.b, c := .zero, dw := .w1, aw := .w1, bw := .w1, cw := .w1, da := f.da, db := f.db, dc := false
          keep := false, kc := 0, na := false, nb := false, absa := false, sat := false, x := 0, lit := f.lit } := by
  cases f
  simp_all [Fields.shortDefaults]

/-- The selectors of a short form fit it (R42). -/
theorem fits6_of_shortDefaults {f : Fields} {ty : Ty} (h : f.shortDefaults ty = true) :
    f.d.fits6 f.uni = true ∧ f.a.fits6 f.uni = true ∧ f.b.fits6 f.uni = true := by
  simp only [Fields.shortDefaults, Bool.and_eq_true] at h
  obtain ⟨⟨⟨-, hd⟩, ha⟩, hb⟩ := h
  exact ⟨hd, ha, hb⟩

/-- What is read of a short form: the defaults of R43, and the fields whose word it is (R41). -/
theorem rawShort_eq_ok_iff {op : Opcode} {w : Word} {ty : Ty} {lit : Option Addr} {f : Fields}
    (hop : op.code = bits w 11 4) (hl : lenForm w = (.short, lit.isSome)) :
    rawShort w ty lit = .ok f ↔ f.form = .short ∧ f.shortDefaults ty = true ∧ f.lit = lit ∧ encodeShort op f = w := by
  obtain ⟨hform, hlit⟩ := lenForm_eq_iff.mp hl
  rw [encodeShort_eq_iff, encodeCommon_eq_iff]
  unfold rawShort
  constructor
  · intro h
    dsimp only at h
    split at h
    · next d a b hd ha hb =>
      rw [sel6_eq_some_iff] at hd ha hb
      cases h
      simp [Fields.shortDefaults, *]
    · cases h
  · rintro ⟨hf, hd, rfl, hdb, hda, hb, ha, hdd, -, hu, hrb, -⟩
    obtain ⟨fd, fa, fb⟩ := fits6_of_shortDefaults hd
    have sd := sel6_eq_some_iff.mpr ⟨fd, hdd⟩
    have sa := sel6_eq_some_iff.mpr ⟨fa, ha⟩
    have sb := sel6_eq_some_iff.mpr ⟨fb, hb⟩
    simp only [← hu, ← hrb, ← hda, ← hdb, sd, sa, sb]
    exact congrArg _ (eq_of_shortDefaults hf hd).symm

/-- What is read of an extended form: the fields whose words they are (R44). -/
theorem rawExt_eq_ok_iff {op : Opcode} {w0 w1 w2 : Word} {lit : Option Addr} {f : Fields}
    (hop : op.code = bits w0 11 4) (hl : lenForm w0 = (.ext, lit.isSome)) :
    rawExt w0 w1 w2 lit = .ok f ↔
      f.form = .ext ∧ f.lit = lit ∧ encodeExt0 op f = w0 ∧ encodeExt1 f = w1 ∧ encodeExt2 f = w2 := by
  obtain ⟨hform, hlit⟩ := lenForm_eq_iff.mp hl
  rw [encodeExt0_eq_iff, encodeExt1_eq_iff, encodeExt2_eq_iff, encodeCommon_eq_iff]
  unfold rawExt
  constructor
  · intro h
    split at h
    · cases h
    · next ty ht =>
      split at h
      · next d a b c hd ha hb hc =>
        rw [Ty.ofCode_eq_some_iff] at ht
        rw [sel9_eq_some_iff] at hd ha hb hc
        cases h
        simp [*, ← hform]
      · cases h
  · rintro ⟨hf, rfl, ⟨hgp, hla, hrnd, hty, hsub, -, hu, hrb, -⟩, ⟨hda, hb, haw, ha, hdw, hd⟩,
      ⟨hx, hsat, habs, hnb, hna, hkc, hkeep, hdc, hdb, hcw, hc, hbw⟩⟩
    rw [← Ty.ofCode_eq_some_iff] at hty
    rw [← sel9_eq_some_iff] at hd ha hb hc
    simp only [hty, hd, ha, hb, hc, ← hgp, ← hla, ← hrnd, ← hsub, ← hu, ← hrb, ← hda, ← haw, ← hdw, ← hx, ← hsat,
      ← habs, ← hnb, ← hna, ← hkc, ← hkeep, ← hdc, ← hdb, ← hcw, ← hbw, ← hf, rndOf_code, widOf_code]

/-! ### The checks that a short form passes -/

/-- The short-form type of an opcode does not depend on the fields. -/
theorem shortTy_spec (op : Opcode) (f : Fields) : (op.spec f).shortTy = op.shortType := by
  have none_of {op : Opcode} (h : ∀ f, (op.spec f).shortTy = none) : (op.spec f).shortTy = op.shortType :=
    (h f).trans (h _).symm
  cases op
  case cvt => exact none_of fun f => by simp only [Opcode.spec]; split <;> rfl
  case cvts => exact none_of fun f => by simp only [Opcode.spec]; split <;> rfl
  case sysr => exact none_of fun f => by simp only [Opcode.spec]; split <;> rfl
  case sysw => exact none_of fun f => by simp only [Opcode.spec]; split <;> rfl
  all_goals rfl

theorem Reject.first_eq_none_iff {a b : Option Reject} : Reject.first a b = none ↔ a = none ∧ b = none := by
  cases a <;> simp [Reject.first]

theorem Reject.unless_eq_none_iff {ok : Bool} {r : Reject} : Reject.unless ok r = none ↔ ok = true := by
  cases ok <;> simp [Reject.unless]

/-- A short form that passes the checks of R54 has a short-form type, and the values R43 gives it. -/
theorem shortDefaults_of_check {op : Opcode} {f : Fields} (h : op.check f = none) (hf : f.form = .short) :
    ∃ t, op.shortType = some t ∧ f.shortDefaults t = true := by
  have form := (Reject.first_eq_none_iff.mp h).1
  rw [hf, shortTy_spec] at form
  cases ht : op.shortType with
  | none => simp [ht] at form
  | some t => exact ⟨t, rfl, Reject.unless_eq_none_iff.mp (by simpa [ht] using form)⟩

/-! ### The decoder and the encoder -/

/-- The fields of an instruction are read back from its words. -/
theorem rawFields_encodeFields {op : Opcode} {f : Fields} (h : op.check f = none) (rest : List Word) :
    rawFields op (encodeFields op f ++ rest) = .ok f := by
  cases hf : f.form with
  | short =>
    obtain ⟨t, ht, hd⟩ := shortDefaults_of_check h hf
    obtain ⟨-, -, -, -, -, hc⟩ := encodeShort_eq_iff.mp (rfl : encodeShort op f = _)
    obtain ⟨hop, -, -, hext, hlit⟩ := encodeCommon_eq_iff.mp hc
    have hlen : lenForm (encodeShort op f) = (.short, f.lit.isSome) :=
      lenForm_eq_iff.mpr ⟨by rw [← hext, hf], hlit⟩
    have read := (rawShort_eq_ok_iff hop hlen).mpr ⟨hf, hd, rfl, rfl⟩
    cases hl : f.lit <;> simp [encodeFields, rawFields, encodeLit, hlen, ht, hf, hl, ← read]
  | ext =>
    obtain ⟨-, -, -, -, -, hc⟩ := encodeExt0_eq_iff.mp (rfl : encodeExt0 op f = _)
    obtain ⟨hop, -, -, hext, hlit⟩ := encodeCommon_eq_iff.mp hc
    have hlen : lenForm (encodeExt0 op f) = (.ext, f.lit.isSome) :=
      lenForm_eq_iff.mpr ⟨by rw [← hext, hf], hlit⟩
    have read := (rawExt_eq_ok_iff hop hlen).mpr ⟨hf, rfl, rfl, rfl, rfl⟩
    cases hl : f.lit <;> simp [encodeFields, rawFields, encodeLit, hlen, hf, hl, ← read]

/-- The words that a short form was read from are its encoding. -/
theorem encodeFields_of_rawShort {op : Opcode} {w : Word} {ty : Ty} {lit : Option Addr} {f : Fields}
    (hop : op.code = bits w 11 4) (h : rawShort w ty lit = .ok f)
    (hl : lenForm w = (.short, lit.isSome)) :
    encodeFields op f = w :: encodeLit lit := by
  obtain ⟨hf, -, rfl, hw⟩ := (rawShort_eq_ok_iff hop hl).mp h
  simp only [encodeFields, hf, hw]

/-- The words that an extended form was read from are its encoding. -/
theorem encodeFields_of_rawExt {op : Opcode} {w0 w1 w2 : Word} {lit : Option Addr} {f : Fields}
    (hop : op.code = bits w0 11 4) (h : rawExt w0 w1 w2 lit = .ok f)
    (hl : lenForm w0 = (.ext, lit.isSome)) :
    encodeFields op f = w0 :: w1 :: w2 :: encodeLit lit := by
  obtain ⟨hf, rfl, h0, h1, h2⟩ := (rawExt_eq_ok_iff hop hl).mp h
  simp only [encodeFields, hf, h0, h1, h2]

/-- The fields that are read are those whose words they are read from. -/
theorem eq_encodeFields_of_rawFields {op : Opcode} {w0 : Word} {ws : List Word} {f : Fields}
    (hop : op.code = bits w0 11 4) (h : rawFields op (w0 :: ws) = .ok f) :
    ∃ rest, w0 :: ws = encodeFields op f ++ rest := by
  simp only [rawFields] at h
  split at h
  · split at h
    · cases h
    · split at h
      · next hl => exact ⟨_, by rw [encodeFields_of_rawShort hop h hl]; rfl⟩
      · next hl => exact ⟨_, by rw [encodeFields_of_rawShort hop h hl, encodeLit_pair]; rfl⟩
      · cases h
  · next hl => exact ⟨_, by rw [encodeFields_of_rawExt hop h hl]; rfl⟩
  · next hl => exact ⟨_, by rw [encodeFields_of_rawExt hop h hl, encodeLit_pair]; rfl⟩
  · cases h

/-- An opcode and its fields are those of the instruction they stand for. -/
theorem Opcode.encoded_instr (op : Opcode) (f : Fields) : (op.instr f).encoded = some (op, f) := by
  obtain ⟨form⟩ := f
  cases form <;> cases op <;> rfl

/-- What the decoder answers: the instruction of an opcode and fields that pass the checks of R54, and whose words stand
first. -/
theorem decode_eq_ok_iff {ws : List Word} {i : Instr} :
    decode ws = .ok i ↔ ∃ op f rest, i = op.instr f ∧ op.check f = none ∧ ws = encodeFields op f ++ rest := by
  constructor
  · intro h
    unfold decode at h
    split at h
    · cases h
    · next w0 ws' =>
      split at h
      · cases h
      · next op hop =>
        split at h
        · cases h
        · next f hf =>
          split at h
          · cases h
          · next hc =>
            cases h
            obtain ⟨rest, hr⟩ := eq_encodeFields_of_rawFields (Opcode.ofCode_eq_some_iff.mp hop) hf
            exact ⟨op, f, rest, rfl, hc, hr⟩
  · rintro ⟨op, f, rest, rfl, hc, rfl⟩
    obtain ⟨w0, ws, hw, hop, -⟩ := (Laws.Encoding.words (op.instr f) op f (op.encoded_instr f)).2
    have hr := rawFields_encodeFields hc rest
    have he : encode (op.instr f) = encodeFields op f := by simp only [encode, op.encoded_instr]
    rw [← he, hw, List.cons_append] at hr ⊢
    simp only [decode, hop, op.ofCode_code, hr, hc]
/-- Settles O8: an instruction that is well formed is that of its opcode and fields, which pass the checks. -/
theorem encodeDecode : Obligations.EncodeDecode := by
  intro i op f rest hi hwf
  have hwf : i.check = none := hwf
  simp only [Instr.check, hi] at hwf
  split at hwf
  · next hinstr =>
    exact decode_eq_ok_iff.mpr ⟨op, f, rest, hinstr.symm, hwf, by simp only [encode, hi]⟩
  · cases hwf

/-- Settles O9: what the decoder answers has passed the checks, and begins the words it was read from. -/
theorem decodeEncode : Obligations.DecodeEncode := by
  intro ws i h
  obtain ⟨op, f, rest, rfl, hc, rfl⟩ := decode_eq_ok_iff.mp h
  refine ⟨?_, rest, by simp only [encode, op.encoded_instr]⟩
  simp only [Instr.WellFormed, Instr.check, op.encoded_instr, if_true, hc]

/-- Settles O7: each word is decoded as it stands. -/
theorem decodedWords : Obligations.DecodedWords := by
  unfold Obligations.DecodedWords
  and_intros <;> rfl

end Sys2Proof
end

section
/-! What an issue and a turn come to (R54-R57, R81, R87, R105): the ways an encoded instruction goes, the trap of one that
stops, and the step of a warp that issues. -/

namespace Sys2Proof.Machine

open Sys2Proof

/-! ### The ways an instruction goes -/

section
variable {s : State} {w : Nat} {x : Warp} {op : Opcode} {f : Fields} {always : Bool} {pre : Cx → Bool} {body : Cx → Step}

/-- A synchronous trap discards the run and is taken, with the run's first instruction as the resume point (R81, R124). -/
theorem stopped_trap (h : s.warp w = some x) (pc : Addr) (k : Cause) (mask : Mask) :
    s.stopped w pc (.trap k mask)
      = ((s.walked w k).discardRun w).takeTrap w k mask pc x.theRun.startPc false (k.code == 2) := by
  unfold State.stopped
  rw [h]
  rfl

/-- An encoding that is illegal as the machine stands stops before the gate. -/
theorem issue_illegal (hi : Issuing s w x) (hpre : pre (s.cx w x f) = false) :
    s.issue op f always pre body
      = .next (trapped s w (s.cx w x f) { code := 0x10, info := 0, addr := 0 } (s.cx w x f).act) := by
  obtain ⟨hc, hx⟩ := hi
  unfold State.issue
  simp only [hc, hx, hpre]
  exact congrArg _ (stopped_trap hx _ _ _)

/-- An instruction that its gate stops. -/
theorem issue_gated {st : Stop} (hi : Issuing s w x) (hpre : pre (s.cx w x f) = true)
    (hg : (s.cx w x f).gate op = .error (st, s)) :
    s.issue op f always pre body = .next (s.stopped w (s.cx w x f).pc st) := by
  obtain ⟨hc, hx⟩ := hi
  unfold State.issue
  simp only [hc, hx, hpre, hg]
  rfl

/-- An instruction that its body stops. -/
theorem issue_stops {c : Cx} {st : Stop} {t : State} (hi : Issuing s w x) (hpre : pre (s.cx w x f) = true)
    (hg : (s.cx w x f).gate op = .ok c) (hact : c.act ≠ 0) (hb : body c = .error (st, t)) :
    s.issue op f always pre body = .next (t.stopped w (s.cx w x f).pc st) := by
  obtain ⟨hc, hx⟩ := hi
  unfold State.issue
  simp only [hc, hx, hpre, hg, hact, hb]
  rfl

/-- With no thread active an instruction that is not structural only ends (R55). -/
theorem issue_idle {c : Cx} (hi : Issuing s w x) (hpre : pre (s.cx w x f) = true)
    (hg : (s.cx w x f).gate op = .ok c) (hact : c.act = 0) :
    s.issue op f false pre body = .next (completes c x op) := by
  obtain ⟨hc, hx⟩ := hi
  unfold State.issue
  simp only [hc, hx, hpre, hg, hact]
  rfl

end

/-- Settles O10: an illegal encoding is looked for before the gate. -/
theorem illegalTraps : Obligations.IllegalTraps := by
  intro s w x i op f he hi hm
  rw [exec_encoded he]
  exact issue_illegal hi hm

/-- Settles O14: past the gate, no body runs where no thread is active. -/
theorem noThreadNoEffect : Obligations.NoThreadNoEffect := by
  intro s w x i op f he ⟨hi, hm, hd, hb⟩ ⟨hcount, hstores⟩ hact hn
  have hg : (s.cx w x f).gate op = .ok (admitted (s.cx w x f) op) :=
    gate_admits ⟨hd, hb, hcount, hstores, fun h => absurd hact h⟩
  rw [admitted, if_pos hact] at hg
  refine ⟨completes_issued rfl (issued_same s w false), ?_⟩
  rw [exec_encoded he, hn]
  exact issue_idle hi hm hg hact

/-- Settles O20: the event is the trap of the warp that issues, and of no walk. -/
theorem unassignedTraps : Obligations.UnassignedTraps := by
  intro s w x v ⟨hc, hx⟩
  show execUnassignedOpcode v s = _
  unfold execUnassignedOpcode State.trapAtPc
  simp only [hc, hx, stopped_trap hx]
  rfl

/-! ### A warp's turn -/

theorem issueTurn_issues {s : State} {w : Nat} {x y : Warp} (hx : s.warp w = some x)
    (hwin : s.winner x.col x.core x.slot = some w) (hwait : x.wait = .none) (hend : x.run.bind Run.ended = none)
    (hy : (s.settleArrivals.giveSlot w x).warp w = some y) :
    s.issueTurn w = (s.settleArrivals.giveSlot w x).issueNext w y := by
  unfold State.issueTurn
  simp only [hx, hwin, hwait, hend, hy]
  rw [if_neg (not_not_intro rfl), if_neg (not_not_intro rfl), if_neg (by decide)]

theorem unlessBlocked_next (s u : State) :
    s.unlessBlocked (.next u) = .next (if u.blocked = true ∧ s.blocked = false then s else u) := by
  show (if u.blocked && !s.blocked then .next s else .next u : Host.Outcome State Fault Refusal) = _
  simp only [Bool.and_eq_true, Bool.not_eq_true', apply_ite Host.Outcome.next]

/-- What stands at a place that was fetched from: its bytes, or a word that stood there (R39). -/
theorem fetchWord_cases {s : State} {y : Warp} {a : Addr} {v : Word} {p : Place} (h : s.fetchWord y a = .ok (v, p)) :
    ∃ ps, s.places y.col y.core (s.asidOf y) true (selfPtr a) 4 0 { exec := true } = .ok (p :: ps)
      ∧ (v = BitVec.ofNat 32 (leNat ((p :: ps).map fun q => (s.readLoc y.col q.loc).1))
        ∨ ∃ o ∈ s.oldWords, o.grid = s.gridId y ∧ o.place = p.loc.word ∧ v = o.word) := by
  unfold State.fetchWord at h
  split at h
  · cases h
  · split at h
    · cases h
    · next ps hps =>
      split at h
      · cases h
      · next q qs =>
        cases h
        exact ⟨qs, hps, mixed_cases s y a p.loc _⟩

section
variable {s : State} {y : Warp}

theorem nextInstr_misaligned (h : y.theRun.work.pc.toNat % 4 ≠ 0) : s.nextInstr y = .bad := if_pos h

theorem nextInstr_fault {c : Cause} (ha : y.theRun.work.pc.toNat % 4 = 0)
    (h : s.fetchWords y y.theRun.work.pc = .error c) : s.nextInstr y = .fault c := by
  simp only [State.nextInstr, ha, h]
  rfl

theorem nextInstr_fetched {ws : List (Word × Place)} (ha : y.theRun.work.pc.toNat % 4 = 0)
    (h : s.fetchWords y y.theRun.work.pc = .ok ws) :
    (∀ i, decode (ws.map Prod.fst) = .ok i → s.nextInstr y = .word i)
    ∧ (decode (ws.map Prod.fst) = .error .unassignedOpcode →
        s.nextInstr y = .word (.unassignedOpcode ((ws.map Prod.fst).headD 0)))
    ∧ ∀ r, decode (ws.map Prod.fst) = .error r → r ≠ .unassignedOpcode → s.nextInstr y = .bad := by
  simp only [State.nextInstr, ha, h]
  refine ⟨fun i hi => ?_, fun hi => ?_, fun r hi hr => ?_⟩
  · simp only [hi]
    rfl
  · simp only [hi]
    rfl
  · simp only [hi]
    exact if_neg (not_not_intro rfl)

end

/-- Settles O5: a warp's turn is `issueNext`, which goes by what `nextInstr` finds. -/
theorem stepRunsDecoded : Obligations.StepRunsDecoded := by
  intro s w rest x y s0 s1 hag hx hwin hwait hend hy pc t runs illegal
  have turn {o : Host.Outcome State Fault Refusal} (h : s1.issueNext w y = o) : runs o := by
    show step s = _
    rw [step_turn hag]
    show arbitrated (s0.unlessBlocked (s0.issueTurn w)) = _
    rw [issueTurn_issues (s := s0) hx hwin hwait hend hy]
    exact congrArg (fun o => arbitrated (s0.unlessBlocked o)) h
  refine ⟨unlessBlocked_next s0, fun ha => turn ?_, fun ha => ⟨fun c hc => turn ?_, fun ws hws => ?_⟩, fun a v p =>
    fetchWord_cases⟩
  · rw [State.issueNext, nextInstr_misaligned ha]
  · rw [State.issueNext, nextInstr_fault ha hc]
  · obtain ⟨word, unassigned, bad⟩ := nextInstr_fetched ha hws
    refine ⟨fun i hi => turn ?_, fun hi => turn ?_, fun r hi hr => turn ?_⟩
    · rw [State.issueNext, word i hi]
    · rw [State.issueNext, unassigned hi]
    · rw [State.issueNext, bad r hi hr]

end Sys2Proof.Machine
end

section
/-! The end of an instruction (R56, R75, R96, R100, R103): what it counts, where it ends its run, and the windows that it
closes. -/

namespace Sys2Proof.Machine

open Sys2Proof

/-! ### What a result written again changes -/

/-- Registers that agree but for those that a result can be written to. -/
def ReceivedOnly (r q : Regs) : Prop := q = { r with v := q.v, s := q.s, c := q.c, home := q.home }

theorem receivedOnly_trans {r q p : Regs} (h : ReceivedOnly r q) (g : ReceivedOnly q p) : ReceivedOnly r p := by
  unfold ReceivedOnly at *
  rw [g, h]

theorem receivedOnly_foldl {α : Type} {f : Regs → α → Regs} (hf : ∀ r a, ReceivedOnly r (f r a)) (l : List α)
    (r : Regs) : ReceivedOnly r (l.foldl f r) :=
  List.foldlRecOn (motive := ReceivedOnly r) l f rfl fun q hq a _ => receivedOnly_trans hq (hf q a)

theorem receivedOnly_receive (r : Regs) (p : Pending) (kept : Nat → Bool) (free : Nat → Lanes) :
    ReceivedOnly r (r.receive p kept free) := by
  unfold Regs.receive
  refine receivedOnly_trans (receivedOnly_foldl (fun q j => ?_) _ r) rfl
  split
  · split <;> rfl
  · rfl
  · rfl

/-- A result that reaches none of its registers. -/
theorem receive_none {p : Pending} {kept : Nat → Bool} (h : ∀ j, kept j = false) (r : Regs) (free : Nat → Lanes) :
    r.receive p kept free = r := by
  have hl : (List.range p.count).filter kept = [] := by simp [h]
  have hc : p.receiveC r.c kept free = r.c := by simp [Pending.receiveC, h]
  have hh : p.receiveHome r.home kept = r.home := by simp [Pending.receiveHome, h]
  simp [Regs.receive, hl, hc, hh]

/-- Registers after the windows of some results that are over have closed: those that `names` gives of each are written
again where the free choice says so (R103). -/
def writtenAgain (pend : List Pending) (pick : Nat → Nat → Bool) (free : Nat → Lanes) (names : Pending → List Nat)
    (r : Regs) : Regs :=
  ((List.range pend.length).filterMap fun i => (pend[i]?).bind fun p => if p.closed then some (i, p) else none).foldl
    (fun r q => r.receive q.2 (fun j => (names q.2).contains j && pick q.1 j) free) r

theorem closeWindows_eq (x : Warp) (pick : Nat → Nat → Bool) (free : Nat → Lanes) :
    x.closeWindows pick free =
      { x with regs := writtenAgain x.pend pick free Pending.contested x.regs
               run := x.run.map fun r =>
                 { r with work := writtenAgain x.pend pick free (fun p => p.contested ++ p.touched) r.work }
               pend := x.pend.filter fun p => !p.closed } := rfl

theorem receivedOnly_writtenAgain (pend : List Pending) (pick : Nat → Nat → Bool) (free : Nat → Lanes)
    (names : Pending → List Nat) (r : Regs) : ReceivedOnly r (writtenAgain pend pick free names r) :=
  receivedOnly_foldl (fun r _ => receivedOnly_receive r _ _ free) _ r

/-- Where the program has written in no window that is over, no register is written again. -/
theorem writtenAgain_none {pend : List Pending} {names : Pending → List Nat}
    (h : ∀ p ∈ pend, p.closed = true → names p = []) (pick : Nat → Nat → Bool) (free : Nat → Lanes) (r : Regs) :
    writtenAgain pend pick free names r = r := by
  refine List.foldlRecOn (motive := fun q => q = r) _ _ rfl fun q hq e he => ?_
  obtain ⟨i, -, hi⟩ := List.mem_filterMap.mp he
  obtain ⟨p, hp, hc⟩ := Option.bind_eq_some_iff.mp hi
  subst hq
  split at hc
  · next hclosed =>
    cases hc
    exact receive_none (fun j => by simp [h p (List.mem_of_getElem? hp) hclosed]) _ _
  · cases hc

/-! ### The end of an instruction -/

/-- The results pending as an instruction ends, with the windows open before it one shorter. -/
def shrunk (c : Cx) (x : Warp) : List Pending :=
  c.x.pend.map fun p => { p with window := if (x.pend.map Pending.id).contains p.id then p.window - 1 else p.window }

/-- The run as an instruction leaves it, before the windows close. -/
def endedRun (c : Cx) (x : Warp) (op : Opcode) : Run :=
  { c.r with
    work := { c.r.work with pc := c.nxt }, count := c.r.count + 1
    stores := if (opClass op).store then c.r.stores + 1 else c.r.stores
    cmp := c.r.cmp ++ c.twice (x.pend.map Pending.id), lastPc := c.pc, cold := (opClass op).waits
    ended := match c.r.ended with
      | some e => some e
      | none => if c.f.rb || (opClass op).ends || c.r.work.allExited || (c.mode == 2 && c.r.count + 1 == 24) then some .plain
        else none }

/-- The run that an instruction leaves, with the windows closed. -/
def closedRun (c : Cx) (x : Warp) (op : Opcode) : Run :=
  { endedRun c x op with
    work := writtenAgain (shrunk c x) c.s.pickAt (c.s.freeLanes c.x) (fun p => p.contested ++ p.touched)
      (endedRun c x op).work }

/-- The warp that an instruction leaves. -/
def closedWarp (c : Cx) (x : Warp) (op : Opcode) : Warp :=
  { c.x with
    regs := writtenAgain (shrunk c x) c.s.pickAt (c.s.freeLanes c.x) Pending.contested c.x.regs
    run := some (closedRun c x op), pend := (shrunk c x).filter fun p => !p.closed }

theorem completes_eq (c : Cx) (x : Warp) (op : Opcode) :
    completes c x op = (c.s.setWarp c.w (closedWarp c x op)).drewFresh := by
  have hp : shrunk c x = c.x.pend.map fun p =>
      if (x.pend.map Pending.id).contains p.id then { p with window := p.window - 1 } else p :=
    List.map_congr_left fun p _ => by split <;> rfl
  unfold closedWarp closedRun
  rw [hp]
  rfl

theorem endedRun_ended (c : Cx) (x : Warp) (op : Opcode) :
    (endedRun c x op).ended.isSome = true ↔ c.r.ended.isSome = true ∨ c.f.rb = true ∨ (opClass op).ends = true
      ∨ (∀ n ∈ c.r.work.nc, n = 255) ∨ (c.mode = 2 ∧ c.r.count = 23) := by
  unfold endedRun Regs.allExited
  cases c.r.ended with
  | some e => simp
  | none => simp [or_assoc]

theorem closedRun_again (c : Cx) (x : Warp) (op : Opcode) :
    (closedRun c x op).work = writtenAgain (shrunk c x) c.s.pickAt (c.s.freeLanes c.x) (fun p => p.contested ++ p.touched)
      { c.r.work with pc := c.nxt } := rfl

/-- Only the registers of results change as the windows close. -/
theorem closedRun_work (c : Cx) (x : Warp) (op : Opcode) :
    ReceivedOnly { c.r.work with pc := c.nxt } (closedRun c x op).work := by
  rw [closedRun_again]
  exact receivedOnly_writtenAgain _ _ _ _ _

theorem closedWarp_regs (c : Cx) (x : Warp) (op : Opcode) : ReceivedOnly c.x.regs (closedWarp c x op).regs :=
  receivedOnly_writtenAgain _ _ _ _ _

/-- No register changes where the program has written in no window that closes. -/
theorem closed_unwritten {c : Cx} {x : Warp}
    (h : ∀ p ∈ shrunk c x, p.here = true → p.window = 0 → p.contested = [] ∧ p.touched = []) (op : Opcode) :
    (closedRun c x op).work = { c.r.work with pc := c.nxt } ∧ (closedWarp c x op).regs = c.x.regs := by
  have none_of {p : Pending} (hp : p ∈ shrunk c x) (hc : p.closed = true) : p.contested = [] ∧ p.touched = [] := by
    simp only [Pending.closed, Bool.and_eq_true, beq_iff_eq] at hc
    exact h p hp hc.1 hc.2
  rw [closedRun_again]
  refine ⟨writtenAgain_none (fun p hp hc => ?_) _ _ _, writtenAgain_none (fun p hp hc => (none_of hp hc).1) _ _ _⟩
  rw [(none_of hp hc).1, (none_of hp hc).2, List.append_nil]

/-- Settles O17: the windows close over the run that the instruction leaves. -/
theorem instructionEnds : Obligations.InstructionEnds := by
  intro c x op
  rw [completes_eq]
  refine ⟨closedWarp c x op, closedRun c x op, State.warp_setWarp _ _ _, rfl, rfl, endedRun_ended c x op, rfl,
    closedRun_work c x op, ?_, ⟨rfl, fun h => closed_unwritten h op⟩, ⟨rfl, rfl, rfl, rfl⟩,
    fun v hv => State.warp_setWarp_ne _ _ hv⟩
  rw [← closedWarp_regs c x op]
  rfl

end Sys2Proof.Machine
end

section
/-! The limits of a run (R56, R81) and of its bank (R98): where the gate has no room, where a result has no register, and what
a run discarded for register pressure leaves. -/

namespace Sys2Proof.Machine

open Sys2Proof

/-! ### Room in the run -/

/-- A gate that finds no room in the run (R56). -/
theorem gate_full {c : Cx} {op : Opcode} (hd : NoneDue c) (hb : c.behindRest (opClass op) = false) (hn : ¬ HasRoom c op) :
    c.gate op = if c.mode = 2 then c.stop .endRun else c.raiseAll 0x11 (if 24 ≤ c.r.count then 1 else 2) := by
  have hfind : (c.x.pend.find? fun p => p.window == 0 && !p.here) = none := find_due hd
  unfold Cx.gate
  simp only [hfind, hb, Bool.false_eq_true, if_false]
  by_cases hc : 24 ≤ c.r.count
  · simp only [hc, if_true]
  · have hs : (opClass op).store = true ∧ 4 ≤ c.r.stores := by
      unfold HasRoom at hn
      by_contra h
      exact hn ⟨by omega, fun hst => by by_contra h4; exact h ⟨hst, by omega⟩⟩
    rw [if_neg hc, if_pos hs, if_neg hc]

theorem sameBytes_trans {s t u : State} (h : SameBytes s t) (g : SameBytes t u) : SameBytes s u := by
  obtain ⟨hm, hs, hh, hp⟩ := h
  obtain ⟨gm, gs, gh, gp⟩ := g
  exact ⟨gm.trans hm, gs.trans hs, gh.trans hh, gp.trans hp⟩

theorem sameBytes_modWarp (s : State) (w : Nat) (f : Warp → Warp) : SameBytes s (s.modWarp w f) := by
  unfold State.modWarp
  split
  · exact ⟨rfl, rfl, rfl, rfl⟩
  · exact ⟨rfl, rfl, rfl, rfl⟩

/-- A run ended before an instruction (R56): no register and no byte changes. -/
theorem stopped_endRun {s : State} {w : Nat} {x : Warp} (h : s.warp w = some x) (pc : Addr) :
    (s.stopped w pc .endRun).warp w = some { x with run := some { x.theRun with ended := some .plain } }
      ∧ SameBytes s (s.stopped w pc .endRun) :=
  ⟨State.warp_modWarp _ h, sameBytes_modWarp _ _ _⟩

/-! ### Registers to be allocated -/

/-- A bank that counts as exhausted gives no register where the emergency block has none for the warp (R97, R98). -/
theorem alloc_exhausted {c : Cx} {bank : Nat} (ho : c.s.olderOut c.x = true ∨ freeIn c bank = [])
    (hp : c.s.privileged c.x.col c.x.core = some c.w →
      ∀ i < 8, emergencyAt + i ∈ c.s.physUsed c.x.col c.x.core bank c.w (some c.r)) :
    c.alloc bank = .error (.pressure bank) := by
  have hplain : (if c.s.olderOut c.x then none else (List.range emergencyAt).find? fun i =>
      !(c.s.physUsed c.x.col c.x.core bank c.w (some c.r)).contains i) = none := by
    rcases ho with ho | ho
    · rw [if_pos ho]
    · split
      · rfl
      · exact List.find?_eq_none.mpr (List.filter_eq_nil_iff.mp ho)
  unfold Cx.alloc
  simp only [hplain]
  split
  · next hpriv =>
    have hblock : (List.range 8).find? (fun i =>
        !(c.s.physUsed c.x.col c.x.core bank c.w (some c.r)).contains (emergencyAt + i)) = none :=
      List.find?_eq_none.mpr fun i hi => by simpa using hp hpriv i (List.mem_range.mp hi)
    rw [hblock]
  · rfl

/-- The 33rd register of a run (R56). -/
theorem writeV_full {c : Cx} (hm : c.mode ≠ 2) (ha : 32 ≤ c.r.allocs) (v j : Nat) (mask : Mask) (new : Lanes) :
    c.writeV v j mask new = c.raiseAll 0x11 3 := by
  unfold Cx.writeV
  rw [if_neg hm, if_pos ha]

theorem writeV_unallocated {c : Cx} {v : Nat} {st : Stop} (hm : c.mode ≠ 2) (ha : c.r.allocs < 32)
    (he : c.alloc (v % 4) = .error st) (j : Nat) (mask : Mask) (new : Lanes) : c.writeV v j mask new = c.stop st := by
  unfold Cx.writeV
  simp only [hm, if_false, if_neg (Nat.not_le.mpr ha), he]

/-- A result stops where the first register of its group does. -/
theorem writeResult_stops {c : Cx} {d : BitVec 8} {mask : Mask} {vals : List Lanes} {e : Stop × State} (hd : c.f.d = .v d)
    (hv : vals.length ≠ 0) (he : ∀ new, c.writeV d.toNat 0 mask new = .error e) (latch : Option Nat) :
    c.writeResult latch mask vals = .error e := by
  obtain ⟨l, rest, rfl⟩ := List.exists_cons_of_length_pos (Nat.pos_of_ne_zero hv)
  have hdest : c.writeDest mask (l :: rest) = .error e := by
    unfold Cx.writeDest
    simp only [hd]
    unfold Cx.writeVs
    rw [Nat.add_zero, he l]
  unfold Cx.writeResult
  rw [hdest]

/-! ### A run discarded for register pressure -/

/-- A test that a key's old and new values fail holds of the same entries after the key is set. -/
theorem filter_mapSet {α : Type} {P : Nat × α → Bool} {n : Nat} {x : α} (hx : P (n, x) = false) :
    ∀ {m : AMap α}, (∀ v, mapGet m n = some v → P (n, v) = false) → (mapSet m n x).filter P = m.filter P
  | [], _ => by simp [mapSet, hx]
  | (k, v) :: r, hm => by
    unfold mapSet
    split
    · simp [List.filter_cons, hx]
    · split
      · next hk =>
        subst hk
        simp [hx, hm v (by simp [mapGet])]
      · next hk =>
        have ih : (mapSet r n x).filter P = r.filter P := filter_mapSet hx fun u hu => hm u (by simpa [mapGet, hk] using hu)
        simp only [List.filter_cons, ih]

/-- No warp is older than one of its own age and number (R98). -/
theorem older_same {x y : Warp} (ha : y.age = x.age) (hn : y.num = x.num) : x.older y = false := by
  simp [Warp.older, ha, hn]

/-- The youngest warp below one depends only on the others. -/
theorem youngestBelow_setWarp {s : State} {w : Nat} {x y : Warp} (hx : s.warp w = some x) (ha : y.age = x.age)
    (hn : y.num = x.num) : (s.setWarp w y).youngestBelow x = s.youngestBelow x := by
  have hl : ((s.setWarp w y).coreWarps x.col x.core).filter (fun kv => !kv.2.swapped && !kv.2.halted && x.older kv.2)
      = (s.coreWarps x.col x.core).filter fun kv => !kv.2.swapped && !kv.2.halted && x.older kv.2 := by
    unfold State.coreWarps
    rw [List.filter_filter, List.filter_filter]
    refine filter_mapSet (by simp [older_same ha hn]) fun v hv => ?_
    obtain rfl : x = v := Option.some.inj (hx.symm.trans hv)
    simp [older_same rfl rfl]
  unfold State.youngestBelow
  rw [hl]

/-- What register pressure does (R98): the warp's run is discarded and it waits; every other warp is as it was, but the one
that the privileged warp has swapped out. -/
structure Pressed (s t : State) (w bank : Nat) (x : Warp) : Prop where
  bytes : SameBytes s t
  waits : ∃ held older first, t.warp w = some { x.discard with wait := .pressure bank held older first }
  others : ∀ v z, v ≠ w → s.warp v = some z → t.warp v = some
    { z with swapReq := z.swapReq || decide (s.privileged x.col x.core = some w ∧ s.youngestBelow x = some v) }

theorem pressureDiscard_presses {s : State} {w : Nat} {x : Warp} (hx : s.warp w = some x) (hy : s.youngestBelow x ≠ some w)
    (bank : Nat) : Pressed s (s.pressureDiscard w bank) w bank x := by
  have hyoung (k : Wait) : (s.setWarp w { x.discard with wait := k }).youngestBelow x = s.youngestBelow x :=
    youngestBelow_setWarp hx rfl rfl
  unfold State.pressureDiscard
  simp only [hx, hyoung]
  split
  · next hpriv =>
    split
    · next u hu =>
      have huw : w ≠ u := fun e => hy (e ▸ hu)
      refine ⟨sameBytes_modWarp _ _ _, ⟨_, _, _, (State.warp_modWarp_ne _ _ huw).trans (State.warp_setWarp _ _ _)⟩,
        fun v z hv hz => ?_⟩
      by_cases hvu : v = u
      · subst hvu
        exact (State.warp_modWarp _ ((State.warp_setWarp_ne s _ hv).trans hz)).trans (by simp [hpriv, hu])
      · exact (State.warp_modWarp_ne _ _ hvu).trans
          ((State.warp_setWarp_ne s _ hv).trans (hz.trans (by simp [hu, Ne.symm hvu])))
    · next hu =>
      exact ⟨⟨rfl, rfl, rfl, rfl⟩, ⟨_, _, _, State.warp_setWarp _ _ _⟩, fun v z hv hz =>
        (State.warp_setWarp_ne _ _ hv).trans (hz.trans (by simp [hu]))⟩
  · next hpriv =>
    exact ⟨⟨rfl, rfl, rfl, rfl⟩, ⟨_, _, _, State.warp_setWarp _ _ _⟩, fun v z hv hz =>
      (State.warp_setWarp_ne _ _ hv).trans (hz.trans (by simp [hpriv]))⟩

/-! ### Instructions that compute a result -/

/-- An instruction that consumes its operands and writes its result. -/
structure WritesResult (k : Now) : Prop where
  exec : ∀ f s, exec (k.instr f) s =
    s.issue k.op f false k.pre fun c => (k.base c).writeResult k.latch (k.mask c) (k.vals c)
  base : ∀ c, ∃ m, k.base c = c.consume m

theorem table_writesResult : ∀ k ∈ arithmeticTable ++ logicTable ++ floatTable, WritesResult k := by
  simp only [List.forall_mem_append, arithmeticTable, logicTable, floatTable, List.forall_mem_cons, List.not_mem_nil,
    false_implies, implies_true, and_true]
  and_intros <;> exact ⟨fun _ _ => rfl, fun _ => ⟨_, rfl⟩⟩

theorem consume_warp (c : Cx) (m : Mask) (v : Nat) : (c.consume m).s.warp v = c.s.warp v := by
  obtain ⟨cs, bs, hs, -⟩ := consume_frame c.s c.x (if m = 0 then 0 else 1)
  show (State.consume _ _ _).warp v = _
  rw [hs]
  rfl

theorem sameBytes_consume (c : Cx) (m : Mask) : SameBytes c.s (c.consume m).s := by
  obtain ⟨cs, bs, hs, -⟩ := consume_frame c.s c.x (if m = 0 then 0 else 1)
  show SameBytes c.s (State.consume _ _ _)
  rw [hs]
  exact ⟨rfl, rfl, rfl, rfl⟩

/-- An instruction past the gate is its warp but for what its pending results have touched. -/
theorem atIssue_x (s : State) (w : Nat) (x : Warp) (op : Opcode) (f : Fields) :
    ∃ pend, (atIssue s w x op f).x = { x with pend := pend } := by
  unfold atIssue passed
  simp only []
  split
  · exact ⟨x.pend, rfl⟩
  · exact ⟨_, rfl⟩

/-- A warp that waits for a register begins its next run afresh, from the registers it has. -/
theorem theRun_discarded (x : Warp) (k : Wait) :
    let y : Warp := { x.discard with wait := k }
    (∀ e ∈ y.theRun.latch, e.valid = false) ∧ y.theRun.work = x.regs :=
  ⟨fun _ he => congrArg Entry.valid (List.eq_of_mem_replicate he), rfl⟩

theorem active_of_opens {c : Cx} {op : Opcode} (h : Opens c op) : c.act ≠ 0 := by
  obtain ⟨-, -, -, -, hact, -⟩ := h
  exact hact

section
variable {k : Now} {s : State} {w : Nat} {x : Warp} {f : Fields} {d : BitVec 8} {c : Cx}

/-- Of the issuing instruction, reading its operands changes only the record of poison (R395). -/
theorem consumed_frame (hk : WritesResult k) (hc : k.base (atIssue s w x k.op f) = c) :
    c.f = f ∧ c.w = w ∧ (∃ pend, c.x = { x with pend := pend }) ∧ SameBytes s c.s
      ∧ ∀ v, c.s.warp v = s.warp v := by
  obtain ⟨m, hm⟩ := hk.base (atIssue s w x k.op f)
  obtain rfl := hm.symm.trans hc
  exact ⟨rfl, rfl, atIssue_x s w x k.op f, sameBytes_consume _ m, consume_warp _ m⟩

variable (hk : WritesResult k) (hi : Issuing s w x) (hpre : k.pre (s.cx w x f) = true) (ho : Opens (s.cx w x f) k.op)
  (hd : f.d = .v d) (hv : (k.vals (atIssue s w x k.op f)).length ≠ 0) (hc : k.base (atIssue s w x k.op f) = c)
include hk hi hpre ho hd hv hc

/-- An instruction that finds no register for its result stops, with its operands read. -/
theorem exec_writesResult_stops {st : Stop} (hst : ∀ mask new, c.writeV d.toNat 0 mask new = c.stop st) :
    exec (k.instr f) s = .next (c.s.stopped w (s.cx w x f).pc st) := by
  obtain ⟨hf, -⟩ := consumed_frame hk hc
  subst hc
  have hact : (s.cx w x f).act ≠ 0 := active_of_opens ho
  rw [hk.exec]
  exact issue_stops hi hpre (gate_opens ho) hact (writeResult_stops (by rw [hf, hd]) hv (hst _) k.latch)

/-- The 33rd register that a run allocates (R56). -/
theorem exec_allocations_full (hm : c.mode ≠ 2) (ha : 32 ≤ c.r.allocs) :
    exec (k.instr f) s = .next (trapped c.s w (s.cx w x f) { code := 0x11, info := 3, addr := 0 } c.act) := by
  obtain ⟨-, -, -, -, hwarp⟩ := consumed_frame hk hc
  rw [exec_writesResult_stops hk hi hpre ho hd hv hc fun mask new => writeV_full hm ha _ _ mask new,
    stopped_trap ((hwarp w).trans hi.2)]
  rfl

/-- A bank that has no register for the warp (R97, R98). -/
theorem exec_bank_exhausted (hm : c.mode ≠ 2) (ha : c.r.allocs < 32)
    (hout : c.s.olderOut x = true ∨ freeIn c (d.toNat % 4) = [])
    (hem : c.s.privileged x.col x.core = some w →
      ∀ i < 8, emergencyAt + i ∈ c.s.physUsed x.col x.core (d.toNat % 4) w (some c.r)) :
    exec (k.instr f) s = .next (c.s.pressureDiscard w (d.toNat % 4)) := by
  obtain ⟨-, hw, ⟨pend, hx⟩, -⟩ := consumed_frame hk hc
  have hnone : c.alloc (d.toNat % 4) = .error (.pressure (d.toNat % 4)) := by
    refine alloc_exhausted ?_ ?_ <;> rw [hx]
    · exact hout
    · rw [hw]
      exact hem
  exact exec_writesResult_stops hk hi hpre ho hd hv hc fun mask new => writeV_unallocated hm ha hnone _ mask new

end

/-- Settles O11: the gate has no room, or the result's first register cannot be allocated. -/
theorem runLimits : Obligations.RunLimits := by
  refine ⟨fun s w x i op f he ⟨hi, hm, hd, hb⟩ => ?_, fun k hk s w x f hi hpre ho _ d hd hv => ?_⟩
  · intro c info hroom
    have hg := gate_full hd hb hroom
    rw [exec_encoded he]
    refine ⟨fun hmode => ?_, fun hmode => ?_⟩
    · rw [if_neg hmode] at hg
      rw [issue_gated hi hm hg, stopped_trap hi.2]
      rfl
    · rw [if_pos hmode] at hg
      obtain ⟨hw, hbytes⟩ := stopped_endRun hi.2 (s.cx w x f).pc
      exact ⟨_, _, issue_gated hi hm hg, hw, rfl, rfl, hbytes⟩
  · have hk := table_writesResult k hk
    intro c hmode
    refine ⟨exec_allocations_full hk hi hpre ho hd hv rfl hmode, fun halloc hout => ?_⟩
    intro priv hem hyoung
    obtain ⟨-, -, -, hbytes, hwarp⟩ := consumed_frame hk (rfl : k.base (atIssue s w x k.op f) = c)
    obtain ⟨bytes, ⟨held, older, first, hy⟩, others⟩ :=
      pressureDiscard_presses ((hwarp w).trans hi.2) hyoung (d.toNat % 4)
    exact ⟨_, exec_bank_exhausted hk hi hpre ho hd hv rfl hmode halloc hout hem, sameBytes_trans hbytes bytes,
      ⟨_, held, older, first, hy, rfl, theRun_discarded x _⟩,
      fun v z hv hz => ⟨_, others v z hv ((hwarp v).trans hz), decide_eq_true_iff⟩⟩

end Sys2Proof.Machine
end

section
/-! Instructions that trap past the gate (R86-R88, R103): an operand hazard in native-debug mode, and the structural and matrix
instructions that break a limit. -/

namespace Sys2Proof.Machine

open Sys2Proof

/-! ### Hazards -/

/-- A gate that finds room in the run, and a hazard in native-debug mode (R103). -/
theorem gate_hazard {c : Cx} {op : Opcode} {k : Nat} (hd : NoneDue c) (hb : c.behindRest (opClass op) = false)
    (hr : HasRoom c op) (hact : c.act ≠ 0) (hm : c.mode = 1)
    (hk : c.hazard (op.spec c.f) (opClass op).readsD = some k) : c.gate op = c.raiseAll 0x12 k := by
  have hfind : (c.x.pend.find? fun p => p.window == 0 && !p.here) = none := find_due hd
  obtain ⟨hcount, hstores⟩ := hr
  unfold Cx.gate
  simp only [hfind, hb, Bool.false_eq_true, if_false, hact, hm, hk]
  rw [if_neg (by omega), if_neg fun h => absurd (hstores h.1) (by omega)]
  rfl

/-- Settles O12: the gate looks for a hazard once it has found room in the run. -/
theorem hazardTraps : Obligations.HazardTraps := by
  intro s w x i op f k he ⟨hi, hm, hd, hb⟩ c hr hact hmode hk
  rw [exec_encoded he, issue_gated hi hm (gate_hazard hd hb hr hact hmode hk), stopped_trap hi.2]
  rfl

/-! ### What the gate leaves of an instruction -/

/-- A dead read changes no register of the run: it notes what the commit is to free (R97). -/
@[simp] theorem deadRead_work (r : Run) (dead : Bool) (sel : Sel) (n : Nat) : (r.deadRead dead sel n).work = r.work := by
  unfold Run.deadRead
  split
  · rfl
  · split
    · refine List.foldlRecOn (motive := fun q : Run => q.work = r.work) _ _ rfl fun q hq j _ => ?_
      simp only []
      split
      · exact hq
      · split <;> exact hq
    · rfl

/-- An instruction that the gate has admitted: the same machine, fields and threads, and the run's registers. -/
structure Admitted (c d : Cx) : Prop where
  s : d.s = c.s
  w : d.w = c.w
  f : d.f = c.f
  act : d.act = c.act
  grd : d.grd = c.grd
  work : d.r.work = c.r.work
  x : ∃ pend, d.x = { c.x with pend := pend }

theorem passed_admitted (c : Cx) (op : Opcode) : Admitted c (passed c op) := by
  unfold passed
  by_cases h : c.mode = 2
  · simp only [if_pos h]
    exact ⟨rfl, rfl, rfl, rfl, rfl, rfl, c.x.pend, rfl⟩
  · simp only [if_neg h]
    exact ⟨rfl, rfl, rfl, rfl, rfl, by simp, _, rfl⟩

theorem admitted_admitted (c : Cx) (op : Opcode) : Admitted c (admitted c op) := by
  unfold admitted
  split
  · exact ⟨rfl, rfl, rfl, rfl, rfl, rfl, c.x.pend, rfl⟩
  · exact passed_admitted c op

/-- An encoded instruction whose body raises a trap on the machine as it stands. -/
theorem exec_raises {s : State} {w : Nat} {x : Warp} {i : Instr} {op : Opcode} {f : Fields} {k : Cause} {mask : Mask}
    (he : Encoded i op f) (hg : Gated s w x op f) (ho : Admits (s.cx w x f) op)
    (hact : (s.cx w x f).act ≠ 0 ∨ actsAlways op = true)
    (hb : bodyOf op (admitted (s.cx w x f) op) = .error (.trap k mask, s)) :
    exec i s = .next (trapped s w (s.cx w x f) k mask) := by
  obtain ⟨⟨hc, hx⟩, hm, -, -⟩ := hg
  have hbody : ¬((admitted (s.cx w x f) op).act = 0 ∧ (!actsAlways op) = true) := by
    rw [(admitted_admitted _ op).act]
    rintro ⟨h0, ha⟩
    rcases hact with h | h
    · exact h h0
    · rw [h] at ha; cases ha
  rw [exec_encoded he]
  unfold State.issue
  simp only [hc, hx, hm, gate_admits ho, Bool.not_true, Bool.false_eq_true, if_false, if_neg hbody, hb, stopped_trap hx]
  rfl

/-! ### Structures and matrix instructions -/

section
variable {c : Cx} {g : Cx → Step}

/-- A structure opened at the last level (R88). -/
theorem nestCheck_deep (h : c.r.work.depth = 127) : c.nestCheck g = c.raiseAll 0x13 127 := by
  unfold Cx.nestCheck
  simp only [h, if_true]

/-- A structure opened where some counter cannot be raised (R88). -/
theorem nestCheck_full (h : c.r.work.depth ≠ 127) (hf : c.r.work.full ≠ 0) :
    c.nestCheck g = c.raise 0x13 c.r.work.depth 0 c.r.work.full := by
  unfold Cx.nestCheck
  simp only [if_neg h, if_pos hf]

/-- A structure closed at depth 0 (R86). -/
theorem needDepth_zero (h : c.r.work.depth = 0) : c.needDepth g = c.raiseAll 0x14 1 := if_pos h

/-- A loop left outside every loop (R86). -/
theorem leave_outside (h : c.r.work.ldep = 0) (value : Nat) : c.leave value = c.raiseAll 0x14 2 := if_pos h

/-- A matrix instruction with some thread disabled or marked to exit (R87). -/
theorem wholeWarp_broken (h : ¬ wholeWarp c) : c.wholeWarp g = c.raiseAll 0x14 3 := by
  refine if_pos ?_
  unfold wholeWarp at h
  by_cases hm : c.r.work.mark = 0
  · exact .inr (by simpa using fun e => h ⟨hm, e⟩)
  · exact .inl hm

end

/-- The threads whose counter INC cannot raise (R88). -/
theorem bit_full (r : Regs) {t : Nat} (ht : t < 64) : bit r.full t = true ↔ r.ncOf t = 127 ∨ r.ncOf t = 254 := by
  unfold Regs.full
  rw [bit_maskOf _ ht]
  simp

theorem full_ne_zero {r : Regs} {t : Nat} (ht : t < 64) (h : r.ncOf t = 127 ∨ r.ncOf t = 254) : r.full ≠ 0 := fun h0 => by
  have hb := (bit_full r ht).mpr h
  rw [h0, bit_zero] at hb
  cases hb

/-- IF and LOOP ask for room in the nesting first (R88). -/
theorem opens_nestCheck {op : Opcode} (h : op = .ifBlock ∨ op = .loop) (c : Cx) : ∃ g, bodyOf op c = c.nestCheck g := by
  rcases h with rfl | rfl
  · exact ⟨_, show bodyIf c = _ by unfold bodyIf; rfl⟩
  · exact ⟨_, show bodyLoop c = _ by unfold bodyLoop; rfl⟩

/-- ELSE, ENDIF and ENDLOOP ask for an open structure first (R86). -/
theorem closes_needDepth {op : Opcode} (h : op = .elseBlock ∨ op = .endif ∨ op = .endloop) (c : Cx) :
    ∃ g, bodyOf op c = c.needDepth g := by
  rcases h with rfl | rfl | rfl
  · exact ⟨_, show bodyElse c = _ by unfold bodyElse; rfl⟩
  · exact ⟨_, show bodyEndif c = _ by unfold bodyEndif; rfl⟩
  · exact ⟨_, show bodyEndloop c = _ by unfold bodyEndloop; rfl⟩

/-- Every matrix instruction asks for the whole warp first (R87). -/
theorem matrix_wholeWarp {op : Opcode} (h : op ∈ [.mma, .mmat, .mzero, .mldz, .mst, .mfence, .mwait, .mstat]) (c : Cx) :
    ∃ g, bodyOf op c = c.wholeWarp g := by
  simp only [List.mem_cons, List.not_mem_nil, or_false] at h
  rcases h with rfl | rfl | rfl | rfl | rfl | rfl | rfl | rfl
  · exact ⟨_, show bodyMma c = _ by unfold bodyMma Cx.multiply; rfl⟩
  · exact ⟨_, show bodyMmat c = _ by unfold bodyMmat Cx.multiply; rfl⟩
  · exact ⟨_, show bodyMzero c = _ by unfold bodyMzero; rfl⟩
  · exact ⟨_, show bodyMldz c = _ by unfold bodyMldz Cx.tileMove; rfl⟩
  · exact ⟨_, show bodyMst c = _ by unfold bodyMst Cx.tileMove; rfl⟩
  · exact ⟨_, show bodyMfence c = _ by unfold bodyMfence; rfl⟩
  · exact ⟨_, show bodyMwait c = _ by unfold bodyMwait; rfl⟩
  · exact ⟨_, show bodyMstat c = _ by unfold bodyMstat; rfl⟩

/-- Settles O18: an instruction that its gate has admitted meets its own check first, on the warp's registers. -/
theorem structureTraps : Obligations.StructureTraps := by
  intro s w x i op f he hg hr c hazards stop
  have hadm : Admits c op := by
    obtain ⟨-, -, hd, hb⟩ := hg
    exact ⟨hd, hb, hr.1, hr.2, hazards⟩
  obtain ⟨hs, -, -, hact, hgrd, hwork, pend, hx⟩ := admitted_admitted c op
  have raises {code info : Nat} {mask : Mask} (ha : c.act ≠ 0 ∨ actsAlways op = true)
      (hb : bodyOf op (admitted c op) = (admitted c op).raise code info 0 mask) : stop code info mask := by
    refine exec_raises he hg hadm ha (hb.trans ?_)
    rw [Cx.raise, Cx.stop, hs]
    rfl
  generalize admitted c op = d at hact hgrd hwork hx raises
  refine ⟨fun hop => ⟨fun hdepth => ?deep, fun hdepth ⟨t, ht, hfull⟩ => ?full⟩, fun hop hdepth => ?close,
    fun hop hloop => ?leave, fun hop ha hw => ?matrix, fun hop ha hgr hh => ?tret⟩
  case deep =>
    obtain ⟨g, hbody⟩ := opens_nestCheck hop d
    rw [← hact]
    exact raises (.inr (by rcases hop with rfl | rfl <;> rfl)) (hbody.trans (nestCheck_deep (by rw [hwork]; exact hdepth)))
  case full =>
    obtain ⟨g, hbody⟩ := opens_nestCheck hop d
    rw [← hwork] at hdepth ⊢
    unfold counterOf at hfull ⊢
    rw [← hwork] at hfull ⊢
    exact ⟨d.r.work.full, fun u hu => bit_full _ hu, raises (.inr (by rcases hop with rfl | rfl <;> rfl))
      (hbody.trans (nestCheck_full hdepth (full_ne_zero ht hfull)))⟩
  case close =>
    obtain ⟨g, hbody⟩ := closes_needDepth hop d
    rw [← hact]
    exact raises (.inr (by rcases hop with rfl | rfl | rfl <;> rfl))
      (hbody.trans (needDepth_zero (by rw [hwork]; exact hdepth)))
  case leave =>
    rw [← hact]
    rcases hop with rfl | rfl <;> exact raises (.inr rfl) (leave_outside (by rw [hwork]; exact hloop) _)
  case matrix =>
    obtain ⟨g, hbody⟩ := matrix_wholeWarp hop d
    rw [← hact]
    exact raises (.inl ha) (hbody.trans (wholeWarp_broken (by unfold wholeWarp; rw [hwork]; exact hw)))
  case tret =>
    subst hop
    rw [← hact]
    refine raises (.inl ha) ?_
    show bodyTret d = _
    unfold bodyTret
    rw [if_neg (by rw [hgrd]; exact hgr), if_neg (by rw [hx]; simpa using hh)]
    rfl

end Sys2Proof.Machine
end

section
/-! The structural instructions (R84-R88): the counters, marks and depths that each of them leaves. -/

namespace Sys2Proof.Machine

open Sys2Proof

/-! ### Counters -/

/-- Registers whose counters a rule for each thread has changed hold what it says. -/
theorem mapNc_counter {r : Regs} {g : Nat → Nat → Nat} {counter : Nat → Nat} (h : ∀ t < 64, g t (r.ncOf t) = counter t)
    {t : Nat} (ht : t < 64) : (r.mapNc g).nc.getD t 255 = BitVec.ofNat 8 (counter t) := by
  rw [ncOf_mapNc r g ht, h t ht]

theorem nc_ofNat_ncOf (r : Regs) (t : Nat) : r.nc.getD t 255 = BitVec.ofNat 8 (r.ncOf t) := by
  unfold Regs.ncOf
  rw [BitVec.ofNat_toNat, BitVec.setWidth_eq]

theorem exitedOf_lt (c : Cx) (t : Nat) : exitedOf c t < 256 := by
  unfold exitedOf
  split
  · omega
  · exact ncOf_lt c.r.work t

/-! ### Each instruction -/

theorem endsIf_holds {instr : Fields → Instr} (hexec : ∀ f s, exec (instr f) s = s.issue .endif f true noPre bodyEndif) :
    (endsIf instr).Holds := by
  refine structural_holds (k := endsIf instr) hexec fun c hok => ⟨_, fun t => mapNc_counter fun t ht => ?_, needDepth_ok hok⟩
  rw [exited_ncOf c ht]
  rfl

theorem opensLoop_holds {instr : Fields → Instr} (hexec : ∀ f s, exec (instr f) s = s.issue .loop f true noPre bodyLoop) :
    (opensLoop instr).Holds :=
  structural_holds (k := opensLoop instr) hexec fun _ hok => ⟨_, fun _ => mapNc_counter fun _ _ => rfl, nestCheck_ok hok⟩

theorem leaves_holds {instr : Fields → Instr} {op : Opcode} {value : Cx → Nat} {body : Cx → Step}
    (hexec : ∀ f s, exec (instr f) s = s.issue op f true noPre body) (hbody : ∀ c, body c = c.leave (value c)) :
    (leaves instr op value).Holds := by
  refine structural_holds (k := leaves instr op value) hexec fun c hok => ?_
  rw [hbody]
  unfold Cx.leave
  rw [if_neg hok]
  refine ⟨(c.r.work.mapNc fun t n => if n = 0 && bit c.structPred t then value c else n).nc,
    fun t => mapNc_counter fun t _ => ?_, rfl⟩
  simp only [Bool.and_eq_true, decide_eq_true_eq]
  rfl

/-- Outside every structure the active threads exit; inside one they are marked. -/
theorem exits_holds {instr : Fields → Instr} (hexec : ∀ f s, exec (instr f) s = s.issue .exit f true noPre bodyExit) :
    (exits instr).Holds := by
  refine structural_holds (k := exits instr) hexec fun c _ => ?_
  unfold bodyExit exits Cx.modWork
  by_cases hd : c.r.work.depth = 0
  · simp only [hd, if_true, true_and]
    exact ⟨(c.r.work.mapNc fun _ n => if n = 0 then 255 else n).nc, fun t => mapNc_counter fun _ _ => rfl,
      by rw [Regs.mapNc, hd]⟩
  · simp only [hd, if_false, false_and]
    exact ⟨c.r.work.nc, fun t _ => nc_ofNat_ncOf c.r.work t, rfl⟩

theorem ifCounter_lt (c : Cx) (t : Nat) : ifCounter c t < 256 := by
  have hlt : counterOf c t < 256 := ncOf_lt c.r.work t
  unfold ifCounter incNc
  split_ifs <;> omega

theorem bodyIf_nests {c : Cx} (h : canNest c) :
    bodyIf c = .ok (c.modWork fun r => { r.mapNc (fun t n => if n = 0 then (if bit c.structPred t then 0 else 1) else incNc n) with
      depth := r.depth + 1 }).jumpIfEmpty := by
  unfold bodyIf
  exact nestCheck_ok h

/-- IF jumps where it leaves no thread active. -/
theorem ifBlock_holds : Structural.Holds
    { instr := .ifBlock, op := .ifBlock, ok := canNest, counter := ifCounter, mark := fun c => c.r.work.mark
      depth := fun c => c.r.work.depth + 1
      goesTo := fun c => if someActive (ifCounter c) then c.nxt else c.target } := by
  refine structural_holds (body := bodyIf) (fun _ _ => rfl) fun c hok => ?_
  have hnc : ∀ t < 64, (c.r.work.mapNc fun t n => if n = 0 then (if bit c.structPred t then 0 else 1) else incNc n).nc.getD t 255
      = BitVec.ofNat 8 (ifCounter c t) := fun t => mapNc_counter fun _ _ => rfl
  refine ⟨_, hnc, ?_⟩
  rw [bodyIf_nests hok, jumpIfEmpty_spec hnc fun t _ => ifCounter_lt c t]
  rfl

theorem elseCounter_lt (c : Cx) (t : Nat) : elseCounter c t < 256 := by
  have hlt := exitedOf_lt c t
  unfold elseCounter
  split_ifs <;> omega

/-- ELSE jumps where it leaves no thread active. -/
theorem elseBlock_holds : Structural.Holds
    { instr := .elseBlock, op := .elseBlock, ok := fun c => c.r.work.depth ≠ 0, counter := elseCounter
      goesTo := fun c => if someActive (elseCounter c) then c.nxt else c.target } := by
  refine structural_holds (body := bodyElse) (fun _ _ => rfl) fun c hok => ?_
  have hnc : ∀ t < 64, (c.r.work.applyExit.mapNc fun _ n => if n = 0 then 1 else if n = 1 then 0 else n).nc.getD t 255
      = BitVec.ofNat 8 (elseCounter c t) := fun t => mapNc_counter fun t ht => by rw [exited_ncOf c ht]; rfl
  exact ⟨_, hnc, (needDepth_ok hok).trans (congrArg _ (jumpIfEmpty_spec hnc fun t _ => elseCounter_lt c t))⟩

theorem againCounter_lt (c : Cx) (t : Nat) : againCounter c t < 256 := by
  have hlt := exitedOf_lt c t
  unfold againCounter
  split_ifs <;> omega

/-- Registers as ENDLOOP decides: exits applied, and the threads that continue back in the loop (R85). -/
def Regs.looped (r : Regs) : Regs := r.applyExit.mapNc fun _ n => if n = 1 then 0 else n

/-- Registers as ENDLOOP leaves the loop (R85). -/
def Regs.unlooped (r : Regs) (below : Nat) : Regs :=
  { r.looped.mapNc (fun _ n => if n = 128 then 0 else if 2 ≤ n ∧ n ≤ 254 then n - 1 else n) with
    depth := r.depth - 1, ldep := below }

theorem bodyEndloop_cases {c : Cx} (h : c.r.work.depth ≠ 0) :
    bodyEndloop c = .ok (if c.r.work.looped.active ≠ 0 then (c.modWork Regs.looped).jump c.target
      else c.modWork fun r =>
        r.unlooped (if c.r.work.ldep = 0 then (c.s.freeW 0).toNat % 256 else c.r.work.ldep - 1)) := by
  refine (needDepth_ok h).trans ?_
  show (if c.r.work.looped.active ≠ 0 then _ else _) = _
  split <;> rfl

theorem looped_counter (c : Cx) {t : Nat} (ht : t < 64) :
    c.r.work.looped.nc.getD t 255 = BitVec.ofNat 8 (againCounter c t) :=
  mapNc_counter (fun t ht => by rw [exited_ncOf c ht]; rfl) ht

theorem unlooped_counter (c : Cx) (below : Nat) {t : Nat} (ht : t < 64) :
    (c.r.work.unlooped below).nc.getD t 255 = BitVec.ofNat 8 (leaveCounter c t) := by
  dsimp only [Regs.unlooped]
  refine mapNc_counter (fun t ht => ?_) ht
  have hn : c.r.work.looped.ncOf t = againCounter c t := by
    unfold Regs.ncOf
    rw [looped_counter c ht, BitVec.toNat_ofNat, Nat.mod_eq_of_lt (againCounter_lt c t)]
  rw [hn]
  rfl

/-- ENDLOOP goes back to its loop while a thread is active in it, and ends the loop otherwise. -/
theorem endloop_holds : Structural.Holds
    { instr := .endloop, op := .endloop, ok := fun c => c.r.work.depth ≠ 0
      counter := fun c t => if someActive (againCounter c) then againCounter c t else leaveCounter c t
      depth := fun c => if someActive (againCounter c) then c.r.work.depth else c.r.work.depth - 1
      ldep := fun c => if someActive (againCounter c) then c.r.work.ldep
        else if c.r.work.ldep = 0 then (c.s.freeW 0).toNat % 256 else c.r.work.ldep - 1
      goesTo := fun c => if someActive (againCounter c) then c.target else c.nxt } := by
  refine structural_holds (body := bodyEndloop) (fun _ _ => rfl) fun c hok => ?_
  have hactive := active_ne_zero (fun t => looped_counter c) fun t _ => againCounter_lt c t
  rw [bodyEndloop_cases hok]
  by_cases ha : someActive (againCounter c) = true
  · simp only [ha, if_true]
    rw [if_pos (by rw [ne_eq, hactive, ha]; simp)]
    exact ⟨_, fun t => looped_counter c, rfl⟩
  · simp only [ha, if_false, Bool.false_eq_true]
    rw [if_neg (not_not_intro (hactive.mpr (by simpa using ha)))]
    exact ⟨_, fun t => unlooped_counter c 0, rfl⟩

/-- Settles O40: each body is an equation on the counters of each thread. -/
theorem structuresComplete : Obligations.StructuresComplete := by
  unfold Obligations.StructuresComplete structuralTable
  simp only [List.forall_mem_cons, List.not_mem_nil, false_implies, implies_true, and_true]
  exact ⟨ifBlock_holds, elseBlock_holds, endsIf_holds fun _ _ => rfl, endsIf_holds fun _ _ => rfl,
    opensLoop_holds fun _ _ => rfl, opensLoop_holds fun _ _ => rfl, leaves_holds (fun _ _ => rfl) fun _ => rfl,
    leaves_holds (fun _ _ => rfl) fun _ => rfl, endloop_holds, exits_holds fun _ _ => rfl, exits_holds fun _ _ => rfl⟩

end Sys2Proof.Machine
end

section
/-! The loads (R80, R289-R291, R309): each is the loading of its accesses, now or behind the bank commands that a BFENCE of its
run follows. -/

namespace Sys2Proof.Machine

open Sys2Proof

/-! ### Accesses without a fault -/

/-- An instruction whose threads met no fault goes on. -/
theorem faults_none {c : Cx} {fs : List (Nat × Cause)} {g : Cx → Step} (h : fs = []) : c.faults fs g = g c := by
  rw [h]; rfl

/-- What an instruction does before it reaches its accesses: it consumes poison and makes an acquire, and leaves its fields,
its threads and its commands as they are. -/
structure Begins (c d : Cx) : Prop where
  w : d.w = c.w
  issued : OnlyIssued c.s d.s c.w true
  f : d.f = c.f
  lanes : d.lanes = c.lanes
  cmds : d.r.cmds = c.r.cmds

theorem begins_consume (c : Cx) (m : Mask) : Begins c (c.consume m) := ⟨rfl, issued_consume _ _ _ _ _, rfl, rfl, rfl⟩

theorem begins_acquiring {c d : Cx} (h : Begins c d) : Begins c d.acquiring := by
  unfold Cx.acquiring
  split
  · refine ⟨h.w, issued_trans h.issued ?_, h.f, h.lanes, h.cmds⟩
    exact issued_acquire d.s d.x.col d.x.core d.scope c.w true
  · exact h

theorem begins_ld (c : Cx) : Begins c (ldBegins c) := begins_acquiring (begins_consume c _)

/-! ### Loads -/

section
variable {c : Cx} {key : Place → Nat} {as : List Access} {t : Touch} {psn : Mask}

/-- A load that no BFENCE of its run holds back awaits the words that its threads read. -/
theorem loadFrom_open (h : c.fencedBank = false) : c.loadFrom key as t psn = (c.readNoted key as t).later (some 2) c.lanes
    (loaded (c.readNoted key as t) psn (c.loadAll key as t).got) .none true := by
  unfold Cx.loadFrom
  rw [h]
  rfl

/-- A load that a BFENCE of its run holds back awaits what it will read. -/
theorem loadFrom_fenced (h : c.fencedBank = true) : c.loadFrom key as t psn
    = (c.touchAll (as.flatMap Access.ps) t).later (some 2) c.lanes (List.replicate c.f.dw.count Lanes.zero)
        (.load c.r.bfenceAt none psn (c.loadBehind key as)) false := by
  unfold Cx.loadFrom
  rw [h]
  rfl

end

section
variable {instr : Fields → Instr} {op : Opcode} {accs : Cx → List Access × List (Nat × Cause)} {psn : Cx → Mask}
  {begins : Cx → Cx} {key : Place → Nat} {t : Cx → Touch} {when_ : Cx → Prop} {body : Cx → Step}

/-- A load that no BFENCE of its run holds back. -/
theorem loads_holds (hexec : ∀ f s, exec (instr f) s = s.issue op f false noPre body) (hb : ∀ c, Begins c (begins c))
    (hbody : ∀ c, when_ c → (accs c).2 = [] → body c = (begins c).loadFrom key (accs c).1 (t c) (psn c)) :
    (loads instr op accs psn begins key t when_).Holds := by
  refine later_holds (k := loads instr op accs psn begins key t when_) false hexec (fun c => ?_) (fun _ _ => ⟨rfl, rfl⟩)
    fun c c' ⟨hw, hf, hfence⟩ h => ?_
  · obtain ⟨hw, hs, hf, -, -⟩ := hb c
    exact ⟨hw, issued_trans hs (kept_touchAll _ _ _ c.w), hf⟩
  · obtain ⟨-, -, hfields, hlanes, -⟩ := hb c
    rw [hbody c hw hf, loadFrom_open hfence, hlanes]
    exact h

/-- A load that a BFENCE of its run holds back. -/
theorem loadsBehind_holds (hexec : ∀ f s, exec (instr f) s = s.issue op f false noPre body) (hb : ∀ c, Begins c (begins c))
    (hbody : ∀ c, when_ c → (accs c).2 = [] → body c = (begins c).loadFrom key (accs c).1 (t c) (psn c)) :
    (loadsBehind instr op accs psn begins key t when_).Holds := by
  refine later_holds (k := loadsBehind instr op accs psn begins key t when_) false hexec (fun c => ?_)
    (fun _ _ => ⟨rfl, rfl⟩) fun c c' ⟨hw, hf, hfence⟩ h => ?_
  · obtain ⟨hw, hs, hf, -, -⟩ := hb c
    exact ⟨hw, issued_trans hs (kept_touchAll _ _ _ c.w), hf⟩
  · obtain ⟨-, -, hfields, hlanes, hcmds⟩ := hb c
    have hat : (begins c).r.bfenceAt = c.r.bfenceAt := by unfold Run.bfenceAt; rw [hcmds]
    rw [hbody c hw hf, loadFrom_fenced hfence, hlanes, hfields, hat]
    exact h

theorem bothLoads_hold (hexec : ∀ f s, exec (instr f) s = s.issue op f false noPre body) (hb : ∀ c, Begins c (begins c))
    (hbody : ∀ c, when_ c → (accs c).2 = [] → body c = (begins c).loadFrom key (accs c).1 (t c) (psn c)) :
    ∀ k ∈ bothLoads instr op accs psn begins key t when_, k.Holds := by
  simp only [bothLoads, List.forall_mem_cons, List.not_mem_nil, false_implies, implies_true, and_true]
  exact ⟨loads_holds hexec hb hbody, loadsBehind_holds hexec hb hbody⟩

end

theorem bodyLd_loads {c : Cx} (h : (memAccesses c { read := true }).2 = []) :
    bodyLd c = (ldBegins c).loadFrom Place.va (memAccesses c { read := true }).1 c.touchKind (badAddress c) := by
  unfold bodyLd
  exact faults_none h

theorem bodyLdl_loads {c : Cx} (h : (ownAccesses c { read := true }).2 = []) :
    bodyLdl c = (c.consume (badOffset c)).loadFrom Place.priv (ownAccesses c { read := true }).1 { priv := true } (badOffset c) := by
  unfold bodyLdl
  exact faults_none h

/-- LDK of the constant bank, past its limits. -/
theorem bodyLdk_loads {c : Cx} (hsub : c.f.sub ≠ 1) (hl : constLimits c = [])
    (h : (c.accesses (c.actors (badOffset c)) (fun t => (c.s.recOf c.x).const + BitVec.ofNat 64 (c.offset t)) true
      c.bytesD 0 1 { read := true }).2 = []) :
    bodyLdk c = (c.consume (badOffset c)).loadFrom Place.va (c.accesses (c.actors (badOffset c))
      (fun t => (c.s.recOf c.x).const + BitVec.ofNat 64 (c.offset t)) true c.bytesD 0 1 { read := true }).1 {}
      (badOffset c) := by
  unfold bodyLdk
  refine (faults_none hl).trans ?_
  rw [if_neg hsub]
  exact faults_none h

/-- LDK of the launch record, past its limits. -/
theorem bodyLdk_record {c : Cx} (hsub : c.f.sub = 1) (hl : constLimits c = []) :
    bodyLdk c = (c.consume (badOffset c)).loadResult c.f.dw.count (badOffset c) ((c.actors (badOffset c)).map fun t =>
      (t, (List.range c.bytesD).map fun i => ((c.s.recOf c.x).bytes.getD (c.offset t + i) 0, false))) := by
  unfold bodyLdk
  refine (faults_none hl).trans ?_
  rw [if_pos hsub]
  rfl

theorem loadsRecord_holds {instr : Fields → Instr} (hexec : ∀ f s, exec (instr f) s = s.issue .ldk f false noPre bodyLdk) :
    (loadsRecord instr).Holds :=
  later_holds (k := loadsRecord instr) false hexec (fun _ => ⟨rfl, issued_consume _ _ _ _ _, rfl⟩) (fun _ _ => ⟨rfl, rfl⟩)
    fun _ _ ⟨hsub, hl⟩ h => (bodyLdk_record hsub hl).trans h

/-! ### The pool -/

/-- What the run's own stores and memory give a load does not depend on what is counted. -/
theorem poolMet_loadAll (c : Cx) (n : Nat) (accs as : List Access) (key : Place → Nat) (t : Touch) :
    (poolMet c n accs).loadAll key as t = c.loadAll key as t := rfl

/-- A pool load past its faults. -/
theorem bodyPld_cases {c : Cx} (hf : (windowAccesses c).2 = []) :
    bodyPld c = if c.r.behind && c.meetsArrival (windowAccesses c).1 then c.stop .endRun
      else if c.r.behind then
        (poolMet (c.consume (c.poisoned c.poolArgs)) c.bytesD (windowAccesses c).1).loadBehindFence Place.pool
          (windowAccesses c).1 (c.poisoned c.poolArgs)
      else (poolRead c).loadResult c.f.dw.count (c.poisoned c.poolArgs)
        ((c.consume (c.poisoned c.poolArgs)).loadAll Place.pool (windowAccesses c).1 {}).got := by
  unfold poolRead
  simp only [← poolMet_loadAll (c.consume (c.poisoned c.poolArgs)) c.bytesD (windowAccesses c).1]
  unfold bodyPld
  exact faults_none hf

theorem poolLoads_hold : ∀ k ∈ poolLoads, k.Holds := by
  simp only [poolLoads, List.forall_mem_cons, List.not_mem_nil, false_implies, implies_true, and_true]
  refine ⟨later_holds (body := bodyPld) false (fun _ _ => rfl) (fun c => ⟨rfl, ?_, rfl⟩) (fun _ _ => ⟨rfl, rfl⟩)
      fun c _ ⟨hf, hb⟩ h => (bodyPld_cases hf).trans (by rw [hb]; exact h),
    later_holds (body := bodyPld) false (fun _ _ => rfl) (fun c => ⟨rfl, ?_, rfl⟩) (fun _ _ => ⟨rfl, rfl⟩)
      fun c _ ⟨hf, hb, hm⟩ h => (bodyPld_cases hf).trans (by rw [hb, hm]; exact h)⟩
  all_goals exact issued_trans (issued_consume _ _ _ _ _) (issued_meter _ _ _ _ _ _ _)

/-- Settles O47: past its faults each load is `loadFrom` of its accesses, or awaits the bytes it has found. -/
theorem loadsComplete : Obligations.LoadsComplete := by
  unfold Obligations.LoadsComplete loadTable
  simp only [List.forall_mem_append]
  have own {instr : Fields → Instr} (hexec : ∀ f s, exec (instr f) s = s.issue .ldl f false noPre bodyLdl) :
      ∀ k ∈ loadsOwn instr, k.Holds :=
    bothLoads_hold hexec (fun c => begins_consume c _) fun _ _ hf => bodyLdl_loads hf
  have const {instr : Fields → Instr} (hexec : ∀ f s, exec (instr f) s = s.issue .ldk f false noPre bodyLdk) :
      ∀ k ∈ loadsConst instr, k.Holds :=
    bothLoads_hold hexec (fun c => begins_consume c _) fun _ hw hf => bodyLdk_loads hw.1 hw.2 hf
  refine ⟨⟨⟨⟨⟨⟨bothLoads_hold (fun _ _ => rfl) begins_ld fun _ _ hf => bodyLd_loads hf, own fun _ _ => rfl⟩,
    own fun _ _ => rfl⟩, const fun _ _ => rfl⟩, const fun _ _ => rfl⟩, ?_⟩, poolLoads_hold⟩
  simp only [List.forall_mem_cons, List.not_mem_nil, false_implies, implies_true, and_true]
  exact ⟨loadsRecord_holds fun _ _ => rfl, loadsRecord_holds fun _ _ => rfl⟩

end Sys2Proof.Machine
end

section
/-! The stores, whose bytes wait in the buffer of their run, with PREF and CCTL (R80, R289, R290, R292, R293, R309). -/

namespace Sys2Proof.Machine

open Sys2Proof

/-! ### What a store leaves of the machine -/

theorem kept_leaves (s : State) (leaves : List (Nat × TlbEntry)) :
    Kept s (leaves.foldl (fun s (pe : Nat × TlbEntry) => s.fillTlb pe.1 pe.2) s) :=
  kept_foldl (fun s _ => kept_fillTlb s _ _) _ s

theorem noted_issued (c : Cx) (m : Mask) (accs : List Access) : OnlyIssued c.s (noted (c.consume m) accs).s c.w true :=
  issued_trans (issued_consume _ _ _ _ _) (kept_leaves _ _ c.w)

theorem touched_issued (c : Cx) (m : Mask) (ps : List Place) (t : Touch) :
    OnlyIssued c.s ((c.consume m).touchAll ps t).s c.w true :=
  issued_trans (begins_consume c m).issued (kept_touchAll (c.consume m) ps t c.w)

@[simp] theorem releases_s (c : Cx) : c.releases.s = c.s := by
  unfold Cx.releases
  split <;> rfl

@[simp] theorem releases_w (c : Cx) : c.releases.w = c.w := by
  unfold Cx.releases
  split <;> rfl

@[simp] theorem releases_f (c : Cx) : c.releases.f = c.f := by
  unfold Cx.releases
  split <;> rfl

/-! ### Each instruction -/

theorem st_holds : Direct.Holds
    { instr := .st, op := .st, ok := fun c => (memAccesses c { write := true }).2 = [], reads := true
      after := fun c =>
        let accs := (memAccesses c { write := true }).1
        let d := noted (c.consume (badAddress c)) accs
        let d := if c.f.x.toNat % 4 = 1 then d.releases else d
        d.buffer (buffers d (c.argD c.f.dw.count c.f.ty) Place.va accs false false
            (if c.f.x.toNat % 4 = 1 then some c.scope else none) c.touchKind)
          (d.compared d.lanes d.memAddr (d.words (c.argD c.f.dw.count c.f.ty))) } := by
  refine direct_holds (body := bodySt) false (fun _ _ => rfl) (fun c _ => ?_) fun c hok => ?_
  · have h := noted_issued c (badAddress c) (memAccesses c { write := true }).1
    dsimp only [Cx.buffer]
    split
    · exact ⟨releases_w _, by rw [releases_s]; exact h⟩
    · exact ⟨rfl, h⟩
  · unfold bodySt
    refine (faults_none hok).trans ?_
    by_cases hrel : c.f.x.toNat % 4 = 1
    · simp only [consume_f, hrel, if_true, releases_f, Cx.scope]
      rfl
    · simp only [consume_f, hrel, if_false]
      rfl

theorem storesOwn_holds {instr : Fields → Instr} (hexec : ∀ f s, exec (instr f) s = s.issue .stl f false noPre bodyStl) :
    (storesOwn instr).Holds := by
  refine direct_holds (k := storesOwn instr) false hexec (fun c _ => ⟨rfl, noted_issued c _ _⟩) fun c hok => ?_
  unfold bodyStl
  exact faults_none hok

theorem pst_holds : Direct.Holds
    { instr := .pst, op := .pst, ok := fun c => (windowAccesses c).2 = []
      after := fun c =>
        let accs := (windowAccesses c).1
        let d := poolMet (c.consume (c.poisoned c.poolArgs)) c.bytesD accs
        d.buffer (buffers d (c.argD c.f.dw.count c.f.ty) Place.pool accs false true none {})
          (d.compared d.lanes (fun t => pair (BitVec.ofNat 32 (d.offset t)) (d.word (d.argA 1 .n32) t 0))
            (d.words (c.argD c.f.dw.count c.f.ty))) } := by
  refine direct_holds (body := bodyPst) false (fun _ _ => rfl)
    (fun c _ => ⟨rfl, issued_trans (issued_consume _ _ _ _ _) (issued_meter _ _ _ _ _ _ _)⟩) fun c hok => ?_
  unfold bodyPst
  exact faults_none hok

theorem pref_holds : Direct.Holds
    { instr := .pref, op := .pref, reads := true
      after := fun c =>
        (c.consume (badAddress c)).touchAll ((c.accesses (c.actors (badAddress c)) c.memAddr
          (!c.touchKind.noL1 && c.axis == 0) 1 0 1 { read := true }).1.flatMap Access.ps) c.touchKind } :=
  direct_holds (body := bodyPref) false (fun _ _ => rfl)
    (fun c _ => ⟨rfl, touched_issued c _ _ _⟩) fun _ _ => rfl

theorem cctl_holds : Direct.Holds
    { instr := .cctl, op := .cctl, ok := fun c => c.f.sub.toNat < 4
      after := fun c => (c.consume (badAddress c)).queue (.cctl c.f.sub.toNat
        ((c.actors (badAddress c)).filterMap fun t => c.cctlLine (c.memAddr t))) } := by
  refine direct_holds (body := bodyCctl) false (fun _ _ => rfl) (fun c _ => ⟨rfl, issued_consume _ _ _ _ _⟩)
    fun c hok => ?_
  unfold bodyCctl
  exact if_pos hok

/-- CCTL on the column cache, past its faults. -/
theorem sectorOperation_holds : sectorOperation.Holds := by
  refine direct_holds (k := sectorOperation) (body := bodyCctl) false (fun _ _ => rfl) (fun c _ => ?_)
    fun c ⟨hsub, hf⟩ => ?_
  · have h := issued_trans (issued_consume c.s c.x (if badAddress c = 0 then 0 else 1) c.w true)
      (kept_leaves _ ((cctlPlaces c).filterMap Place.leaf) c.w)
    dsimp only [sectorOperation]
    split
    · exact ⟨rfl, h⟩
    · exact ⟨rfl, h⟩
  · unfold bodyCctl
    refine (if_neg (Nat.not_lt.mpr hsub)).trans ((faults_none hf).trans ?_)
    rfl

/-- Settles O48: past its faults each store is its buffering, and each operation of a cache its command. -/
theorem storesComplete : Obligations.StoresComplete := by
  refine ⟨?_, sectorOperation_holds⟩
  unfold storeTable
  simp only [List.forall_mem_cons, List.not_mem_nil, false_implies, implies_true, and_true]
  exact ⟨st_holds, storesOwn_holds fun _ _ => rfl, storesOwn_holds fun _ _ => rfl, pst_holds, pref_holds, cctl_holds⟩

end Sys2Proof.Machine
end

section
/-! The atomics and the exchanges (R82, R297, R299, R303, R311): each ends its run in the irrevocable instruction that its commit
performs. -/

namespace Sys2Proof.Machine

open Sys2Proof

/-! ### Atomics -/

theorem endAtomic_frame (c d : Cx) (op : AtomKind) (regs : Nat) (accs : List Access) (addr : Nat → Addr) :
    (c.endAtomic d op regs accs addr).w = d.w ∧ (c.endAtomic d op regs accs addr).s = d.s := by
  unfold Cx.endAtomic
  split <;> exact ⟨rfl, rfl⟩

/-- An atomic that returns its old value, from the result it awaits. -/
theorem atomic_fetches {c d : Cx} {op : AtomKind} {psn : Mask} {regs : Nat} {accs : List Access} {addr : Nat → Addr}
    (hop : op ≠ .red)
    (h : (c.consume (psn ||| c.dataPoison op regs)).later (some 2) c.lanes
      ((c.consume (psn ||| c.dataPoison op regs)).rowsPsn (if op = .acas then regs / 2 else regs) fun t =>
        ((c.consume (psn ||| c.dataPoison op regs)).words (c.argD regs c.f.ty) t).map fun w => (w, bit psn t))
      .none accs.isEmpty = .ok d) :
    c.atomic op psn regs accs addr = .ok (c.endAtomic d op regs accs addr) := by
  unfold Cx.atomic
  simp only [if_neg hop, h]
  rfl

/-- An atomic of column memory past its faults. -/
theorem memAtomic_past {c : Cx} {op : AtomKind} {regs : Nat} (hf : (atomAccesses op regs false c).2 = []) :
    c.memAtomic op regs = c.atomic op (atomIdle op regs false c) regs (atomAccesses op regs false c).1 c.memAddr := by
  unfold Cx.memAtomic
  exact faults_none hf

/-- An atomic of the pool past its faults. -/
theorem bodyPatom_past {c : Cx} (hf : (atomAccesses .patom c.f.ty.regs true c).2 = []) :
    bodyPatom c = (atomMet .patom c.f.ty.regs true c).atomic .patom (atomIdle .patom c.f.ty.regs true c) c.f.ty.regs
      (atomAccesses .patom c.f.ty.regs true c).1 (atomAddr true (atomMet .patom c.f.ty.regs true c)) := by
  unfold bodyPatom
  exact faults_none hf

/-- An atomic up to its accesses leaves its warp, its fields and what is in flight as they are. -/
theorem atomConsumed_frame (kind : AtomKind) (regs : Nat) (pool : Bool) (c : Cx) :
    (atomConsumed kind regs pool c).w = c.w ∧ OnlyIssued c.s (atomConsumed kind regs pool c).s c.w ∧
      (atomConsumed kind regs pool c).f = c.f := by
  unfold atomConsumed atomMet
  cases pool
  · exact ⟨rfl, issued_consume _ _ _ _ _, rfl⟩
  · exact ⟨rfl, issued_trans (issued_meter _ _ _ _ _ _ _) (issued_consume _ _ _ _ _), rfl⟩

theorem fetches_holds {instr : Fields → Instr} {op : Opcode} {kind : AtomKind} {regs : Cx → Nat} {pool : Bool}
    {body : Cx → Step} (hexec : ∀ f s, exec (instr f) s = s.issue op f false noPre body) (hkind : kind ≠ .red)
    (hbody : ∀ c, (atomAccesses kind (regs c) pool c).2 = [] →
      body c = (atomMet kind (regs c) pool c).atomic kind (atomIdle kind (regs c) pool c) (regs c)
        (atomAccesses kind (regs c) pool c).1 (atomAddr pool (atomMet kind (regs c) pool c))) :
    (fetches instr op kind regs pool).Holds := by
  refine later_holds (k := fetches instr op kind regs pool) false hexec (fun c => atomConsumed_frame kind (regs c) pool c)
    (fun _ _ => endAtomic_frame _ _ _ _ _ _) fun c c' hf h => (hbody c hf).trans (atomic_fetches hkind ?_)
  cases pool <;> exact h

/-! ### Exchanges -/

theorem exchanges_holds {instr : Fields → Instr} {op : Opcode} {red : Bool} {n : Cx → Nat} {body : Cx → Step}
    (hexec : ∀ f s, exec (instr f) s = s.issue op f false noPre body) (hbody : ∀ c, body c = c.exchange red (n c)) :
    (exchanges instr op red n).Holds := by
  refine later_holds (k := exchanges instr op red n) false hexec (fun c => ⟨rfl, issued_same _ _ _, rfl⟩)
    (fun _ _ => ⟨rfl, rfl⟩) fun c c' _ h => ?_
  rw [hbody]
  unfold Cx.exchange
  exact congrArg (Except.map _) h

/-- Settles O49: past its faults each atomic awaits its result and ends its run; an exchange does without any check. -/
theorem atomicsComplete : Obligations.AtomicsComplete := by
  refine ⟨?_, ?_, ?_⟩
  · unfold atomTable
    simp only [List.forall_mem_cons, List.not_mem_nil, false_implies, implies_true, and_true]
    exact ⟨fetches_holds (fun _ _ => rfl) (by decide) fun _ => memAtomic_past,
      fetches_holds (fun _ _ => rfl) (by decide) fun _ => memAtomic_past,
      fetches_holds (fun _ _ => rfl) (by decide) fun _ => memAtomic_past,
      fetches_holds (fun _ _ => rfl) (by decide) fun _ => bodyPatom_past⟩
  · refine direct_holds (k := reduces) (body := bodyRed) false (fun _ _ => rfl) (fun c _ => ?_) fun c hf =>
      memAtomic_past hf
    obtain ⟨hw, hs, -⟩ := atomConsumed_frame .red c.f.ty.regs false c
    obtain ⟨hw', hs'⟩ := endAtomic_frame c (atomConsumed .red c.f.ty.regs false c) .red c.f.ty.regs
      (atomAccesses .red c.f.ty.regs false c).1 c.memAddr
    exact ⟨hw'.trans hw, hs' ▸ hs⟩
  · unfold exchangeTable
    simp only [List.forall_mem_cons, List.not_mem_nil, false_implies, implies_true, and_true]
    exact ⟨exchanges_holds (fun _ _ => rfl) fun _ => rfl, exchanges_holds (fun _ _ => rfl) fun _ => rfl⟩

end Sys2Proof.Machine
end

section
/-! The memory instructions that fault (R273, R291, R308): each reports the fault that R273 puts first and is not performed. -/

namespace Sys2Proof.Machine

open Sys2Proof

/-- An instruction of the shape of `Faulting`, from what its body does. -/
theorem faulting_holds {k : Faulting} {body : Cx → Step}
    (hexec : ∀ f s, exec (k.instr f) s = s.issue k.op f false k.pre body)
    (hbody : ∀ c a m, k.fault c = some (a, m) → body c = c.stop (.trap a m)) : k.Holds := by
  intro s w x f hi hpre ho a m hk
  have hp := passed_admitted (s.cx w x f) k.op
  have hact : (passed (s.cx w x f) k.op).act ≠ 0 := by rw [hp.act]; exact active_of_opens ho
  rw [hexec, issue_stops hi hpre (gate_opens ho) hact (hbody _ a m hk), hp.s]
  exact congrArg _ (stopped_trap hi.2 _ _ _)

/-- Faults of which an instruction reports one. -/
theorem faults_reported {c : Cx} {fs : List (Nat × Cause)} {a : Cause} {m : Mask} (h : reported c fs = some (a, m))
    (g : Cx → Step) : c.faults fs g = c.stop (.trap a m) := by
  unfold reported at h
  obtain ⟨⟨k, n⟩, hk, hkn⟩ := Option.map_eq_some_iff.mp h
  obtain ⟨rfl, rfl⟩ := Prod.mk.inj hkn
  unfold Cx.faults
  rw [hk]

/-- Where an instruction reports no fault, it goes on. -/
theorem faults_unreported {c : Cx} {fs : List (Nat × Cause)} (h : reported c fs = none) (g : Cx → Step) :
    c.faults fs g = g c := by
  unfold Cx.faults
  rw [Option.map_eq_none_iff.mp h]

/-- An instruction whose body begins with the faults of some accesses. -/
theorem accessFault_holds {instr : Fields → Instr} {op : Opcode} {accs : Cx → List Access × List (Nat × Cause)}
    {body : Cx → Step} (hexec : ∀ f s, exec (instr f) s = s.issue op f false noPre body)
    (hbody : ∀ c, ∃ g, body c = c.faults (accs c).2 g) : (accessFault instr op accs).Holds := by
  refine faulting_holds (k := accessFault instr op accs) hexec fun c a m h => ?_
  obtain ⟨g, hg⟩ := hbody c
  rw [hg]
  exact faults_reported h g

/-- LDK checks its offsets, then its accesses. -/
theorem constFaults_holds {instr : Fields → Instr} (hexec : ∀ f s, exec (instr f) s = s.issue .ldk f false noPre bodyLdk) :
    (constFaults instr).Holds := by
  refine faulting_holds (k := constFaults instr) hexec fun c a m h => ?_
  unfold bodyLdk
  dsimp only [constFaults] at h
  split at h
  next k hk => exact faults_reported (hk.trans h) _
  next hk =>
    refine (faults_unreported hk _).trans ?_
    split at h
    next => cases h
    next hsub =>
      rw [if_neg hsub]
      exact faults_reported h _

/-- CCTL on the column cache. -/
theorem cctlFault_holds : Faulting.Holds
    { instr := .cctl, op := .cctl
      fault := fun c => if c.f.sub.toNat < 4 then none else reported c (cctlAccesses c).2 } := by
  refine faulting_holds (body := bodyCctl) (fun _ _ => rfl) fun c a m h => ?_
  unfold bodyCctl
  dsimp only at h
  split at h
  next => cases h
  next hsub => exact (if_neg hsub).trans (faults_reported h _)

theorem memAtomic_faults (c : Cx) (op : AtomKind) (regs : Nat) :
    ∃ g, c.memAtomic op regs = c.faults (atomAccesses op regs false c).2 g := ⟨_, by unfold Cx.memAtomic; rfl⟩

/-- Settles O21: each instruction of the table checks its accesses before it does anything else. -/
theorem accessFaultsTrap : Obligations.AccessFaultsTrap := by
  have ldl {instr : Fields → Instr} (hexec : ∀ f s, exec (instr f) s = s.issue .ldl f false noPre bodyLdl) :
      (accessFault instr .ldl fun c => ownAccesses c { read := true }).Holds :=
    accessFault_holds hexec fun _ => ⟨_, by unfold bodyLdl; rfl⟩
  have stl {instr : Fields → Instr} (hexec : ∀ f s, exec (instr f) s = s.issue .stl f false noPre bodyStl) :
      (accessFault instr .stl fun c => ownAccesses c { write := true }).Holds :=
    accessFault_holds hexec fun _ => ⟨_, by unfold bodyStl; rfl⟩
  unfold Obligations.AccessFaultsTrap accessFaultTable
  simp only [List.forall_mem_cons, List.not_mem_nil, false_implies, implies_true, and_true]
  exact ⟨accessFault_holds (fun _ _ => rfl) fun _ => ⟨_, by unfold bodyLd; rfl⟩,
    accessFault_holds (fun _ _ => rfl) fun _ => ⟨_, by unfold bodySt; rfl⟩,
    ldl fun _ _ => rfl, ldl fun _ _ => rfl, stl fun _ _ => rfl, stl fun _ _ => rfl,
    constFaults_holds fun _ _ => rfl, constFaults_holds fun _ _ => rfl,
    accessFault_holds (fun _ _ => rfl) fun _ => ⟨_, by unfold bodyPld; rfl⟩,
    accessFault_holds (fun _ _ => rfl) fun _ => ⟨_, by unfold bodyPst; rfl⟩,
    cctlFault_holds,
    accessFault_holds (fun _ _ => rfl) fun c => memAtomic_faults c _ _,
    accessFault_holds (fun _ _ => rfl) fun c => memAtomic_faults c _ _,
    accessFault_holds (fun _ _ => rfl) fun c => memAtomic_faults c _ _,
    accessFault_holds (fun _ _ => rfl) fun c => memAtomic_faults c _ _,
    accessFault_holds (fun _ _ => rfl) fun _ => ⟨_, by unfold bodyPatom; rfl⟩⟩

end Sys2Proof.Machine
end

section
/-! What holds a run back from its commit (R79, R82, R90, R218, R245, R255). -/

namespace Sys2Proof.Machine

open Sys2Proof

/-! ### Changes to one warp -/

/-- Nothing of the memories has changed, and of the warps nothing but one. -/
structure OnlyWarp (s t : State) (w : Nat) : Prop where
  bytes : SameBytes s t
  others : ∀ v, v ≠ w → t.warp v = s.warp v

theorem onlyWarp_same (s : State) (w : Nat) : OnlyWarp s s w := ⟨⟨rfl, rfl, rfl, rfl⟩, fun _ _ => rfl⟩

theorem onlyWarp_trans {s t u : State} {w : Nat} (h : OnlyWarp s t w) (g : OnlyWarp t u w) : OnlyWarp s u w :=
  ⟨sameBytes_trans h.bytes g.bytes, fun v hv => (g.others v hv).trans (h.others v hv)⟩

theorem onlyWarp_setWarp (s : State) (w : Nat) (x : Warp) : OnlyWarp s (s.setWarp w x) w :=
  ⟨⟨rfl, rfl, rfl, rfl⟩, fun _ hv => State.warp_setWarp_ne s x hv⟩

theorem onlyWarp_modWarp (s : State) (w : Nat) (f : Warp → Warp) : OnlyWarp s (s.modWarp w f) w :=
  ⟨sameBytes_modWarp s w f, fun _ hv => State.warp_modWarp_ne s f hv⟩

@[simp] theorem imprint_warp (s : State) (x : Warp) (l : List (Nat × Lanes)) (v : Nat) :
    (s.imprint x l).warp v = s.warp v := by
  unfold State.imprint
  split <;> rfl

theorem onlyWarp_imprint (s : State) (x : Warp) (l : List (Nat × Lanes)) (w : Nat) : OnlyWarp s (s.imprint x l) w :=
  ⟨sameBytes_imprint s x l, fun v _ => imprint_warp s x l v⟩

/-- A run discarded (R81). -/
theorem discardRun_spec {s : State} {w : Nat} {x : Warp} (h : s.warp w = some x) :
    (s.discardRun w).warp w = some x.discard ∧ OnlyWarp s (s.discardRun w) w := by
  unfold State.discardRun
  simp only [h]
  split
  · exact ⟨State.warp_setWarp _ _ _, onlyWarp_trans (onlyWarp_imprint s x _ w) (onlyWarp_setWarp _ w _)⟩
  · exact ⟨State.warp_setWarp _ _ _, onlyWarp_setWarp s w _⟩

@[simp] theorem discardRun_blocks (s : State) (w : Nat) : (s.discardRun w).blocks = s.blocks := by
  unfold State.discardRun State.imprint
  split
  · split
    · split <;> rfl
    · rfl
  · rfl

/-! ### What RUN_COMMIT does with a run that has ended -/

theorem settleArrivals_none {s : State} (h : s.arrivals = []) : s.settleArrivals = s := by
  unfold State.settleArrivals
  rw [h]
  rfl

theorem cmp_agrees {r : Run} (h : ∀ p ∈ r.cmp, p.1 = p.2) : (r.cmp.any fun p => p.1 != p.2) = false :=
  List.any_eq_false.mpr fun p hp => by simp [h p hp]

section
variable {s : State} {w : Nat} {x : Warp} {r : Run} {e : RunEnd}
  (hx : s.warp w = some x) (hr : x.run = some r)
include hx hr

theorem tryCommit_waits (h : x.resident = false ∨ s.mustWait w x r = true) : s.tryCommit w = s := by
  unfold State.tryCommit
  simp only [hx, hr]
  refine if_pos ?_
  rcases h with h | h <;> simp [h]

theorem tryCommit_decides (he : r.ended = some e) (hres : x.resident = true) (hwait : s.mustWait w x r = false)
    (ha : s.arrivals = []) : s.tryCommit w = s.decideCommit w := by
  unfold State.tryCommit
  simp only [hx, hr, he, hres, hwait, settleArrivals_none ha]
  rfl

/-- A protected run whose threads disagree kills its gang (R90). -/
theorem decideCommit_disagrees {b : Block} (hb : s.blockOf x = some b) {p : Addr × Addr} (hp : p ∈ r.cmp)
    (hne : p.1 ≠ p.2) : s.decideCommit w = ((s.setCir (s.asidOf x) x.col 1).discardRun w).killGang b.gang := by
  have hdis : (r.cmp.any fun p => p.1 != p.2) = true := List.any_eq_true.mpr ⟨p, hp, by simpa using hne⟩
  have hblock : ((s.setCir (s.asidOf x) x.col 1).discardRun w).blockOf x = some b := by
    unfold State.blockOf State.block at hb ⊢
    rw [discardRun_blocks]
    exact hb
  unfold State.decideCommit
  simp only [hx, hr, hdis, if_true, hblock]

variable (hcmp : ∀ p ∈ r.cmp, p.1 = p.2)
include hcmp

/-- A run of which another party has overwritten an SO load (R245). -/
theorem decideCommit_struck (hso : r.soHit = true) :
    s.decideCommit w = (s.discardRun w).modWarp w fun x => { x with soTries := x.soTries + 1 } := by
  unfold State.decideCommit
  simp only [hx, hr, cmp_agrees hcmp, hso, if_true]
  rfl

/-- A run whose loads an order of its commit overtakes (R255). -/
theorem decideCommit_overtaken (hso : r.soHit = false) (ho : s.overtaken x r = true) :
    s.decideCommit w = s.discardRun w := by
  unfold State.decideCommit
  simp only [hx, hr, cmp_agrees hcmp, hso, ho, if_true]
  rfl

/-- A run whose matrix commands do not match in scale (R218). -/
theorem decideCommit_mismatch (hso : r.soHit = false) (ho : s.overtaken x r = false) {k : Nat} {pc : Addr}
    (hm : countMats (s.recOf x) r.cmds (((s.blockOf x).map Block.counted).getD []) = .error (k, pc)) :
    s.decideCommit w = (s.discardRun w).takeTrap w { code := 0x31, info := BitVec.ofNat 32 k, addr := 0 }
      (BitVec.allOnes 64) pc r.startPc false false := by
  unfold State.decideCommit
  simp only [hx, hr, cmp_agrees hcmp, hso, ho, hm]
  rfl

/-- A run that nothing holds back (R79). -/
theorem decideCommit_commits (hso : r.soHit = false) (ho : s.overtaken x r = false) {m : AMap (Nat × Word)}
    (hm : countMats (s.recOf x) r.cmds (((s.blockOf x).map Block.counted).getD []) = .ok m) :
    s.decideCommit w = s.commitRun w x r m := by
  unfold State.decideCommit
  simp only [hx, hr, cmp_agrees hcmp, hso, ho, hm]
  rfl

end

/-- Settles O27: RUN_COMMIT leaves a run that must wait as it is, and takes the first of R79's checks that it fails. -/
theorem runHeldBack : Obligations.RunHeldBack := by
  intro s w x r e hx hr he
  refine ⟨fun h => congrArg _ (tryCommit_waits hx hr h), fun hres hwait ha => ?_⟩
  have hexec : exec (.runCommit w) s = .next (s.decideCommit w) := congrArg _ (tryCommit_decides hx hr he hres hwait ha)
  obtain ⟨hd, hframe⟩ := discardRun_spec hx
  refine ⟨fun b hb p hp hne => hexec.trans (congrArg _ (decideCommit_disagrees hx hr hb hp hne)), fun hcmp => ?_⟩
  refine ⟨fun hso => ?_, fun hso ho => ?_, fun hso ho k pc hm =>
    hexec.trans (congrArg _ (decideCommit_mismatch hx hr hcmp hso ho hm))⟩
  · have hframe := onlyWarp_trans hframe (onlyWarp_modWarp _ w fun x => { x with soTries := x.soTries + 1 })
    exact ⟨_, hexec.trans (congrArg _ (decideCommit_struck hx hr hcmp hso)), State.warp_modWarp _ hd, hframe.bytes,
      hframe.others⟩
  · exact ⟨_, hexec.trans (congrArg _ (decideCommit_overtaken hx hr hcmp hso ho)), hd, hframe.bytes, hframe.others⟩

end Sys2Proof.Machine
end

section
/-! What the bookkeeping of the caches leaves as it is (R271-R285, R363, R399): every field of the machine but those of the
caches, and of a context its save areas. -/

namespace Sys2Proof.Machine

open Sys2Proof

/-- One state follows another by bookkeeping of the caches and the arrays. -/
structure Cached (s t : State) : Prop where
  eq : t = { s with
    contexts := t.contexts, columns := t.columns, cores := t.cores, errs := t.errs, blocked := t.blocked, memPsn := t.memPsn
    readPsn := t.readPsn, spadPsn := t.spadPsn, hostPsn := t.hostPsn, peerPsn := t.peerPsn, below := t.below, msgs := t.msgs
    dev := t.dev, host := t.host, hostCopy := t.hostCopy }
  save : ∀ a, (t.ctx a).save = (s.ctx a).save
  failed : ∀ c, (t.column c).failed = (s.column c).failed

/-! ### One part changed -/

/-- A change to fields that hold neither a context nor a column. -/
theorem cached_of {s t : State} (h : t = { s with
    cores := t.cores, errs := t.errs, blocked := t.blocked, memPsn := t.memPsn, readPsn := t.readPsn, spadPsn := t.spadPsn
    hostPsn := t.hostPsn, peerPsn := t.peerPsn, below := t.below, msgs := t.msgs, dev := t.dev, host := t.host
    hostCopy := t.hostCopy }) : Cached s t := by
  refine ⟨?_, fun a => ?_, fun c => ?_⟩
  · rw [h]
  · rw [h]; rfl
  · rw [h]; rfl

theorem cached_same (s : State) : Cached s s := ⟨rfl, fun _ => rfl, fun _ => rfl⟩

theorem cached_trans {s t u : State} (h : Cached s t) (g : Cached t u) : Cached s u := by
  refine ⟨?_, fun a => (g.save a).trans (h.save a), fun c => (g.failed c).trans (h.failed c)⟩
  rw [g.eq, h.eq]

theorem cached_foldl {α : Type} {g : State → α → State} (h : ∀ s a, Cached s (g s a)) (l : List α) (s : State) :
    Cached s (l.foldl g s) :=
  List.foldlRecOn (motive := Cached s) l g (cached_same s) fun t ht a _ => cached_trans ht (h t a)

theorem cached_ite {p : Prop} [Decidable p] {s t u : State} (h : Cached s t) (g : Cached s u) :
    Cached s (if p then t else u) := by
  split
  · exact h
  · exact g

theorem cached_modColumn (s : State) (c : Nat) (f : Column → Column) (hf : ∀ x, (f x).failed = x.failed) :
    Cached s (s.modColumn c f) := by
  refine ⟨rfl, fun _ => rfl, fun d => ?_⟩
  by_cases hd : d = c
  · subst hd; rw [State.column_modColumn, hf]
  · rw [State.column_modColumn_ne s f hd]

theorem cached_modCore (s : State) (c k : Nat) (f : Core → Core) : Cached s (s.modCore c k f) := cached_of rfl

theorem cached_meter (s : State) (a c n k : Nat) : Cached s (s.meter a c n k) := by
  refine ⟨rfl, fun b => ?_, fun _ => rfl⟩
  unfold State.meter
  by_cases hb : b = a
  · subst hb; rw [State.ctx_modCtx]
  · rw [State.ctx_modCtx_ne s _ hb]

theorem cached_trySend (s : State) (v : Nat) : Cached s (s.trySend v) := by
  unfold State.trySend
  simp only []
  split
  · exact cached_same s
  · split
    · exact cached_of rfl
    · exact cached_of rfl

theorem cached_raiseVector (s : State) (v : Nat) : Cached s (s.raiseVector v) := by
  unfold State.raiseVector
  exact cached_trans (cached_of rfl) (cached_trySend _ v)

/-! ### The arrays -/

theorem cached_cellLog (s : State) (c l y p k : Nat) : Cached s (s.cellLog c l y p k) := by
  unfold State.cellLog
  exact cached_ite (cached_trans (cached_modColumn s c _ (by exact fun _ => rfl)) (cached_raiseVector _ _))
    (cached_modColumn s c _ (by exact fun _ => rfl))

theorem cached_needLine (s : State) (c l : Nat) : Cached s (s.needLine c l) := by
  unfold State.needLine
  exact cached_ite (cached_of rfl) (cached_same s)

theorem cached_upkeep (s : State) (c k : Nat) : Cached s (s.upkeep c k) := cached_modColumn s c _ fun _ => rfl

theorem cached_correctLine (s : State) (c l o m : Nat) : Cached s (s.correctLine c l o m) := by
  unfold State.correctLine
  simp only []
  split
  · exact cached_needLine s c l
  · refine cached_ite ?_ ?_
    · exact cached_trans (cached_trans (cached_needLine s c l) (cached_of rfl)) (cached_cellLog _ _ _ _ _ _)
    · exact cached_trans (cached_trans (cached_trans (cached_needLine s c l) (cached_of rfl)) (cached_upkeep _ _ _))
        (cached_cellLog _ _ _ _ _ _)

theorem cached_readLines (s : State) (c f n : Nat) : Cached s (s.readLines c f n) := by
  unfold State.readLines
  exact cached_ite (cached_same s)
    (cached_foldl (fun s _ => cached_trans (cached_correctLine s _ _ _ _) (cached_of rfl)) _ _)

theorem cached_correctSector (s : State) (c a : Nat) : Cached s (s.correctSector c a) := by
  unfold State.correctSector
  exact cached_ite (cached_same s) (cached_foldl (fun s _ => cached_correctLine s _ _ _ _) _ _)

theorem cached_correctWalk (s : State) (a p l o : Nat) : Cached s (s.correctWalk a p l o) := by
  unfold State.correctWalk
  split
  · exact cached_ite (cached_same s) (cached_foldl (fun s _ => cached_readLines s _ _ _) _ _)
  · exact cached_same s

theorem cached_fillTlb (s : State) (p : Nat) (e : TlbEntry) : Cached s (s.fillTlb p e) := by
  unfold State.fillTlb
  simp only []
  refine cached_trans (cached_ite (cached_same s) (cached_trans (cached_meter _ _ _ _ _) (cached_correctWalk _ _ _ _ _)))
    (cached_modColumn _ _ _ fun x => ?_)
  split
  · rfl
  · split <;> rfl

/-! ### Host lines and sectors -/

theorem cached_cleanHost (s : State) (k : Nat) (h : HostLine) : Cached s (s.cleanHost k h) := by
  unfold State.cleanHost
  simp only []
  refine cached_ite (cached_same s) (cached_trans ?_ (cached_meter _ _ _ _ _))
  have half (t : State) (i d : Nat) : Cached t (if d = 0 then t
      else if h.psn.testBit i = true then { t with hostPsn := setIns t.hostPsn (2 * (k % 2 ^ 47) + i) }
      else if d = 2 ^ 32 - 1 then { t with hostPsn := setDel t.hostPsn (2 * (k % 2 ^ 47) + i) } else t) :=
    cached_ite (cached_same t) (cached_ite (cached_of rfl) (cached_ite (cached_of rfl) (cached_same t)))
  exact cached_trans (cached_trans (cached_foldl (fun s _ => cached_ite (cached_of rfl) (cached_same s)) _ _) (half _ 0 _))
    (half _ 1 _)

theorem cached_cleanLines (s : State) (hit : Nat → Bool) : Cached s (s.cleanLines hit) := by
  unfold State.cleanLines
  exact cached_trans (cached_foldl (fun s _ => cached_ite (cached_cleanHost s _ _) (cached_same s)) _ _) (cached_of rfl)

theorem cached_fetchHost (s : State) (c p : Nat) : Cached s (s.fetchHost c p) := by
  unfold State.fetchHost
  split
  · exact cached_same s
  · exact cached_of rfl

theorem cached_ownHost (s : State) (c p a : Nat) (b : Bool) : Cached s (s.ownHost c p a b) := by
  unfold State.ownHost
  split
  · exact cached_ite (cached_of rfl) (cached_same s)
  · exact cached_same s

theorem cached_markLine (s : State) (v : Nat) (l : Loc) (b : Bool) : Cached s (s.markLine v l b) := by
  unfold State.markLine
  cases l with
  | mem c p k => exact cached_ite (cached_of rfl) (cached_of rfl)
  | spad c o => exact cached_of rfl
  | peer d a p => exact cached_of rfl
  | host pa =>
    simp only []
    split
    · exact cached_of rfl
    · exact cached_of rfl

theorem cached_dropSector (s : State) (a c : Nat) (x : Sector) : Cached s (s.dropSector a c x) := by
  unfold State.dropSector
  simp only []
  refine cached_trans ?_ (cached_modColumn _ _ _ fun _ => rfl)
  exact cached_ite (cached_ite (cached_same s) (cached_of rfl))
    (cached_ite (cached_cleanLines _ _) (cached_trans (cached_of rfl) (cached_meter _ _ _ _ _)))

theorem cached_freeWay (s : State) (a c l t w : Nat) (z : Bool) : Cached s (s.freeWay a c l t w z).2 := by
  unfold State.freeWay
  simp only []
  split
  · exact cached_same s
  · split
    · exact cached_dropSector _ _ _ _
    · exact cached_same s

theorem cached_noteSector (s : State) (asid col addr slot off slice : Nat) (host : Bool) (t : Touch) :
    Cached s (s.noteSector asid col addr slot off slice host t) := by
  have sectors (s : State) (f : Column → List Sector) : Cached s (s.modColumn col fun c => { c with sectors := f c }) :=
    cached_modColumn s col _ fun _ => rfl
  unfold State.noteSector
  simp only []
  split
  · refine cached_ite ?_ (cached_ite ?_ (sectors _ _))
    · exact cached_trans (sectors _ _) (cached_trans (cached_freeWay _ _ _ _ _ _ _) (sectors _ _))
    · exact cached_trans (sectors _ _) (cached_trans (cached_freeWay _ _ _ _ _ _ _) (sectors _ _))
  · refine cached_trans (cached_trans (cached_trans ?_ (cached_ite (cached_freeWay _ _ _ _ _ _ _) (cached_same _)))
      (cached_freeWay _ _ _ _ _ _ _)) (sectors _ _)
    exact cached_ite (cached_same _) (cached_ite (cached_meter _ _ _ _ _)
      (cached_trans (cached_trans (cached_meter _ _ _ _ _) (cached_correctSector _ _ _)) (cached_of rfl)))

theorem cached_touchSector (s : State) (asid col addr slot off : Nat) (host : Bool) (t : Touch) :
    Cached s (s.touchSector asid col addr slot off host t) := by
  have counted (f : Column → AMap Nat) : Cached s (s.modColumn col fun c => { c with requests := f c }) :=
    cached_modColumn s col _ fun _ => rfl
  unfold State.touchSector
  simp only []
  refine cached_trans ?_ (cached_noteSector _ _ _ _ _ _ _ _ _)
  split
  · exact cached_trans (counted _) (cached_dropSector _ _ _ _)
  · exact counted _

theorem cached_touchLoc (s : State) (a c : Nat) (l : Loc) (o : Nat) (t : Touch) : Cached s (s.touchLoc a c l o t) := by
  unfold State.touchLoc
  split
  · exact cached_touchSector _ _ _ _ _ _ _ _
  · exact cached_trans (cached_trans (cached_fetchHost _ _ _) (cached_ownHost _ _ _ _ _)) (cached_touchSector _ _ _ _ _ _ _ _)
  · exact cached_same s
  · exact cached_same s

theorem cached_settleBelow (s : State) (l : Loc) : Cached s (s.settleBelow l) := by
  unfold State.settleBelow
  cases l <;> exact cached_of rfl

/-! ### Lines of the L1s -/

theorem cached_writeBack (s : State) (c : Nat) (e : L1Line) : Cached s (s.writeBack c e) := by
  unfold State.writeBack
  refine cached_ite (cached_trans (cached_trans ?_ (cached_settleBelow _ _)) (cached_touchLoc _ _ _ _ _ _)) (cached_same s)
  exact cached_ite (cached_trans (cached_markLine _ _ _ _) (cached_markLine _ _ _ _)) (cached_same s)

theorem cached_fillL1 (s : State) (c k a : Nat) (pl : Place) (p : Nat) (e : TlbEntry) (t : Touch) :
    Cached s (s.fillL1 c k a pl p e t) := by
  unfold State.fillL1
  simp only []
  refine cached_trans (cached_trans ?_ (cached_foldl (fun s x => cached_writeBack s c x) _ _)) (cached_modCore _ _ _ _)
  split
  · exact cached_modCore _ _ _ _
  · exact cached_same s

theorem cached_touch (s : State) (c k a : Nat) (pl : Place) (t : Touch) : Cached s (s.touch c k a pl t) := by
  unfold State.touch
  cases pl.leaf with
  | none =>
    generalize (t.noL1 || t.colAx || (t.store && !t.priv)) = b
    cases b with
    | false => exact cached_same s
    | true => exact cached_touchLoc _ _ _ _ _ _
  | some pe =>
    obtain ⟨p, e⟩ := pe
    simp only []
    refine cached_trans (cached_fillTlb s p e) ?_
    generalize s.fillTlb p e = s1
    split
    · exact cached_trans (cached_ite (cached_same _) (cached_touchLoc _ _ _ _ _ _)) (cached_fillL1 _ _ _ _ _ _ _ _)
    · exact cached_same _
    · exact cached_touchLoc _ _ _ _ _ _

theorem cached_loadTouch (s : State) (c k a : Nat) (ps : List Place) : Cached s (s.loadTouch c k a ps) := by
  unfold State.loadTouch
  exact cached_foldl (fun s p => cached_touch s c k a p {}) _ _

theorem cached_shootL1 (s : State) (c k : Nat) (l : Loc) (own : Bool) : Cached s (s.shootL1 c k l own) := by
  unfold State.shootL1
  exact cached_foldl (fun s _ => cached_ite (cached_same s) (cached_ite (cached_same s) (cached_modCore _ _ _ _))) _ _

theorem cached_refreshL1 (s : State) (c k : Nat) (l : Loc) : Cached s (s.refreshL1 c k l) := by
  unfold State.refreshL1
  exact cached_ite (cached_modCore _ _ _ _) (cached_same s)

/-! ### Acquires and releases -/

theorem cached_acquireHost (s : State) (c k : Nat) : Cached s (s.acquireHost c k) := by
  unfold State.acquireHost
  simp only []
  exact cached_trans (cached_trans (cached_of rfl) (cached_modColumn _ _ _ (by exact fun _ => rfl))) (cached_modCore _ _ _ _)

theorem cached_acquire (s : State) (c k n : Nat) : Cached s (s.acquire c k n) := by
  unfold State.acquire
  exact cached_ite (cached_acquireHost s c k) (cached_same s)

theorem cached_releaseHost (s : State) (c : Nat) : Cached s (s.releaseHost c) := cached_cleanLines s _

/-! ### What stays -/

section
variable {s t : State} (h : Cached s t)
include h

theorem cached_warp (w : Nat) : t.warp w = s.warp w := by rw [h.eq]; rfl

theorem cached_copies : t.copies = s.copies := by rw [h.eq]

theorem cached_tvecOf (x : Warp) : t.tvecOf x = s.tvecOf x := by rw [h.eq]; rfl

theorem cached_asidOf (x : Warp) : t.asidOf x = s.asidOf x := by rw [h.eq]; rfl

/-- A warp's record is read alike: its holder, and its bytes. -/
theorem cached_dramByte (c pa k : Nat) : t.dramByte c pa k = s.dramByte c pa k := by rw [h.eq]; rfl

end

end Sys2Proof.Machine
end

section
/-! What a write of bytes leaves as it is, and the entry of a trap that reaches its handler (R124, R245, R361). -/

namespace Sys2Proof.Machine

open Sys2Proof

/-! ### Bytes written -/

/-- One state follows another by bytes written, in the memories and in the save areas. -/
def Wrote (s t : State) : Prop := t = { s with
  contexts := t.contexts, mem := t.mem, keyTag := t.keyTag, spad := t.spad, spadTag := t.spadTag, spadPsn := t.spadPsn
  hostCopy := t.hostCopy, peer := t.peer, records := t.records }

theorem wrote_same (s : State) : Wrote s s := rfl

theorem wrote_trans {s t u : State} (h : Wrote s t) (g : Wrote t u) : Wrote s u := by
  unfold Wrote at h g ⊢
  rw [g, h]

theorem wrote_foldl {α : Type} {g : State → α → State} (h : ∀ s a, Wrote s (g s a)) (l : List α) (s : State) :
    Wrote s (l.foldl g s) :=
  List.foldlRecOn (motive := Wrote s) l g (wrote_same s) fun t ht a _ => wrote_trans ht (h t a)

theorem wrote_putByte (s : State) (v : Nat) (l : Loc) (b : Byte) : Wrote s (s.putByte v l b) := by
  unfold Wrote
  cases l with
  | mem c pa k =>
    obtain ⟨m, t, he, -⟩ := putByte_mem s v c pa k b
    rw [he]
  | host pa =>
    obtain ⟨m, he⟩ := putByte_host s v pa b
    rw [he]
  | spad c o =>
    obtain ⟨m, t, p, he, -⟩ := putByte_spad s v c o b
    rw [he]
  | peer d a p => rfl

theorem wrote_saveAt (s : State) (a c o : Nat) (bs : List Byte) : Wrote s (s.saveAt a c o bs) := by
  unfold State.saveAt
  split
  · exact wrote_same s
  · next pa slot _ =>
    exact wrote_trans (t := s.meter a c 5 ((bs.length + 31) / 32 * 32)) rfl
      (wrote_foldl (fun s i => wrote_putByte s 0 (.mem c (pa + o + i) slot) (bs.getD i 0)) _ _)

theorem wrote_saveBytes (s : State) (x : Warp) (o : Nat) (bs : List Byte) : Wrote s (s.saveBytes x o bs) :=
  wrote_trans (wrote_saveAt s (s.asidOf x) x.col (warpRecord x.core x.wcore + o) bs) rfl

theorem wrote_saveTrap (s : State) (x : Warp) (v : Saved) : Wrote s (s.saveTrap x v) :=
  wrote_trans (wrote_trans (wrote_trans (wrote_trans (wrote_saveBytes _ _ _ _) (wrote_saveBytes _ _ _ _))
    (wrote_saveBytes _ _ _ _)) (wrote_saveBytes _ _ _ _)) (wrote_saveBytes _ _ _ _)

section
variable {s t : State} (h : Wrote s t)
include h

theorem wrote_warp (w : Nat) : t.warp w = s.warp w := by rw [h]; rfl
theorem wrote_copies : t.copies = s.copies := by rw [h]
theorem wrote_asidOf (x : Warp) : t.asidOf x = s.asidOf x := by rw [h]; rfl
theorem wrote_tvecOf (x : Warp) : t.tvecOf x = s.tvecOf x := by rw [h]; rfl

end

/-! ### SO loads told of bytes that another party writes -/

theorem struck_none {r : Run} (h : r.soLoads = []) (bs : List ByteW) : r.struck bs = r := by
  unfold Run.struck
  rw [h]
  rfl

theorem toldSo_none {x : Warp} (h : ((x.run.map Run.soLoads).getD []) = []) (bs : List ByteW) : toldSo bs x = x := by
  have hrun : (x.run.map fun r => r.struck bs) = x.run := by
    cases hr : x.run with
    | none => rfl
    | some r =>
      rw [hr] at h
      exact congrArg some (struck_none h bs)
  unfold toldSo
  rw [hrun]

theorem tellSo_warp (s : State) (bs : List ByteW) (w : Nat) : (s.tellSo bs).warp w = (s.warp w).map (toldSo bs) := by
  unfold State.tellSo
  split
  · next hall =>
    cases hw : s.warp w with
    | none => rfl
    | some x =>
      have hx := List.all_eq_true.mp hall (w, x) (mapGet_mem hw)
      exact congrArg some (toldSo_none (List.isEmpty_iff.mp hx) bs).symm
  · exact mapGet_mapAll (fun _ => toldSo bs) s.warps w

theorem writeBytes_warp (s : State) (v : Nat) (bs : List ByteW) (w : Nat) :
    (s.writeBytes v bs).warp w = (s.warp w).map (toldSo bs) := by
  unfold State.writeBytes
  rw [tellSo_warp, cached_warp (cached_foldl (fun s b => ?_) bs _) w,
    wrote_warp (wrote_foldl (fun s (b : ByteW) => wrote_putByte s v b.loc b.byte) bs s)]
  exact cached_ite (cached_markLine _ _ _ _) (cached_ite (cached_markLine _ _ _ _) (cached_same s))

theorem writeBytes_frame (s : State) (v : Nat) (bs : List ByteW) :
    (s.writeBytes v bs).copies = s.copies ∧ ∀ x, (s.writeBytes v bs).tvecOf x = s.tvecOf x := by
  have told (u : State) : (u.tellSo bs).copies = u.copies ∧ ∀ x, (u.tellSo bs).tvecOf x = u.tvecOf x := by
    unfold State.tellSo
    split <;> exact ⟨rfl, fun _ => rfl⟩
  have put := wrote_foldl (fun s (b : ByteW) => wrote_putByte s v b.loc b.byte) bs s
  have marked := cached_foldl (g := fun s (b : ByteW) => if b.poison = true then s.markLine v b.loc true
    else if coversLine (bs.filter fun x => !x.poison) b.loc = true then s.markLine v b.loc false else s)
    (fun s b => cached_ite (cached_markLine _ _ _ _) (cached_ite (cached_markLine _ _ _ _) (cached_same s))) bs
    (bs.foldl (fun s b => s.putByte v b.loc b.byte) s)
  unfold State.writeBytes
  exact ⟨by rw [(told _).1, cached_copies marked, wrote_copies put],
    fun x => by rw [(told _).2, cached_tvecOf marked, wrote_tvecOf put]⟩

/-- Bytes stored through the caches of a core: of the warps only the runs that read one of them with an SO load are told. -/
theorem storeThrough_frame (s : State) (c k a : Nat) (ps : List Place) (bs : List ByteW) :
    (∀ w, (s.storeThrough c k a ps bs).warp w = (s.warp w).map (toldSo bs))
      ∧ (s.storeThrough c k a ps bs).copies = s.copies ∧ ∀ x, (s.storeThrough c k a ps bs).tvecOf x = s.tvecOf x := by
  have before : Cached s ((distinctUnits false ps).foldl
      (fun s p => (s.touch c k a p { store := true }).shootL1 c k p.loc false) s) :=
    cached_foldl (fun s p => cached_trans (cached_touch s c k a p _) (cached_shootL1 _ c k _ _)) _ s
  have after (u : State) : Cached u ((distinctUnits false ps).foldl (fun s p => s.refreshL1 c k p.loc) u) :=
    cached_foldl (fun s p => cached_refreshL1 s c k _) _ u
  unfold State.storeThrough
  exact ⟨fun w => by rw [cached_warp (after _), writeBytes_warp, cached_warp before],
    by rw [cached_copies (after _), (writeBytes_frame _ _ _).1, cached_copies before],
    fun x => by rw [cached_tvecOf (after _), (writeBytes_frame _ _ _).2, cached_tvecOf before]⟩

/-! ### Trap entry -/

/-- What a trap of a warp saves (R124). -/
def savedBy (x : Warp) (ptr tpc : Addr) : Saved :=
  { c := x.regs.c, nc := x.regs.nc, depth := x.regs.depth, ldep := x.regs.ldep, mark := x.regs.mark, tpc := tpc, frame := ptr }

/-- A warp as its handler begins (R124). -/
def handled (x : Warp) (tvec ptr tpc : Addr) : Warp :=
  { x with
    regs := x.regs.handler tvec, hmode := true, bskip := none, wait := .none
    pend := x.pend.map fun p => { p with outer := true }, saved := some (savedBy x ptr tpc) }

/-- The frame a trap of a warp writes (R125). -/
def State.frameOf (s : State) (x : Warp) (k : Cause) (mask : Mask) (tpc rpc : Addr) (irrv bskip : Bool) : List Byte :=
  frameBytes k mask tpc rpc irrv bskip (s.cycOf x.col) x.regs.depth x.regs.ldep

section
variable {s : State} {w : Nat} {x : Warp} {ps : List Place} (hx : s.warp w = some x) (hd : Delivers s x ps)
  (k : Cause) (mask : Mask) (tpc rpc : Addr) (irrv bskip : Bool)
include hx hd

/-- A trap that reaches the handler (R124): the frame is stored, the warp's state saved, and the handler entered. -/
theorem takeTrap_eq : ∃ u : State, u = (s.storeThrough x.col x.core (s.asidOf x) ps
        (storedAt ps (s.frameOf x k mask tpc rpc irrv bskip))).saveTrap x (savedBy x (s.framePtr x) tpc)
      ∧ s.takeTrap w k mask tpc rpc irrv bskip = u.setWarp w (handled x (u.tvecOf x) (s.framePtr x) tpc) := by
  obtain ⟨hh, htv, hf⟩ := hd
  unfold frameAt at hf
  refine ⟨_, rfl, ?_⟩
  unfold State.takeTrap
  rw [hx]
  dsimp only
  rw [if_neg (by simp [hh]), if_neg htv, hf]
  rfl

/-- Of the warps, one enters its handler, and every other run that read a byte of the frame with an SO load is told. -/
theorem takeTrap_delivers :
    (s.takeTrap w k mask tpc rpc irrv bskip).warp w = some (handled x (s.tvecOf x) (s.framePtr x) tpc)
      ∧ (∀ v, v ≠ w → (s.takeTrap w k mask tpc rpc irrv bskip).warp v
          = (s.warp v).map (toldSo (storedAt ps (s.frameOf x k mask tpc rpc irrv bskip))))
      ∧ (s.takeTrap w k mask tpc rpc irrv bskip).copies = s.copies := by
  obtain ⟨u, hu, ht⟩ := takeTrap_eq hx hd k mask tpc rpc irrv bskip
  obtain ⟨hw, hc, htv⟩ := storeThrough_frame s x.col x.core (s.asidOf x) ps
    (storedAt ps (s.frameOf x k mask tpc rpc irrv bskip))
  have hsave := hu ▸ wrote_saveTrap _ x (savedBy x (s.framePtr x) tpc)
  rw [ht, wrote_tvecOf hsave, htv]
  refine ⟨State.warp_setWarp _ _ _, fun v hv => ?_, ?_⟩
  · rw [State.warp_setWarp_ne _ _ hv, wrote_warp hsave, hw]
  · rw [State.setWarp_copies, wrote_copies hsave, hc]

end

end Sys2Proof.Machine
end

section
/-! What a warp's save record gives back (R126, R361). -/

namespace Sys2Proof.Machine

open Sys2Proof

/-! ### The bytes of a record -/

/-- Bytes of a warp's record as they stand in a save area at `pa`. -/
def State.recordBytes (s : State) (x : Warp) (pa slot off n : Nat) : List Byte :=
  (List.range n).map fun k => (s.readLoc x.col (.mem x.col (pa + (warpRecord x.core x.wcore + off) + k) slot)).1

/-- A warp holds its record, and its context has a save area on its column (R361). -/
def State.Owns (s : State) (x : Warp) (pa slot : Nat) : Prop :=
  mapGet s.records (recordKey (s.asidOf x) x.col x.core x.wcore) = some x.holder
    ∧ mapGet (s.ctx (s.asidOf x)).save x.col = some (pa, slot)

theorem cached_owns {s t : State} (h : Cached s t) {x : Warp} {pa slot : Nat} (ho : s.Owns x pa slot) :
    t.Owns x pa slot := by
  obtain ⟨hr, ha⟩ := ho
  refine ⟨?_, by rw [h.save, cached_asidOf h]; exact ha⟩
  rw [cached_asidOf h, h.eq]
  exact hr

theorem cached_recordBytes {s t : State} (h : Cached s t) (x : Warp) (pa slot off n : Nat) :
    t.recordBytes x pa slot off n = s.recordBytes x pa slot off n :=
  List.map_congr_left fun _ _ => cached_dramByte h _ _ _

theorem recordBytes_length (s : State) (x : Warp) (pa slot off n : Nat) : (s.recordBytes x pa slot off n).length = n := by
  simp [State.recordBytes]

/-- A part of some bytes of a record. -/
theorem recordBytes_part (s : State) (x : Warp) (pa slot off : Nat) {n i k : Nat} (h : i + k ≤ n) :
    ((s.recordBytes x pa slot off n).drop i).take k = s.recordBytes x pa slot (off + i) k := by
  refine List.ext_getElem ?_ fun j hj hk => ?_
  · simp only [List.length_take, List.length_drop, recordBytes_length]
    omega
  · simp [State.recordBytes, ← Nat.add_assoc]

/-! ### What a read of a record answers -/

/-- A read of the arrays by a party of the device: bookkeeping of the caches, that changes no byte. -/
def Reads (s t : State) : Prop := Cached s t ∧ Kept s t

theorem reads_same (s : State) : Reads s s := ⟨cached_same s, kept_same s⟩

theorem reads_trans {s t u : State} (h : Reads s t) (g : Reads t u) : Reads s u :=
  ⟨cached_trans h.1 g.1, kept_trans h.2 g.2⟩

theorem reads_savedAt (s : State) (a c o n : Nat) : Reads s (s.savedAt a c o n).2 := by
  unfold State.savedAt
  split
  · exact reads_same s
  · exact ⟨cached_trans (cached_meter _ _ _ _ _) (cached_readLines _ _ _ _),
      kept_trans (kept_meter _ _ _ _ _) (kept_readLines _ _ _ _)⟩

theorem reads_recordRead (s : State) (x : Warp) (o n : Nat) : Reads s (s.recordRead x o n).2 := by
  unfold State.recordRead
  split
  · exact reads_savedAt s _ _ _ _
  · exact reads_same s

/-- A record that the warp owns gives its bytes back. -/
theorem recordRead_owned {s : State} {x : Warp} {pa slot : Nat} (h : s.Owns x pa slot) (o n : Nat) :
    (s.recordRead x o n).1.map Prod.fst = s.recordBytes x pa slot o n := by
  obtain ⟨hr, ha⟩ := h
  unfold State.recordRead
  rw [if_pos hr]
  unfold State.savedAt State.recordBytes
  simp only [ha, List.map_map]
  rfl

theorem recordRead_length {s : State} {x : Warp} {pa slot : Nat} (h : s.Owns x pa slot) (o n : Nat) :
    (s.recordRead x o n).1.length = n := by
  have := congrArg List.length (recordRead_owned h o n)
  rwa [List.length_map, recordBytes_length] at this

/-- A record that is not the warp's, or that its context has no place for, gives nothing back. -/
theorem recordRead_nothing {s : State} {x : Warp} (o n : Nat)
    (h : ¬mapGet s.records (recordKey (s.asidOf x) x.col x.core x.wcore) = some x.holder
      ∨ mapGet (s.ctx (s.asidOf x)).save x.col = none) : s.recordRead x o n = ([], s) := by
  rcases h with h | h
  · exact recordRead_other s x o n h
  · unfold State.recordRead
    split
    · unfold State.savedAt
      simp only [h]
    · rfl

/-- A number in some bytes of a record. -/
theorem recordNat_of {bs : List (Byte × Bool)} {s : State} {x : Warp} {pa slot o n : Nat}
    (h : bs.map Prod.fst = s.recordBytes x pa slot o n) {i k : Nat} (hi : i + k ≤ n) :
    recordNat bs i k = leNat (s.recordBytes x pa slot (o + i) k) := by
  unfold recordNat
  rw [List.map_take, List.map_drop, h, recordBytes_part s x pa slot o hi]

/-- Lanes as a record that gives them back holds them. -/
theorem restore_lane (l : Lanes) {bs : List (Byte × Bool)} (h : bs ≠ []) {i : Nat} (hi : i < 64) :
    (l.restore bs).val.getD i 0 = BitVec.ofNat 32 (recordNat bs (4 * i) 4) := by
  unfold Lanes.restore recordNat
  rw [if_neg (by simpa using h)]
  simp [hi]

end Sys2Proof.Machine
end

section
/-! How a run that stores and queues nothing commits and ends (R75, R79, R109, R124, R126). -/

namespace Sys2Proof.Machine

open Sys2Proof

/-! ### What a translation rests on -/

/-- Two states in which every pointer of a warp leads to the same place, and every trap of it to the same handler. -/
structure SameView (s t : State) : Prop where
  eq : t = { s with warps := t.warps, cores := t.cores, blocks := t.blocks, copies := t.copies }
  l1 : ∀ c k, (t.core c k).l1 = (s.core c k).l1
  gang : ∀ b, (t.block b).map Block.gang = (s.block b).map Block.gang

theorem sameView_same (s : State) : SameView s s := ⟨rfl, fun _ _ => rfl, fun _ => rfl⟩

theorem sameView_trans {s t u : State} (h : SameView s t) (g : SameView t u) : SameView s u :=
  ⟨by rw [g.eq, h.eq], fun c k => (g.l1 c k).trans (h.l1 c k), fun b => (g.gang b).trans (h.gang b)⟩

theorem sameView_setWarp (s : State) (w : Nat) (x : Warp) : SameView s (s.setWarp w x) :=
  ⟨rfl, fun _ _ => rfl, fun _ => rfl⟩

theorem sameView_modCore (s : State) (c k : Nat) (f : Core → Core) (hf : ∀ x, (f x).l1 = x.l1) :
    SameView s (s.modCore c k f) := by
  refine ⟨rfl, fun d j => ?_, fun _ => rfl⟩
  unfold State.modCore State.core
  dsimp only
  by_cases h : 4 * d + j = 4 * c + k
  · rw [h, mapGetD_mapSet_same, hf]
  · rw [mapGetD_mapSet_ne _ _ _ h]

theorem sameView_modBlock (s : State) (b : Nat) (f : Block → Block) (hf : ∀ x, (f x).gang = x.gang) :
    SameView s (s.modBlock b f) := by
  unfold State.modBlock
  split
  · next x hx =>
    refine ⟨rfl, fun _ _ => rfl, fun d => ?_⟩
    by_cases h : d = b
    · subst h
      rw [hx]
      refine (congrArg (Option.map Block.gang) (mapGet_mapSet_same s.blocks d (f x))).trans ?_
      exact congrArg some (hf x)
    · exact congrArg (Option.map Block.gang) (mapGet_mapSet_ne s.blocks (f x) h)
  · exact sameView_same s

section
variable {s t : State} (h : SameView s t)
include h

theorem view_gridOf (x : Warp) : t.gridOf x = s.gridOf x := by
  have hgang (u : State) : u.gangOf x = ((u.block x.block).map Block.gang).bind u.gang := by
    unfold State.gangOf State.blockOf
    cases u.block x.block <;> rfl
  unfold State.gridOf
  rw [hgang, hgang, h.gang, h.eq]
  rfl

theorem view_asidOf (x : Warp) : t.asidOf x = s.asidOf x := by
  unfold State.asidOf
  rw [view_gridOf h]

theorem view_tvecOf (x : Warp) : t.tvecOf x = s.tvecOf x := by
  unfold State.tvecOf
  rw [view_gridOf h]

theorem view_framePtr (x : Warp) : t.framePtr x = s.framePtr x := by
  unfold State.framePtr State.tframeOf
  rw [view_gridOf h]

theorem view_walkFrom (a p l o : Nat) (ptr : Addr) : ∀ (ls : List Nat) (n : Nat),
    t.walkFrom a p l o ptr ls n = s.walkFrom a p l o ptr ls n
  | [], _ => rfl
  | level :: ls, n => by
    have hp (m : Nat) : t.pte p m = s.pte p m := by rw [h.eq]; rfl
    have hl (e : Nat) : leafOf t a l o level e = leafOf s a l o level e := by rw [h.eq]; rfl
    unfold State.walkFrom
    simp only [hp, hl, view_walkFrom a p l o ptr ls]

theorem view_leaf (a p l o : Nat) (ptr : Addr) : t.leaf a p l o ptr = s.leaf a p l o ptr := by
  have hc (p : Nat) : t.column p = s.column p := by rw [h.eq]; rfl
  have hx : t.ctx a = s.ctx a := by rw [h.eq]; rfl
  unfold State.leaf
  simp only [hc, hx, view_walkFrom h]

theorem view_place (c k a : Nat) (b : Bool) (ptr : Addr) (need : Need) :
    t.place c k a b ptr need = s.place c k a b ptr need := by
  have hr : t.resolve a c ptr = s.resolve a c ptr := by rw [h.eq]; rfl
  have hm (l : Nat) : t.mapCol a l ptr = s.mapCol a l ptr := by rw [h.eq]; rfl
  unfold State.place State.l1Hit
  simp only [hr, hm, h.l1, view_leaf h]

theorem view_places (c k a : Nat) (b : Bool) (ptr : Addr) (n ax : Nat) (need : Need) :
    t.places c k a b ptr n ax need = s.places c k a b ptr n ax need := by
  have hr : t.resolve a c ptr = s.resolve a c ptr := by rw [h.eq]; rfl
  unfold State.places
  simp only [hr, view_place h]

theorem view_frameAt (x : Warp) (ptr : Addr) (need : Need) : frameAt t x ptr need = frameAt s x ptr need := by
  unfold frameAt
  rw [view_asidOf h, view_places h]

theorem view_delivers {x : Warp} {ps : List Place} (hd : Delivers s x ps) : Delivers t x ps := by
  obtain ⟨hh, ht, hf⟩ := hd
  exact ⟨hh, by rw [view_tvecOf h]; exact ht, by rw [view_framePtr h, view_frameAt h]; exact hf⟩

theorem view_readLoc (v : Nat) (l : Loc) : t.readLoc v l = s.readLoc v l := by
  rw [h.eq]
  cases l <;> rfl

end

/-! ### The registers of a run made its warp's -/

/-- The machine after the first step of a commit (R79): the run's registers are the warp's. -/
def State.registered (s : State) (w : Nat) (x : Warp) (r : Run) (m : AMap (Nat × Word)) : State :=
  let s := (s.imprint x (r.drops x.slot)).setWarp w (settledWarp x r)
  let s := if r.cold then s.restartMono w else s
  s.modBlock x.block fun b => { b with counted := m }

theorem commitRun_registered (s : State) (w : Nat) (x : Warp) (r : Run) (m : AMap (Nat × Word)) :
    s.commitRun w x r m = ((s.registered w x r m).commitFrom w r [] 0).drewFresh := rfl

theorem restartMono_frame (s : State) (w : Nat) :
    SameView s (s.restartMono w) ∧ OnlyWarp s (s.restartMono w) w ∧ (s.restartMono w).warp w = s.warp w := by
  unfold State.restartMono
  split
  · exact ⟨sameView_same s, onlyWarp_same s w, rfl⟩
  · exact ⟨sameView_modCore _ _ _ _ fun _ => rfl, ⟨⟨rfl, rfl, rfl, rfl⟩, fun _ _ => rfl⟩, rfl⟩

theorem modBlock_frame (s : State) (b w : Nat) (f : Block → Block) :
    OnlyWarp s (s.modBlock b f) w ∧ (s.modBlock b f).warp w = s.warp w := by
  unfold State.modBlock
  split
  · exact ⟨⟨⟨rfl, rfl, rfl, rfl⟩, fun _ _ => rfl⟩, rfl⟩
  · exact ⟨onlyWarp_same s w, rfl⟩

theorem sameView_imprint (s : State) (x : Warp) (l : List (Nat × Lanes)) : SameView s (s.imprint x l) := by
  unfold State.imprint
  split
  · exact sameView_same s
  · exact sameView_modCore _ _ _ _ fun _ => rfl

theorem registered_spec (s : State) (w : Nat) (x : Warp) (r : Run) (m : AMap (Nat × Word)) :
    (s.registered w x r m).warp w = some (settledWarp x r) ∧ OnlyWarp s (s.registered w x r m) w
      ∧ SameView s (s.registered w x r m) := by
  have h1 := sameView_trans (sameView_imprint s x (r.drops x.slot)) (sameView_setWarp _ w (settledWarp x r))
  have h2 := onlyWarp_trans (onlyWarp_imprint s x (r.drops x.slot) w) (onlyWarp_setWarp _ w (settledWarp x r))
  have h3 : ((s.imprint x (r.drops x.slot)).setWarp w (settledWarp x r)).warp w = some (settledWarp x r) :=
    State.warp_setWarp _ _ _
  unfold State.registered
  generalize (s.imprint x (r.drops x.slot)).setWarp w (settledWarp x r) = t at h1 h2 h3
  obtain ⟨g1, g2, g3⟩ := restartMono_frame t w
  simp only []
  split
  · obtain ⟨f2, f3⟩ := modBlock_frame (t.restartMono w) x.block w fun b => { b with counted := m }
    exact ⟨by rw [f3, g3, h3], onlyWarp_trans (onlyWarp_trans h2 g2) f2,
      sameView_trans (sameView_trans h1 g1) (sameView_modBlock _ _ _ fun _ => rfl)⟩
  · obtain ⟨f2, f3⟩ := modBlock_frame t x.block w fun b => { b with counted := m }
    exact ⟨by rw [f3, h3], onlyWarp_trans h2 f2, sameView_trans h1 (sameView_modBlock _ _ _ fun _ => rfl)⟩

/-! ### The rest of the commit of a run that queued nothing -/

theorem commitPart_nothing {s : State} {w : Nat} {x : Warp} {r : Run} (hc : r.cmds = []) (hb : r.stbuf = [])
    (ha : s.arrivals = []) : s.commitPart w x r 0 = if r.fenced = 3 then s.acquireHost x.col x.core else s := by
  unfold State.commitPart Run.stopAfter
  simp [hc, hb, releaseStores, State.passCmds, State.commitCmds, State.releaseHeld, State.release, settleArrivals_none ha]

theorem commitFrom_nothing {s : State} {w : Nat} {x : Warp} {r : Run} (hx : s.warp w = some x) (hc : r.cmds = []) :
    s.commitFrom w r [] 0 = (s.commitPart w x r 0).closeRun w r := by
  have hstop : r.stopAfter 0 = none := by unfold Run.stopAfter; simp [hc]
  unfold State.commitFrom
  simp only [hx, hstop]
  rfl

/-- A boundary at which no event waits for a warp (R393). -/
theorem boundary_calm {s : State} {w : Nat} {x : Warp} (hx : s.warp w = some x) (hf : x.colFail = [])
    (hw : x.wdog = false) : s.boundary w = s := by
  unfold State.boundary
  simp only [hx]
  split
  · rfl
  · simp [hf, hw]

/-- The end of a run after which its warp still stands, with no event to meet (R75, R393). -/
theorem closeRun_ends {s t : State} {w : Nat} {x y : Warp} {r : Run} {e : RunEnd} (hx : s.warp w = some x)
    (he : r.ended = some e) (ht : s.endRun w x r e = t) (hy : t.warp w = some y) (hl : y.regs.allExited = false)
    (hf : y.colFail = []) (hw : y.wdog = false) : s.closeRun w r = t := by
  unfold State.closeRun
  simp only [hx, he, Option.getD_some, ht, hy, hl, Bool.false_and]
  exact boundary_calm hy hf hw

/-! ### What TRET takes back -/

theorem loadTrap_nothing {s : State} {x : Warp} (v : Saved)
    (h : ¬mapGet s.records (recordKey (s.asidOf x) x.col x.core x.wcore) = some x.holder
      ∨ mapGet (s.ctx (s.asidOf x)).save x.col = none) : s.loadTrap x v = (v, s) := by
  unfold State.loadTrap
  simp [recordRead_nothing _ _ h]

/-- Operand-cache entries as a record of a warp holds them (R361). -/
def Entries (s : State) (x : Warp) (pa slot : Nat) (old es : List Entry) : Prop :=
  es.length = old.length ∧ ∀ k < 8, ∀ d, es[k]? = some d →
    d.valid = (leNat (s.recordBytes x pa slot 0x1098B 1)).testBit k
      ∧ ∀ i < 64, d.lanes.val.getD i 0 = BitVec.ofNat 32 (leNat (s.recordBytes x pa slot (0x10000 + 256 * k + 4 * i) 4))

theorem restoreEntries_holds {s : State} {x : Warp} {pa slot : Nat} (old : List Entry) {bs : List (Byte × Bool)}
    (h : bs.map Prod.fst = s.recordBytes x pa slot 0x10000 2048) :
    Entries s x pa slot old (restoreEntries old bs (leNat (s.recordBytes x pa slot 0x1098B 1))) := by
  have hlen : bs.length = 2048 := by
    have := congrArg List.length h
    rwa [List.length_map, recordBytes_length] at this
  have hne : bs.isEmpty = false := by cases bs <;> simp at hlen ⊢
  unfold restoreEntries
  rw [hne]
  refine ⟨by simp, fun k hk d hd => ?_⟩
  obtain ⟨e, hvalid, hlanes⟩ : ∃ e : Entry, d.valid = (leNat (s.recordBytes x pa slot 0x1098B 1)).testBit k
      ∧ d.lanes = e.lanes.restore ((bs.drop (256 * k)).take 256) := by
    simp only [Bool.false_eq_true, if_false, List.getElem?_map, Option.map_eq_some_iff] at hd
    obtain ⟨q, hq, rfl⟩ := hd
    rw [List.getElem?_zipIdx, Option.map_eq_some_iff] at hq
    obtain ⟨e, -, rfl⟩ := hq
    exact ⟨e, by rw [Nat.zero_add], by rw [Nat.zero_add]⟩
  refine ⟨hvalid, fun i hi => ?_⟩
  rw [hlanes]
  have hpart : ((bs.drop (256 * k)).take 256).map Prod.fst = s.recordBytes x pa slot (0x10000 + 256 * k) 256 := by
    rw [List.map_take, List.map_drop, h, recordBytes_part _ _ _ _ _ (by omega)]
  have hbs : (bs.drop (256 * k)).take 256 ≠ [] := by
    intro h0
    have := congrArg List.length h0
    simp only [List.length_take, List.length_drop, hlen, List.length_nil] at this
    omega
  exact (restore_lane _ hbs hi).trans (congrArg _ (recordNat_of hpart (by omega)))

/-- The record's part of what a trap saved, taken back from the record (R126, R361). -/
theorem loadTrap_owned {s : State} {x : Warp} {pa slot : Nat} (h : s.Owns x pa slot) (v : Saved) :
    ∃ es u, s.loadTrap x v = ({ v with
        c := es, nc := s.recordBytes x pa slot 0x10940 64
        mark := BitVec.ofNat 64 (leNat (s.recordBytes x pa slot 0x10980 8))
        depth := leNat (s.recordBytes x pa slot 0x10988 1), ldep := leNat (s.recordBytes x pa slot 0x10989 1) }, u)
      ∧ Reads s u ∧ Entries s x pa slot v.c es := by
  obtain ⟨cs, s1, h1⟩ : ∃ cs s1, s.recordRead x 0x10000 2048 = (cs, s1) := ⟨_, _, rfl⟩
  obtain ⟨nc, s2, h2⟩ : ∃ nc s2, s1.recordRead x 0x10940 64 = (nc, s2) := ⟨_, _, rfl⟩
  obtain ⟨m, s3, h3⟩ : ∃ m s3, s2.recordRead x 0x10980 12 = (m, s3) := ⟨_, _, rfl⟩
  have r1 : Reads s s1 := by have := reads_recordRead s x 0x10000 2048; rwa [h1] at this
  have r2 : Reads s s2 := by have := reads_recordRead s1 x 0x10940 64; rw [h2] at this; exact reads_trans r1 this
  have r3 : Reads s s3 := by have := reads_recordRead s2 x 0x10980 12; rw [h3] at this; exact reads_trans r2 this
  have hcs : cs.map Prod.fst = s.recordBytes x pa slot 0x10000 2048 := by
    have := recordRead_owned h 0x10000 2048; rwa [h1] at this
  have hnc : nc.map Prod.fst = s.recordBytes x pa slot 0x10940 64 := by
    have := recordRead_owned (cached_owns r1.1 h) 0x10940 64; rwa [h2, cached_recordBytes r1.1] at this
  have hm : m.map Prod.fst = s.recordBytes x pa slot 0x10980 12 := by
    have := recordRead_owned (cached_owns r2.1 h) 0x10980 12; rwa [h3, cached_recordBytes r2.1] at this
  have hlen : m.length = 12 := by
    have := recordRead_length (cached_owns r2.1 h) 0x10980 12; rwa [h3] at this
  refine ⟨_, s3, ?_, r3, restoreEntries_holds v.c hcs⟩
  unfold State.loadTrap
  rw [h1]
  dsimp only
  rw [h2]
  dsimp only
  rw [h3]
  dsimp only
  rw [if_neg (by cases m <;> simp at hlen ⊢), hnc, recordNat_of hm (by omega), recordNat_of hm (by omega),
    recordNat_of hm (by omega), recordNat_of hm (by omega)]

/-- A number in the frame that a trap's entry wrote, as its warp reads it. -/
def frameNat (s : State) (x : Warp) (ps : List Place) (i n : Nat) : Nat :=
  leNat (((ps.drop i).take n).map fun p => (s.readLoc x.col p.loc).1)

/-- A warp back from its handler (R126): what the trap saved, and RPC and BSKIP of the frame. -/
def returned (s : State) (x : Warp) (ps : List Place) (u : Saved) (tpc : Addr) : Warp :=
  { x with
    regs := { x.regs with c := u.c, nc := u.nc, depth := u.depth, ldep := u.ldep, mark := u.mark
                          pc := BitVec.ofNat 64 (frameNat s x ps 16 8) }
    pend := x.pend.map fun p => { p with outer := false }
    saved := none, hmode := false, bskip := if (frameNat s x ps 2 1).testBit 4 then some tpc else none }

theorem returnTrap_eq {s : State} {w : Nat} {x : Warp} {v : Saved} {ps : List Place} (hx : s.warp w = some x)
    (hv : x.saved = some v) (hp : frameAt s x v.frame { read := true } = .ok ps) :
    s.returnTrap w = .ok (((s.loadTouch x.col x.core (s.asidOf x) ps).loadTrap x v).2.setWarp w
      (returned s x ps ((s.loadTouch x.col x.core (s.asidOf x) ps).loadTrap x v).1 v.tpc)) := by
  unfold frameAt at hp
  unfold State.returnTrap
  rw [hx]
  dsimp only
  rw [hv]
  simp only [Option.map_some, Option.getD_some, hp]
  rfl

theorem reads_loadTouch (s : State) (c k a : Nat) (ps : List Place) : Reads s (s.loadTouch c k a ps) := by
  refine ⟨cached_loadTouch s c k a ps, ?_⟩
  unfold State.loadTouch
  exact kept_foldl (fun s p => kept_touch s c k a p {}) _ _

end Sys2Proof.Machine
end

section
/-! How a run that stored and queued nothing ends (R75, R109, R124, R126). -/

namespace Sys2Proof.Machine

open Sys2Proof

/-! ### The machine as such a run ends -/

/-- The machine once a run that stored and queued nothing has committed, as the run ends (R79, R255). -/
def State.committed (s : State) (w : Nat) (x : Warp) (r : Run) (m : AMap (Nat × Word)) : State :=
  if r.fenced = 3 then (s.registered w x r m).acquireHost x.col x.core else s.registered w x r m

theorem committed_spec (s : State) (w : Nat) (x : Warp) (r : Run) (m : AMap (Nat × Word)) :
    (s.committed w x r m).warp w = some (settledWarp x r) ∧ OnlyWarp s (s.committed w x r m) w
      ∧ (s.committed w x r m).arrivals = s.arrivals
      ∧ ∀ h, (s.committed w x r m).grantFate ((s.committed w x r m).asidOf (settledWarp x r)) h
          = s.grantFate (s.asidOf x) h := by
  obtain ⟨hw, hf, hv⟩ := registered_spec s w x r m
  have hfate (h : Word) : (s.registered w x r m).grantFate ((s.registered w x r m).asidOf (settledWarp x r)) h
      = s.grantFate (s.asidOf x) h := by
    rw [view_asidOf hv, hv.eq]
    rfl
  have ha : (s.registered w x r m).arrivals = s.arrivals := by rw [hv.eq]
  unfold State.committed
  split
  · exact ⟨hw, onlyWarp_trans hf ⟨⟨rfl, rfl, rfl, rfl⟩, fun _ _ => rfl⟩, ha, hfate⟩
  · exact ⟨hw, hf, ha, hfate⟩

theorem committed_unfenced {s : State} {w : Nat} {x : Warp} {r : Run} (m : AMap (Nat × Word)) (h : r.fenced ≠ 3) :
    s.committed w x r m = s.registered w x r m := if_neg h

section
variable {s : State} {w : Nat} {x : Warp} {r : Run} {e : RunEnd}

theorem counted_of_committing (hc : Committing s w x r e) :
    ∃ m, countMats (s.recOf x) r.cmds (((s.blockOf x).map Block.counted).getD []) = .ok m := by
  obtain ⟨-, -, -, -, -, -, -, -, -, hm⟩ := hc
  exact hm

/-- The commit of a run that nothing holds back and that stored and queued nothing: it goes on with how the run ended. -/
theorem runCommit_ends (hc : Committing s w x r e) (hcmds : r.cmds = []) (hst : r.stbuf = []) {m : AMap (Nat × Word)}
    (hm : countMats (s.recOf x) r.cmds (((s.blockOf x).map Block.counted).getD []) = .ok m) {t : State} {y : Warp}
    (ht : (s.committed w x r m).endRun w (settledWarp x r) r e = t) (hy : t.warp w = some y)
    (hl : y.regs.allExited = false) (hf : y.colFail = []) (hw : y.wdog = false) :
    exec (.runCommit w) s = .next t.drewFresh := by
  obtain ⟨hx, hr, he, hres, hwait, hcmp, hso, ho, ha, -⟩ := hc
  obtain ⟨hreg, -, hv⟩ := registered_spec s w x r m
  have har : (s.registered w x r m).arrivals = [] := by rw [hv.eq]; exact ha
  have hpart : (s.registered w x r m).commitPart w (settledWarp x r) r 0 = s.committed w x r m :=
    commitPart_nothing hcmds hst har
  have hclose : (s.committed w x r m).closeRun w r = t := closeRun_ends (committed_spec s w x r m).1 he ht hy hl hf hw
  have hgo : s.tryCommit w = t.drewFresh := by
    rw [tryCommit_decides hx hr he hres hwait ha, decideCommit_commits hx hr hcmp hso ho hm, commitRun_registered,
      commitFrom_nothing hreg hcmds, hpart, hclose]
  exact congrArg _ hgo

/-- The same where the end changes only the warp. -/
theorem runCommit_leaves (hc : Committing s w x r e) (hcalm : Calm x) (hcmds : r.cmds = []) (hst : r.stbuf = [])
    (hlive : r.settled.allExited = false) {f : Warp → Warp} (hregs : (f (settledWarp x r)).regs = r.settled)
    (hfail : (f (settledWarp x r)).colFail = x.colFail) (hdog : (f (settledWarp x r)).wdog = x.wdog)
    (hend : ∀ m, ∃ u, SameBytes (s.committed w x r m) u ∧ (∀ v, u.warp v = (s.committed w x r m).warp v)
      ∧ (s.committed w x r m).endRun w (settledWarp x r) r e = u.modWarp w f) :
    Answers (.runCommit w) s fun t =>
      t.warp w = some (f (settledWarp x r)) ∧ SameBytes s t ∧ ∀ v, v ≠ w → t.warp v = s.warp v := by
  obtain ⟨-, -, hcf, hwd⟩ := hcalm
  obtain ⟨m, hm⟩ := counted_of_committing hc
  obtain ⟨hreg, hframe, -⟩ := committed_spec s w x r m
  obtain ⟨u, hbytes, hsame, hu⟩ := hend m
  have hy : (u.modWarp w f).warp w = some (f (settledWarp x r)) := State.warp_modWarp f ((hsame w).trans hreg)
  have hall := onlyWarp_trans (onlyWarp_trans hframe ⟨hbytes, fun v _ => hsame v⟩) (onlyWarp_modWarp u w f)
  exact ⟨_, runCommit_ends hc hcmds hst hm hu hy (by rw [hregs]; exact hlive) (by rw [hfail]; exact hcf)
    (by rw [hdog]; exact hwd), hy, hall.bytes, hall.others⟩

/-- A run that ends in a wait (R109). -/
theorem runCommit_waits (hc : Committing s w x r e) (hcalm : Calm x) (hcmds : r.cmds = []) (hst : r.stbuf = [])
    (hlive : r.settled.allExited = false) {k : Wait}
    (hend : ∀ m, ∃ u, SameBytes (s.committed w x r m) u ∧ (∀ v, u.warp v = (s.committed w x r m).warp v)
      ∧ (s.committed w x r m).endRun w (settledWarp x r) r e = u.enterWait w r k) :
    Answers (.runCommit w) s fun t => t.warp w = some { settledWarp x r with wait := k, waitPc := r.lastPc }
      ∧ SameBytes s t ∧ ∀ v, v ≠ w → t.warp v = s.warp v :=
  runCommit_leaves hc hcalm hcmds hst hlive (f := fun y => { y with wait := k, waitPc := r.lastPc }) rfl rfl rfl hend

end

theorem handler_allExited (r : Regs) (tvec : Addr) (h : r.allExited = false) : (r.handler tvec).allExited = false := by
  unfold Regs.allExited at h ⊢
  obtain ⟨n, hn, hne⟩ := List.all_eq_false.mp h
  refine List.all_eq_false.mpr ⟨_, List.mem_map.mpr ⟨n, hn, rfl⟩, ?_⟩
  by_cases h255 : n = 255
  · exact absurd (by simp [h255]) hne
  · rw [if_neg h255]; decide

theorem allExited_not {r : Regs} (h : ∃ n ∈ r.nc, n ≠ 255) : r.allExited = false := by
  obtain ⟨n, hn, hne⟩ := h
  exact List.all_eq_false.mpr ⟨n, hn, by simpa using hne⟩

theorem sameBytes_same (s : State) : SameBytes s s := ⟨rfl, rfl, rfl, rfl⟩

/-! ### TRAP and TRET -/

section
variable {s : State} {w : Nat} {x : Warp} {r : Run} (hcalm : Calm x) (hcmds : r.cmds = []) (hst : r.stbuf = [])
  (hlive : r.settled.allExited = false) (hfence : r.fenced ≠ 3)
include hcalm hcmds hst hfence

include hlive in
/-- TRAP enters the handler after its run. -/
theorem runCommit_traps {c : Nat} {ps : List Place} (hc : Committing s w x r (.trap c)) (hd : Delivers s (settledWarp x r) ps) :
    Answers (.runCommit w) s fun t =>
      t.warp w = some (handled (settledWarp x r) (s.tvecOf x) (s.framePtr x) r.lastPc) := by
  obtain ⟨-, -, hcf, hwd⟩ := hcalm
  obtain ⟨m, hm⟩ := counted_of_committing hc
  obtain ⟨hreg, -, hv⟩ := registered_spec s w x r m
  obtain ⟨ht, -, -⟩ := takeTrap_delivers hreg (view_delivers hv hd) { code := 1, info := BitVec.ofNat 32 c, addr := 0 }
    r.work.active r.lastPc r.work.pc false false
  rw [view_tvecOf hv, view_framePtr hv] at ht
  refine ⟨_, runCommit_ends hc hcmds hst hm (by rw [committed_unfenced m hfence]; rfl) ht
    (handler_allExited _ _ hlive) hcf hwd, ht⟩

/-- TRET leaves the handler with what the frame and the record give it back, where some thread of that has not exited. -/
theorem runCommit_returns {v : Saved} {ps : List Place} (hc : Committing s w x r .tret) (hsaved : x.saved = some v)
    (hp : frameAt s x v.frame { read := true } = .ok ps) {Back : Saved → Prop}
    (hnc : ∀ u, Back u → ∃ n ∈ u.nc, n ≠ 255)
    (hload : ∀ m a, Reads (s.registered w x r m) a →
      ∃ u b, a.loadTrap (settledWarp x r) v = (u, b) ∧ Reads a b ∧ Back u) :
    Answers (.runCommit w) s fun t => ∃ u, Back u ∧ t.warp w = some (returned s (settledWarp x r) ps u v.tpc)
      ∧ Unwritten s t ∧ ∀ v, v ≠ w → t.warp v = s.warp v := by
  obtain ⟨-, -, hcf, hwd⟩ := hcalm
  obtain ⟨m, hm⟩ := counted_of_committing hc
  obtain ⟨hreg, hframe, hv⟩ := registered_spec s w x r m
  have htouch := reads_loadTouch (s.registered w x r m) x.col x.core ((s.registered w x r m).asidOf (settledWarp x r)) ps
  obtain ⟨u, b, hu, hb, hback⟩ := hload m _ htouch
  have hreads := reads_trans htouch hb
  have hret : (s.registered w x r m).returnTrap w
      = .ok (b.setWarp w (returned s (settledWarp x r) ps u v.tpc)) := by
    rw [returnTrap_eq hreg (v := v) (ps := ps) hsaved (by rw [view_frameAt hv]; exact hp)]
    have hnum (i n : Nat) : frameNat (s.registered w x r m) (settledWarp x r) ps i n = frameNat s (settledWarp x r) ps i n := by
      unfold frameNat
      simp only [view_readLoc hv]
    have hl : ((s.registered w x r m).loadTouch (settledWarp x r).col (settledWarp x r).core
        ((s.registered w x r m).asidOf (settledWarp x r)) ps).loadTrap (settledWarp x r) v = (u, b) := hu
    rw [hl]
    unfold returned
    simp only [hnum]
  have hend : (s.committed w x r m).endRun w (settledWarp x r) r .tret
      = b.setWarp w (returned s (settledWarp x r) ps u v.tpc) := by
    rw [committed_unfenced m hfence]
    unfold State.endRun
    simp only [hret]
  have hun : Unwritten s b := by
    have hk := unwritten_of_kept hreads.2
    unfold Unwritten WrittenBack at hk ⊢
    rw [hv.eq] at hk
    exact hk
  refine ⟨_, runCommit_ends hc hcmds hst hm hend (State.warp_setWarp _ _ _) (allExited_not (hnc u hback)) hcf hwd, u, hback,
    State.warp_setWarp _ _ _, hun, fun z hz => ?_⟩
  exact (State.warp_setWarp_ne _ _ hz).trans ((cached_warp hreads.1 z).trans (hframe.others z hz))

end

/-- The entry of a warp's record and the save area of its context are after the commit what they were. -/
theorem reads_registered {s a : State} {w : Nat} {x : Warp} {r : Run} {m : AMap (Nat × Word)}
    (h : Cached (s.registered w x r m) a) :
    mapGet a.records (recordKey (a.asidOf (settledWarp x r)) x.col x.core x.wcore)
        = mapGet s.records (recordKey (s.asidOf x) x.col x.core x.wcore)
      ∧ mapGet (a.ctx (a.asidOf (settledWarp x r))).save x.col = mapGet (s.ctx (s.asidOf x)).save x.col := by
  obtain ⟨-, -, hv⟩ := registered_spec s w x r m
  have ha : (s.registered w x r m).asidOf (settledWarp x r) = s.asidOf x := view_asidOf hv x
  constructor
  · rw [cached_asidOf h, ha, h.eq, hv.eq]
  · rw [cached_asidOf h, ha, h.save, hv.eq]
    rfl

theorem reads_registered_bytes {s a : State} {w : Nat} {x : Warp} {r : Run} {m : AMap (Nat × Word)}
    (h : Cached (s.registered w x r m) a) (pa slot o n : Nat) :
    a.recordBytes (settledWarp x r) pa slot o n = s.recordBytes x pa slot o n := by
  obtain ⟨-, -, hv⟩ := registered_spec s w x r m
  rw [cached_recordBytes h]
  unfold State.recordBytes
  simp only [view_readLoc hv]
  rfl

/-- What a warp's own record gives back of the state saved at a trap's entry (R126, R361). -/
def RecordBack (s : State) (x : Warp) (pa slot : Nat) (v u : Saved) : Prop :=
  ∃ es, u = { v with
    c := es, nc := s.recordBytes x pa slot 0x10940 64
    mark := BitVec.ofNat 64 (leNat (s.recordBytes x pa slot 0x10980 8))
    depth := leNat (s.recordBytes x pa slot 0x10988 1), ldep := leNat (s.recordBytes x pa slot 0x10989 1) }
    ∧ Entries s x pa slot v.c es

/-- Settles O28: how a run ends is the last step of its commit, and with nothing stored or queued it is all the rest of it. -/
theorem runEnds : Obligations.RunEnds := by
  intro s w x r e hc hcalm hcmds hst hlive
  have waits {k : Wait} (h : ∀ m, (s.committed w x r m).endRun w (settledWarp x r) r e
      = (s.committed w x r m).enterWait w r k) :=
    runCommit_waits hc hcalm hcmds hst hlive (k := k) fun m => ⟨_, sameBytes_same _, fun _ => rfl, h m⟩
  refine ⟨?_, ?_, ?_, ?_, ?_, ?_, ?_, ?_, ?_⟩
  · rintro rfl
    exact runCommit_leaves hc hcalm hcmds hst hlive (f := fun y => { y with yielded := true }) rfl rfl rfl
      fun m => ⟨_, sameBytes_same _, fun _ => rfl, rfl⟩
  · rintro k rfl
    exact waits fun _ => rfl
  · rintro d h rfl
    exact waits fun _ => rfl
  · rintro n rfl
    exact waits fun _ => rfl
  · rintro d a rfl
    refine runCommit_waits hc hcalm hcmds hst hlive fun m => ?_
    dsimp only [State.endRun]
    split
    · exact ⟨State.send _ _, ⟨rfl, rfl, rfl, rfl⟩, fun _ => rfl, rfl⟩
    · exact ⟨_, sameBytes_same _, fun _ => rfl, rfl⟩
  · rintro d h rfl
    refine waits fun m => ?_
    obtain ⟨-, -, -, hfate⟩ := committed_spec s w x r m
    exact congrArg (fun n => (s.committed w x r m).enterWait w r (.gwait d h n)) (hfate h)
  · rintro col off p q rfl
    refine waits fun m => ?_
    obtain ⟨-, -, -, -, -, -, -, -, ha, -⟩ := hc
    obtain ⟨-, -, har, -⟩ := committed_spec s w x r m
    exact congrArg (fun u => State.enterWait u w r (.waitb col off p q)) (settleArrivals_none (har.trans ha))
  · rintro c ps rfl hfence hd
    exact runCommit_traps hcalm hcmds hst hlive hfence hc hd
  · rintro v ps rfl hfence hsaved hp
    refine ⟨fun hno hnc => ?_, fun pa slot hmine harea hnc => ?_⟩
    · have hload (m a) (ha : Reads (s.registered w x r m) a) :
          ∃ u b, a.loadTrap (settledWarp x r) v = (u, b) ∧ Reads a b ∧ u = v := by
        obtain ⟨hrec, hsave⟩ := reads_registered ha.1
        exact ⟨v, a, loadTrap_nothing v (hno.imp (fun h hh => h (hrec.symm.trans hh)) hsave.trans), reads_same a, rfl⟩
      obtain ⟨t, ht, u, rfl, h⟩ := runCommit_returns hcalm hcmds hst hfence hc hsaved hp (Back := fun u => u = v)
        (fun u hu => hu ▸ hnc) hload
      exact ⟨t, ht, h⟩
    · have hload (m a) (ha : Reads (s.registered w x r m) a) :
          ∃ u b, a.loadTrap (settledWarp x r) v = (u, b) ∧ Reads a b ∧ RecordBack s x pa slot v u := by
        obtain ⟨hrec, hsave⟩ := reads_registered ha.1
        obtain ⟨es, b, hl, hb, hes⟩ := loadTrap_owned (x := settledWarp x r) ⟨hrec.trans hmine, hsave.trans harea⟩ v
        have hbytes (o n : Nat) : a.recordBytes (settledWarp x r) pa slot o n = s.recordBytes x pa slot o n :=
          reads_registered_bytes ha.1 pa slot o n
        rw [hbytes, hbytes, hbytes, hbytes] at hl
        refine ⟨_, b, hl, hb, es, rfl, ?_⟩
        unfold Entries at hes ⊢
        simp only [hbytes] at hes
        exact hes
      obtain ⟨t, ht, u, ⟨es, rfl, hlen, hes⟩, h⟩ := runCommit_returns hcalm hcmds hst hfence hc hsaved hp
        (fun u ⟨es, hu, _⟩ => hu ▸ hnc) hload
      exact ⟨t, ht, es, h, hlen, hes⟩

end Sys2Proof.Machine
end

section
/-! A run whose buffered store the model performs in two cells of host memory (O26). -/

namespace Sys2Proof.Machine

open Sys2Proof Tests

/-- A store of one byte to the host address 2^53, which writes through (R285). -/
def storingFar (r : Run) : Run :=
  { r with stbuf := [{ bytes := [{ loc := .host (2 ^ 53), va := 5, byte := 1, poison := false }], so := true,
                       priv := false, rel := none, pool := false, colAx := false, stream := false, noL1 := false, zero := false
                       after := 0, pc := 0 }] }

/-- The machine whose warp has ended a run that holds this store. -/
def farStore : State := bed 0 (ended .plain storingFar)

theorem farStore_committing : Committing farStore 4 (ended .plain storingFar (seated 0))
    (storingFar { (seated 0).newRun with count := 1, ended := some .plain }) .plain :=
  committing .plain _ _ _ rfl rfl rfl rfl (by decide +kernel) nofun rfl rfl rfl (by decide +kernel)

/-- The commit writes the line of host address 2^53 back at the low 47 bits of its number, which is line 0. -/
theorem farStore_writes : ((farStore.tryCommit 4).readLoc 0 (.host 0)).1 = 1 := by decide +kernel

theorem farStore_before : (farStore.readLoc 0 (.host 0)).1 = 0 := by decide +kernel

/-- Refutes O26: a store that writes through at the host address 2^53 is written back to the line of host address 0 too, since
the model keeps a column's copies of host lines under the low 47 bits of the line's number; a read at host address 0, where no
byte of the run was buffered, then gives 1 and not the 0 of before. -/
theorem not_runCommits : ¬ Obligations.RunCommits := by
  intro h
  obtain ⟨t, ht, -, -, hstores, -⟩ := h farStore 4 _ _ (bed_canonical _ _) farStore_committing ⟨rfl, rfl, rfl, rfl⟩ rfl
    (by decide +kernel) (by decide +kernel) (by decide +kernel)
  have hcommit : exec (.runCommit 4) farStore = .next (farStore.tryCommit 4) := rfl
  obtain rfl : farStore.tryCommit 4 = t := by simpa using hcommit.symm.trans ht
  have h0 : ((farStore.tryCommit 4).readLoc 0 (.host 0)).1 = (farStore.readLoc 0 (.host 0)).1 :=
    hstores (.host 0) (by simp [SameKey, storingFar])
  rw [farStore_writes, farStore_before] at h0
  exact absurd h0 (by decide)

end Sys2Proof.Machine
end

section
/-! A gang with two entries in the table of gangs, which is chosen for its second entry and examined again for its first (O60). -/

namespace Sys2Proof.Machine

open Sys2Proof Tests

/-- The pre-empted gang of the tests, of grid 1, with an entry before its own that names grid 7, of a context without a save
area. -/
def entered (s : State) : State :=
  { s with
    gangs := (s.gangs.map fun kv => (kv.1, { kv.2 with grid := 7 })) ++ s.gangs
    grids := s.grids ++ [(7, { smallGrid .pending with asid := 9 })] }

/-- The machine with this gang. -/
def twiceEntered : State := entered (ganged .preempted)

theorem twiceEntered_canonical : Canonical twiceEntered :=
  ⟨rfl, rfl, rfl, rfl, nofun, .nil, rfl, rfl, rfl, ⟨rfl, rfl, rfl⟩, ⟨rfl, rfl, rfl⟩⟩

theorem twiceEntered_waits : ∃ k ∈ twiceEntered.gang 2, ∃ x ∈ twiceEntered.grid k.grid, k.state = .preempted
    ∧ (twiceEntered.firstFit twiceEntered.waiting 0 []
        = some (⟨1, smallGrid .pending, some 2⟩, .resume 2, [7]))
    ∧ (∀ kv ∈ twiceEntered.warps, Calm kv.2)
    ∧ ∃ kv ∈ twiceEntered.blocks, kv.2.gang = 2 ∧ kv.2.retired = false ∧ kv.2.lost = false := by
  unfold Calm; decide +kernel

theorem twiceEntered_stays :
    (((twiceEntered.passOver 1 (smallGrid .pending) [7]).resumeGang 2).gang 2).map Gang.state = some .preempted := by
  decide +kernel

/-- GANG_RESUME of the gang that the scheduler chooses. -/
theorem gangResume_chosen {s : State} {g : Nat} {k : Gang} {q : Waiting} {passed : List Nat} (hg : s.gang g = some k)
    (hk : k.state = .preempted) (hfit : s.firstFit s.waiting 0 [] = some (q, .resume g, passed)) :
    exec (.gangResume g) s = .next ((s.passOver q.grid q.x passed).resumeGang g) := by
  change execGangResume g s = _
  have hstate : (s.gang g).map Gang.state = some .preempted := by rw [hg]; exact congrArg some hk
  unfold execGangResume
  rw [if_neg (not_not.mpr hstate), hfit]
  exact congrArg Host.Outcome.next (if_pos rfl)

/-- Refutes O60: in a machine whose table of gangs holds two entries of one gang number, the scheduler chooses to resume the
gang for the grid of its second entry, where it fits; the resumption looks the gang up, finds the first entry, whose grid is of a
context without a save area, and changes nothing: the gang is not running after. -/
theorem not_schedulingCompletes : ¬ Obligations.SchedulingCompletes := by
  intro h
  obtain ⟨-, -, -, -, -, -, hresume, -⟩ := h twiceEntered twiceEntered_canonical
  obtain ⟨k, hk, x, hx, hstate, hfit, hcalm, hblock⟩ := twiceEntered_waits
  obtain ⟨t, ht, hrun, -⟩ := hresume 2 k x _ _ hk hx hstate hfit hcalm hblock
  obtain rfl : (twiceEntered.passOver 1 (smallGrid .pending) [7]).resumeGang 2 = t := by
    simpa using (gangResume_chosen hk hstate hfit).symm.trans ht
  rw [twiceEntered_stays] at hrun
  exact absurd hrun (by decide)

end Sys2Proof.Machine
end

section
/-! The watchdog, the ends of waits, and an exchange that times out (R78, R109, R304, R324). -/

namespace Sys2Proof.Machine

open Sys2Proof

theorem onlyWarp_modCtx (s : State) (a : Nat) (f : Context → Context) (w : Nat) : OnlyWarp s (s.modCtx a f) w :=
  ⟨⟨rfl, rfl, rfl, rfl⟩, fun _ _ => rfl⟩

theorem onlyWarp_unclaim (s : State) (x : Warp) (w : Nat) : OnlyWarp s (s.unclaim x w) w := by
  unfold State.unclaim
  simp only []
  split
  · exact ⟨⟨rfl, rfl, rfl, rfl⟩, fun _ _ => rfl⟩
  · exact onlyWarp_same s w

@[simp] theorem unclaim_warp (s : State) (x : Warp) (w v : Nat) : (s.unclaim x w).warp v = s.warp v := by
  unfold State.unclaim
  simp only []
  split <;> rfl

/-! ### The watchdog -/

/-- A CIR bit set (R127). -/
theorem setCir_bit (s : State) (a col n : Nat) (hn : n < 64) : bit (((s.setCir a col n).ctx a).cirAt col) n = true := by
  unfold State.setCir Context.cirAt
  rw [State.ctx_modCtx]
  dsimp only
  rw [mapGetD_mapSet_same]
  simp [bit, hn]

theorem onlyWarp_setCir (s : State) (a col n w : Nat) : OnlyWarp s (s.setCir a col n) w := onlyWarp_modCtx s a _ w

/-- A forced yield at the run boundary of a warp (R78). -/
theorem boundary_yields {s : State} {w : Nat} {x : Warp} (hx : s.warp w = some x) (hswap : x.swapReq = false)
    (hres : x.resident = true) (hbegun : x.begun = true) (hwait : x.wait = .none) (hrun : x.run = none)
    (harr : x.arrived = none) (hrest : x.rest = none) (hfail : x.colFail = []) (hdog : x.wdog = true) :
    (s.boundary w).warp w = some { x with wdog := false, yielded := true } ∧ OnlyWarp s (s.boundary w) w
      ∧ bit (((s.boundary w).ctx (s.asidOf x)).cirAt x.col) 2 = true := by
  have hgo : s.boundary w
      = ((s.setWarp w { x with wdog := false, yielded := true }).unclaim x w).setCir (s.asidOf x) x.col 2 := by
    unfold State.boundary
    simp only [hx, hswap, hres, hbegun, hwait, hrun, harr, hrest, hfail, hdog]
    rfl
  have hset := onlyWarp_setWarp s w { x with wdog := false, yielded := true }
  have ho := onlyWarp_trans hset (onlyWarp_unclaim _ x w)
  rw [hgo]
  refine ⟨?_, onlyWarp_trans ho (onlyWarp_setCir _ _ _ _ w), setCir_bit _ _ _ _ (by decide)⟩
  exact (unclaim_warp _ x w w).trans (State.warp_setWarp _ _ _)

section
variable {s : State} {w : Nat} {x : Warp} (hx : s.warp w = some x) (hcalm : Calm x)
include hx hcalm

/-- The watchdog's forced yield of a slot's holder (R78). -/
theorem watchdog_forces {col core slot limit : Nat} (hh : ((s.core col core).slots.getD slot Slot.idle).holder = some w)
    (hl : s.watchdogFor w x = some limit) (hm : limit ≤ ((s.core col core).slots.getD slot Slot.idle).mono) :
    s.watchdog col core slot = if x.run.isSome then s.setWarp w { x with wdog := true }
      else (s.setWarp w { x with wdog := true }).boundary w := by
  obtain ⟨-, -, -, hdog⟩ := hcalm
  unfold State.watchdog
  simp only [hh, hx, hl, Option.bind_some, Option.map_some, hdog, Nat.not_lt.mpr hm, State.modWarp]
  rfl

theorem sleepEnd_ends {k : Nat} (hwait : x.wait = .sleep k) (hres : x.resident = true) (hk : k ≤ s.cycOf x.col) :
    execSleepEnd w s = .next (s.setWarp w { x with wait := .none }) := by
  obtain ⟨-, -, hfail, hdog⟩ := hcalm
  have hover : s.waitOver w x = true := by unfold State.waitOver; simp [hwait, hk]
  unfold execSleepEnd State.endWait
  simp only [hx, hwait, hres, hover, State.modWarp, if_true, Bool.not_true, Bool.or_self, Bool.false_eq_true, if_false]
  exact congrArg _ (boundary_calm (State.warp_setWarp _ _ _) hfail hdog)

end

/-! ### A promise that has passed -/

section
variable {s : State} {w : Nat} {x : Warp} {d k p : Nat} {h : Word} {cmd : CopyCmd} (hx : s.warp w = some x)
  (hwait : x.wait = .cwait d h) (hcopy : s.copyOf x h = some (k, cmd)) (hstage : cmd.stage ≠ 2) (hfault : cmd.fault = none)
  (hprom : cmd.promise = some p) (hp : p ≤ s.cycOf x.col)
include hx hwait hcopy hstage hfault hprom hp

/-- CWAIT of a command that is late ends in a trap, and the command is late no more (R324). -/
theorem expirePromise_traps (hres : x.resident = true) :
    s.expirePromise w = (((({ s with copies := mapSet s.copies k { cmd with promise := none } } : State).setWarp w
        { x with wait := .none }).takeTrap w { code := 0x34, info := BitVec.ofNat 32 cmd.done, addr := 0 } x.regs.active
      x.waitPc x.waitPc false false).boundary w) := by
  have hover : s.waitOver w x = true := by unfold State.waitOver; simp [hwait, hcopy, hprom, hp]
  have hmod (c : AMap CopyCmd) : ({ s with copies := c } : State).modWarp w (fun x => { x with wait := .none })
      = ({ s with copies := c } : State).setWarp w { x with wait := .none } := by
    have : ({ s with copies := c } : State).warp w = some x := hx
    unfold State.modWarp
    rw [this]
  unfold State.expirePromise State.endWait State.endCwait State.wakeTrap
  simp only [hx, hwait, hres, hover, hcopy, hfault, if_neg hstage, hmod, Bool.not_true, Bool.or_self, Bool.false_eq_true,
    if_false, if_true]

end

/-! ### An exchange that times out -/

theorem timeOut_traps {s : State} {w : Nat} {x : Warp} {a : Arrival} (hx : s.warp w = some x) (ha : x.arrived = some a)
    (hres : x.resident = true) (hlate : a.since + 2 ^ 20 ≤ s.cycOf x.col)
    (hwaits : ∃ m ∈ s.members x, m.lost = false ∧ m.sent = none) :
    s.timeOut w = s.exchangeTrap w 0x41 (a.q % 2 ^ 32) := by
  obtain ⟨m, hm, hl, hs⟩ := hwaits
  have hall : ((s.members x).all fun m => m.lost || m.sent.isSome) = false :=
    List.all_eq_false.mpr ⟨m, hm, by simp [hl, hs]⟩
  have hnot : decide (s.cycOf x.col < a.since + 2 ^ 20) = false := decide_eq_false (Nat.not_lt.mpr hlate)
  unfold State.timeOut
  simp only [hx, ha, hres, hnot, hall]
  rfl

end Sys2Proof.Machine
end

section
/-! An exchange whose members have all arrived, and agree (R303, R305, R407). -/

namespace Sys2Proof.Machine

open Sys2Proof

/-- A member of an exchange after it (R303). -/
def delivered (y : Warp) (a : Arrival) (vals : List Lanes) : Warp :=
  { y with arrived := none, xcount := (y.xcount + 1) % 2 ^ 32
           pend := y.pend.map fun p => if p.id = a.pend then { p with vals := vals, ready := true } else p }

/-- No column failure and no forced yield wait for a warp, where it exists. -/
def State.Quiet (s : State) (v : Nat) : Prop := ∀ y, s.warp v = some y → y.colFail = [] ∧ y.wdog = false

theorem boundary_quiet {s : State} {v : Nat} (h : s.Quiet v) : s.boundary v = s := by
  cases hv : s.warp v with
  | none => unfold State.boundary; rw [hv]
  | some y => exact boundary_calm hv (h y hv).1 (h y hv).2

theorem consume_onlyWarp (s : State) (x : Warp) (n w : Nat) :
    OnlyWarp s (s.consume x n) w ∧ (s.consume x n).warp w = s.warp w := by
  obtain ⟨cs, bs, hs, -⟩ := consume_frame s x n
  rw [hs]
  exact ⟨⟨⟨rfl, rfl, rfl, rfl⟩, fun _ _ => rfl⟩, rfl⟩

/-- An exchange delivered to a member. -/
theorem deliver_spec {s : State} {v : Nat} (hq : s.Quiet v) (a : Arrival) (vals : List Lanes) :
    OnlyWarp s (s.deliver v a vals) v
      ∧ ∀ y, s.warp v = some y → (s.deliver v a vals).warp v = some (delivered y a vals) := by
  have quiet {t : State} (ht : t.warp v = s.warp v) : (t.modWarp v fun y => delivered y a vals).Quiet v := by
    intro z hz
    cases hv : s.warp v with
    | none =>
      have hnone : (t.modWarp v fun y => delivered y a vals) = t := by unfold State.modWarp; rw [ht, hv]
      rw [hnone, ht, hv] at hz
      exact nomatch hz
    | some y =>
      rw [State.warp_modWarp _ (ht.trans hv)] at hz
      cases hz
      exact hq y hv
  unfold State.deliver
  simp only []
  cases hv : s.warp v with
  | none =>
    have hd := boundary_quiet (quiet rfl)
    unfold delivered at hd
    rw [hd]
    exact ⟨onlyWarp_modWarp _ _ _, fun _ h => nomatch h⟩
  | some y =>
    obtain ⟨ho, hw⟩ := consume_onlyWarp s y (if (a.red && vals.any fun l => l.poison &&& a.mask != 0) = true then 1 else 0) v
    have hd := boundary_quiet (quiet hw)
    unfold delivered at hd
    dsimp only
    rw [hd]
    refine ⟨onlyWarp_trans ho (onlyWarp_modWarp _ _ _), fun z hz => ?_⟩
    cases hz
    exact State.warp_modWarp _ (hw.trans hv)

/-- An exchange delivered to members of distinct warps, each in turn. -/
theorem deliver_all (res : Arrival → Nat → List Lanes) : ∀ (l : List (Nat × Nat × Arrival)) (s : State),
    (l.map fun q => q.2.1).Nodup → (∀ q ∈ l, s.Quiet q.2.1) →
    let t := l.foldl (fun s q => s.deliver q.2.1 q.2.2 (res q.2.2 q.1)) s
    SameBytes s t ∧ (∀ v, v ∉ l.map (fun q => q.2.1) → t.warp v = s.warp v)
      ∧ ∀ q ∈ l, ∀ y, s.warp q.2.1 = some y → t.warp q.2.1 = some (delivered y q.2.2 (res q.2.2 q.1))
  | [], s, _, _ => ⟨⟨rfl, rfl, rfl, rfl⟩, fun _ _ => rfl, fun _ h => nomatch h⟩
  | q :: l, s, hnodup, hquiet => by
    obtain ⟨hq, hl⟩ := List.nodup_cons.mp hnodup
    obtain ⟨ho, hd⟩ := deliver_spec (hquiet q List.mem_cons_self) q.2.2 (res q.2.2 q.1)
    have hne {r : Nat × Nat × Arrival} (hr : r ∈ l) : r.2.1 ≠ q.2.1 := fun h =>
      hq (List.mem_map.mpr ⟨r, hr, h⟩)
    obtain ⟨hb, hf, hall⟩ := deliver_all res l (s.deliver q.2.1 q.2.2 (res q.2.2 q.1)) hl fun r hr y hy =>
      hquiet r (List.mem_cons_of_mem q hr) y ((ho.others _ (hne hr)).symm.trans hy)
    refine ⟨sameBytes_trans ho.bytes hb, fun v hv => ?_, fun r hr y hy => ?_⟩
    · obtain ⟨hv0, hv1⟩ := not_or.mp (mt List.mem_cons.mpr hv)
      exact (hf v hv1).trans (ho.others v hv0)
    · rcases List.mem_cons.mp hr with rfl | hr
      · exact (hf _ hq).trans (hd y hy)
      · exact hall r hr y ((ho.others _ (hne hr)).trans hy)

/-- The arrivals of an exchange's lost members withdrawn (R407). -/
def State.withdrawn (s : State) (ms : List Member) : State :=
  ms.foldl (fun s m => match m.warp with
    | some (v, _) => if m.lost then s.modWarp v fun x => { x with arrived := none } else s
    | none => s) s

/-- A warp without an arrival stays as it is. -/
theorem withdrawn_frame (ms : List Member) (s : State) :
    SameBytes s (s.withdrawn ms) ∧ ∀ v y, s.warp v = some y → y.arrived = none → (s.withdrawn ms).warp v = some y := by
  refine List.foldlRecOn
    (motive := fun t => SameBytes s t ∧ ∀ v y, s.warp v = some y → y.arrived = none → t.warp v = some y) ms _
    ⟨⟨rfl, rfl, rfl, rfl⟩, fun _ _ h _ => h⟩ fun t ⟨hb, ht⟩ m _ => ?_
  split
  · next v _ _ =>
    split
    · refine ⟨sameBytes_trans hb (sameBytes_modWarp _ _ _), fun u y hy ha => ?_⟩
      by_cases hu : u = v
      · subst hu
        rw [State.warp_modWarp _ (ht u y hy ha)]
        exact congrArg some (by rw [← ha])
      · exact (State.warp_modWarp_ne t _ hu).trans (ht u y hy ha)
    · exact ⟨hb, ht⟩
  · exact ⟨hb, ht⟩

/-- EXCHANGE_COMPLETE of an exchange whose members have all arrived and agree (R303, R305, R407). -/
theorem completeExchange_delivers {s : State} {w : Nat} {x : Warp} {ref : Nat × Nat × Arrival} (hx : s.warp w = some x)
    (ha : x.arrived.isSome = true) (hall : ∀ m ∈ s.members x, m.lost = true ∨ m.sent.isSome = true)
    (hhead : (arrivedOf (s.members x)).head? = some ref)
    (hagree : ∀ q ∈ arrivedOf (s.members x), ref.2.2.agrees q.2.2 = true)
    (hfrom : ref.2.2.red = true ∨ ref.2.2.f.sub ≠ 3 ∨ ref.2.2.f.x.toNat % 256 < (s.members x).length) :
    s.completeExchange w = ((arrivedOf (s.members x)).foldl
      (fun t q => t.deliver q.2.1 q.2.2 (exchangeResult (s.members x) q.2.2 q.1)) s).withdrawn (s.members x) := by
  have hsent : ((s.members x).all fun m => m.lost || m.sent.isSome) = true :=
    List.all_eq_true.mpr fun m hm => by simpa using hall m hm
  obtain ⟨rest, hlive⟩ : ∃ rest, arrivedOf (s.members x) = ref :: rest := by
    cases h : arrivedOf (s.members x) with
    | nil => rw [h] at hhead; exact nomatch hhead
    | cons q rest => rw [h] at hhead; cases hhead; exact ⟨rest, rfl⟩
  have hfind : (arrivedOf (s.members x)).find? (fun m => !ref.2.2.agrees m.2.2) = none :=
    List.find?_eq_none.mpr fun q hq => by simp [hagree q hq]
  have htake : (!ref.2.2.red && ref.2.2.f.sub == 3 && decide ((s.members x).length ≤ ref.2.2.f.x.toNat % 256)) = false := by
    rcases hfrom with h | h | h
    · simp [h]
    · simp only [beq_eq_false_iff_ne.mpr h, Bool.and_false, Bool.false_and]
    · simp [Nat.not_le.mpr h]
  unfold State.completeExchange
  rw [hx]
  dsimp only
  rw [if_neg (by simp [hsent, Option.isNone_iff_eq_none, Option.isSome_iff_ne_none.mp ha])]
  split
  · next hnil => exact nomatch hnil.symm.trans hlive
  · next _ _ a _ hcons =>
    obtain ⟨rfl, -⟩ := List.cons.inj (hcons.symm.trans hlive)
    split
    · next hsome => exact nomatch hsome.symm.trans hfind
    · rw [if_neg (by rw [htake]; decide)]
      rfl

end Sys2Proof.Machine
end

section
/-! An arrival on a barrier object, and the waiters that it wakes (R117, R118, R119). -/

namespace Sys2Proof.Machine

open Sys2Proof

/-! ### Runs of bytes -/

theorem cellsGet_part (m : List Host.Cell) (a : Nat) {n i k : Nat} (h : i + k ≤ n) :
    ((cellsGet m a n).drop i).take k = cellsGet m (a + i) k := by
  refine List.ext_getElem ?_ fun j hj hk => ?_
  · simp only [List.length_take, List.length_drop, length_cellsGet]
    omega
  · simp [cellsGet, ← Nat.add_assoc]

theorem cellsGet_cellsSet {m : List Host.Cell} (hm : Memory.wf m = true) (a : Nat) {bs : List Byte} {i k : Nat}
    (h : i + k ≤ bs.length) : cellsGet (cellsSet m a bs) (a + i) k = (bs.drop i).take k := by
  refine List.ext_getElem ?_ fun j hj hk => ?_
  · simp only [List.length_take, List.length_drop, length_cellsGet]
    omega
  · rw [length_cellsGet] at hj
    simp only [cellsGet, List.getElem_map, List.getElem_range, List.getElem_take, List.getElem_drop, Nat.add_assoc]
    rw [cellGet_cellsSet_inside bs a (i + j) hm (by omega), List.getD_eq_getElem _ _ (by omega)]

/-! ### The object after an arrival -/

/-- A word among the bytes of a barrier object. -/
def wordAt (bs : List Byte) (i : Nat) : Word := BitVec.ofNat 32 (leNat ((bs.drop i).take 4))

theorem length_arriveBytes {bs : List Byte} (h : bs.length = 16) (n : Word) : (arriveBytes bs n).length = 16 := by
  simp [arriveBytes, h]

/-- The four words of a barrier object after an arrival, as bytes. -/
theorem arriveBytes_parts {bs : List Byte} (h : bs.length = 16) (n : Word) :
    (arriveBytes bs n).take 4 = bs.take 4
      ∧ ((arriveBytes bs n).drop 4).take 4
          = leBytes 4 (if wordAt bs 0 ≤ wordAt bs 4 + n then 0 else (wordAt bs 4 + n).toNat)
      ∧ ((arriveBytes bs n).drop 8).take 4
          = leBytes 4 (if wordAt bs 0 ≤ wordAt bs 4 + n then wordAt bs 8 + 1 else wordAt bs 8).toNat
      ∧ (arriveBytes bs n).drop 12 = bs.drop 12 := by
  have htail : (bs.drop 12).take 4 = bs.drop 12 := List.take_of_length_le (by simp [h])
  have hfirst : (bs.take 4).drop 12 = [] := List.drop_eq_nil_of_le (by simp)
  have hword (m : Nat) : (leBytes 4 m).drop 8 = [] := List.drop_eq_nil_of_le (by simp)
  simp [arriveBytes, wordAt, List.take_append, List.drop_append, h, htail, hfirst, hword]

theorem ofNat_leNat_leBytes (x : Word) : BitVec.ofNat 32 (leNat (leBytes 4 x.toNat)) = x := by
  rw [leNat_leBytes, Nat.mod_eq_of_lt (show x.toNat < 256 ^ 4 from x.isLt), BitVec.ofNat_toNat, BitVec.setWidth_eq]

/-- Bytes 0 to 3 and 12 to 15 of a barrier object are after an arrival what they were. -/
theorem arriveBytes_getD {bs : List Byte} (h : bs.length = 16) (n : Word) {i : Nat} (hi : i < 4 ∨ 12 ≤ i) :
    (arriveBytes bs n).getD i 0 = bs.getD i 0 := by
  obtain ⟨p0, -, -, p12⟩ := arriveBytes_parts h n
  rw [List.getD_eq_getElem?_getD, List.getD_eq_getElem?_getD]
  rcases hi with hi | hi
  · rw [← List.getElem?_take_of_lt hi, p0, List.getElem?_take_of_lt hi]
  · obtain ⟨j, rfl⟩ := Nat.exists_eq_add_of_le hi
    rw [← List.getElem?_drop, p12, List.getElem?_drop]

/-! ### The arrival -/

theorem putSpad_zipIdx (col off : Nat) : ∀ (bs : List Byte) (n : Nat) (s : State),
    (∀ i, n ≤ i → i < n + bs.length → s.spadForeign col (off + i) = false) →
    (bs.zipIdx n).foldl (fun s b => s.putByte col (.spad col (off + b.2)) b.1) s
      = { s with spad := cellsSet s.spad (spadKey col off + n) bs }
  | [], _, _, _ => rfl
  | b :: bs, n, s, h => by
    have hput : s.putByte col (.spad col (off + n)) b = { s with spad := cellSet s.spad (spadKey col off + n) b } := by
      unfold State.putByte
      simp only [h n (Nat.le_refl n) (by simp), spadKey, Nat.add_assoc]
      rfl
    rw [List.zipIdx_cons, List.foldl_cons]
    dsimp only
    rw [hput, cellsSet, show spadKey col off + n + 1 = spadKey col off + (n + 1) from Nat.add_assoc _ _ _]
    exact putSpad_zipIdx col off bs (n + 1) { s with spad := cellSet s.spad (spadKey col off + n) b } fun i hi hlt =>
      h i (by omega) (by rw [List.length_cons]; omega)

section
variable {s : State} {col off : Nat} (hown : ∀ i < 16, s.spadForeign col (off + i) = false)
include hown

theorem readLoc_own {i : Nat} (hi : i < 16) :
    (s.readLoc col (.spad col (off + i))).1 = cellGet s.spad (spadKey col off + i) := by
  unfold State.readLoc
  simp [hown i hi, spadKey, Nat.add_assoc]

theorem arriveAt_eq (hf : (s.column col).failed ≠ 2) (n : Word) :
    s.arriveAt col off n
      = { s with spad := cellsSet s.spad (spadKey col off) (arriveBytes (cellsGet s.spad (spadKey col off) 16) n) } := by
  have hold : ((List.range 16).map fun i => (s.readLoc col (.spad col (off + i))).1)
      = cellsGet s.spad (spadKey col off) 16 :=
    List.map_congr_left fun i hi => readLoc_own hown (List.mem_range.mp hi)
  unfold State.arriveAt
  rw [if_neg hf, hold]
  have hput := putSpad_zipIdx col off (arriveBytes (cellsGet s.spad (spadKey col off) 16) n) 0 s fun i _ hi =>
    hown i (by rwa [length_arriveBytes (length_cellsGet _ _ _), Nat.zero_add] at hi)
  rwa [Nat.add_zero] at hput

/-- PHASE of an object that a wait reads (R117). -/
theorem phaseOf_own (hf : (s.column col).failed ≠ 2) : s.phaseOf col off = some (objectWord s col off 8) := by
  have hread : ((List.range 4).map fun i => (s.readLoc col (.spad col (off + 8 + i))).1)
      = cellsGet s.spad (spadKey col (off + 8)) 4 := by
    unfold cellsGet
    refine List.map_congr_left fun i hi => ?_
    rw [Nat.add_assoc, readLoc_own hown (i := 8 + i) (by have := List.mem_range.mp hi; omega)]
    unfold spadKey
    rw [Nat.add_assoc, Nat.add_assoc, Nat.add_assoc]
  unfold State.phaseOf objectWord
  rw [if_neg hf, hread]

end

/-- The words of a barrier object after an arrival, and every byte outside ARRIVED and PHASE (R118). -/
theorem arrived_words {s t : State} (hc : Canonical s) {col off : Nat} {n : Word}
    (ht : t.spad = cellsSet s.spad (spadKey col off) (arriveBytes (cellsGet s.spad (spadKey col off) 16) n)) :
    let word (i : Nat) : Word := objectWord s col off i
    objectWord t col off 0 = word 0
      ∧ (word 0 ≤ word 4 + n → objectWord t col off 4 = 0 ∧ objectWord t col off 8 = word 8 + 1)
      ∧ (¬ word 0 ≤ word 4 + n → objectWord t col off 4 = word 4 + n ∧ objectWord t col off 8 = word 8)
      ∧ ∀ a, (a < spadKey col off + 4 ∨ spadKey col off + 12 ≤ a) → cellGet t.spad a = cellGet s.spad a := by
  intro word
  generalize hbs : cellsGet s.spad (spadKey col off) 16 = bs at ht
  have hlen : bs.length = 16 := by rw [← hbs, length_cellsGet]
  have hword {i : Nat} (hi : i + 4 ≤ 16) : word i = wordAt bs i := by
    unfold wordAt
    rw [← hbs, cellsGet_part _ _ hi]
    show objectWord s col off i = _
    unfold objectWord spadKey
    rw [Nat.add_assoc]
  have hnew {i : Nat} (hi : i + 4 ≤ 16) :
      objectWord t col off i = BitVec.ofNat 32 (leNat (((arriveBytes bs n).drop i).take 4)) := by
    unfold objectWord
    rw [ht, show spadKey col (off + i) = spadKey col off + i from (Nat.add_assoc _ _ _).symm,
      cellsGet_cellsSet hc.spad _ (by rw [length_arriveBytes hlen]; exact hi)]
  obtain ⟨p0, p4, p8, p12⟩ := arriveBytes_parts hlen n
  rw [hword (by omega), hword (by omega), hword (by omega), hnew (by omega), hnew (by omega), hnew (by omega), p4, p8,
    List.drop_zero, p0]
  refine ⟨?_, fun h => ?_, fun h => ?_, fun a ha => ?_⟩
  · rfl
  · rw [if_pos h, if_pos h]
    exact ⟨by simp, ofNat_leNat_leBytes _⟩
  · rw [if_neg h, if_neg h]
    exact ⟨ofNat_leNat_leBytes _, ofNat_leNat_leBytes _⟩
  · rw [ht]
    by_cases hout : a < spadKey col off ∨ spadKey col off + 16 ≤ a
    · exact cellGet_cellsSet_outside _ _ _ hc.spad (by rw [length_arriveBytes hlen]; exact hout)
    · obtain ⟨i, rfl⟩ := Nat.exists_eq_add_of_le (Nat.not_lt.mp (not_or.mp hout).1)
      have hi : i < 16 := by omega
      rw [cellGet_cellsSet_inside _ _ _ hc.spad (by rw [length_arriveBytes hlen]; exact hi),
        arriveBytes_getD hlen n (by omega), ← hbs]
      simp [cellsGet, hi]

end Sys2Proof.Machine
end

section
/-! The waiters of a barrier object woken (R119). -/

namespace Sys2Proof.Machine

open Sys2Proof

/-- What the barrier objects hold has not changed, nor what was sent to them. -/
structure SameObjects (s t : State) : Prop where
  spad : t.spad = s.spad
  tag : t.spadTag = s.spadTag
  keys : t.keys = s.keys
  arrivals : t.arrivals = s.arrivals
  failed : ∀ c, (t.column c).failed = (s.column c).failed

theorem sameObjects_same (s : State) : SameObjects s s := ⟨rfl, rfl, rfl, rfl, fun _ => rfl⟩

theorem sameObjects_trans {s t u : State} (h : SameObjects s t) (g : SameObjects t u) : SameObjects s u :=
  ⟨g.spad.trans h.spad, g.tag.trans h.tag, g.keys.trans h.keys, g.arrivals.trans h.arrivals,
    fun c => (g.failed c).trans (h.failed c)⟩

theorem sameObjects_cached {s t : State} (h : Cached s t) : SameObjects s t := by
  refine ⟨?_, ?_, ?_, ?_, h.failed⟩ <;> rw [h.eq]

theorem sameObjects_setWarp (s : State) (w : Nat) (x : Warp) : SameObjects s (s.setWarp w x) :=
  ⟨rfl, rfl, rfl, rfl, fun _ => rfl⟩

theorem sameObjects_phaseOf {s t : State} (h : SameObjects s t) (col off : Nat) : t.phaseOf col off = s.phaseOf col off := by
  have hforeign (o : Nat) : t.spadForeign col o = s.spadForeign col o := by
    unfold State.spadForeign
    rw [h.tag, h.keys]
  have hread (o : Nat) : (t.readLoc col (.spad col o)).1 = (s.readLoc col (.spad col o)).1 := by
    unfold State.readLoc
    dsimp only
    rw [hforeign, h.spad]
  unfold State.phaseOf
  simp only [h.failed, hread]

theorem sameObjects_word {s t : State} (h : SameObjects s t) (col off i : Nat) :
    objectWord t col off i = objectWord s col off i := by
  unfold objectWord
  rw [h.spad]

/-! ### One waiter -/

section
variable {s : State} {w : Nat} {x : Warp} (hx : s.warp w = some x)
include hx

/-- A wait over, at a boundary where nothing waits for the warp. -/
theorem boundary_woken (hq : s.Quiet w) :
    (s.modWarp w fun x => { x with wait := .none }).boundary w = s.setWarp w { x with wait := .none } := by
  obtain ⟨hfail, hdog⟩ := hq x hx
  unfold State.modWarp
  rw [hx]
  exact boundary_calm (State.warp_setWarp _ _ _) hfail hdog

/-- A wait at an object ends where PHASE differs (R119). -/
theorem endWait_waitb (hq : s.Quiet w) {col off : Nat} {p : Word} {acq : Option Nat} (hwait : x.wait = .waitb col off p acq)
    (hres : x.resident = true) (hphase : s.phaseOf col off ≠ some p) :
    ∃ u, Cached s u ∧ s.endWait w = u.setWarp w { x with wait := .none } := by
  have hover : s.waitOver w x = true := by unfold State.waitOver; simp [hwait, hphase]
  have hquiet {u : State} (hu : Cached s u) : u.Quiet w := fun y hy => hq y ((cached_warp hu w).symm.trans hy)
  unfold State.endWait
  simp only [hx, hres, hover, hwait, Bool.not_true, Bool.or_self, Bool.false_eq_true, if_false]
  cases acq with
  | none => exact ⟨s, cached_same s, boundary_woken hx hq⟩
  | some k =>
    have hu := cached_acquire s x.col x.core k
    exact ⟨_, hu, boundary_woken ((cached_warp hu w).trans hx) (hquiet hu)⟩

theorem endWait_stays (h : x.resident = false ∨ s.waitOver w x = false) : s.endWait w = s := by
  unfold State.endWait
  simp only [hx]
  exact if_pos (by rcases h with h | h <;> simp [h])

end

/-- A warp woken where it waits at an object whose PHASE differs (R119). -/
def State.wakeOne (s : State) (col off w : Nat) : State :=
  match s.warp w with
  | some x => match x.wait with
    | .waitb c o _ _ => if c = col ∧ o = off then s.endWait w else s
    | _ => s
  | none => s

theorem wakeAt_each (s : State) (col off : Nat) :
    s.wakeAt col off = (s.warps.map Prod.fst).foldl (fun s w => s.wakeOne col off w) s := rfl

/-- One warp may be woken, and no other has changed. -/
structure WokeAt (s t : State) (col off v : Nat) : Prop where
  objects : SameObjects s t
  others : ∀ w, w ≠ v → t.warp w = s.warp w
  quiet : (∀ w, s.Quiet w) → ∀ w, t.Quiet w
  woken : ∀ x p acq, s.warp v = some x → x.resident = true → x.wait = .waitb col off p acq →
    s.phaseOf col off ≠ some p → t.warp v = some { x with wait := .none }
  awake : ∀ x, s.warp v = some x → x.wait = .none → t.warp v = some x

theorem wokeAt_stays {s : State} {col off v : Nat} (h : ∀ x p acq, s.warp v = some x → x.resident = true →
    x.wait = .waitb col off p acq → s.phaseOf col off = some p) : WokeAt s s col off v :=
  ⟨sameObjects_same s, fun _ _ => rfl, id, fun x p acq hx hr hw hp => absurd (h x p acq hx hr hw) hp, fun _ hx _ => hx⟩

theorem wokeAt_waker {s u : State} {col off v : Nat} {x : Warp} (hx : s.warp v = some x) (hu : Cached s u)
    (hwait : x.wait ≠ .none) : WokeAt s (u.setWarp v { x with wait := .none }) col off v := by
  have hother {w : Nat} (hw : w ≠ v) : (u.setWarp v { x with wait := .none }).warp w = s.warp w :=
    (State.warp_setWarp_ne _ _ hw).trans (cached_warp hu w)
  refine ⟨sameObjects_trans (sameObjects_cached hu) (sameObjects_setWarp _ _ _), fun w hw => hother hw, fun hq w y hy => ?_,
    fun y _ _ hy _ _ _ => ?_, fun y hy h => ?_⟩
  · by_cases hw : w = v
    · subst hw
      rw [State.warp_setWarp] at hy
      cases hy
      exact hq w x hx
    · exact hq w y ((hother hw).symm.trans hy)
  · cases hx.symm.trans hy
    exact State.warp_setWarp _ _ _
  · cases hx.symm.trans hy
    exact absurd h hwait

theorem wakeOne_spec {s : State} (hq : ∀ w, s.Quiet w) (col off v : Nat) : WokeAt s (s.wakeOne col off v) col off v := by
  unfold State.wakeOne
  cases hx : s.warp v with
  | none => exact wokeAt_stays fun x _ _ h => nomatch hx.symm.trans h
  | some x =>
    have hmine {y : Warp} (hy : s.warp v = some y) : y = x := Option.some.inj (hy.symm.trans hx)
    dsimp only
    split
    · next c o p acq hwait =>
      split
      · next hco =>
        obtain ⟨rfl, rfl⟩ := hco
        by_cases hgo : x.resident = true ∧ s.phaseOf c o ≠ some p
        · obtain ⟨u, hu, he⟩ := endWait_waitb hx (hq v) hwait hgo.1 hgo.2
          rw [he]
          exact wokeAt_waker hx hu (by rw [hwait]; exact nofun)
        · have hphase (hr : x.resident = true) : s.phaseOf c o = some p := not_not.mp fun h => hgo ⟨hr, h⟩
          have hstay : x.resident = false ∨ s.waitOver v x = false := by
            cases hr : x.resident with
            | false => exact .inl rfl
            | true => exact .inr (by unfold State.waitOver; simp [hwait, hphase hr])
          rw [endWait_stays hx hstay]
          refine wokeAt_stays fun y q _ hy hr hw => ?_
          cases hmine hy
          cases hwait.symm.trans hw
          exact hphase hr
      · next hco =>
        refine wokeAt_stays fun y _ _ hy _ hw => ?_
        cases hmine hy
        cases hwait.symm.trans hw
        exact absurd ⟨rfl, rfl⟩ hco
    · next hnot =>
      refine wokeAt_stays fun y q acq hy _ hw => ?_
      cases hmine hy
      exact absurd hw (hnot _ _ _ _)

/-- Every waiter of an object woken whose PHASE it does not wait for (R119). -/
theorem wake_all (col off : Nat) : ∀ (l : List Nat) (s : State), (∀ w, s.Quiet w) →
    SameObjects s (l.foldl (fun s w => s.wakeOne col off w) s)
      ∧ (∀ w x, s.warp w = some x → x.wait = .none → (l.foldl (fun s w => s.wakeOne col off w) s).warp w = some x)
      ∧ ∀ w x p acq, w ∈ l → s.warp w = some x → x.resident = true → x.wait = .waitb col off p acq →
        s.phaseOf col off ≠ some p → (l.foldl (fun s w => s.wakeOne col off w) s).warp w = some { x with wait := .none }
  | [], s, _ => ⟨sameObjects_same s, fun _ _ h _ => h, fun _ _ _ _ h => nomatch h⟩
  | v :: l, s, hq => by
    obtain ⟨hobj, hother, hquiet, hwoken, hawake⟩ := wakeOne_spec hq col off v
    obtain ⟨iobj, iawake, iwoken⟩ := wake_all col off l (s.wakeOne col off v) (hquiet hq)
    refine ⟨sameObjects_trans hobj iobj, fun w x hx hw => iawake w x ?_ hw, fun w x p acq hmem hx hr hw hp => ?_⟩
    · by_cases hv : w = v
      · subst hv; exact hawake x hx hw
      · exact (hother w hv).trans hx
    · by_cases hv : w = v
      · subst hv
        exact iawake w _ (hwoken x p acq hx hr hw hp) rfl
      · exact iwoken w x p acq ((List.mem_cons.mp hmem).resolve_left hv) ((hother w hv).trans hx) hr hw
          (by rw [sameObjects_phaseOf hobj]; exact hp)

/-- The machine once an arrival has been performed, before the waiters wake (R118). -/
def State.arrivedAt (s : State) (n col off : Nat) (k : Word) : State :=
  { s with
    arrivals := mapErase s.arrivals n
    spad := cellsSet s.spad (spadKey col off) (arriveBytes (cellsGet s.spad (spadKey col off) 16) k) }

/-- BARRIER_OBJECT_ARRIVE of an arrival that was sent: the object is written, and its waiters wake (R118, R119). -/
theorem performArrival_spec {s : State} {n g col off : Nat} {k : Word} (hn : mapGet s.arrivals n = some (g, col, off, k))
    (hq : ∀ w, s.Quiet w) (hf : (s.column col).failed ≠ 2) (hown : ∀ i < 16, s.spadForeign col (off + i) = false) :
    SameObjects (s.arrivedAt n col off k) (s.performArrival n)
      ∧ ∀ w x p acq, s.warp w = some x → x.resident = true → x.wait = .waitb col off p acq →
        objectWord (s.performArrival n) col off 8 ≠ p → (s.performArrival n).warp w = some { x with wait := .none } := by
  have hgo : s.performArrival n = (s.arrivedAt n col off k).wakeAt col off := by
    unfold State.performArrival
    rw [hn]
    exact congrArg (fun u => State.wakeAt u col off)
      (arriveAt_eq (s := { s with arrivals := mapErase s.arrivals n }) hown hf k)
  rw [hgo, wakeAt_each]
  obtain ⟨hobj, -, hwoken⟩ := wake_all col off (s.warps.map Prod.fst) (s.arrivedAt n col off k) hq
  have hphase : (s.arrivedAt n col off k).phaseOf col off = some (objectWord (s.arrivedAt n col off k) col off 8) :=
    phaseOf_own hown hf
  refine ⟨hobj, fun w x p acq hx hr hw hp => ?_⟩
  exact hwoken w x p acq (List.mem_map.mpr ⟨(w, x), mapGet_mem hx, rfl⟩) hx hr hw fun h =>
    hp ((sameObjects_word hobj col off 8).trans (Option.some.inj (hphase.symm.trans h)))

end Sys2Proof.Machine
end

section
/-! A warp swapped out and returned (R98, R361). -/

namespace Sys2Proof.Machine

open Sys2Proof

/-! ### Swap-out -/

theorem image_ne_nil (x : Warp) : x.image ≠ [] := by
  unfold Warp.image
  exact List.append_ne_nil_of_right_ne_nil _ (List.cons_ne_nil _ _)

theorem wrote_saveAll (x : Warp) (l : List (Nat × List Byte)) (s : State) :
    Wrote s (l.foldl (fun s p => s.saveBytes x p.1 p.2) s) := by
  apply wrote_foldl
  exact fun s p => wrote_saveBytes s x p.1 p.2

theorem saveBytes_record (s : State) (x : Warp) (o : Nat) (bs : List Byte) :
    mapGet (s.saveBytes x o bs).records (recordKey (s.asidOf x) x.col x.core x.wcore) = some x.holder := by
  have hs := wrote_saveAt s (s.asidOf x) x.col (warpRecord x.core x.wcore + o) bs
  unfold State.saveBytes
  dsimp only
  rw [wrote_asidOf hs]
  exact mapGet_mapSet_same _ _ _

/-- A warp saved holds its record (R361). -/
theorem saveWarp_record (s : State) (x : Warp) :
    mapGet (s.saveWarp x).records (recordKey (s.asidOf x) x.col x.core x.wcore) = some x.holder := by
  unfold State.saveWarp
  rw [← List.dropLast_append_getLast (image_ne_nil x), List.foldl_append]
  have hinit := wrote_saveAll x x.image.dropLast s
  rw [← wrote_asidOf hinit]
  generalize x.image.dropLast.foldl (fun s p => s.saveBytes x p.1 p.2) s = u
  exact saveBytes_record u x _ _

theorem leaveSlot_frame (s : State) (w : Nat) :
    SameView s (s.leaveSlot w) ∧ (s.leaveSlot w).warps = s.warps := by
  unfold State.leaveSlot
  split
  · exact ⟨sameView_same s, rfl⟩
  · split
    · exact ⟨sameView_modCore _ _ _ _ fun _ => rfl, rfl⟩
    · exact ⟨sameView_same s, rfl⟩

theorem sameView_discardRun (s : State) (w : Nat) : SameView s (s.discardRun w) := by
  unfold State.discardRun
  split
  · split
    · exact sameView_trans (sameView_imprint _ _ _) (sameView_setWarp _ _ _)
    · exact sameView_setWarp _ _ _
  · exact sameView_same s

theorem discard_nothingPending {x : Warp} (h : x.pend = []) : x.discard = { x with run := none } := by
  simp [Warp.discard, h]

/-- A warp without a pending result leaves its core (R98). -/
theorem leaveCore_spec {s : State} {w : Nat} {x : Warp} (hx : s.warp w = some x) (hp : x.pend = []) :
    (s.leaveCore w).warp w = some { x with run := none }
      ∧ mapGet (s.leaveCore w).records (recordKey (s.asidOf x) x.col x.core x.wcore) = some x.holder
      ∧ ∀ v, v ≠ w → (s.leaveCore w).warp v = s.warp v := by
  obtain ⟨hw, ho⟩ := discardRun_spec hx
  rw [discard_nothingPending hp] at hw
  have hreceive : (s.discardRun w).receiveAll w = s.discardRun w := by
    unfold State.receiveAll
    rw [hw]
    simp [hp]
  obtain ⟨hview, hwarps⟩ := leaveSlot_frame (s.discardRun w) w
  have hleft (v : Nat) : ((s.discardRun w).leaveSlot w).warp v = (s.discardRun w).warp v := congrArg (mapGet · v) hwarps
  have hasid : ((s.discardRun w).leaveSlot w).asidOf { x with run := none } = s.asidOf x :=
    view_asidOf (sameView_trans (sameView_discardRun s w) hview) x
  have hgo : s.leaveCore w = ((s.discardRun w).leaveSlot w).saveWarp { x with run := none } := by
    unfold State.leaveCore
    simp only [hreceive, hleft, hw]
  have hsave := wrote_saveAll { x with run := none } (Warp.image { x with run := none }) ((s.discardRun w).leaveSlot w)
  have hrec := saveWarp_record ((s.discardRun w).leaveSlot w) { x with run := none }
  rw [hasid] at hrec
  rw [hgo]
  exact ⟨(wrote_warp hsave w).trans ((hleft w).trans hw), hrec,
    fun v hv => (wrote_warp hsave v).trans ((hleft v).trans (ho.others v hv))⟩

theorem swapOutWarp_spec {s : State} {w : Nat} {x : Warp} (hx : s.warp w = some x) (hp : x.pend = []) :
    (s.swapOutWarp w).warp w = some { x with run := none, swapped := true, swapReq := false }
      ∧ mapGet (s.swapOutWarp w).records (recordKey (s.asidOf x) x.col x.core x.wcore) = some x.holder
      ∧ ∀ v, v ≠ w → (s.swapOutWarp w).warp v = s.warp v := by
  obtain ⟨hw, hrec, hothers⟩ := leaveCore_spec hx hp
  unfold State.swapOutWarp
  refine ⟨State.warp_modWarp _ hw, ?_, fun v hv => (State.warp_modWarp_ne _ _ hv).trans (hothers v hv)⟩
  unfold State.modWarp
  rw [hw]
  exact hrec

/-! ### A record read back -/

/-- A record that gives something back is the warp's own. -/
theorem owns_of_recordRead {s : State} {x : Warp} {o n : Nat} (h : (s.recordRead x o n).1 ≠ []) :
    ∃ pa slot, s.Owns x pa slot := by
  by_cases hmine : mapGet s.records (recordKey (s.asidOf x) x.col x.core x.wcore) = some x.holder
  · cases harea : mapGet (s.ctx (s.asidOf x)).save x.col with
    | none => exact absurd (congrArg Prod.fst (recordRead_nothing o n (.inr harea))) h
    | some a => exact ⟨a.1, a.2, hmine, harea⟩
  · exact absurd (congrArg Prod.fst (recordRead_nothing o n (.inl hmine))) h

theorem restore_val (l : Lanes) {bs : List (Byte × Bool)} (h : bs ≠ []) :
    (l.restore bs).val = (List.range 64).map fun i => BitVec.ofNat 32 (recordNat bs (4 * i) 4) := by
  unfold Lanes.restore recordNat
  rw [if_neg (by simpa using h)]

theorem recordNat_congr {as bs : List (Byte × Bool)} (h : as.map Prod.fst = bs.map Prod.fst) (i n : Nat) :
    recordNat as i n = recordNat bs i n := by
  unfold recordNat
  rw [List.map_take, List.map_drop, h, ← List.map_drop, ← List.map_take]

/-- The values of a V register as the record of its warp holds them (R361). -/
def State.recordLanes (s : State) (x : Warp) (n : Nat) : List Word :=
  (List.range 64).map fun i => BitVec.ofNat 32 (recordNat (s.recordRead x (256 * n) 256).1 (4 * i) 4)

/-- A V register read back, in a state that reads of the record have led to. -/
theorem restore_recordRead {s u : State} {x : Warp} {pa slot : Nat} (ho : s.Owns x pa slot) (hu : Reads s u) (l : Lanes)
    (n : Nat) : (l.restore (u.recordRead x (256 * n) 256).1).val = s.recordLanes x n := by
  have hou := cached_owns hu.1 ho
  have hlen := recordRead_length hou (256 * n) 256
  have hsame : (u.recordRead x (256 * n) 256).1.map Prod.fst = (s.recordRead x (256 * n) 256).1.map Prod.fst := by
    rw [recordRead_owned hou, recordRead_owned ho, cached_recordBytes hu.1]
  rw [restore_val l (by intro h; rw [h] at hlen; simp at hlen)]
  exact List.map_congr_left fun i _ => by rw [recordNat_congr hsame]

theorem mapGet_append {α : Type} : ∀ (m l : AMap α) (n : Nat), mapGet (m ++ l) n = (mapGet m n).or (mapGet l n)
  | [], l, n => by simp [mapGet]
  | (k, v) :: m, l, n => by
    rw [List.cons_append, mapGet, mapGet, mapGet_append m l n]
    split <;> rfl

/-- One V register of the live map read back. -/
def loadOne (x : Warp) (live : Nat) (acc : AMap VReg × State) (i : Nat) : AMap VReg × State :=
  if live.testBit i then
    let old := (mapGet x.regs.v i).getD { phys := 0, lanes := Lanes.zero }
    (acc.1 ++ [(i, { old with lanes := old.lanes.restore (acc.2.recordRead x (256 * i) 256).1 })],
      (acc.2.recordRead x (256 * i) 256).2)
  else acc

theorem loadV_each (s : State) (x : Warp) (live : Nat) : s.loadV x live = (List.range 256).foldl (loadOne x live) ([], s) := rfl

/-- The V registers below a number read back, as far as they are live. -/
theorem loadOne_upTo {s : State} {x : Warp} {pa slot : Nat} (ho : s.Owns x pa slot) (live : Nat) : ∀ k,
    let acc := (List.range k).foldl (loadOne x live) ([], s)
    Reads s acc.2 ∧ (∀ n, k ≤ n → mapGet acc.1 n = none)
      ∧ ∀ n < k, live.testBit n = true → (mapGet acc.1 n).map (fun q => q.lanes.val) = some (s.recordLanes x n)
  | 0 => ⟨reads_same s, fun _ _ => rfl, fun _ h => absurd h (Nat.not_lt_zero _)⟩
  | k + 1 => by
    obtain ⟨hr, habove, hbelow⟩ := loadOne_upTo ho live k
    rw [List.range_succ, List.foldl_append]
    generalize (List.range k).foldl (loadOne x live) ([], s) = acc at hr habove hbelow
    rw [List.foldl_cons, List.foldl_nil]
    unfold loadOne
    cases hk : live.testBit k with
    | false =>
      refine ⟨hr, fun n hn => habove n (by omega), fun n hn hl => hbelow n ?_ hl⟩
      have : n ≠ k := fun h => by rw [h, hk] at hl; exact absurd hl (by decide)
      omega
    | true =>
      dsimp only
      refine ⟨reads_trans hr (reads_recordRead _ _ _ _), fun n hn => ?_, fun n hn hl => ?_⟩
      · simp [mapGet_append, habove n (by omega), mapGet, show ¬k = n by omega]
      · by_cases h : n = k
        · subst h
          simp [mapGet_append, habove n (Nat.le_refl n), mapGet, restore_recordRead ho hr]
        · have hn : n < k := by omega
          obtain ⟨q, hq, hv⟩ := Option.map_eq_some_iff.mp (hbelow n hn hl)
          simp [mapGet_append, hq, hv]

/-- The V registers of the live map read back (R98, R361). -/
theorem loadV_spec {s : State} {x : Warp} {pa slot : Nat} (ho : s.Owns x pa slot) (live : Nat) :
    Reads s (s.loadV x live).2 ∧ ∀ n < 256, live.testBit n = true →
      (mapGet (s.loadV x live).1 n).map (fun q => q.lanes.val) = some (s.recordLanes x n) := by
  obtain ⟨hr, -, hv⟩ := loadOne_upTo ho live 256
  rw [loadV_each]
  exact ⟨hr, hv⟩

end Sys2Proof.Machine
end

section
/-! A warp returned to its core from its record (R98, R361). -/

namespace Sys2Proof.Machine

open Sys2Proof

/-! ### What a warp's record gives back -/

/-- A warp as some bytes of its record and its V registers give it back (R98, R361). -/
def loadedWarp (x : Warp) (bs : List (Byte × Bool)) (v : AMap VReg) : Warp :=
  { x with
    regs := x.regs.loaded v (restoreEntries x.regs.c (bs.take 0x800) (recordNat bs 0x98B 1)) (recordNat bs) fun o n =>
      ((bs.drop o).take n).any Prod.snd
    hmode := (recordNat bs 0x98A 1).testBit 0, batch := recordNat bs 0x98C 4, xcount := recordNat bs 0x990 4
    wait := x.wait.restore (((bs.drop 0x998).take 16).map Prod.fst) }

/-- The S registers as a record gives them back. -/
theorem loadedWarp_s (x : Warp) (bs : List (Byte × Bool)) (v : AMap VReg) {i : Nat} (hi : i < x.regs.s.length) :
    ((loadedWarp x bs v).regs.s.map SVal.val)[i]? = some (BitVec.ofNat 32 (recordNat bs (0x800 + 4 * i) 4)) := by
  simp [loadedWarp, Regs.loaded, hi]

theorem loadWarp_nothing {s : State} {x : Warp} (h : (s.recordRead x 0x10000 0xA80).1 = []) :
    s.loadWarp x = (x, (s.recordRead x 0x10000 0xA80).2) := by
  unfold State.loadWarp
  simp only [h]
  rfl

/-- The values of a V register's record are the same after reads. -/
theorem recordLanes_reads {s u : State} {x : Warp} {pa slot : Nat} (ho : s.Owns x pa slot) (hu : Reads s u) (n : Nat) :
    u.recordLanes x n = s.recordLanes x n := by
  have hsame : (u.recordRead x (256 * n) 256).1.map Prod.fst = (s.recordRead x (256 * n) 256).1.map Prod.fst := by
    rw [recordRead_owned (cached_owns hu.1 ho), recordRead_owned ho, cached_recordBytes hu.1]
  exact List.map_congr_left fun i _ => by rw [recordNat_congr hsame]

/-- A warp read back from a record that gives something. -/
theorem loadWarp_owned {s : State} {x : Warp} {bs : List (Byte × Bool)} (hbs : (s.recordRead x 0x10000 0xA80).1 = bs)
    (h : bs ≠ []) : ∃ v t, s.loadWarp x = (loadedWarp x bs v, t) ∧ (∀ w, t.warp w = s.warp w)
      ∧ (x.saved = none → Reads s t) ∧ ∀ n < 256, (recordNat bs 0x9B0 32).testBit n = true →
        (mapGet v n).map (fun q => q.lanes.val) = some (s.recordLanes x n) := by
  obtain ⟨pa, slot, ho⟩ := owns_of_recordRead (hbs ▸ h)
  have hread := reads_recordRead s x 0x10000 0xA80
  obtain ⟨u, hu⟩ : ∃ u, s.recordRead x 0x10000 0xA80 = (bs, u) := ⟨_, Prod.ext hbs rfl⟩
  rw [hu] at hread
  obtain ⟨hr, hv⟩ := loadV_spec (cached_owns hread.1 ho) (recordNat bs 0x9B0 32)
  have hlanes (n : Nat) (hn : n < 256) (hl : (recordNat bs 0x9B0 32).testBit n = true) :=
    (hv n hn hl).trans (congrArg some (recordLanes_reads ho hread n))
  have hreads := reads_trans hread hr
  unfold State.loadWarp
  rw [hu]
  dsimp only
  rw [if_neg (by simpa using h)]
  cases hs : x.saved with
  | none => exact ⟨_, _, by unfold loadedWarp; rw [hs], cached_warp hreads.1, fun _ => hreads, hlanes⟩
  | some v =>
    exact ⟨_, _, by unfold loadedWarp; rw [hs],
      fun w => (wrote_warp (wrote_saveTrap _ x v) w).trans (cached_warp hreads.1 w), nofun, hlanes⟩

/-! ### A place on the core -/

theorem remap_kept {α β : Type} (bankOf : α → Nat) (put : α → Nat → α) (free : Nat → List Nat) (f : α → β)
    (hf : ∀ a p, f (put a p) = f a) : ∀ (l : List α) (taken : List (Nat × Nat)),
    (remap bankOf put free l taken).map f = l.map f
  | [], _ => rfl
  | a :: l, taken => by
    rw [remap, List.map_cons, List.map_cons, hf, remap_kept bankOf put free f hf l]

theorem mapGet_map {α β : Type} (f : α → β) : ∀ (m : AMap α) (n : Nat),
    mapGet (m.map fun kv => (kv.1, f kv.2)) n = (mapGet m n).map f
  | [], _ => rfl
  | (k, v) :: m, n => by
    rw [List.map_cons, mapGet, mapGet, mapGet_map f m n]
    split <;> rfl

/-- A warp given a place on its core (R73, R98). -/
def placed (x : Warp) (v : AMap VReg) (static : List (Nat × Nat)) (slot since : Nat) : Warp :=
  { x with
    regs := { x.regs with v := v }, static := static, slot := slot, since := since, swapped := false, halted := false
    yielded := false }

/-- A warp given a place on its core keeps its registers, in other physical ones (R73, R98). -/
theorem settle_spec (s : State) (w : Nat) (x : Warp) : ∃ v static slot since,
    (∀ n, (mapGet v n).map VReg.lanes = (mapGet x.regs.v n).map VReg.lanes)
      ∧ s.settle w x = s.takeId.2.setWarp w (placed x v static slot since) := by
  refine ⟨_, _, _, _, fun n => ?_, rfl⟩
  rw [← mapGet_map, ← mapGet_map, remap_kept _ _ _ _ (by exact fun _ _ => rfl)]

/-! ### The return -/

theorem kept_acquireHost (s : State) (c k : Nat) : Kept s (s.acquireHost c k) := kept_acquire s c k 2

section
variable {s : State} {w : Nat} {x : Warp} (hx : s.warp w = some x) (hcalm : Calm x) (hmay : s.mayReturn w x = true)
include hx hcalm hmay

/-- A swapped-out warp back on its core as it was loaded (R98). -/
theorem swapInWarp_spec {y : Warp} {t : State} (hload : s.loadWarp x = (y, t)) (hfail : y.colFail = x.colFail)
    (hdog : y.wdog = x.wdog) (hret : y.retired = x.retired) (hframe : ∀ v, t.warp v = s.warp v)
    (hreads : x.saved = none → Reads s t) :
    ∃ v static slot since, (∀ n, (mapGet v n).map VReg.lanes = (mapGet y.regs.v n).map VReg.lanes)
      ∧ (s.swapInWarp w).warp w = some (placed y v static slot since) ∧ (placed y v static slot since).resident = true
      ∧ (∀ u, u ≠ w → (s.swapInWarp w).warp u = s.warp u) ∧ (x.saved = none → Unwritten s (s.swapInWarp w)) := by
  obtain ⟨-, hretired, hcf, hwd⟩ := hcalm
  obtain ⟨v, static, slot, since, hlanes, hsettle⟩ := settle_spec (t.acquireHost y.col y.core) w y
  have hgo : s.swapInWarp w = (t.acquireHost y.col y.core).takeId.2.setWarp w (placed y v static slot since) := by
    unfold State.swapInWarp
    simp only [hx, hmay, hload, hsettle]
    exact boundary_calm (State.warp_setWarp _ _ _) (hfail.trans hcf) (hdog.trans hwd)
  have hcached := cached_acquireHost t y.col y.core
  rw [hgo]
  refine ⟨v, static, slot, since, hlanes, State.warp_setWarp _ _ _, ?_, fun u hu => ?_, fun hs => ?_⟩
  · have hstands : y.retired = false := hret.trans hretired
    unfold Warp.resident placed
    simp [hstands]
  · exact (State.warp_setWarp_ne _ _ hu).trans ((cached_warp hcached u).trans (hframe u))
  · have hun := unwritten_of_kept (kept_trans (hreads hs).2 (kept_acquireHost t y.col y.core))
    exact hun

/-- A warp returned without a record of its own (R98). -/
theorem swapIn_bare (h : (s.recordRead x 0x10000 0xA80).1 = []) : ∃ y, (s.swapInWarp w).warp w = some y ∧ y.resident = true
    ∧ y.run = x.run ∧ y.wait = x.wait ∧ y.regs = { x.regs with v := y.regs.v }
    ∧ (∀ n, (mapGet y.regs.v n).map VReg.lanes = (mapGet x.regs.v n).map VReg.lanes)
    ∧ (∀ u, u ≠ w → (s.swapInWarp w).warp u = s.warp u) ∧ (x.saved = none → Unwritten s (s.swapInWarp w)) := by
  have hreads := reads_recordRead s x 0x10000 0xA80
  obtain ⟨v, static, slot, since, hlanes, hw, hres, hothers, hun⟩ := swapInWarp_spec hx hcalm hmay (loadWarp_nothing h) rfl rfl
    rfl (cached_warp hreads.1) fun _ => hreads
  exact ⟨_, hw, hres, rfl, rfl, rfl, hlanes, hothers, hun⟩

/-- A warp returned with what its record holds (R98, R361). -/
theorem swapIn_recorded {bs : List (Byte × Bool)} (hbs : (s.recordRead x 0x10000 0xA80).1 = bs) (h : bs ≠ []) :
    ∃ v v' static slot since, (s.swapInWarp w).warp w = some (placed (loadedWarp x bs v') v static slot since)
      ∧ (placed (loadedWarp x bs v') v static slot since).resident = true
      ∧ (∀ n < 256, (recordNat bs 0x9B0 32).testBit n = true →
        (mapGet v n).map (fun q => q.lanes.val) = some (s.recordLanes x n))
      ∧ (∀ u, u ≠ w → (s.swapInWarp w).warp u = s.warp u) ∧ (x.saved = none → Unwritten s (s.swapInWarp w)) := by
  obtain ⟨v', t, hload, hframe, hreads, hval⟩ := loadWarp_owned hbs h
  obtain ⟨v, static, slot, since, hlanes, hw, hres, hothers, hun⟩ := swapInWarp_spec hx hcalm hmay hload rfl rfl rfl hframe
    hreads
  refine ⟨v, v', static, slot, since, hw, hres, fun n hn hl => ?_, hothers, hun⟩
  have hsame : (mapGet v n).map (fun q => q.lanes.val) = (mapGet v' n).map fun q => q.lanes.val := by
    have := congrArg (Option.map Lanes.val) (hlanes n)
    rwa [Option.map_map, Option.map_map] at this
  exact hsame.trans (hval n hn hl)

end

end Sys2Proof.Machine
end

section
/-! The events of warps (R78, R98, R109, R118, R119, R303, R304, R324, R361). -/

namespace Sys2Proof.Machine

open Sys2Proof

section
variable {s : State} {w : Nat} {x : Warp} (hx : s.warp w = some x) (hcalm : Calm x)
include hx hcalm

/-- A forced yield while a run is in flight waits for its end (R78). -/
theorem watchdogLimit_waits {col core slot limit : Nat}
    (hh : ((s.core col core).slots.getD slot Slot.idle).holder = some w) (hl : s.watchdogFor w x = some limit)
    (hm : limit ≤ ((s.core col core).slots.getD slot Slot.idle).mono) (hrun : x.run.isSome = true) :
    Answers (.watchdogLimit col core slot) s fun t =>
      t.warp w = some { x with wdog := true } ∧ (∀ v, v ≠ w → t.warp v = s.warp v) ∧ SameBytes s t := by
  have hgo := watchdog_forces hx hcalm hh hl hm
  rw [if_pos hrun] at hgo
  have ho := onlyWarp_setWarp s w { x with wdog := true }
  exact ⟨_, congrArg Host.Outcome.next hgo, State.warp_setWarp _ _ _, ho.others, ho.bytes⟩

/-- A forced yield of a warp at a run boundary (R78). -/
theorem watchdogLimit_yields {col core slot limit : Nat}
    (hh : ((s.core col core).slots.getD slot Slot.idle).holder = some w) (hl : s.watchdogFor w x = some limit)
    (hm : limit ≤ ((s.core col core).slots.getD slot Slot.idle).mono) (hrun : x.run = none) (hbegun : x.begun = true)
    (hwait : x.wait = .none) (hres : x.resident = true) (harr : x.arrived = none) (hrest : x.rest = none) :
    Answers (.watchdogLimit col core slot) s fun t =>
      t.warp w = some { x with yielded := true } ∧ bit ((t.ctx (s.asidOf x)).cirAt x.col) 2 = true
        ∧ (∀ v, v ≠ w → t.warp v = s.warp v) ∧ SameBytes s t := by
  have hgo := watchdog_forces hx hcalm hh hl hm
  obtain ⟨hswap, -, hfail, hdog⟩ := hcalm
  have hback : ({ x with wdog := false, yielded := true } : Warp) = { x with yielded := true } := by rw [← hdog]
  rw [if_neg (by simp [hrun])] at hgo
  obtain ⟨hw, ho, hbit⟩ := boundary_yields (State.warp_setWarp s w { x with wdog := true }) hswap hres hbegun hwait hrun harr
    hrest hfail rfl
  have hall := onlyWarp_trans (onlyWarp_setWarp s w { x with wdog := true }) ho
  exact ⟨_, congrArg Host.Outcome.next hgo, hw.trans (congrArg some hback), hbit, hall.others, hall.bytes⟩

end

/-- A promise that has passed (R324). -/
theorem copyPromiseExpire_traps {s : State} {w k p : Nat} {x : Warp} {d : Nat} {h : Word} {cmd : CopyCmd} {ps : List Place}
    (hx : s.warp w = some x) (hcalm : Calm x) (hwait : x.wait = .cwait d h) (hcopy : s.copyOf x h = some (k, cmd))
    (hstage : cmd.stage ≠ 2) (hfault : cmd.fault = none) (hprom : cmd.promise = some p) (hp : p ≤ s.cycOf x.col)
    (hd : Delivers s x ps) (hres : x.resident = true) :
    Answers (.copyPromiseExpire w) s fun t => mapGet t.copies k = some { cmd with promise := none }
      ∧ t.warp w = some (handled { x with wait := .none } (s.tvecOf x) (s.framePtr x) x.waitPc)
      ∧ ∀ v, v ≠ w → t.warp v = (s.warp v).map (toldSo (storedAt ps
        (s.frameOf x { code := 0x34, info := BitVec.ofNat 32 cmd.done, addr := 0 } x.regs.active x.waitPc x.waitPc false false))) := by
  obtain ⟨-, -, hfail, hdog⟩ := hcalm
  have hgo := expirePromise_traps hx hwait hcopy hstage hfault hprom hp hres
  have hview : SameView s (({ s with copies := mapSet s.copies k { cmd with promise := none } } : State).setWarp w
      { x with wait := .none }) := ⟨rfl, fun _ _ => rfl, fun _ => rfl⟩
  have hd' : Delivers s { x with wait := .none } ps := hd
  obtain ⟨ht, hothers, hcopies⟩ := takeTrap_delivers (State.warp_setWarp _ w { x with wait := .none })
    (view_delivers hview hd') { code := 0x34, info := BitVec.ofNat 32 cmd.done, addr := 0 } x.regs.active x.waitPc x.waitPc
    false false
  rw [boundary_calm ht hfail hdog] at hgo
  refine ⟨_, congrArg Host.Outcome.next hgo, ?_, ?_, fun v hv => ?_⟩
  · rw [hcopies]
    exact mapGet_mapSet_same _ _ _
  · rw [ht, view_tvecOf hview, view_framePtr hview]
    rfl
  · rw [hothers v hv, State.warp_setWarp_ne _ _ hv]
    rfl

/-- An arrival on a barrier object (R118, R119). -/
theorem barrierObjectArrive_wakes {s : State} (hc : Canonical s) {n g col off : Nat} {k : Word}
    (hn : mapGet s.arrivals n = some (g, col, off, k)) (hq : ∀ w, s.Quiet w) (hf : (s.column col).failed ≠ 2)
    (hown : ∀ i < 16, s.spadForeign col (off + i) = false) :
    let word (i : Nat) : Word := objectWord s col off i
    let full : Prop := word 0 ≤ word 4 + k
    Answers (.barrierObjectArrive n) s fun t => t.arrivals = mapErase s.arrivals n
      ∧ objectWord t col off 0 = word 0
      ∧ (full → objectWord t col off 4 = 0 ∧ objectWord t col off 8 = word 8 + 1)
      ∧ (¬ full → objectWord t col off 4 = word 4 + k ∧ objectWord t col off 8 = word 8)
      ∧ (∀ a, (a < spadKey col off + 4 ∨ spadKey col off + 12 ≤ a) → cellGet t.spad a = cellGet s.spad a)
      ∧ (∀ w x p acq, s.warp w = some x → x.resident = true → x.wait = .waitb col off p acq → objectWord t col off 8 ≠ p →
          t.warp w = some { x with wait := .none }) := by
  intro word full
  obtain ⟨hobj, hwoken⟩ := performArrival_spec hn hq hf hown
  have harr : (s.performArrival n).arrivals = mapErase s.arrivals n := hobj.arrivals
  have hspad : (s.performArrival n).spad
      = cellsSet s.spad (spadKey col off) (arriveBytes (cellsGet s.spad (spadKey col off) 16) k) := hobj.spad
  obtain ⟨h0, hfull, hpart, hcells⟩ := arrived_words hc hspad
  exact ⟨s.performArrival n, rfl, harr, h0, hfull, hpart, hcells, hwoken⟩

/-- Settles O59: each event is the operation of its own that the model gives it, and each operation's effect is a lemma. -/
theorem warpEventsComplete : Obligations.WarpEventsComplete := by
  intro s hcanon
  refine ⟨?_, ?_, ?_, ?_, ?_, ?_, ?_, ?_⟩
  · intro col core slot w x limit k hh hx hl hm hcalm
    exact ⟨watchdogLimit_waits hx hcalm hh hl hm, watchdogLimit_yields hx hcalm hh hl hm⟩
  · intro w x k hx hcalm hwait hres hk
    have ho := onlyWarp_setWarp s w { x with wait := .none }
    exact ⟨_, sleepEnd_ends hx hcalm hwait hres hk, State.warp_setWarp _ _ _, ho.others, ho.bytes⟩
  · intro w x d h k cmd p ps hx hcalm hwait hcopy hstage hfault hprom hp hd hres
    obtain ⟨t, ht, hcopies, hw, hothers⟩ := copyPromiseExpire_traps hx hcalm hwait hcopy hstage hfault hprom hp hd hres
    exact ⟨t, ht, hcopies, ⟨_, hw, rfl, rfl, rfl, rfl⟩, hothers⟩
  · intro n g col off k hn _ hcalm hf hown word full
    have hq (v : Nat) : s.Quiet v := fun y hy => by
      obtain ⟨-, -, hfail, hdog⟩ := hcalm (v, y) (mapGet_mem hy)
      exact ⟨hfail, hdog⟩
    exact barrierObjectArrive_wakes hcanon hn hq hf hown
  · intro w x hx ha hall ms live hnodup hcalm ref hhead hagree hfrom
    have hq (q : Nat × Nat × Arrival) (hmem : q ∈ live) : s.Quiet q.2.1 := fun y hy => by
      obtain ⟨-, -, hfail, hdog⟩ := hcalm q hmem y hy
      exact ⟨hfail, hdog⟩
    have hgo := completeExchange_delivers hx ha hall hhead hagree hfrom
    obtain ⟨hbytes, -, hdeliver⟩ := deliver_all (exchangeResult ms) live s hnodup hq
    obtain ⟨hb, hstay⟩ := withdrawn_frame ms (live.foldl (fun t q => t.deliver q.2.1 q.2.2 (exchangeResult ms q.2.2 q.1)) s)
    exact ⟨_, congrArg Host.Outcome.next hgo, sameBytes_trans hbytes hb, fun q hmem y hy =>
      hstay _ _ (hdeliver q hmem y hy) rfl⟩
  · intro w x a hx ha hres hlate hwaits
    refine congrArg Host.Outcome.next ((timeOut_traps hx ha hres hlate hwaits).trans ?_)
    unfold State.exchangeTrap
    simp only [hx, ha]
  · intro w x hx hreq hres hrest hpend
    have hc := cached_releaseHost s x.col
    obtain ⟨hw, hrec, hothers⟩ := swapOutWarp_spec ((cached_warp hc w).trans hx) hpend
    rw [cached_asidOf hc] at hrec
    refine ⟨_, ?_, hw, hrec, fun v hv => (hothers v hv).trans (cached_warp hc v)⟩
    change execSwapOut w s = _
    unfold execSwapOut
    simp [hx, hreq, hres, hrest]
  · intro w x hx hcalm hmay
    by_cases hbs : (s.recordRead x 0x10000 0xA80).1 = []
    · obtain ⟨y, hw, hres, hrun, hwait, hregs, hlanes, hothers, hun⟩ := swapIn_bare hx hcalm hmay hbs
      exact ⟨_, rfl, ⟨y, hw, hres, hrun, fun _ => ⟨hwait, hregs, hlanes⟩, fun h => absurd hbs h⟩, hothers, hun⟩
    · obtain ⟨v, v', static, slot, since, hw, hres, hlanes, hothers, hun⟩ := swapIn_recorded hx hcalm hmay rfl hbs
      refine ⟨_, rfl, ⟨_, hw, hres, rfl, fun h => absurd h hbs, fun _ => ⟨rfl, rfl, rfl, rfl, rfl, fun i hi => ?_, hlanes⟩⟩,
        hothers, hun⟩
      exact loadedWarp_s x _ v' hi

end Sys2Proof.Machine
end

section
/-! The operands an instruction meets as it issues (R100, R103): which hazard codes it breaks, and the result that must have
arrived before it. -/

namespace Sys2Proof.Machine

open Sys2Proof

/-! ### Hazard codes -/

/-- The lowest of some numbers, kept from left to right. -/
theorem foldl_lowest_some (l : List Nat) (a : Nat) :
    l.foldl (fun b k => match b with | none => some k | some j => some (min j k)) (some a) = some (l.foldl min a) := by
  induction l generalizing a with
  | nil => rfl
  | cons k l ih => exact ih (min a k)

/-- The codes that an instruction breaks, in the order it looks for them (R103). -/
def Cx.hazardCodes (c : Cx) (o : OpSpec) (readsD : Bool) : List Nat :=
  (sources o c.f readsD).filterMap (fun q => c.readHazard q.1 q.2) ++ if c.x.pend.any (c.writeHit o) then [2] else []

theorem hazard_eq_min (c : Cx) (o : OpSpec) (readsD : Bool) : c.hazard o readsD = (c.hazardCodes o readsD).min? := by
  show (c.hazardCodes o readsD).foldl _ none = _
  cases c.hazardCodes o readsD with
  | nil => rfl
  | cons k l => exact foldl_lowest_some l k

/-- What a source that no pending result covers breaks (R103): code 3, 4 or 5. -/
def Cx.NotHeld (c : Cx) (sel : Sel) (n k : Nat) : Prop :=
  (k = 3 ∧ ∃ m, sel = .l m ∧ (c.r.latch.getD m.toNat { valid := false, lanes := Lanes.zero }).valid = false)
  ∨ (k = 4 ∧ ∃ m, sel = .c m ∧ (c.r.work.c.getD m.toNat { valid := false, lanes := Lanes.zero }).valid = false)
  ∨ (k = 5 ∧ ∃ m, sel = .v m ∧ ∃ j < n, mapGet c.r.work.v (m.toNat + j) = none)

theorem readHazard_covered {c : Cx} {sel : Sel} {n : Nat} (h : ∃ p ∈ c.x.pend, p.coversRead sel n = true) :
    c.readHazard sel n = some 1 := if_pos (List.any_eq_true.mpr h)

theorem readHazard_uncovered {c : Cx} {sel : Sel} {n k : Nat} (h : ∀ p ∈ c.x.pend, p.coversRead sel n = false) :
    c.readHazard sel n = some k ↔ c.NotHeld sel n k := by
  unfold Cx.readHazard Cx.NotHeld
  rw [if_neg (by simpa using h)]
  cases sel <;> simp [eq_comm (a := k), and_comm]

/-- What a source breaks: where a pending result covers it, code 1 and no other. -/
theorem readHazard_iff {c : Cx} {sel : Sel} {n k : Nat} : c.readHazard sel n = some k ↔
    (k = 1 ∧ ∃ p ∈ c.x.pend, p.coversRead sel n = true)
      ∨ ((∀ p ∈ c.x.pend, p.coversRead sel n = false) ∧ c.NotHeld sel n k) := by
  by_cases h : ∃ p ∈ c.x.pend, p.coversRead sel n = true
  · have hn : ¬ ∀ p ∈ c.x.pend, p.coversRead sel n = false := by simpa using h
    rw [readHazard_covered h]
    simp only [Option.some.injEq, eq_comm (a := k), h, hn, and_true, false_and, or_false]
  · have hn : ∀ p ∈ c.x.pend, p.coversRead sel n = false := by simpa using h
    rw [readHazard_uncovered hn]
    simp [h, and_iff_right hn]

theorem mem_hazardCodes {c : Cx} {o : OpSpec} {readsD : Bool} {k : Nat} : k ∈ c.hazardCodes o readsD ↔
    (∃ q ∈ sources o c.f readsD, c.readHazard q.1 q.2 = some k) ∨ (k = 2 ∧ ∃ p ∈ c.x.pend, c.writeHit o p = true) := by
  unfold Cx.hazardCodes
  rw [List.mem_append, List.mem_filterMap, List.mem_ite_nil_right, List.any_eq_true, List.mem_singleton, and_comm (b := k = 2)]

/-- Settles O13: the codes an instruction breaks are those of its sources and that of its writes, and `hazard` is the lowest. -/
theorem hazardCodes : Obligations.HazardCodes := by
  intro c o readsD meets k
  have hmeets (j : Nat) : meets j ↔ j ∈ c.hazardCodes o readsD := by
    simp only [mem_hazardCodes, readHazard_iff]
    constructor
    · rintro (⟨hj, q, hq, hcov⟩ | hwrite | ⟨hj, q, hq, hun, h⟩ | ⟨hj, q, hq, hun, h⟩ | ⟨hj, q, hq, hun, h⟩)
      · exact .inl ⟨q, hq, .inl ⟨hj, hcov⟩⟩
      · exact .inr hwrite
      · exact .inl ⟨q, hq, .inr ⟨hun, .inl ⟨hj, h⟩⟩⟩
      · exact .inl ⟨q, hq, .inr ⟨hun, .inr (.inl ⟨hj, h⟩)⟩⟩
      · exact .inl ⟨q, hq, .inr ⟨hun, .inr (.inr ⟨hj, h⟩)⟩⟩
    · rintro (⟨q, hq, ⟨hj, hcov⟩ | ⟨hun, ⟨hj, h⟩ | ⟨hj, h⟩ | ⟨hj, h⟩⟩⟩ | hwrite)
      · exact .inl ⟨hj, q, hq, hcov⟩
      · exact .inr (.inr (.inl ⟨hj, q, hq, hun, h⟩))
      · exact .inr (.inr (.inr (.inl ⟨hj, q, hq, hun, h⟩)))
      · exact .inr (.inr (.inr (.inr ⟨hj, q, hq, hun, h⟩)))
      · exact .inr (.inl hwrite)
  rw [hazard_eq_min, List.min?_eq_some_iff, hmeets]
  exact and_congr_right fun _ => forall_congr' fun j => by rw [hmeets, imp_not_comm, not_lt]

/-! ### Results that must have arrived -/

/-- A result whose window is over and whose data has not come stops the instruction at the gate (R100). -/
theorem gate_due {c : Cx} {op : Opcode} {p : Pending} (h : (c.x.pend.find? fun p => p.window == 0 && !p.here) = some p) :
    c.gate op = c.stop p.awaiting := by
  unfold Cx.gate
  simp only [h]

/-- Does a load stand behind a BFENCE of its own run (R100)? -/
def Pending.Behind (p : Pending) : Prop := p.ofRun = true ∧ ∃ k slot psn got, p.fx = .load k slot psn got

theorem awaiting_ready {p : Pending} (h : p.ready = true) : p.awaiting = .arrive p.id := if_pos h

theorem awaiting_behind {p : Pending} (h : p.ready = false) (hb : p.Behind) : p.awaiting = .endRun := by
  obtain ⟨hrun, k, slot, psn, got, hfx⟩ := hb
  simp [Pending.awaiting, h, hrun, hfx]

theorem awaiting_other {p : Pending} (h : p.ready = false) (hb : ¬ p.Behind) : p.awaiting = .wait := by
  unfold Pending.awaiting
  rw [if_neg (by simp [h])]
  split
  · next k slot psn got hfx hrun => exact absurd ⟨hrun, k, slot, psn, got, hfx⟩ hb
  · rfl

/-- Settles O15: the gate looks for a result that is due before anything else, and the instruction awaits it. -/
theorem resultsArriveFirst : Obligations.ResultsArriveFirst := by
  intro s w x i op f p he hi hm hdue behind
  have stops {st : Stop} (h : p.awaiting = st) : exec i s = .next (s.stopped w (s.cx w x f).pc st) := by
    rw [exec_encoded he, ← h]
    exact issue_gated hi hm (gate_due hdue)
  refine ⟨fun hr => stops (awaiting_ready hr), fun hr hb => stops (awaiting_other hr hb), fun hr hb => ?_⟩
  rw [stops (awaiting_behind hr hb)]
  unfold State.stopped State.modWarp
  rw [hi.2]

end Sys2Proof.Machine
end

section
/-! The long-latency arithmetic instructions (R189, R194-R198, R208): each computes its result as it issues, and awaits it. -/

namespace Sys2Proof.Machine

open Sys2Proof

section
variable {instr : Fields → Instr}

theorem divides_holds (h : ∀ f s, exec (instr f) s = s.issue .fdiv f false noPre bodyFdiv) : (divides instr).Holds :=
  computesLater_holds h fun _ => rfl

theorem squareRoots_holds (h : ∀ f s, exec (instr f) s = s.issue .fsqrt f false noPre bodyFsqrt) :
    (squareRoots instr).Holds := computesLater_holds h fun _ => rfl

/-- A special function, from the function its body names (R194). -/
theorem special_holds {op : Opcode} {g : Sfu} {body : Cx → Step}
    (h : ∀ f s, exec (instr f) s = s.issue op f false noPre body) (hbody : ∀ c, body c = c.special g) :
    (special instr op g).Holds := computesLater_holds h hbody

end

/-- Settles O39: each row's body is its operands consumed and its result awaited. -/
theorem slowArithmeticCompletes : Obligations.SlowArithmeticCompletes := by
  simp only [Obligations.SlowArithmeticCompletes, slowTable, List.forall_mem_cons, List.not_mem_nil, false_implies,
    implies_true, and_true]
  refine ⟨divides_holds fun _ _ => rfl, divides_holds fun _ _ => rfl, squareRoots_holds fun _ _ => rfl,
    squareRoots_holds fun _ _ => rfl, ?_⟩
  iterate 22 refine ⟨special_holds (fun _ _ => rfl) fun _ => rfl, ?_⟩
  exact computesLater_holds (fun _ _ => rfl) fun _ => rfl

end Sys2Proof.Machine
end

section
/-! A result that arrives (R93-R95, R100, R102): the registers of its group, its cache entries, and what else its arrival
leaves. -/

namespace Sys2Proof.Machine

open Sys2Proof

/-! ### The registers of a group -/

/-- Places written one after another, each by one step only: a step's own place receives what the step gives it, and a place
of no step is as before. -/
theorem foldl_range_places {σ α : Type} {get : σ → Nat → Option α} {g : σ → Nat → σ} {f : Nat → α → α}
    {own : Nat → Nat → Prop} (hown : ∀ s j n, own j n → get (g s j) n = (get s n).map (f j))
    (hother : ∀ s j n, ¬ own j n → get (g s j) n = get s n) (hone : ∀ i j n, own i n → own j n → i = j) (s : σ) (m : Nat) :
    (∀ j < m, ∀ n, own j n → get ((List.range m).foldl g s) n = (get s n).map (f j))
      ∧ ∀ n, (∀ j < m, ¬ own j n) → get ((List.range m).foldl g s) n = get s n := by
  induction m with
  | zero => exact ⟨nofun, fun _ _ => rfl⟩
  | succ m ih =>
    obtain ⟨inside, outside⟩ := ih
    simp only [List.range_succ, List.foldl_append, List.foldl_cons, List.foldl_nil]
    refine ⟨fun j hj n hn => ?_, fun n hn => ?_⟩
    · by_cases hm : own m n
      · obtain rfl := hone j m n hn hm
        rw [hown _ _ _ hm, outside n fun i hi h => absurd (hone i j n h hn) (by omega)]
      · have hjm : j ≠ m := fun e => hm (e ▸ hn)
        rw [hother _ _ _ hm, inside j (by omega) n hn]
    · rw [hother _ _ _ (hn m (by omega)), outside n fun j hj => hn j (by omega)]

/-- Register `j` of a result's group written (R100). -/
def Pending.writeReg (p : Pending) (r : Regs) (j : Nat) : Regs :=
  match p.dst with
  | .v n => match mapGet r.v (n.toNat + j) with
    | some v =>
      { r with v := mapSet r.v (n.toNat + j) { v with lanes := v.lanes.merge p.mask (p.vals.getD j Lanes.zero) } }
    | none => r
  | .s n => { r with s := r.s.set (n.toNat + j) (p.vals.getD j Lanes.zero).first }
  | _ => r

/-- Every register of a result's group written. -/
def Pending.writeGroup (p : Pending) (r : Regs) : Regs := (List.range p.count).foldl p.writeReg r

/-- Is V register `n` the one that register `j` of a result is written to? -/
def Pending.OwnV (p : Pending) (j n : Nat) : Prop := ∃ d, p.dst = .v d ∧ n = d.toNat + j

/-- Is S register `n` the one that register `j` of a result is written to? -/
def Pending.OwnS (p : Pending) (j n : Nat) : Prop := ∃ d, p.dst = .s d ∧ n = d.toNat + j

/-- A V register that holds register `j` of a result in the threads of its mask. -/
def Pending.onto (p : Pending) (j : Nat) (g : VReg) : VReg :=
  { g with lanes := g.lanes.merge p.mask (p.vals.getD j Lanes.zero) }

theorem writeReg_only (p : Pending) (r : Regs) (j : Nat) :
    p.writeReg r j = { r with v := (p.writeReg r j).v, s := (p.writeReg r j).s } := by
  unfold Pending.writeReg
  split
  · split <;> rfl
  · rfl
  · rfl

theorem writeGroup_only (p : Pending) (r : Regs) :
    p.writeGroup r = { r with v := (p.writeGroup r).v, s := (p.writeGroup r).s } := by
  unfold Pending.writeGroup
  refine List.foldlRecOn (motive := fun q : Regs => q = { r with v := q.v, s := q.s }) _ _ rfl fun q hq j _ => ?_
  rw [writeReg_only p q j, hq]

theorem writeReg_v (p : Pending) (r : Regs) (j n : Nat) :
    (p.OwnV j n → mapGet (p.writeReg r j).v n = (mapGet r.v n).map (p.onto j))
      ∧ (¬ p.OwnV j n → mapGet (p.writeReg r j).v n = mapGet r.v n) := by
  unfold Pending.writeReg
  refine ⟨fun ⟨d, hd, hn⟩ => ?_, fun h => ?_⟩
  · subst hn
    simp only [hd]
    cases hg : mapGet r.v (d.toNat + j) with
    | none => simpa using hg
    | some g => simp [Pending.onto]
  · split
    · next d hd =>
      have hn : n ≠ d.toNat + j := fun e => h ⟨d, hd, e⟩
      split
      · exact mapGet_mapSet_ne _ _ hn
      · rfl
    · rfl
    · rfl

theorem writeReg_s (p : Pending) (r : Regs) (j n : Nat) :
    (p.OwnS j n → (p.writeReg r j).s[n]? = r.s[n]?.map fun _ => (p.vals.getD j Lanes.zero).first)
      ∧ (¬ p.OwnS j n → (p.writeReg r j).s[n]? = r.s[n]?) := by
  unfold Pending.writeReg
  refine ⟨fun ⟨d, hd, hn⟩ => ?_, fun h => ?_⟩
  · subst hn
    simp only [hd, List.getElem?_set_self']
    rfl
  · split
    · split <;> rfl
    · next d hd => exact List.getElem?_set_ne fun e => h ⟨d, hd, e.symm⟩
    · rfl

/-- The V registers after an arrival (R100): the group holds the result, every other one is as before. -/
theorem writeGroup_v (p : Pending) (r : Regs) :
    (∀ j < p.count, ∀ n, p.OwnV j n → mapGet (p.writeGroup r).v n = (mapGet r.v n).map (p.onto j))
      ∧ ∀ n, (∀ j < p.count, ¬ p.OwnV j n) → mapGet (p.writeGroup r).v n = mapGet r.v n :=
  foldl_range_places (get := fun r n => mapGet r.v n) (fun r j n => (writeReg_v p r j n).1)
    (fun r j n => (writeReg_v p r j n).2)
    (fun i j n ⟨d, hd, hi⟩ ⟨e, he, hj⟩ => by cases hd.symm.trans he; omega) r p.count

/-- The S registers after an arrival. -/
theorem writeGroup_s (p : Pending) (r : Regs) :
    (∀ j < p.count, ∀ n, p.OwnS j n → (p.writeGroup r).s[n]? = r.s[n]?.map fun _ => (p.vals.getD j Lanes.zero).first)
      ∧ ∀ n, (∀ j < p.count, ¬ p.OwnS j n) → (p.writeGroup r).s[n]? = r.s[n]? :=
  foldl_range_places (get := fun r n => r.s[n]?) (f := fun j _ => (p.vals.getD j Lanes.zero).first)
    (fun r j n => (writeReg_s p r j n).1) (fun r j n => (writeReg_s p r j n).2)
    (fun i j n ⟨d, hd, hi⟩ ⟨e, he, hj⟩ => by cases hd.symm.trans he; omega) r p.count

/-- Lanes merged under a mask, thread by thread. -/
theorem merge_lane (l new : Lanes) (mask : Mask) {t : Nat} (ht : t < 64) :
    (l.merge mask new).val.getD t 0 = (if bit mask t then new.val.getD t 0 else l.val.getD t 0)
      ∧ bit (l.merge mask new).poison t = if bit mask t then bit new.poison t else bit l.poison t := by
  unfold Lanes.merge bit
  refine ⟨by simp [List.getD_eq_getElem?_getD, ht], ?_⟩
  simp only [BitVec.getLsbD_or, BitVec.getLsbD_and, BitVec.getLsbD_not, ht, decide_true, Bool.true_and]
  cases mask.getLsbD t <;> simp

/-! ### The cache entries -/

/-- A cache entry that a result names written, where it names one (R95). -/
def Pending.putAt (p : Pending) (free : Lanes) (place : Option Nat) (c : List Entry) : List Entry :=
  match place with
  | some k => c.set k ((c.getD k { valid := false, lanes := Lanes.zero }).receive free p.mask (p.vals.getD 0 Lanes.zero))
  | none => c

/-- The cache entry that a result has as its destination. -/
def Pending.entry (p : Pending) : Option Nat := match p.dst with | .c n => some n.toNat | _ => none

theorem entry_of_dst {p : Pending} {d : BitVec 3} (h : p.dst = .c d) : p.entry = some d.toNat := by
  unfold Pending.entry
  rw [h]

theorem entry_ne {p : Pending} {n : Nat} (h : ∀ d, p.dst = .c d → n ≠ d.toNat) : p.entry ≠ some n := by
  unfold Pending.entry
  split
  · next d hd => exact fun e => h d hd (Option.some.inj e).symm
  · nofun

theorem receiveC_whole (p : Pending) (c : List Entry) (free : Nat → Lanes) :
    p.receiveC c (fun _ => true) free = p.putAt (free 1) p.keep (p.putAt (free 0) p.entry c) := by
  unfold Pending.receiveC Pending.entry Pending.putAt
  cases p.dst <;> cases p.keep <;> rfl

section
variable {p : Pending} {free : Lanes} {place : Option Nat} {es : List Entry} {n : Nat}

@[simp] theorem putAt_length : (p.putAt free place es).length = es.length := by
  unfold Pending.putAt
  split
  · exact List.length_set
  · rfl

theorem putAt_ne (h : place ≠ some n) : (p.putAt free place es)[n]? = es[n]? := by
  unfold Pending.putAt
  split
  · exact List.getElem?_set_ne fun e => h (congrArg some e)
  · rfl

/-- An entry that is written holds the result, and so does one that held it before. -/
theorem putAt_holds (h : place = some n ∨ ∀ e, es[n]? = some e → EntryHolds e p.mask (p.vals.getD 0 Lanes.zero)) {e : Entry}
    (he : (p.putAt free place es)[n]? = some e) : EntryHolds e p.mask (p.vals.getD 0 Lanes.zero) := by
  by_cases hp : place = some n
  · subst hp
    obtain ⟨-, -, rfl⟩ := Option.map_eq_some_iff.mp (List.getElem?_set_self'.symm.trans he)
    exact merge_holds _ _ _
  · exact (h.resolve_left hp) e (putAt_ne hp ▸ he)

end

/-- The cache entries after a result is written to the one it has as its destination and to its KEEP entry (R95). -/
theorem putAt_entries {p : Pending} {es after : List Entry} {free free' : Lanes}
    (h : after = p.putAt free' p.keep (p.putAt free p.entry es)) :
    (∀ d, p.dst = .c d → ∀ e, after[d.toNat]? = some e → EntryHolds e p.mask (p.vals.getD 0 Lanes.zero))
      ∧ (∀ k, p.keep = some k → ∀ e, after[k]? = some e → EntryHolds e p.mask (p.vals.getD 0 Lanes.zero))
      ∧ after.length = es.length
      ∧ ∀ n, (∀ d, p.dst = .c d → n ≠ d.toNat) → p.keep ≠ some n → after[n]? = es[n]? := by
  subst h
  refine ⟨fun d hd e he => putAt_holds (.inr fun _ => putAt_holds (.inl (entry_of_dst hd))) he,
    fun k hk e he => putAt_holds (.inl hk) he, by simp, fun n hd hk => ?_⟩
  rw [putAt_ne hk, putAt_ne (entry_ne hd)]

/-! ### The registers of a warp -/

/-- Registers after a result has arrived of which the program has written no register (R100). -/
theorem arrive_whole {p : Pending} (h : p.fx = .none) (r : Regs) (free : Nat → Lanes) :
    ∃ home, r.arrive p (fun _ => true) free = { r with
      v := (p.writeGroup r).v, s := (p.writeGroup r).s
      c := if p.outer then r.c else p.receiveC r.c (fun _ => true) free, home := home } := by
  have hl : (List.range p.count).filter (fun _ => true) = List.range p.count := by simp
  have hr : r.receive p (fun _ => true) free = { r with
      v := (p.writeGroup r).v, s := (p.writeGroup r).s
      c := if p.outer then r.c else p.receiveC r.c (fun _ => true) free, home := p.receiveHome r.home (fun _ => true) } := by
    unfold Regs.receive
    rw [hl]
    show { p.writeGroup r with
      c := if p.outer then (p.writeGroup r).c else p.receiveC (p.writeGroup r).c (fun _ => true) free
      home := p.receiveHome (p.writeGroup r).home (fun _ => true) : Regs } = _
    rw [writeGroup_only]
  unfold Regs.arrive
  rw [h, hr]
  cases p.latch with
  | none => exact ⟨_, rfl⟩
  | some k => exact ⟨_, rfl⟩

end Sys2Proof.Machine
end

section
/-! The state that an arrival leaves (R100, R124, R126, R361). -/

namespace Sys2Proof.Machine

open Sys2Proof

/-! ### Save records -/

/-- One state follows another by bytes of save areas written. -/
def SavedOnly (s t : State) : Prop := t = { s with
  contexts := t.contexts, mem := t.mem, keyTag := t.keyTag, records := t.records }

theorem savedOnly_trans {s t u : State} (h : SavedOnly s t) (g : SavedOnly t u) : SavedOnly s u := by
  unfold SavedOnly at h g ⊢
  rw [g, h]

theorem savedOnly_saveAt (s : State) (a c o : Nat) (bs : List Byte) : SavedOnly s (s.saveAt a c o bs) := by
  unfold State.saveAt
  split
  · rfl
  · next pa slot _ =>
    refine List.foldlRecOn (motive := SavedOnly s) _ _ rfl fun t ht i _ => savedOnly_trans ht ?_
    obtain ⟨m, k, he, -⟩ := putByte_mem t 0 c (pa + o + i) slot (bs.getD i 0)
    show SavedOnly t (t.putByte 0 (.mem c (pa + o + i) slot) (bs.getD i 0))
    rw [he]
    rfl

theorem savedOnly_saveBytes (s : State) (x : Warp) (o : Nat) (bs : List Byte) : SavedOnly s (s.saveBytes x o bs) :=
  savedOnly_trans (savedOnly_saveAt s (s.asidOf x) x.col (warpRecord x.core x.wcore + o) bs) rfl

theorem savedOnly_saveEntries (s : State) (x : Warp) (c : List Entry) : SavedOnly s (s.saveEntries x c) :=
  savedOnly_trans (savedOnly_saveBytes _ _ _ _) (savedOnly_saveBytes _ _ _ _)

/-! ### An arrival -/

/-- A result of a committed run that has come and that no other write contests, while no run is in flight. -/
structure Arrives (s : State) (w : Nat) (x : Warp) (p : Pending) : Prop where
  warp : s.warp w = some x
  found : (x.pend.find? fun q => q.id == p.id) = some p
  ready : p.ready = true
  coming : p.here = false
  alone : p.contested = []
  plain : p.fx = .none
  committed : p.ofRun = false
  idle : x.run = none
  opened : ∀ q ∈ x.pend, q.closed = false

/-- The results pending of a warp, one of them with its data there. -/
def Warp.withHere (x : Warp) (p : Pending) : List Pending :=
  x.pend.map fun q => if q.id = p.id then { p with here := true } else q

/-- A warp with a result written, before the windows close. -/
def Warp.withArrival (x : Warp) (p : Pending) (free : Nat → Lanes) : Warp :=
  { x with
    regs := x.regs.arrive p (fun _ => true) free, saved := x.saved.map fun v => v.arrive p free
    pend := x.withHere p }

/-- A warp after a result of it has arrived (R100). -/
def Warp.afterArrival (x : Warp) (p : Pending) (free : Nat → Lanes) : Warp :=
  { x.withArrival p free with pend := (x.withHere p).filter fun q => !q.closed }

/-- The cache entries that a trap saved, saved anew where an arrival has changed them (R361). -/
def State.savesArrival (s : State) (y : Warp) (p : Pending) : State :=
  match y.saved, p.outer with
  | some v, true => s.saveEntries y v.c
  | _, _ => s

section
variable {s : State} {w : Nat} {x : Warp} {p : Pending} (h : Arrives s w x p)
include h

/-- The window that closes is the arriving result's, which nothing has contested. -/
theorem arrives_closing : ∀ q ∈ x.withHere p, q.closed = true → q.contested = [] := by
  intro q hq hc
  obtain ⟨q', hq', rfl⟩ := List.mem_map.mp hq
  split at hc
  · next he => rw [if_pos he]; exact h.alone
  · rw [h.opened q' hq'] at hc
    cases hc

/-- As the windows close that are over, no register is written again. -/
theorem withArrival_closes (pick : Nat → Nat → Bool) (free free' : Nat → Lanes) :
    (x.withArrival p free).closeWindows pick free' = x.afterArrival p free := by
  have hr (f : Run → Run) : (x.withArrival p free).run.map f = x.run := by
    rw [h.idle, show (x.withArrival p free).run = none from h.idle]
    rfl
  have hp : (x.withArrival p free).pend = x.withHere p := rfl
  rw [closeWindows_eq, hr, hp, writtenAgain_none (arrives_closing h)]
  rfl

/-- The warp is put in its place, and, where a trap saved its cache entries, they are saved anew. -/
theorem arrival_cases : ∃ t, s.arrival w p.id = t.drewFresh
    ∧ (t = s.setWarp w (x.afterArrival p (s.freeLanes x)) ∨ p.outer = true ∧ x.saved.isSome = true
      ∧ ∃ z c, t = (s.setWarp w (x.afterArrival p (s.freeLanes x))).saveEntries z c) := by
  have hp : s.refreshed w x p = p := by
    unfold State.refreshed
    rw [h.plain]
  have hk : (fun j => !p.contested.contains j) = fun _ => true := by
    rw [h.alone]
    rfl
  have hr (f : Run → Run) : x.run.map f = x.run := by
    rw [h.idle]
    rfl
  unfold State.arrival
  rw [h.warp]
  dsimp only
  rw [h.found]
  dsimp only
  rw [if_neg (by simp [h.ready, h.coming]), hp, hr, if_neg (by simp [h.committed]), hk]
  split
  · next k negv hfx _ => rw [h.plain] at hfx; cases hfx
  · change ∃ t : State, ((s.setWarp w ((x.withArrival p (s.freeLanes x)).closeWindows s.pickAt (s.freeLanes x))).savesArrival
      (x.withArrival p (s.freeLanes x)) p).drewFresh = t.drewFresh ∧ _
    rw [withArrival_closes h]
    refine ⟨_, rfl, ?_⟩
    unfold State.savesArrival
    split
    · next v hv ho =>
      have hs : x.saved.isSome = true := by
        rw [← Option.isSome_map, show x.saved.map _ = _ from hv]
        rfl
      exact .inr ⟨ho, hs, _, _, rfl⟩
    · exact .inl rfl

/-- Of the state, an arrival changes its warp, and column memory where it saves cache entries anew. -/
theorem arrival_frame :
    (s.arrival w p.id).warp w = some (x.afterArrival p (s.freeLanes x))
      ∧ (∀ v, v ≠ w → (s.arrival w p.id).warp v = s.warp v)
      ∧ (s.arrival w p.id).spad = s.spad ∧ (s.arrival w p.id).host = s.host ∧ (s.arrival w p.id).peer = s.peer
      ∧ (p.outer = false ∨ x.saved = none → (s.arrival w p.id).mem = s.mem) := by
  obtain ⟨t, ht, hcases⟩ := arrival_cases h
  have hso : SavedOnly (s.setWarp w (x.afterArrival p (s.freeLanes x))) t := by
    rcases hcases with rfl | ⟨-, -, z, c, rfl⟩
    · rfl
    · exact savedOnly_saveEntries _ _ _
  have hwarp (v : Nat) : t.warp v = (s.setWarp w (x.afterArrival p (s.freeLanes x))).warp v := by
    rw [hso]
    rfl
  rw [ht]
  refine ⟨(hwarp w).trans (State.warp_setWarp _ _ _), fun v hv => (hwarp v).trans (State.warp_setWarp_ne _ _ hv),
    by rw [State.drewFresh_spad, hso]; rfl, by rw [State.drewFresh_host, hso]; rfl,
    by rw [State.drewFresh_peer, hso]; rfl, fun hno => ?_⟩
  rcases hcases with rfl | ⟨ho, hs, -⟩
  · rfl
  · rcases hno with hno | hno
    · rw [hno] at ho; cases ho
    · rw [hno] at hs; cases hs

end

/-- The cache entries that a result is written to: a result that was pending at a trap is written to those that the trap
saved (R124, R126). -/
def Warp.entriesFor (x : Warp) (p : Pending) : List Entry :=
  if p.outer then (x.saved.map Saved.c).getD [] else x.regs.c

theorem afterArrival_saved (x : Warp) (p : Pending) (free : Nat → Lanes) :
    (x.afterArrival p free).saved = if p.outer then x.saved.map fun v => { v with c := p.receiveC v.c (fun _ => true) free }
      else x.saved := by
  show (x.saved.map fun v => v.arrive p free) = _
  cases ho : p.outer <;> simp [Saved.arrive, ho]

section
variable {p : Pending} (h : p.fx = .none) (x : Warp) (free : Nat → Lanes)
include h

theorem afterArrival_regs : ∃ home, (x.afterArrival p free).regs = { x.regs with
    v := (p.writeGroup x.regs).v, s := (p.writeGroup x.regs).s
    c := if p.outer then x.regs.c else p.receiveC x.regs.c (fun _ => true) free, home := home } :=
  arrive_whole h x.regs free

theorem entriesFor_afterArrival : (x.afterArrival p free).entriesFor p
    = p.putAt (free 1) p.keep (p.putAt (free 0) p.entry (x.entriesFor p)) := by
  obtain ⟨home, hregs⟩ := afterArrival_regs h x free
  unfold Warp.entriesFor
  rw [← receiveC_whole, afterArrival_saved, hregs]
  cases ho : p.outer with
  | false => rfl
  | true =>
    cases x.saved with
    | none => exact (List.eq_nil_of_length_eq_zero (by simp [receiveC_whole])).symm
    | some v => rfl

/-- Where a result was pending at a trap, the warp's own cache entries stay, and where it was not, the saved ones do. -/
theorem afterArrival_otherEntries :
    if p.outer then (x.afterArrival p free).regs.c = x.regs.c
        ∧ (x.afterArrival p free).saved = x.saved.map fun v => { v with c := (x.afterArrival p free).entriesFor p }
      else (x.afterArrival p free).saved = x.saved := by
  obtain ⟨home, hregs⟩ := afterArrival_regs h x free
  rw [entriesFor_afterArrival h, ← receiveC_whole, afterArrival_saved, hregs]
  cases ho : p.outer with
  | false => rfl
  | true =>
    refine ⟨rfl, ?_⟩
    cases hs : x.saved <;> simp [Warp.entriesFor, ho, hs]

end

/-- Settles O16: the warp is put in its place with the group, the cache entries and the window of the result, and beside it
only a save record changes. -/
theorem arrivalWrites : Obligations.ArrivalWrites := by
  intro s w x p hw hfound hready hcoming halone hplain hrun hidle hopen entries
  obtain ⟨hwarp, hothers, hspad, hhost, hpeer, hmem⟩ :=
    arrival_frame ⟨hw, hfound, hready, hcoming, halone, hplain, hrun, hidle, hopen⟩
  have hsaved := afterArrival_otherEntries hplain x (s.freeLanes x)
  obtain ⟨hdst, hkeep, hlen, helse⟩ := putAt_entries (entriesFor_afterArrival hplain x (s.freeLanes x))
  obtain ⟨home, hregs⟩ := afterArrival_regs hplain x (s.freeLanes x)
  have hyv : (x.afterArrival p (s.freeLanes x)).regs.v = (p.writeGroup x.regs).v := by rw [hregs]
  have hys : (x.afterArrival p (s.freeLanes x)).regs.s = (p.writeGroup x.regs).s := by rw [hregs]
  obtain ⟨hv, hvelse⟩ := writeGroup_v p x.regs
  obtain ⟨hs, hselse⟩ := writeGroup_s p x.regs
  refine ⟨_, rfl, x.afterArrival p (s.freeLanes x), hwarp, hspad, hhost, hpeer, hmem, rfl, hsaved, hothers,
    fun d hd j hj hin => ?_, fun d hd j hj g hg => ⟨p.onto j g, ?_, rfl, fun t => merge_lane g.lanes _ p.mask⟩,
    fun n hn => ?_, fun d hd _ => hdst d hd, hkeep, hlen, helse, fun n hn => ?_, by rw [hregs]⟩
  · rw [hys, List.getD_eq_getElem?_getD, hs j hj _ ⟨d, hd, rfl⟩, List.getElem?_eq_getElem hin]
    rfl
  · rw [hyv, hv j hj _ ⟨d, hd, rfl⟩, hg]
    rfl
  · rw [hyv]
    exact hvelse n fun j hj ⟨d, hd, he⟩ => hn d hd j hj he
  · rw [hys]
    exact hselse n fun j hj ⟨d, hd, he⟩ => hn d hd j hj he

end Sys2Proof.Machine
end

section
/-! The management messages (R145, R222, R376, R377, R381, R401) and attestation (R380). -/

namespace Sys2Proof.Machine
variable (s : State)

/-- READ_METERS of columns that there are, 16 at most (R377). -/
theorem exec_readMeters_of_columns (asid col n : Nat) (hpos : 1 ≤ n) (hmax : n ≤ 16) (hcol : col + n ≤ 128) :
    exec (.readMeters asid col n) s = .next (s.send (.words ((List.range n).flatMap fun i => s.sample asid (col + i)))) :=
  congrArg Host.Outcome.next (if_neg (by omega))

/-- A context whose closed block has been collected (R377). -/
def Context.collected (c : Context) : Context := { c with closed := false, meters := [] }

/-- COLLECT of a closed block gives it and frees it (R377). -/
theorem exec_collect_of_closed (asid : Nat) (h : (s.ctx asid).closed = true) :
    exec (.collect asid) s = .next
      ((s.modCtx asid Context.collected).send (.words ((List.range 128).flatMap (s.sample asid)))) :=
  congrArg Host.Outcome.next (if_neg (by simp [h]))

/-- COLLECT of a block that is not closed (log 102). -/
theorem exec_collect_of_not_closed (asid : Nat) (h : (s.ctx asid).closed = false) :
    exec (.collect asid) s = .next (s.send (.status 2)) :=
  congrArg Host.Outcome.next (if_pos (by simp [h]))

/-- What COLLECT frees is the block of the one context. -/
theorem collect_closed_answers (asid : Nat) (h : (s.ctx asid).closed = true) : Answers (.collect asid) s fun t =>
    t.msgs = s.msgs ++ [.words ((List.range 128).flatMap (s.sample asid))]
      ∧ t.ctx asid = (s.ctx asid).collected ∧ OtherContexts s t asid ∧ SameBytes s t ∧ SameWork s t :=
  ⟨_, exec_collect_of_closed s asid h, rfl, State.ctx_modCtx s asid Context.collected,
    fun _ ha => State.ctx_modCtx_ne s Context.collected ha, ⟨rfl, rfl, rfl, rfl⟩, ⟨rfl, rfl, rfl, rfl⟩⟩

/-- SET_BUDGET of a tower that there is sets its octant budget (R145). -/
theorem exec_setBudget_of_tower (tower v : Nat) (h : tower < 4) : exec (.setBudget tower v) s
    = .next (({ s with dev := { s.dev with octbud := s.dev.octbud.set tower v } } : State).send (.status 0)) :=
  congrArg Host.Outcome.next (if_neg (by omega))

/-- SET_THROTTLE of a tower and a level that there are sets the level (R222). -/
theorem exec_setThrottle_of_level (tower v : Nat) (h : tower < 4) (hv : v ≤ 7) : exec (.setThrottle tower v) s
    = .next (({ s with dev := { s.dev with mxthr := s.dev.mxthr.set tower v } } : State).send (.status 0)) :=
  congrArg Host.Outcome.next (if_neg (by omega))

/-- The entries of a log that READ_LOG gives: at most 64, from a place on round the log's 64 (R401). -/
def logEntries (m : AMap (BitVec 128)) (first n : Nat) : List Nat :=
  (List.range (min n 64)).map fun i => (mapGetD m ((first + i) % 64) 0).toNat

/-- READ_LOG of a column that there is (R377, R383, R401). -/
theorem exec_readLog_of_column (col first n : Nat) (h : col < 128) : exec (.readLog col first n) s = .next (s.send (.words
    ([(s.column col).clcnt.toNat, (s.column col).tlcnt.toNat] ++ logEntries (s.column col).clog first n
      ++ logEntries (s.column col).tlog first n ++ s.dev.thermLog))) :=
  congrArg Host.Outcome.next (if_neg (by omega))

/-- A device is attested to past its first boot stage, but in the recovery state (R378, R379). -/
theorem attests_iff : s.attests = true ↔ s.dev.bootst ≠ 0 ∧ s.dev.bootst ≠ 0xF := by simp [State.attests]

/-- The transcript hash of an attestation with a nonce (R380). -/
def State.transcript (s : State) (nonce : Nat) : Nat := Config.digest 6 (2 ^ 512 * s.measurements + nonce)

/-- What both identity keys sign (R380). -/
def State.signedText (s : State) (nonce : Nat) : Nat := 2 ^ 512 * s.dev.identity + s.transcript nonce

/-- SPDM_REQUEST is answered with both signatures of one text (R380). -/
theorem exec_spdmRequest_of_attests (nonce : Nat) (h : s.attests = true) : exec (.spdmRequest nonce) s
    = .next (({ s with dev := { s.dev with spdm := s.dev.spdm + 1 } } : State).send (.signed (s.transcript nonce)
      (Config.digest 7 (s.signedText nonce)) (Config.digest 8 (s.signedText nonce)))) :=
  congrArg Host.Outcome.next (if_neg (by simp [h]))

/-- Settles O54: each message that passes its checks is one equation, and GET_CONTEXTS and BOOT_STATUS check nothing. -/
theorem messagesAnswered : Obligations.MessagesAnswered := by
  intro s told meters ring
  refine ⟨?getContexts, exec_readMeters_of_columns s, collect_closed_answers s, exec_collect_of_not_closed s,
    exec_setBudget_of_tower s, exec_setThrottle_of_level s, exec_readLog_of_column s, ?bootStatus,
    fun nonce hstage hok => exec_spdmRequest_of_attests s nonce ((attests_iff s).mpr ⟨hstage, hok⟩)⟩
  case getContexts =>
    rintro _ _ rfl rfl
    rfl
  case bootStatus => rfl

end Sys2Proof.Machine
end

section
/-! The short-latency floating-point instructions (R152, R157-R159, R162, R184-R188): each consumes its operands, computes the
rounded result of every element, and writes it before the next instruction. -/

namespace Sys2Proof.Machine

open Sys2Proof

/-- An instruction that consumes its operands and writes its result completes with the result received: consuming them leaves
every byte of memory and all other work as it is. -/
theorem WritesResult.holds {k : Now} (h : WritesResult k) : k.Holds := by
  refine now_holds false h.exec (fun c => ?_) fun _ _ => rfl
  obtain ⟨m, hm⟩ := h.base c
  rw [hm]
  exact ⟨rfl, issued_consume c.s c.x _ c.w false, rfl⟩

/-- Settles O35: every row's body consumes its operands and writes the row's rounded result. -/
theorem floatingCompletes : Obligations.FloatingCompletes := fun k hk =>
  (table_writesResult k (List.mem_append_right _ hk)).holds

end Sys2Proof.Machine
end

section
/-! The vector operations on integers and bits (R174-R176, R179, R180, R183): each row's body consumes its operands, computes
every element of the result from what they hold, and writes it before the next instruction. -/

namespace Sys2Proof.Machine

open Sys2Proof

section
variable {instr : Fields → Instr}

/-- ISAD, DP4 and DP2, from the term whose total their body adds to C (R176). -/
theorem totals_holds {op : Opcode} {g : Int → Int → Int}
    (h : ∀ f s, exec (instr f) s = s.issue op f false noPre fun c => c.intSum g) : (totals instr op g).Holds :=
  computes_holds h fun _ _ => rfl

/-- POPC and CLZ, from the count their body takes of A (R180). -/
theorem counts_holds {op : Opcode} {g : Nat → Nat → Nat}
    (h : ∀ f s, exec (instr f) s = s.issue op f false noPre fun c => c.countBits g) : (counts instr op g).Holds :=
  computes_holds h fun _ _ => rfl

theorem packs_holds (h : ∀ f s, exec (instr f) s = s.issue .pack f false noPre bodyPack) : (packs instr).Holds :=
  computes_holds h fun _ _ => rfl

theorem unpacks_holds (h : ∀ f s, exec (instr f) s = s.issue .unpk f false noPre bodyUnpk) : (unpacks instr).Holds :=
  computes_holds h fun _ _ => rfl

end

/-- Settles O29: every row's body consumes its operands and writes the exact results, narrowed once. -/
theorem arithmeticCompletes : Obligations.ArithmeticCompletes := fun k hk =>
  (table_writesResult k (List.mem_append_left _ (List.mem_append_left _ hk))).holds

/-- Settles O30: LEA computes its 64-bit sum, and IADDX its sum and carry, and each writes a pair of registers. -/
theorem addressSumsComplete : Obligations.AddressSumsComplete := by
  simp only [Obligations.AddressSumsComplete, addressTable, List.forall_mem_cons]
  exact ⟨computes_holds (body := bodyLea) (fun _ _ => rfl) fun _ _ => rfl,
    computes_holds (body := bodyIaddx) (fun _ _ => rfl) fun _ _ => rfl, List.forall_mem_nil _⟩

/-- Settles O31: ISAD adds up absolute differences, DP4 and DP2 products. -/
theorem totalsComplete : Obligations.TotalsComplete := by
  simp only [Obligations.TotalsComplete, totalTable, List.forall_mem_cons]
  exact ⟨totals_holds fun _ _ => rfl, totals_holds fun _ _ => rfl, totals_holds fun _ _ => rfl, List.forall_mem_nil _⟩

/-- Settles O32: every row's body consumes its operands and writes the bitwise result, the shift or the rotation. -/
theorem logicCompletes : Obligations.LogicCompletes := fun k hk =>
  (table_writesResult k (List.mem_append_left _ (List.mem_append_right _ hk))).holds

/-- Settles O33: POPC and CLZ count in either form, BFE extracts its field and BFI inserts it. -/
theorem bitCountsComplete : Obligations.BitCountsComplete := by
  simp only [Obligations.BitCountsComplete, countTable, List.forall_mem_cons]
  exact ⟨counts_holds fun _ _ => rfl, counts_holds fun _ _ => rfl, counts_holds fun _ _ => rfl,
    counts_holds fun _ _ => rfl, computes_holds (body := bodyBfe) (fun _ _ => rfl) fun _ _ => rfl,
    computes_holds (body := bodyBfi) (fun _ _ => rfl) fun _ _ => rfl, List.forall_mem_nil _⟩

/-- Settles O34: PACK narrows and UNPK extends in either form, and PRMT permutes. -/
theorem packingCompletes : Obligations.PackingCompletes := by
  simp only [Obligations.PackingCompletes, packTable, List.forall_mem_cons]
  exact ⟨packs_holds fun _ _ => rfl, packs_holds fun _ _ => rfl, unpacks_holds fun _ _ => rfl,
    unpacks_holds fun _ _ => rfl, computes_holds (body := bodyPrmt) (fun _ _ => rfl) fun _ _ => rfl,
    List.forall_mem_nil _⟩

end Sys2Proof.Machine
end

section
/-! The issue of the matrix commands (R211-R214, R228-R234): with the whole warp active, a command whose descriptors pass R214
is queued in its run. -/

namespace Sys2Proof.Machine

open Sys2Proof

/-- With all threads active and none marked a matrix instruction goes on (R87). -/
theorem wholeWarp_whole {c : Cx} {g : Cx → Step} (h : wholeWarp c) : c.wholeWarp g = g c := by
  obtain ⟨hmark, hnc⟩ := h
  exact if_neg fun hn => hn.elim (· hmark) fun ha => by rw [hnc] at ha; cases ha

/-- Descriptors that meet no code and lie at their places let the instruction go on (R214). -/
theorem descriptors_pass {c : Cx} {ds : List (Desc × List Nat × Layout)} {g : Cx → Step} (h : DescriptorsPass c ds) :
    c.descriptors ds g = g c := by
  obtain ⟨hcode, hplace⟩ := h
  unfold Cx.descriptors
  rw [hcode, hplace]

/-- MMA and MMAT: past the whole warp and the operands' poison, the descriptors are checked and the command queued. -/
theorem multiplies_holds {instr : Fields → Instr} {op : Opcode} {kind : MatOp} {pre : Cx → Bool}
    (hexec : ∀ f s, exec (instr f) s = s.issue op f false pre fun c => c.multiply kind) :
    (multiplies instr op kind pre).Holds :=
  commands_holds hexec (fun c => queue_issued c _) fun c hw =>
    ⟨_, (show c.multiply kind = _ by unfold Cx.multiply; exact wholeWarp_whole hw), fun hd => descriptors_pass hd⟩

/-- MLDZ and MST. -/
theorem movesTile_holds {instr : Fields → Instr} {op : Opcode} {kind : MatOp}
    (hexec : ∀ f s, exec (instr f) s = s.issue op f false preTile fun c => c.tileMove kind) :
    (movesTile instr op kind).Holds :=
  commands_holds hexec (fun c => queue_issued c _) fun c hw =>
    ⟨_, (show c.tileMove kind = _ by unfold Cx.tileMove; exact wholeWarp_whole hw), fun hd => descriptors_pass hd⟩

/-- MFENCE queues the register that is to receive its batch (R232). -/
theorem mfence_holds : (commands .mfence .mfence (fun _ => []) 1
    (fun c => match c.f.d with | .s d => c.queue (.mfence d.toNat) | _ => c) (when_ := wholeWarp)).Holds := by
  refine commands_holds (body := bodyMfence) (fun _ _ => rfl) (fun c => ?_)
    fun c hw => ⟨_, wholeWarp_whole hw, fun _ => ?_⟩
  · cases c.f.d <;> exact ⟨rfl, issued_same _ _ _⟩
  · cases c.f.d <;> rfl

/-- MSTAT without a guarded thread does nothing. -/
theorem mstat_unguarded_holds :
    Direct.Holds { instr := .mstat, op := .mstat, ok := fun c => wholeWarp c ∧ c.grd = 0, after := id } :=
  direct_holds (body := bodyMstat) false (fun _ _ => rfl) (fun _ _ => ⟨rfl, issued_same _ _ _⟩)
    fun _ ⟨hw, hg⟩ => (wholeWarp_whole hw).trans (if_pos hg)

/-- Settles O45: each body asks for the whole warp, then for its operands' poison and its descriptors, and queues the command. -/
theorem matrixCommandsComplete : Obligations.MatrixCommandsComplete := by
  simp only [Obligations.MatrixCommandsComplete, matrixTable, List.forall_mem_cons]
  exact ⟨multiplies_holds fun _ _ => rfl, multiplies_holds fun _ _ => rfl,
    commands_holds (body := bodyMzero) (fun _ _ => rfl) (fun c => queue_issued c _)
      fun _ hw => ⟨_, wholeWarp_whole hw, fun _ => rfl⟩,
    movesTile_holds fun _ _ => rfl, movesTile_holds fun _ _ => rfl, mfence_holds, mstat_unguarded_holds,
    List.forall_mem_nil _⟩

end Sys2Proof.Machine
end

section
/-! Host lines that columns hold (R252, R371): which bytes a write-back puts into host memory, and what the caches' bookkeeping
leaves of the lines held and of the bytes the machine has for them. -/

namespace Sys2Proof.Machine

open Sys2Proof

/-! ### Dirty bytes written back -/

/-- A dirty byte of a line is what host memory holds once the line's bytes are written. -/
theorem dirtyFold_dirty (h : HostLine) (line : Nat) {i : Nat} (hb : h.dirty.testBit i = true) :
    ∀ (l : List Nat) (m : List Host.Cell), Memory.wf m = true → i ∈ l →
      cellGet (dirtyFold h line m l) (64 * line + i) = h.bytes.getD i 0
  | j :: l, m, hw, hi => by
    have hstep : dirtyFold h line m (j :: l)
        = dirtyFold h line (if h.dirty.testBit j then cellSet m (64 * line + j) (h.bytes.getD j 0) else m) l := rfl
    rw [hstep]
    by_cases hm : i ∈ l
    · refine dirtyFold_dirty h line hb l _ ?_ hm
      split
      · exact wf_cellSet hw _ _
      · exact hw
    · obtain rfl := (List.mem_cons.mp hi).resolve_right hm
      rw [if_pos hb]
      rcases (dirtyFold_spec h line l _ (wf_cellSet hw (64 * line + i) (h.bytes.getD i 0))).2 (64 * line + i) with
        he | ⟨k, hk, -, hki, -⟩
      · exact he.trans (cellGet_cellSet_same hw _ _)
      · exact absurd (by rwa [show i = k by omega]) hm

theorem cleanHost_dirty {s : State} (hw : Memory.wf s.host = true) (k : Nat) {h : HostLine} {i : Nat} (hi : i < 64)
    (hb : h.dirty.testBit i = true) : cellGet (s.cleanHost k h).host (64 * (k % 2 ^ 47) + i) = h.bytes.getD i 0 := by
  obtain ⟨m, p, c, he, hm⟩ := cleanHost_spec s k h
  have hd : h.dirty ≠ 0 := fun e => by rw [e, Nat.zero_testBit] at hb; cases hb
  unfold State.cleanHost at he ⊢
  rw [if_neg hd]
  simp only []
  rw [dirtyFold_state]
  have half (t : State) (n d : Nat) : (if d = 0 then t
      else if h.psn.testBit n = true then { t with hostPsn := setIns t.hostPsn (2 * (k % 2 ^ 47) + n) }
      else if d = 2 ^ 32 - 1 then { t with hostPsn := setDel t.hostPsn (2 * (k % 2 ^ 47) + n) } else t).host = t.host := by
    split_ifs <;> rfl
  refine Eq.trans (congrArg (cellGet · _) ((half _ 1 _).trans (half _ 0 _))) ?_
  exact dirtyFold_dirty h _ hb _ _ hw (List.mem_range.mpr hi)

/-- The dirty bytes of some lines written back: host memory is as it was but for those of them. -/
theorem cleanAll_spec {s : State} (hw : Memory.wf s.host = true) (l : List (Nat × HostLine)) :
    Memory.wf (l.foldl (fun s kv => s.cleanHost kv.1 kv.2) s).host = true ∧ ∀ {line i : Nat}, i < 64 →
      cellGet (l.foldl (fun s kv => s.cleanHost kv.1 kv.2) s).host (64 * line + i) = cellGet s.host (64 * line + i)
      ∨ ∃ kv ∈ l, kv.1 % 2 ^ 47 = line ∧ kv.2.dirty.testBit i = true
        ∧ cellGet (l.foldl (fun s kv => s.cleanHost kv.1 kv.2) s).host (64 * line + i) = kv.2.bytes.getD i 0 := by
  obtain ⟨m, p, c, hs, hm⟩ := cleanFold_spec (fun _ => true) l s
  simp only [if_true] at hs
  rw [hs]
  refine ⟨(hm hw).1, fun {line i} hi => ?_⟩
  have h := (hm hw).2 (64 * line + i)
  rwa [show (64 * line + i) / 64 = line by omega, show (64 * line + i) % 64 = i by omega] at h

/-- A byte that is dirty in one of the lines, and the same in all in which it is dirty, is what host memory then holds. -/
theorem cleanAll_written {line i : Nat} {v : Byte} (hi : i < 64) : ∀ (l : List (Nat × HostLine)) {s : State},
    Memory.wf s.host = true → (∃ q ∈ l, q.1 % 2 ^ 47 = line ∧ q.2.dirty.testBit i = true) →
    (∀ q ∈ l, q.1 % 2 ^ 47 = line → q.2.dirty.testBit i = true → q.2.bytes.getD i 0 = v) →
    cellGet (l.foldl (fun s kv => s.cleanHost kv.1 kv.2) s).host (64 * line + i) = v
  | [], _, _, ⟨_, hq, _⟩, _ => by cases hq
  | (k, h) :: l, s, hw, hex, hv => by
    have hw' : Memory.wf (s.cleanHost k h).host = true := (cleanAll_spec hw [(k, h)]).1
    have hv' := fun q hq => hv q (List.mem_cons_of_mem _ hq)
    by_cases htail : ∃ q ∈ l, q.1 % 2 ^ 47 = line ∧ q.2.dirty.testBit i = true
    · exact cleanAll_written hi l hw' htail hv'
    · obtain ⟨q, hq, hk, hb⟩ := hex
      rcases List.mem_cons.mp hq with rfl | hq
      · rcases (cleanAll_spec hw' l).2 (line := line) hi with he | ⟨q, hq, hqk, hqb, hqv⟩
        · refine he.trans ?_
          rw [← hk, cleanHost_dirty hw k hi hb]
          exact hv _ List.mem_cons_self hk hb
        · exact hqv.trans (hv' q hq hqk hqb)
      · exact absurd ⟨q, hq, hk, hb⟩ htail

theorem cleanLines_host (s : State) (hit : Nat → Bool) : (s.cleanLines hit).host
    = ((s.hostCopy.filter fun kv => hit kv.1).foldl (fun s kv => s.cleanHost kv.1 kv.2) s).host := by
  rw [List.foldl_filter]
  rfl

/-- A dirty byte of a line that is written back, where no other line written back has it dirty too. -/
theorem cleanLines_written {s : State} (hc : Canonical s) (hit : Nat → Bool) {k i : Nat} {x : HostLine} (hi : i < 64)
    (hx : mapGet s.hostCopy k = some x) (hk : hit k = true) (hb : x.dirty.testBit i = true)
    (sole : ∀ j y, mapGet s.hostCopy j = some y → hit j = true → j % 2 ^ 47 = k % 2 ^ 47 → y.dirty.testBit i = true → j = k) :
    cellGet (s.cleanLines hit).host (64 * (k % 2 ^ 47) + i) = x.bytes.getD i 0 := by
  rw [cleanLines_host]
  refine cleanAll_written hi _ hc.host ⟨(k, x), List.mem_filter.mpr ⟨mapGet_mem hx, hk⟩, rfl, hb⟩ fun q hq hqk hqb => ?_
  obtain ⟨hq, hqh⟩ := List.mem_filter.mp hq
  have hget := mapGet_of_mem hc.rising hq
  rw [sole _ _ hget hqh hqk hqb, hx] at hget
  rw [← Option.some.inj hget]

/-- A byte of host memory that no line written back has dirty. -/
theorem cleanLines_unwritten {s : State} (hc : Canonical s) (hit : Nat → Bool) {line i : Nat} (hi : i < 64)
    (none : ∀ j y, mapGet s.hostCopy j = some y → hit j = true → j % 2 ^ 47 = line → y.dirty.testBit i = false) :
    cellGet (s.cleanLines hit).host (64 * line + i) = cellGet s.host (64 * line + i) := by
  rw [cleanLines_host]
  refine ((cleanAll_spec hc.host _).2 hi).resolve_right fun ⟨q, hq, hqk, hqb, _⟩ => ?_
  obtain ⟨hq, hqh⟩ := List.mem_filter.mp hq
  rw [none q.1 q.2 (mapGet_of_mem hc.rising hq) hqh hqk] at hqb
  cases hqb

/-! ### Lines held -/

/-- The machine's byte `i` of the host line that a key names: that of the key's copy where it is dirty there, or that of host
memory. -/
def State.hostView (s : State) (k i : Nat) : Byte :=
  match mapGet s.hostCopy k with
  | some h => if h.dirty.testBit i then h.bytes.getD i 0 else cellGet s.host (64 * (k % 2 ^ 47) + i)
  | none => cellGet s.host (64 * (k % 2 ^ 47) + i)

/-- No other column's copy of a key's line is dirty. -/
def SoleDirty (s : State) (k : Nat) : Prop :=
  ∀ j y, mapGet s.hostCopy j = some y → j % 2 ^ 47 = k % 2 ^ 47 → j ≠ k → y.dirty = 0

/-- One state follows another by bookkeeping that drops some clean copies of host lines: no copy has come, the bytes of those
that stay are as they were, all dirty as before or all clean, and no byte is lost. -/
structure LinesKept (gone : List Nat) (s t : State) : Prop where
  canonical : Canonical s → Canonical t
  held : ∀ k y, mapGet t.hostCopy k = some y →
    ∃ x, mapGet s.hostCopy k = some x ∧ y.bytes = x.bytes ∧ (y.dirty = x.dirty ∨ y.dirty = 0)
  stays : ∀ k, k ∉ gone → (mapGet s.hostCopy k).isSome = true → (mapGet t.hostCopy k).isSome = true
  view : Canonical s → ∀ k, SoleDirty s k → ∀ i < 64, t.hostView k i = s.hostView k i

theorem soleDirty_of_linesKept {gone : List Nat} {s t : State} (h : LinesKept gone s t) {k : Nat} (hs : SoleDirty s k) :
    SoleDirty t k := by
  intro j y hy hj hne
  obtain ⟨x, hx, -, hd⟩ := h.held j y hy
  exact hd.elim (fun e => e.trans (hs j x hx hj hne)) id

theorem linesKept_trans {a b : List Nat} {s t u : State} (h : LinesKept a s t) (g : LinesKept b t u) :
    LinesKept (a ++ b) s u where
  canonical hc := g.canonical (h.canonical hc)
  held k y hy := by
    obtain ⟨z, hz, hzb, hzd⟩ := g.held k y hy
    obtain ⟨x, hx, hxb, hxd⟩ := h.held k z hz
    exact ⟨x, hx, hzb.trans hxb, hzd.elim (fun e => hxd.imp e.trans e.trans) .inr⟩
  stays k hk hs := g.stays k (fun m => hk (List.mem_append_right _ m)) (h.stays k (fun m => hk (List.mem_append_left _ m)) hs)
  view hc k hs i hi := (g.view (h.canonical hc) k (soleDirty_of_linesKept h hs) i hi).trans (h.view hc k hs i hi)

/-- A step that drops no copy, and then another. -/
theorem linesKept_then {l : List Nat} {s t u : State} (h : LinesKept [] s t) (g : LinesKept l t u) : LinesKept l s u :=
  linesKept_trans h g

/-- Neither host memory nor a copy of it has changed. -/
theorem linesKept_of {s t : State} (hc : Canonical s → Canonical t) (hh : t.host = s.host) (hl : t.hostCopy = s.hostCopy) :
    LinesKept [] s t where
  canonical := hc
  held k y hy := ⟨y, hl ▸ hy, rfl, .inl rfl⟩
  stays k _ hs := hl ▸ hs
  view _ k _ i _ := by unfold State.hostView; rw [hh, hl]

theorem linesKept_same (s : State) : LinesKept [] s s := linesKept_of id rfl rfl

theorem linesKept_ite {p : Prop} [Decidable p] {l : List Nat} {s t u : State} (h : p → LinesKept l s t)
    (g : ¬p → LinesKept l s u) : LinesKept l s (if p then t else u) := by
  split
  · next hp => exact h hp
  · next hp => exact g hp

theorem linesKept_foldl {α : Type} {g : State → α → State} {s : State} (l : List α)
    (h : ∀ t, LinesKept [] s t → ∀ a ∈ l, LinesKept [] t (g t a)) : LinesKept [] s (l.foldl g s) :=
  List.foldlRecOn (motive := LinesKept [] s) l g (linesKept_same s) fun t ht a ha => linesKept_then ht (h t ht a ha)

/-- A copy changed in what are neither its bytes nor its dirty bits. -/
theorem linesKept_putLine {s : State} {k : Nat} {x y : HostLine} (hx : mapGet s.hostCopy k = some x)
    (hb : y.bytes = x.bytes) (hd : y.dirty = x.dirty) : LinesKept [] s { s with hostCopy := mapSet s.hostCopy k y } where
  canonical hc := canonical_putLine hc (hb ▸ hc.copies _ (mapGet_mem hx))
  held j z hz := by
    by_cases hj : j = k
    · subst hj
      rw [mapGet_mapSet_same] at hz
      cases hz
      exact ⟨x, hx, hb, .inl hd⟩
    · rw [mapGet_mapSet_ne _ _ hj] at hz
      exact ⟨z, hz, rfl, .inl rfl⟩
  stays j _ hs := by
    by_cases hj : j = k
    · subst hj; rw [mapGet_mapSet_same]; rfl
    · rwa [mapGet_mapSet_ne _ _ hj]
  view _ j _ i _ := by
    unfold State.hostView
    by_cases hj : j = k
    · subst hj; simp only [mapGet_mapSet_same, hx, hb, hd]
    · simp only [mapGet_mapSet_ne _ _ hj]

theorem mapGet_cleanLines (s : State) (hit : Nat → Bool) (k : Nat) : mapGet (s.cleanLines hit).hostCopy k
    = (mapGet s.hostCopy k).map fun h => if hit k then { h with dirty := 0 } else h := by
  rw [cleanLines_hostCopy, mapGet_mapAll]

theorem linesKept_cleanLines (s : State) (hit : Nat → Bool) : LinesKept [] s (s.cleanLines hit) where
  canonical hc := canonical_cleanLines hc
  held k y hy := by
    rw [mapGet_cleanLines] at hy
    obtain ⟨x, hx, rfl⟩ := Option.map_eq_some_iff.mp hy
    refine ⟨x, hx, ?_⟩
    split
    · exact ⟨rfl, .inr rfl⟩
    · exact ⟨rfl, .inl rfl⟩
  stays k _ hs := by rw [mapGet_cleanLines, Option.isSome_map]; exact hs
  view hc k hs i hi := by
    have others (j : Nat) (y : HostLine) (hy : mapGet s.hostCopy j = some y) (hj : j % 2 ^ 47 = k % 2 ^ 47)
        (hb : y.dirty.testBit i = true) : j = k := by
      by_contra hne
      rw [hs j y hy hj hne, Nat.zero_testBit] at hb
      cases hb
    have stands (h : ∀ x, mapGet s.hostCopy k = some x → hit k = true → x.dirty.testBit i = false) :
        cellGet (s.cleanLines hit).host (64 * (k % 2 ^ 47) + i) = cellGet s.host (64 * (k % 2 ^ 47) + i) := by
      refine cleanLines_unwritten hc hit hi fun j y hy hjh hj => ?_
      by_contra hb
      obtain rfl := others j y hy hj (by simpa using hb)
      exact hb (h y hy hjh)
    unfold State.hostView
    rw [mapGet_cleanLines]
    cases hx : mapGet s.hostCopy k with
    | none => exact stands fun x e => by rw [hx] at e; cases e
    | some x =>
      simp only [Option.map_some]
      by_cases hk : hit k = true
      · rw [if_pos hk]
        simp only [Nat.zero_testBit, Bool.false_eq_true, if_false]
        split
        · next hb => exact cleanLines_written hc hit hi hx hk hb fun j y hy _ hj => others j y hy hj
        · next hb => exact stands fun y e _ => by rw [hx] at e; cases e; simpa using hb
      · rw [if_neg hk, stands fun _ _ e => absurd e hk]

end Sys2Proof.Machine
end

section
/-! The sectors' bookkeeping as a whole (R280-R285, R399, R400): what every part of it keeps, an access keeps. -/

namespace Sys2Proof.Machine

open Sys2Proof

/-- A relation that every part of the bookkeeping of a column's sectors keeps. -/
structure Bookkeeping (R : State → State → Prop) : Prop where
  same : ∀ s, R s s
  trans : ∀ {s t u}, R s t → R t u → R s u
  column : ∀ s c f, R s (s.modColumn c f)
  metered : ∀ s a c n k, R s (s.meter a c n k)
  cleaned : ∀ s hit, R s (s.cleanLines hit)
  corrected : ∀ s c l o m, R s (s.correctLine c l o m)
  marked : ∀ s m r, R s { s with memPsn := m, readPsn := r }

section
variable {R : State → State → Prop} (h : Bookkeeping R)
include h

theorem bookkeeping_foldl {α : Type} {g : State → α → State} (hg : ∀ s a, R s (g s a)) (l : List α) (s : State) :
    R s (l.foldl g s) :=
  List.foldlRecOn (motive := R s) l g (h.same s) fun t ht a _ => h.trans ht (hg t a)

theorem bookkeeping_correctSector (s : State) (c a : Nat) : R s (s.correctSector c a) := by
  unfold State.correctSector
  split
  · exact h.same s
  · exact bookkeeping_foldl h (fun s i => h.corrected s c (32 * a + i) 1 2) _ s

theorem bookkeeping_dropSector (s : State) (a c : Nat) (x : Sector) : R s (s.dropSector a c x) := by
  unfold State.dropSector
  refine h.trans ?_ (h.column _ _ _)
  split_ifs
  · exact h.same s
  · exact h.marked s s.memPsn _
  · exact h.cleaned _ _
  · exact h.trans (h.marked s _ _) (h.metered _ _ _ _ _)

theorem bookkeeping_freeWay (s : State) (a c l t w : Nat) (z : Bool) : R s (s.freeWay a c l t w z).2 := by
  unfold State.freeWay
  simp only []
  split
  · exact h.same s
  · split
    · exact bookkeeping_dropSector h _ _ _ _
    · exact h.same s

theorem bookkeeping_noteSector (s : State) (asid col addr slot off slice : Nat) (host : Bool) (t : Touch) :
    R s (s.noteSector asid col addr slot off slice host t) := by
  have refill (w : Nat) (z : Bool) (k l n : Nat) (f g : Column → Column) :
      R s (((s.modColumn col f).freeWay k col l n w z).2.modColumn col g) :=
    h.trans (h.trans (h.column _ _ _) (bookkeeping_freeWay h _ _ _ _ _ _ _)) (h.column _ _ _)
  unfold State.noteSector
  simp only []
  split
  · split
    · exact refill _ _ _ _ _ _ _
    · split
      · exact refill _ _ _ _ _ _ _
      · exact h.column _ _ _
  · have filled : R s (if t.zero then s else if host then s.meter asid col 7 1024
        else ((s.meter asid col 4 1024).correctSector col addr).fillMade col addr) := by
      split_ifs
      · exact h.same s
      · exact h.metered _ _ _ _ _
      · exact h.trans (h.trans (h.metered _ _ _ _ _) (bookkeeping_correctSector h _ _ _)) (h.marked _ (State.memPsn _) _)
    refine h.trans ?_ (h.column _ _ _)
    refine h.trans ?_ (bookkeeping_freeWay h _ _ _ _ _ _ _)
    split
    · exact h.trans filled (bookkeeping_freeWay h _ _ _ _ _ _ _)
    · exact filled

theorem bookkeeping_touchSector (s : State) (asid col addr slot off : Nat) (host : Bool) (t : Touch) :
    R s (s.touchSector asid col addr slot off host t) := by
  unfold State.touchSector
  simp only []
  refine h.trans ?_ (bookkeeping_noteSector h _ _ _ _ _ _ _ _ _)
  split
  · exact h.trans (h.column _ _ _) (bookkeeping_dropSector h _ _ _ _)
  · exact h.column _ _ _

end

end Sys2Proof.Machine
end

section
/-! The caches' bookkeeping at a line that its column holds, and what a snoop of the host leaves (R252, R276, R285, R371). -/

namespace Sys2Proof.Machine

open Sys2Proof

/-- A line read from an array meets no host memory. -/
theorem correctLine_host (s : State) (c l o m : Nat) :
    (s.correctLine c l o m).host = s.host ∧ (s.correctLine c l o m).hostCopy = s.hostCopy := by
  have h : s.correctLine c l o m = _ := apart_correctLine s.inbound s.host s.hostCopy s.hostPsn s c l o m
  rw [h]
  exact ⟨rfl, rfl⟩

theorem linesKept_bookkeeping : Bookkeeping (LinesKept []) where
  same := linesKept_same
  trans := linesKept_then
  column _ _ _ := linesKept_of (fun h => canonical_frame h) rfl rfl
  metered _ _ _ _ _ := linesKept_of (fun h => canonical_frame h) rfl rfl
  cleaned := linesKept_cleanLines
  corrected s c l o m :=
    have ⟨hh, hc⟩ := correctLine_host s c l o m
    linesKept_of (fun h => canonical_correctLine h) hh hc
  marked _ _ _ := linesKept_of (fun h => canonical_frame h) rfl rfl

/-! ### A line that its column holds -/

theorem linesKept_ownHost (s : State) (c p a : Nat) (b : Bool) : LinesKept [] s (s.ownHost c p a b) := by
  unfold State.ownHost
  split
  · next h hg => exact linesKept_ite (fun _ => linesKept_putLine hg rfl rfl) fun _ => linesKept_same s
  · exact linesKept_same s

theorem linesKept_touchHost {s : State} {c pa : Nat} (h : (mapGet s.hostCopy (hostKey c pa)).isSome = true) (a o : Nat)
    (t : Touch) : LinesKept [] s (s.touchLoc a c (.host pa) o t) := by
  obtain ⟨x, hx⟩ := Option.isSome_iff_exists.mp h
  have hf : s.fetchHost c pa = s := by unfold State.fetchHost; rw [hx]
  show LinesKept [] s (((s.fetchHost c pa).ownHost c pa a t.store).touchSector a c (pa / 1024) 0 o true t)
  rw [hf]
  exact linesKept_then (linesKept_ownHost _ _ _ _ _) (bookkeeping_touchSector linesKept_bookkeeping _ _ _ _ _ _ _ _)

theorem linesKept_markHost (s : State) (v pa : Nat) (b : Bool) : LinesKept [] s (s.markLine v (.host pa) b) := by
  unfold State.markLine
  simp only []
  split
  · next h hg => exact linesKept_putLine hg rfl rfl
  · exact linesKept_of (fun h => canonical_frame h) rfl rfl

theorem linesKept_writeBack {s : State} {c pa : Nat} {e : L1Line} (he : e.ploc = .host pa)
    (h : (mapGet s.hostCopy (hostKey c pa)).isSome = true) : LinesKept [] s (s.writeBack c e) := by
  unfold State.writeBack
  rw [he]
  have marked : LinesKept [] s (if e.psn then (s.markLine c (.host pa) true).markLine c (.host (pa + 32)) true else s) :=
    linesKept_ite (fun _ => linesKept_then (linesKept_markHost _ _ _ _) (linesKept_markHost _ _ _ _)) fun _ => linesKept_same s
  exact linesKept_ite (fun _ => linesKept_then marked (linesKept_touchHost (marked.stays _ nofun h) _ _ _)) fun _ =>
    linesKept_same s

/-- The dirty L1 lines of a host line written back. -/
theorem linesKept_flushHost {s : State} {c line : Nat} (h : (mapGet s.hostCopy (c * 2 ^ 47 + line)).isSome = true) :
    LinesKept [] s (s.flushLine c (.host (64 * line))) := by
  unfold State.flushLine State.cleanL1
  refine linesKept_foldl _ fun t ht k _ => linesKept_ite (fun _ => linesKept_same t) fun _ =>
    linesKept_then (linesKept_foldl _ fun u hu e he => ?_) (linesKept_of (fun h => canonical_frame h) rfl rfl)
  obtain ⟨-, hsame⟩ := Bool.and_eq_true_iff.mp (List.mem_filter.mp he).2
  simp only [] at hsame
  cases hp : e.ploc with
  | host pa =>
    have hline : pa / 64 = line := by
      rw [hp] at hsame
      simp only [Loc.same64, beq_iff_eq] at hsame
      omega
    refine linesKept_writeBack hp ?_
    rw [hostKey, hline]
    exact (linesKept_then ht hu).stays _ nofun h
  | mem _ _ _ | spad _ _ | peer _ _ _ => rw [hp] at hsame; cases hsame

/-! ### Snoops -/

/-- A clean copy of a host line dropped. -/
theorem linesKept_eraseLine {s : State} {k : Nat} (h : ∀ x, mapGet s.hostCopy k = some x → x.dirty = 0) :
    LinesKept [k] s { s with hostCopy := mapErase s.hostCopy k } where
  canonical hc := canonical_dropLines hc
  held j y hy := by
    rw [mapGet_mapErase] at hy
    split at hy
    · cases hy
    · exact ⟨y, hy, rfl, .inl rfl⟩
  stays j hj hs := by
    rw [mapGet_mapErase, if_neg (by simpa using hj)]
    exact hs
  view _ j _ i _ := by
    unfold State.hostView
    simp only [mapGet_mapErase]
    by_cases hj : j = k
    · subst hj
      rw [if_pos rfl]
      cases hx : mapGet s.hostCopy j with
      | none => rfl
      | some x => simp [h x hx]
    · rw [if_neg hj]

theorem shootL1_host (s : State) (c k : Nat) (l : Loc) (own : Bool) :
    (s.shootL1 c k l own).host = s.host ∧ (s.shootL1 c k l own).hostCopy = s.hostCopy := by
  unfold State.shootL1
  refine List.foldlRecOn (motive := fun t : State => t.host = s.host ∧ t.hostCopy = s.hostCopy) _ _ ⟨rfl, rfl⟩ fun t ht k _ => ?_
  split_ifs <;> exact ht

/-- A column's copy of a host line dropped with its L1 lines (R371). -/
def State.dropCopy (s : State) (k col : Nat) (l : Loc) : State :=
  ({ s with hostCopy := mapErase s.hostCopy k } : State).shootL1 col 0 l true

theorem mapGet_dropCopy (s : State) (k col : Nat) (l : Loc) : mapGet (s.dropCopy k col l).hostCopy k = none := by
  obtain ⟨-, hc⟩ := shootL1_host { s with hostCopy := mapErase s.hostCopy k } col 0 l true
  exact (congrArg (mapGet · k) hc).trans ((mapGet_mapErase s.hostCopy k k).trans (if_pos rfl))

theorem linesKept_dropCopy {s : State} {k : Nat} (h : ∀ x, mapGet s.hostCopy k = some x → x.dirty = 0) (col : Nat) (l : Loc) :
    LinesKept [k] s (s.dropCopy k col l) := by
  obtain ⟨hh, hc⟩ := shootL1_host { s with hostCopy := mapErase s.hostCopy k } col 0 l true
  exact linesKept_trans (a := [k]) (b := []) (linesKept_eraseLine h) (linesKept_of (fun h => canonical_shootL1 h) hh hc)

theorem kept_dropCopy (s : State) (k col : Nat) (l : Loc) : Kept s (s.dropCopy k col l) :=
  kept_trans (kept_copies rfl fun kv hk _ _ hb => ⟨kv, List.mem_of_mem_filter hk, rfl, hb, rfl⟩)
    (undisturbed_shootL1 _ _ _ _ _).kept

/-- A snoop of a column cleans its copy of the line, and drops it where the host invalidates it. -/
theorem snoopColumn_eq (s : State) (line col : Nat) (invalidate : Bool) : s.snoopColumn line col invalidate =
    if invalidate then ((s.flushLine col (.host (64 * line))).cleanLines (· == col * 2 ^ 47 + line)).dropCopy
      (col * 2 ^ 47 + line) col (.host (64 * line))
    else (s.flushLine col (.host (64 * line))).cleanLines (· == col * 2 ^ 47 + line) := by
  cases invalidate <;> rfl

/-- The copies that a snoop of a column drops. -/
def snooped (invalidate : Bool) (k : Nat) : List Nat := if invalidate then [k] else []

theorem linesKept_snoopColumn {s : State} {line col : Nat} (invalidate : Bool)
    (h : (mapGet s.hostCopy (col * 2 ^ 47 + line)).isSome = true) :
    LinesKept (snooped invalidate (col * 2 ^ 47 + line)) s (s.snoopColumn line col invalidate)
      ∧ ∀ y, mapGet (s.snoopColumn line col invalidate).hostCopy (col * 2 ^ 47 + line) = some y →
        invalidate = false ∧ y.dirty = 0 := by
  rw [snoopColumn_eq]
  have flushed := linesKept_flushHost h
  generalize s.flushLine col (.host (64 * line)) = t at flushed ⊢
  have cleaned := linesKept_then flushed (linesKept_cleanLines t (· == col * 2 ^ 47 + line))
  have clean : ∀ y, mapGet (t.cleanLines (· == col * 2 ^ 47 + line)).hostCopy (col * 2 ^ 47 + line) = some y → y.dirty = 0 :=
    fun y hy => by
      rw [mapGet_cleanLines] at hy
      obtain ⟨x, -, rfl⟩ := Option.map_eq_some_iff.mp hy
      simp
  generalize t.cleanLines (· == col * 2 ^ 47 + line) = u at cleaned clean ⊢
  cases invalidate with
  | false => exact ⟨cleaned, fun y hy => ⟨rfl, clean y hy⟩⟩
  | true =>
    refine ⟨linesKept_then cleaned (linesKept_dropCopy clean _ _), fun y hy => ?_⟩
    rw [if_pos rfl, mapGet_dropCopy] at hy
    cases hy

theorem kept_snoopColumn (s : State) (line col : Nat) (invalidate : Bool) : Kept s (s.snoopColumn line col invalidate) := by
  have clean := kept_trans (undisturbed_flushLine s col (.host (64 * line))).kept (kept_cleanLines _ (· == col * 2 ^ 47 + line))
  rw [snoopColumn_eq]
  exact kept_ite (kept_trans clean (kept_dropCopy _ _ _ _)) clean

/-- The columns that hold a line, snooped in turn. -/
theorem linesKept_snoopColumns (line : Nat) (invalidate : Bool) : ∀ (l : List (Nat × HostLine)) (s : State),
    (∀ kv ∈ l, (mapGet s.hostCopy kv.1).isSome = true ∧ kv.1 % 2 ^ 47 = line) → l.Pairwise (fun a b => a.1 < b.1) →
    let t := l.foldl (fun s kv => s.snoopColumn line (kv.1 / 2 ^ 47) invalidate) s
    LinesKept (l.flatMap fun kv => snooped invalidate kv.1) s t
      ∧ ∀ kv ∈ l, ∀ y, mapGet t.hostCopy kv.1 = some y → invalidate = false ∧ y.dirty = 0
  | [], s, _, _ => ⟨linesKept_same s, nofun⟩
  | kv :: l, s, hl, hp => by
    obtain ⟨hlt, hp⟩ := List.pairwise_cons.mp hp
    obtain ⟨hin, hline⟩ := hl kv List.mem_cons_self
    have hkey : kv.1 / 2 ^ 47 * 2 ^ 47 + line = kv.1 := by omega
    obtain ⟨first, firstClean⟩ := linesKept_snoopColumn (line := line) (col := kv.1 / 2 ^ 47) invalidate (by rwa [hkey])
    rw [hkey] at first firstClean
    have hrest : ∀ q ∈ l, (mapGet (s.snoopColumn line (kv.1 / 2 ^ 47) invalidate).hostCopy q.1).isSome = true
        ∧ q.1 % 2 ^ 47 = line := fun q hq => by
      obtain ⟨qin, qline⟩ := hl q (List.mem_cons_of_mem _ hq)
      refine ⟨first.stays _ (fun hm => ?_) qin, qline⟩
      unfold snooped at hm
      split at hm
      · exact absurd (List.mem_singleton.mp hm) (Nat.ne_of_gt (hlt q hq))
      · cases hm
    obtain ⟨rest, restClean⟩ := linesKept_snoopColumns line invalidate l _ hrest hp
    refine ⟨linesKept_trans first rest, fun q hq y hy => ?_⟩
    rcases List.mem_cons.mp hq with rfl | hq
    · obtain ⟨x, hx, -, hd⟩ := rest.held _ _ hy
      obtain ⟨hinv, hx0⟩ := firstClean x hx
      exact ⟨hinv, hd.elim (fun e => e.trans hx0) id⟩
    · exact restClean q hq y hy

end Sys2Proof.Machine
end

section
/-! The device's own maintenance (R222, R252, R286, R371, R373, R374, R383, R399-R404): each event with what it leaves. -/

namespace Sys2Proof.Machine

open Sys2Proof

/-! ### Host lines -/

theorem releaseHost_written {s : State} (hc : Canonical s) {col k : Nat} {line : HostLine} (hk : mapGet s.hostCopy k = some line)
    (hcol : k / 2 ^ 47 = col) : mapGet (s.releaseHost col).hostCopy k = some { line with dirty := 0 }
      ∧ ∀ i < 64, cellGet (s.releaseHost col).host (64 * (k % 2 ^ 47) + i)
        = if line.dirty.testBit i then line.bytes.getD i 0 else cellGet s.host (64 * (k % 2 ^ 47) + i) := by
  have sole (j : Nat) (y : HostLine) (_ : mapGet s.hostCopy j = some y) (hj : (j / 2 ^ 47 == col) = true)
      (hl : j % 2 ^ 47 = k % 2 ^ 47) : j = k := by
    rw [beq_iff_eq] at hj
    omega
  refine ⟨(mapGet_cleanLines s _ k).trans (by rw [hk, Option.map_some, if_pos (beq_iff_eq.mpr hcol)]), fun i hi => ?_⟩
  by_cases hb : line.dirty.testBit i = true
  · rw [if_pos hb]
    exact cleanLines_written hc _ hi hk (beq_iff_eq.mpr hcol) hb fun j y hy hj hl _ => sole j y hy hj hl
  · rw [if_neg hb]
    refine cleanLines_unwritten hc _ hi fun j y hy hj hl => ?_
    obtain rfl := sole j y hy hj hl
    rw [hk] at hy
    cases hy
    simpa using hb

/-- What a snoop of a host line leaves: no copy where it invalidates, a clean one otherwise, and in host memory the bytes that
were dirty in the one copy that had some. -/
theorem cxlCacheSnoop_answers {s : State} (hc : Canonical s) {line : Nat} (hline : line < 2 ^ 47) (invalidate : Bool) :
    Answers (.cxlCacheSnoop line invalidate) s fun t =>
      t.msgs.getLast? = some (.snoop line (s.hostCopy.any fun kv => kv.1 % 2 ^ 47 == line && kv.2.dirty != 0))
      ∧ (∀ col, (invalidate = true → mapGet t.hostCopy (col * 2 ^ 47 + line) = none)
        ∧ (mapGet s.hostCopy (col * 2 ^ 47 + line) = none → mapGet t.hostCopy (col * 2 ^ 47 + line) = none)
        ∧ (invalidate = false → ∀ x, mapGet s.hostCopy (col * 2 ^ 47 + line) = some x →
            ∃ y, mapGet t.hostCopy (col * 2 ^ 47 + line) = some y ∧ y.bytes = x.bytes ∧ y.dirty = 0))
      ∧ (∀ col x, mapGet s.hostCopy (col * 2 ^ 47 + line) = some x →
          (∀ c y, mapGet s.hostCopy (c * 2 ^ 47 + line) = some y → c ≠ col → y.dirty = 0) →
          ∀ i < 64, cellGet t.host (64 * line + i)
            = if x.dirty.testBit i then x.bytes.getD i 0 else cellGet s.host (64 * line + i))
      ∧ t.mem = s.mem ∧ t.spad = s.spad ∧ t.peer = s.peer := by
  let held := s.hostCopy.filter fun kv => kv.1 % 2 ^ 47 == line
  let t := held.foldl (fun s kv => s.snoopColumn line (kv.1 / 2 ^ 47) invalidate) s
  have mem_held {kv} (h : kv ∈ held) : kv ∈ s.hostCopy ∧ kv.1 % 2 ^ 47 = line := by
    simpa [held] using List.mem_filter.mp h
  have held_of {c x} (h : mapGet s.hostCopy (c * 2 ^ 47 + line) = some x) : (c * 2 ^ 47 + line, x) ∈ held :=
    List.mem_filter.mpr ⟨mapGet_mem h, beq_iff_eq.mpr (by omega)⟩
  obtain ⟨kept, clean⟩ := linesKept_snoopColumns line invalidate held s
    (fun kv h => ⟨by rw [mapGet_of_mem hc.rising (mem_held h).1]; rfl, (mem_held h).2⟩) (hc.rising.filter _)
  have hk : Kept s t := kept_foldl (fun s kv => kept_snoopColumn s _ _ _) _ _
  have cleaned {c y} (h : mapGet t.hostCopy (c * 2 ^ 47 + line) = some y) : invalidate = false ∧ y.dirty = 0 := by
    obtain ⟨x, hx, -⟩ := kept.held _ _ h
    exact clean _ (held_of hx) _ h
  refine ⟨_, rfl, ?_, fun col => ⟨fun hinv => ?_, fun hnone => ?_, fun hinv x hx => ?_⟩, fun col x hx sole i hi => ?_,
    (hk 0).mem, (hk 0).spad, (hk 0).peer⟩
  · simp only [State.send, List.getLast?_append, List.getLast?_singleton, Option.some_or, List.any_filter]
  · refine Option.eq_none_iff_forall_ne_some.mpr fun y hy => ?_
    rw [(cleaned hy).1] at hinv
    cases hinv
  · refine Option.eq_none_iff_forall_ne_some.mpr fun y hy => ?_
    obtain ⟨x, hx, -⟩ := kept.held _ _ hy
    rw [hnone] at hx
    cases hx
  · have hstay := kept.stays (col * 2 ^ 47 + line) (by simp [snooped, hinv]) (by rw [hx]; rfl)
    obtain ⟨y, hy⟩ := Option.isSome_iff_exists.mp hstay
    obtain ⟨z, hz, hb, -⟩ := kept.held _ _ hy
    rw [hx] at hz
    cases hz
    exact ⟨y, hy, hb, (cleaned hy).2⟩
  · have hmod : (col * 2 ^ 47 + line) % 2 ^ 47 = line := by omega
    have hsole : SoleDirty s (col * 2 ^ 47 + line) := fun j y hy hj hne =>
      sole (j / 2 ^ 47) y (by rwa [show j / 2 ^ 47 * 2 ^ 47 + line = j by omega]) (by omega)
    have hview := kept.view hc _ hsole i hi
    unfold State.hostView at hview
    rw [hx, hmod] at hview
    refine Eq.trans ?_ hview
    cases hy : mapGet t.hostCopy (col * 2 ^ 47 + line) with
    | none => rfl
    | some y => simp only [(cleaned hy).2, Nat.zero_testBit, Bool.false_eq_true, if_false]; rfl

end Sys2Proof.Machine
end

section
/-! The rebalancer, scrubbing, the retries of transfers, lanes and retraining (R286, R374, R399-R403). -/

namespace Sys2Proof.Machine

open Sys2Proof

/-! ### Interrupts and logs -/

theorem mem_setIns_self (n : Nat) : ∀ l : List Nat, n ∈ setIns l n
  | [] => List.mem_singleton.mpr rfl
  | k :: l => by
    unfold setIns
    split_ifs with h1 h2
    · exact List.mem_cons_self
    · exact h2 ▸ List.mem_cons_self
    · exact List.mem_cons_of_mem _ (mem_setIns_self n l)

/-- Trying to send a vector changes only what has been sent and what pends. -/
theorem trySend_eq (s : State) (v : Nat) : ∃ sent pend msgs,
    s.trySend v = { s with dev := { s.dev with irqSent := sent, msixPend := pend }, msgs := msgs } := by
  unfold State.trySend
  simp only []
  split_ifs
  · exact ⟨_, _, _, rfl⟩
  · exact ⟨_, _, _, rfl⟩
  · exact ⟨_, _, _, rfl⟩

/-- An event of a vector sets its cause bit (R374). -/
theorem raiseVector_eq (s : State) (v : Nat) : ∃ sent pend msgs, s.raiseVector v = { s with
    dev := { s.dev with irqst := s.dev.irqst ||| (1#32 <<< v), irqSent := sent, msixPend := pend }, msgs := msgs } :=
  trySend_eq { s with dev := { s.dev with irqst := s.dev.irqst ||| (1#32 <<< v) } } v

theorem bit_cause (x : Word) {v : Nat} (hv : v < 32) : bit (x ||| (1#32 <<< v)) v = true := by
  rw [bit_or]
  simp [bit, hv]

/-- A cell-log entry: the log's column and the device's interrupts change. -/
theorem cellLog_eq (s : State) (col line sym pat kind : Nat) : ∃ e d m, s.cellLog col line sym pat kind =
      { s.modColumn col (fun c => { c with clog := mapSet c.clog (c.clcnt.toNat % 64) e, clcnt := c.clcnt + 1 }) with
        dev := d, msgs := m }
    ∧ (kind = 2 ∨ kind = 4 → bit d.irqst 2 = true) := by
  unfold State.cellLog
  simp only []
  split
  · obtain ⟨sent, pend, msgs, h⟩ := raiseVector_eq (s.modColumn col fun c =>
      { c with clog := mapSet c.clog (c.clcnt.toNat % 64) (BitVec.ofNat 128 (s.cycOf col * 2 ^ 64 + logPlace col line
        + sym * 2 ^ 24 + pat * 2 ^ 16 + kind * 2 ^ 8)), clcnt := c.clcnt + 1 }) 2
    exact ⟨_, _, _, h, fun _ => bit_cause _ (by decide)⟩
  · next hk => exact ⟨_, s.dev, s.msgs, rfl, fun h => absurd h hk⟩

/-- A transfer-log entry. -/
theorem transferLog_eq (s : State) (col line lane tries beat dir kind : Nat) : ∃ e d m,
    s.transferLog col line lane tries beat dir kind =
      { s.modColumn col (fun c => { c with tlog := mapSet c.tlog (c.tlcnt.toNat % 64) e, tlcnt := c.tlcnt + 1 }) with
        dev := d, msgs := m }
    ∧ (kind = 3 → bit d.irqst 2 = true) := by
  unfold State.transferLog
  simp only []
  split
  · obtain ⟨sent, pend, msgs, h⟩ := raiseVector_eq (s.modColumn col fun c =>
      { c with tlog := mapSet c.tlog (c.tlcnt.toNat % 64) (BitVec.ofNat 128 (s.cycOf col * 2 ^ 64 + logPlace col line
        + lane * 2 ^ 24 + tries * 2 ^ 20 + beat * 2 ^ 18 + dir * 2 ^ 17 + kind * 2 ^ 8)), tlcnt := c.tlcnt + 1 }) 2
    exact ⟨_, _, _, h, fun _ => bit_cause _ (by decide)⟩
  · next hk => exact ⟨_, s.dev, s.msgs, rfl, fun h => absurd h hk⟩

theorem transferLog_spec (s : State) (col line lane tries beat dir kind : Nat) :
    let t := s.transferLog col line lane tries beat dir kind
    SameBytes s t ∧ (t.column col).retry = (s.column col).retry ∧ (t.column col).tlcnt = (s.column col).tlcnt + 1
      ∧ (t.column col).spuse = (s.column col).spuse ∧ t.readPsn = s.readPsn ∧ t.memPsn = s.memPsn
      ∧ (kind = 3 → bit t.dev.irqst 2 = true) := by
  intro t
  obtain ⟨e, d, m, he, hirq⟩ := transferLog_eq s col line lane tries beat dir kind
  have ht : t = _ := he
  rw [ht]
  refine ⟨⟨rfl, rfl, rfl, rfl⟩, ?_, ?_, ?_, rfl, rfl, hirq⟩ <;> simp [State.column, State.modColumn]

/-! ### The rebalancer -/

theorem column_dropSector (s : State) (a c : Nat) (x : Sector) : (s.dropSector a c x).column c
    = { s.column c with sectors := (s.column c).sectors.filter fun y => y != x } := by
  unfold State.dropSector
  simp only []
  rw [State.column_modColumn]
  split_ifs
  · rfl
  · rfl
  · obtain ⟨_, _, _, h⟩ := cleanLines_frame s (hostIn c x.addr)
    rw [h]
    rfl
  · rfl

/-- Some sectors of a column dropped, each under its own context. -/
theorem column_dropSectors (asid : State → Sector → Nat) (c : Nat) : ∀ (l : List Sector) (s : State),
    (l.foldl (fun s x => s.dropSector (asid s x) c x) s).column c
      = { s.column c with sectors := (s.column c).sectors.filter fun y => !l.contains y }
  | [], s => by simp
  | x :: l, s => by
    rw [List.foldl_cons, column_dropSectors asid c l, column_dropSector]
    simp only [List.filter_filter, List.contains_cons, Bool.not_or, Bool.and_comm, bne]

/-- A bucket moved: SIT names its new slice, as for every other bucket before, and no sector of it is left. -/
theorem moveBucket_spec (s : State) (col bucket slice : Nat) :
    mapGetD ((s.moveBucket col bucket slice).column col).sit bucket (bucket % 8) = slice
      ∧ (∀ d, d ≠ bucket → mapGetD ((s.moveBucket col bucket slice).column col).sit d (d % 8)
          = mapGetD (s.column col).sit d (d % 8))
      ∧ ∀ x ∈ ((s.moveBucket col bucket slice).column col).sectors, ((s.column col).slice x.addr).1 ≠ bucket := by
  have hcol := column_dropSectors (fun s x => ((mapGet s.keys x.slot).map Prod.fst).getD 0) col
    ((s.column col).sectors.filter fun x => ((s.column col).slice x.addr).1 == bucket) s
  unfold State.moveBucket
  simp only [State.column_modColumn, hcol]
  refine ⟨?_, fun d hd => ?_, fun x hx => ?_⟩
  · split
    · next h => simp [mapGetD, mapGet_mapErase, h]
    · simp
  · split
    · simp [mapGetD, mapGet_mapErase, hd]
    · rw [mapGetD_mapSet_ne _ _ _ hd]
  · obtain ⟨hx, hgone⟩ := List.mem_filter.mp hx
    intro hb
    have : x ∈ (s.column col).sectors.filter fun x => ((s.column col).slice x.addr).1 == bucket :=
      List.mem_filter.mpr ⟨hx, beq_iff_eq.mpr hb⟩
    rw [List.contains_iff_mem.mpr this] at hgone
    cases hgone

/-- The entry with the most requests so far, the first of those with equally many. -/
def busier (b : Option (Nat × Nat)) (kv : Nat × Nat) : Option (Nat × Nat) :=
  match b with
  | none => some kv
  | some x => if x.2 < kv.2 then some kv else some x

theorem foldl_busier : ∀ (l : List (Nat × Nat)) (x : Nat × Nat), ∃ top, l.foldl busier (some x) = some top
    ∧ (top = x ∨ top ∈ l) ∧ x.2 ≤ top.2 ∧ ∀ kv ∈ l, kv.2 ≤ top.2
  | [], x => ⟨x, rfl, .inl rfl, Nat.le_refl _, nofun⟩
  | kv :: l, x => by
    rw [List.foldl_cons]
    unfold busier
    simp only []
    split
    · next h =>
      obtain ⟨top, he, hm, hx, hl⟩ := foldl_busier l kv
      refine ⟨top, he, .inr ?_, by omega, fun q hq => ?_⟩
      · exact hm.elim (fun e => e ▸ List.mem_cons_self) (List.mem_cons_of_mem _)
      · rcases List.mem_cons.mp hq with rfl | hq
        · exact hx
        · exact hl q hq
    · next h =>
      obtain ⟨top, he, hm, hx, hl⟩ := foldl_busier l x
      refine ⟨top, he, hm.imp_right (List.mem_cons_of_mem _), hx, fun q hq => ?_⟩
      rcases List.mem_cons.mp hq with rfl | hq
      · omega
      · exact hl q hq

theorem mapGet_of_nodup {α : Type} {kv : Nat × α} : ∀ {m : AMap α}, (m.map Prod.fst).Nodup → kv ∈ m → mapGet m kv.1 = some kv.2
  | q :: m, hn, hk => by
    obtain ⟨hq, hn⟩ := List.nodup_cons.mp hn
    rcases List.mem_cons.mp hk with rfl | hk
    · exact if_pos rfl
    · exact (if_neg fun e : q.1 = kv.1 => hq (List.mem_map.mpr ⟨kv, hk, e.symm⟩)).trans (mapGet_of_nodup hn hk)

/-- A slice with requests in a window has a bucket with the most of them. -/
theorem busiest_bucket {c : Column} {busy : Nat} (hload : 0 < c.sliceLoad busy) (hn : (c.requests.map Prod.fst).Nodup) :
    ∃ b n, (c.requests.filter fun kv => mapGetD c.sit kv.1 (kv.1 % 8) == busy).foldl busier none = some (b, n)
      ∧ mapGetD c.sit b (b % 8) = busy
      ∧ ∀ d, mapGetD c.sit d (d % 8) = busy → mapGetD c.requests d 0 ≤ mapGetD c.requests b 0 := by
  cases hm : c.requests.filter fun kv => mapGetD c.sit kv.1 (kv.1 % 8) == busy with
  | nil =>
    refine absurd hload (Nat.not_lt.mpr (Nat.le_of_eq ?_))
    unfold Column.sliceLoad
    refine List.sum_eq_zero fun n hmem => ?_
    obtain ⟨kv, hkv, rfl⟩ := List.mem_map.mp hmem
    exact if_neg fun h => by simpa [h] using List.filter_eq_nil_iff.mp hm kv hkv
  | cons x l =>
    obtain ⟨top, he, hmem, hx, hl⟩ := foldl_busier l x
    have hmem : top ∈ c.requests ∧ mapGetD c.sit top.1 (top.1 % 8) = busy := by
      have : top ∈ c.requests.filter fun kv => mapGetD c.sit kv.1 (kv.1 % 8) == busy := by
        rw [hm]; exact List.mem_cons.mpr hmem
      simpa using List.mem_filter.mp this
    refine ⟨top.1, top.2, he, hmem.2, fun d hd => ?_⟩
    have htop : mapGetD c.requests top.1 0 = top.2 := by rw [mapGetD, mapGet_of_nodup hn hmem.1]; rfl
    rw [htop, mapGetD]
    cases hg : mapGet c.requests d with
    | none => exact Nat.zero_le _
    | some n =>
      have : (d, n) ∈ x :: l := by rw [← hm]; exact List.mem_filter.mpr ⟨mapGet_mem hg, beq_iff_eq.mpr hd⟩
      rcases List.mem_cons.mp this with rfl | hmem
      · exact hx
      · exact hl _ hmem

theorem kept_moveBucket (s : State) (col bucket slice : Nat) : Kept s (s.moveBucket col bucket slice) := by
  unfold State.moveBucket
  exact kept_trans (kept_foldl (fun s x => kept_dropSector s _ _ _) _ _) (kept_modColumn _ _ _)

theorem rebalance_eq (s : State) (col : Nat) : s.rebalance col =
    (match ((s.column col).requests.filter fun (kv : Nat × Nat) =>
        mapGetD (s.column col).sit kv.1 (kv.1 % 8) == (s.column col).extremeSlice true).foldl busier none with
      | some (bucket, _) =>
        if 2 * (s.column col).sliceLoad ((s.column col).extremeSlice false)
            < (s.column col).sliceLoad ((s.column col).extremeSlice true)
        then s.moveBucket col bucket ((s.column col).extremeSlice false) else s
      | none => s).modColumn col fun c => { c with requests := [] } := by
  unfold State.rebalance
  rfl

theorem rebalance_answers {s : State} {col : Nat} (hcol : col < 128) (hf : (s.column col).failed ≠ 2) :
    let c := s.column col
    let busy := c.extremeSlice true
    let idle := c.extremeSlice false
    Answers (.rebalanceWindowEnd col) s fun t => (t.column col).requests = [] ∧ Unwritten s t
      ∧ (c.sliceLoad busy ≤ 2 * c.sliceLoad idle → (t.column col).sit = c.sit)
      ∧ (2 * c.sliceLoad idle < c.sliceLoad busy → (c.requests.map Prod.fst).Nodup → ∃ b, mapGetD c.sit b (b % 8) = busy
          ∧ (∀ d, mapGetD c.sit d (d % 8) = busy → mapGetD c.requests d 0 ≤ mapGetD c.requests b 0)
          ∧ mapGetD (t.column col).sit b (b % 8) = idle
          ∧ (∀ d, d ≠ b → mapGetD (t.column col).sit d (d % 8) = mapGetD c.sit d (d % 8))
          ∧ ∀ x ∈ (t.column col).sectors, (c.slice x.addr).1 ≠ b) := by
  intro c busy idle
  have hexec : exec (.rebalanceWindowEnd col) s = .next (s.rebalance col) :=
    congrArg Host.Outcome.next (if_neg (by rintro (h | h); exacts [absurd h (by omega), hf h]))
  refine ⟨_, hexec, ?_, ?_, fun hle => ?_, fun hlt hn => ?_⟩
  · rw [rebalance_eq, State.column_modColumn]
  · rw [rebalance_eq]
    refine unwritten_of_kept (kept_trans ?_ (kept_modColumn _ _ _))
    split
    · exact kept_ite (kept_moveBucket _ _ _ _) (kept_same s)
    · exact kept_same s
  · rw [rebalance_eq, State.column_modColumn]
    split
    · rw [if_neg (by exact Nat.not_lt.mpr hle)]
    · rfl
  · obtain ⟨b, n, htop, hbusy, hmost⟩ := busiest_bucket (c := c) (busy := busy) (by omega) hn
    obtain ⟨hsit, hother, hsectors⟩ := moveBucket_spec s col b idle
    have he : s.rebalance col = (s.moveBucket col b idle).modColumn col fun c => { c with requests := [] } := by
      rw [rebalance_eq, htop]
      simp only []
      rw [if_pos (by exact hlt)]
    rw [he, State.column_modColumn]
    exact ⟨b, hbusy, hmost, hsit, hother, hsectors⟩

/-! ### Scrubbing -/

theorem needLine_eq (s : State) (col line : Nat) : ∃ b, s.needLine col line = { s with blocked := b } := by
  unfold State.needLine
  split
  · exact ⟨true, rfl⟩
  · exact ⟨_, rfl⟩

/-- A line read that has an error: it is logged, and more than one wrong symbol poisons the line (R399). -/
theorem correctLine_met {s : State} {col line sym pat : Nat} (one : Nat) {more : Nat}
    (h : mapGet s.errs (memKey col (32 * line) / 32) = some (sym, pat)) (hmore : more = 2 ∨ more = 4) :
    let k := memKey col (32 * line) / 32
    let t := s.correctLine col line one more
    mapGet t.errs k = none ∧ (t.column col).clcnt = (s.column col).clcnt + 1
      ∧ (sym = 255 → k ∈ t.memPsn ∧ bit t.dev.irqst 2 = true) ∧ (sym ≠ 255 → t.memPsn = s.memPsn) ∧ SameBytes s t := by
  intro k t
  obtain ⟨b, hb⟩ := needLine_eq s col line
  have ht : t = if sym = 255
      then ({ s with blocked := b, errs := mapErase s.errs k, memPsn := setIns s.memPsn k } : State).cellLog col line 255 0 more
      else (({ s with blocked := b, errs := mapErase s.errs k } : State).upkeep col 7).cellLog col line sym pat one := by
    show s.correctLine col line one more = _
    unfold State.correctLine
    rw [hb]
    simp only [h]
    rfl
  have erased : mapGet (mapErase s.errs k) k = none := by rw [mapGet_mapErase, if_pos rfl]
  by_cases hs : sym = 255
  · obtain ⟨e, d, m, he, hirq⟩ := cellLog_eq
      { s with blocked := b, errs := mapErase s.errs k, memPsn := setIns s.memPsn k } col line 255 0 more
    rw [ht, if_pos hs, he]
    refine ⟨erased, ?_, fun _ => ⟨mem_setIns_self k _, hirq hmore⟩, fun hn => absurd hs hn, rfl, rfl, rfl, rfl⟩
    simp [State.column, State.modColumn]
  · obtain ⟨e, d, m, he, -⟩ := cellLog_eq (({ s with blocked := b, errs := mapErase s.errs k } : State).upkeep col 7)
      col line sym pat one
    rw [ht, if_neg hs, he]
    refine ⟨erased, ?_, fun h => absurd h hs, fun _ => rfl, rfl, rfl, rfl, rfl⟩
    simp [State.column, State.modColumn, State.upkeep]

theorem patrolScrub_exec {s : State} {col line : Nat} (hcol : col < 128) (hline : line < 2 ^ 29) (hf : (s.column col).failed ≠ 2) :
    exec (.patrolScrub col line) s = .next ((s.correctLine col line 3 4).upkeep col 8) :=
  congrArg Host.Outcome.next (if_neg (by rintro (h | h | h); exacts [absurd h (by omega), absurd h (by omega), hf h]))

theorem patrolScrub_answers {s : State} {col line sym pat : Nat} (hcol : col < 128) (hline : line < 2 ^ 29)
    (hf : (s.column col).failed ≠ 2) (h : mapGet s.errs (memKey col (32 * line) / 32) = some (sym, pat)) :
    Answers (.patrolScrub col line) s fun t =>
      mapGet t.errs (memKey col (32 * line) / 32) = none ∧ (t.column col).clcnt = (s.column col).clcnt + 1
      ∧ (sym = 255 → (memKey col (32 * line) / 32) ∈ t.memPsn ∧ bit t.dev.irqst 2 = true)
      ∧ (sym ≠ 255 → t.memPsn = s.memPsn) ∧ SameBytes s t := by
  obtain ⟨herr, hcnt, hpsn, hclean, hsame⟩ := correctLine_met 3 h (.inr rfl)
  refine ⟨_, patrolScrub_exec hcol hline hf, herr, ?_, hpsn, hclean, hsame⟩
  exact (congrArg Column.clcnt (State.column_modColumn _ _ _)).trans hcnt

theorem patrolScrub_clean {s : State} {col line : Nat} (hcol : col < 128) (hline : line < 2 ^ 29) (hf : (s.column col).failed ≠ 2)
    (h : mapGet s.errs (memKey col (32 * line) / 32) = none) :
    exec (.patrolScrub col line) s = .next ((s.needLine col line).upkeep col 8) := by
  rw [patrolScrub_exec hcol hline hf]
  obtain ⟨b, hb⟩ := needLine_eq s col line
  unfold State.correctLine
  rw [hb]
  simp only [h]

/-! ### Transfers, lanes and retraining -/

theorem transferRetry_answers {s : State} {col : Nat} {x : Nat × Nat × Nat × Nat} (h : (s.column col).retrying = some x) :
    Answers (.transferRetry col) s fun t => SameBytes s t
      ∧ (((t.column col).retry = (s.column col).retry.erase x ∧ (t.column col).tlcnt = (s.column col).tlcnt + 1)
        ∨ ((t.column col).tlcnt = (s.column col).tlcnt
            ∧ (t.column col).retry
              = (s.column col).retry.map fun y => if y = x then (x.1, x.2.1, x.2.2.1 + 1, x.2.2.2) else y)) := by
  obtain ⟨pch, line, tries, beat⟩ := x
  refine ⟨_, rfl, ?_⟩
  unfold State.retryTransfer
  rw [h]
  simp only []
  split
  · obtain ⟨hsame, hretry, hcnt, -⟩ := transferLog_spec
      (s.modColumn col fun c => { c with retry := c.retry.erase (pch, line, tries, beat) }) col line 255 (tries + 1)
      (beat / 2 % 4) (beat % 2) 1
    rw [State.column_modColumn] at hretry hcnt
    exact ⟨hsame, .inl ⟨hretry, hcnt⟩⟩
  · refine ⟨⟨rfl, rfl, rfl, rfl⟩, .inr ?_⟩
    simp [State.drewFresh, State.upkeep, State.column, State.modColumn]

/-- What a failed transfer leaves poisoned, by its direction (R400). -/
theorem lostTransfer_spec (s : State) (col line dir : Nat) :
    (dir = 0 → mapGet (s.lostTransfer col line dir).readPsn (memKey col (32 * line) / 32) = some false
      ∧ (s.lostTransfer col line dir).memPsn = s.memPsn)
    ∧ (dir = 1 → memKey col (32 * line) / 32 ∈ (s.lostTransfer col line dir).memPsn)
    ∧ (s.lostTransfer col line dir).columns = s.columns ∧ SameBytes s (s.lostTransfer col line dir) := by
  unfold State.lostTransfer
  simp only []
  split
  · next h => exact ⟨fun _ => ⟨mapGet_mapSet_same _ _ _, rfl⟩, fun h1 => by omega, rfl, rfl, rfl, rfl, rfl⟩
  · next h => exact ⟨fun h0 => absurd h0 h, fun _ => mem_setIns_self _ _, rfl, rfl, rfl, rfl, rfl⟩

/-- The machine at a lane test once its transfer is under retry no more, and the test's energy is counted (R400, R412). -/
def State.tested (s : State) (col : Nat) (x : Nat × Nat × Nat × Nat) : State :=
  (s.modColumn col fun c => { c with retry := c.retry.erase x }).upkeep col 6

theorem tested_column (s : State) (col : Nat) (x : Nat × Nat × Nat × Nat) :
    ((s.tested col x).column col).retry = (s.column col).retry.erase x
      ∧ ((s.tested col x).column col).tlcnt = (s.column col).tlcnt
      ∧ ((s.tested col x).column col).spuse = (s.column col).spuse := by
  simp [State.tested, State.upkeep, State.column, State.modColumn]

/-- A lane test without a spare left loses the line; with one it makes a fifth attempt (R400). -/
theorem testLane_eq {s : State} {col lane : Nat} {x : Nat × Nat × Nat × Nat} (h : (s.column col).toTest = some x) :
    s.testLane col lane =
      let u := s.tested col x
      let log (s : State) (n kind : Nat) : State :=
        s.transferLog col x.2.1 (lane % 256) n (x.2.2.2 / 2 % 4) (x.2.2.2 % 2) kind
      if 2 ≤ (s.column col).spares x.1 then log (u.lostTransfer col x.2.1 (x.2.2.2 % 2)) 4 3
      else
        let v := u.modColumn col fun c => { c with spuse := c.spuse + BitVec.ofNat 32 (4 ^ x.1) }
        (if Config.freeBit v.fresh then log v 5 2
          else log ((v.lostTransfer col x.2.1 (x.2.2.2 % 2)).upkeep col 5) 5 3).drewFresh := by
  obtain ⟨pch, line, tries, beat⟩ := x
  have hsp : ((s.tested col (pch, line, tries, beat)).column col).spares pch = (s.column col).spares pch := by
    rw [Column.spares, (tested_column s col (pch, line, tries, beat)).2.2, Column.spares]
  unfold State.testLane
  rw [h]
  show (if 2 ≤ ((s.tested col (pch, line, tries, beat)).column col).spares pch then _ else _) = _
  rw [hsp]
  rfl

theorem laneTest_answers {s : State} {col lane : Nat} {x : Nat × Nat × Nat × Nat} (hlane : lane ≤ 64)
    (h : (s.column col).toTest = some x) : Answers (.laneTest col lane) s fun t =>
      SameBytes s t ∧ (t.column col).retry = (s.column col).retry.erase x
      ∧ (t.column col).tlcnt = (s.column col).tlcnt + 1
      ∧ (2 ≤ (s.column col).spares x.1 → (t.column col).spuse = (s.column col).spuse
          ∧ (x.2.2.2 % 2 = 0 → mapGet t.readPsn (memKey col (32 * x.2.1) / 32) = some false ∧ t.memPsn = s.memPsn)
          ∧ (x.2.2.2 % 2 = 1 → memKey col (32 * x.2.1) / 32 ∈ t.memPsn) ∧ bit t.dev.irqst 2 = true)
      ∧ ((s.column col).spares x.1 < 2 → (t.column col).spuse = (s.column col).spuse + BitVec.ofNat 32 (4 ^ x.1)) := by
  refine ⟨_, congrArg Host.Outcome.next (if_neg (Nat.not_lt.mpr hlane)), ?_⟩
  obtain ⟨hretry, hcnt, hspuse⟩ := tested_column s col x
  rw [testLane_eq h]
  simp only []
  split
  · next hsp =>
    let u := (s.tested col x).lostTransfer col x.2.1 (x.2.2.2 % 2)
    obtain ⟨hread, hwrite, hcols, hsame⟩ := lostTransfer_spec (s.tested col x) col x.2.1 (x.2.2.2 % 2)
    have hu : u.column col = (s.tested col x).column col := congrArg (fun m => mapGetD m col Column.reset) hcols
    obtain ⟨hlog, hr, hn, hp, hrp, hmp, hirq⟩ := transferLog_spec u col x.2.1 (lane % 256) 4 (x.2.2.2 / 2 % 4) (x.2.2.2 % 2) 3
    rw [hu] at hr hn hp
    refine ⟨sameBytes_trans hsame hlog, hr.trans hretry, hn.trans (by rw [hcnt]), fun _ => ⟨hp.trans hspuse, ?_, ?_, hirq rfl⟩,
      fun hlt => absurd hsp (Nat.not_le.mpr hlt)⟩
    · rw [hrp, hmp]; exact hread
    · rw [hmp]; exact hwrite
  · next hsp =>
    let v := (s.tested col x).modColumn col fun c => { c with spuse := c.spuse + BitVec.ofNat 32 (4 ^ x.1) }
    have hv : v.column col = { (s.tested col x).column col with
        spuse := ((s.tested col x).column col).spuse + BitVec.ofNat 32 (4 ^ x.1) } := State.column_modColumn _ _ _
    have attempt (u : State) (k kind : Nat) (hsame : SameBytes s u) (hr : (u.column col).retry = (v.column col).retry)
        (hn : (u.column col).tlcnt = (v.column col).tlcnt) (hp : (u.column col).spuse = (v.column col).spuse) :
        let t := u.transferLog col x.2.1 (lane % 256) k (x.2.2.2 / 2 % 4) (x.2.2.2 % 2) kind
        SameBytes s t ∧ (t.column col).retry = (s.column col).retry.erase x
          ∧ (t.column col).tlcnt = (s.column col).tlcnt + 1
          ∧ (t.column col).spuse = (s.column col).spuse + BitVec.ofNat 32 (4 ^ x.1) := by
      obtain ⟨hlog, gr, gn, gp, -⟩ := transferLog_spec u col x.2.1 (lane % 256) k (x.2.2.2 / 2 % 4) (x.2.2.2 % 2) kind
      rw [hr, hv] at gr
      rw [hn, hv] at gn
      rw [hp, hv] at gp
      exact ⟨sameBytes_trans hsame hlog, gr.trans hretry, gn.trans (by rw [hcnt]), gp.trans (by rw [hspuse])⟩
    split
    · obtain ⟨gsame, gr, gn, gp⟩ := attempt v 5 2 ⟨rfl, rfl, rfl, rfl⟩ rfl rfl rfl
      exact ⟨gsame, gr, gn, fun h2 => absurd h2 hsp, fun _ => gp⟩
    · obtain ⟨-, -, hcols, hsame⟩ := lostTransfer_spec v col x.2.1 (x.2.2.2 % 2)
      have hu : (v.lostTransfer col x.2.1 (x.2.2.2 % 2)).column col = v.column col :=
        congrArg (fun m => mapGetD m col Column.reset) hcols
      have hc : (((v.lostTransfer col x.2.1 (x.2.2.2 % 2)).upkeep col 5).column col) = _ := State.column_modColumn _ _ _
      obtain ⟨gsame, gr, gn, gp⟩ := attempt ((v.lostTransfer col x.2.1 (x.2.2.2 % 2)).upkeep col 5) 5 3 hsame
        (by rw [hc, hu]) (by rw [hc, hu]) (by rw [hc, hu])
      exact ⟨gsame, gr, gn, fun h2 => absurd h2 hsp, fun _ => gp⟩

theorem retraining_answers (s : State) (col bus : Nat) (hbus : bus < 8) :
    let last := mapGetD (s.column col).trained bus 0
    let inFlight := ((s.column col).retry.any fun y => y.1 == bus) && !(s.column col).due.contains bus
    (last ≠ 0 → s.cycOf col + 1 < last + 2 ^ 22 → exec (.retraining col bus) s = .next s)
    ∧ (last = 0 ∨ last + 2 ^ 22 ≤ s.cycOf col + 1 →
        (inFlight = true → Answers (.retraining col bus) s fun t => bus ∈ (t.column col).due
          ∧ (t.column col).trained = (s.column col).trained ∧ SameBytes s t)
        ∧ (inFlight = false → Answers (.retraining col bus) s fun t =>
            mapGet (t.column col).trained bus = some (s.cycOf col + 1) ∧ SameBytes s t)) := by
  intro last inFlight
  have hexec : exec (.retraining col bus) s = .next (s.retrain col bus) := rfl
  refine ⟨fun h0 hlt => ?_, fun hdue => ?_⟩
  · rw [hexec]
    exact congrArg _ (if_pos (.inr ⟨h0, hlt⟩))
  · have hnot : ¬(8 ≤ bus ∨ (last ≠ 0 ∧ s.cycOf col + 1 < last + 2 ^ 22)) := by omega
    refine ⟨fun hin => ?_, fun hin => ?_⟩
    · have he : s.retrain col bus = s.modColumn col fun c => { c with due := setIns c.due bus } :=
        (if_neg hnot).trans (if_pos hin)
      refine ⟨_, hexec.trans (congrArg _ he), ?_⟩
      beta_reduce
      rw [State.column_modColumn]
      exact ⟨mem_setIns_self _ _, rfl, rfl, rfl, rfl, rfl⟩
    · have he : s.retrain col bus = s.modColumn col fun c =>
          { c with trained := mapSet c.trained bus (s.cycOf col + 1), due := setDel c.due bus } :=
        (if_neg hnot).trans (if_neg fun h => Bool.false_ne_true (hin.symm.trans h))
      refine ⟨_, hexec.trans (congrArg _ he), ?_⟩
      beta_reduce
      rw [State.column_modColumn]
      exact ⟨mapGet_mapSet_same _ _ _, rfl, rfl, rfl, rfl⟩

end Sys2Proof.Machine
end

section
/-! The throttles and the thermal halt (R222, R374, R383), and the device's maintenance as a whole. -/

namespace Sys2Proof.Machine

open Sys2Proof

/-- What a tower's raised throttle leaves: its level, and nothing of the memories and the work (R222). -/
def ThrottleRaised (s t : State) (tower : Nat) : Prop :=
  SameBytes s t ∧ SameWork s t
    ∧ (7 ≤ s.dev.mxthr.getD tower 0 → t.dev.mxthr.getD tower 0 = s.dev.mxthr.getD tower 0)
    ∧ (s.dev.mxthr.getD tower 0 < 7 →
        s.dev.mxthr.getD tower 0 < t.dev.mxthr.getD tower 0 ∧ t.dev.mxthr.getD tower 0 ≤ 7)

theorem getD_set_self {l : List Nat} {i : Nat} (h : i < l.length) (x : Nat) : (l.set i x).getD i 0 = x := by
  simp [List.getD_eq_getElem?_getD, h]

theorem raiseThrottle_raised {s : State} (hc : Canonical s) {tower : Nat} (ht : tower < 4) :
    ThrottleRaised s (s.raiseThrottle tower) tower := by
  obtain ⟨-, hlen, -⟩ := hc.towers
  have hget (x : Nat) : (s.dev.mxthr.set tower x).getD tower 0 = x := getD_set_self (by omega) x
  refine ⟨⟨rfl, rfl, rfl, rfl⟩, ⟨rfl, rfl, rfl, rfl⟩, fun h7 => (hget _).trans (if_pos h7), fun h7 => ?_⟩
  have hup : (s.raiseThrottle tower).dev.mxthr.getD tower 0
      = s.dev.mxthr.getD tower 0 + 1 + (s.freeW 0).toNat % (7 - s.dev.mxthr.getD tower 0) :=
    (hget _).trans (if_neg (Nat.not_le.mpr h7))
  rw [hup]
  have := Nat.mod_lt (s.freeW 0).toNat (show 0 < 7 - s.dev.mxthr.getD tower 0 by omega)
  omega

theorem throttleLower_answers {s : State} (hc : Canonical s) {tower draw : Nat} (ht : tower < 4) (hdraw : draw < 4600)
    (hcalm : s.dev.calm.getD tower 0 + 2 ^ 16 ≤ s.cycOf (32 * tower)) : Answers (.throttleLower tower draw) s fun t =>
      t.dev.mxthr.getD tower 0 = s.dev.mxthr.getD tower 0 - 1 ∧ t.dev.calm.getD tower 0 = s.cycOf (32 * tower)
        ∧ SameBytes s t ∧ SameWork s t := by
  obtain ⟨-, hlen, hlen'⟩ := hc.towers
  refine ⟨_, congrArg Host.Outcome.next ((if_neg (Nat.not_le.mpr ht)).trans ((if_neg (Nat.not_le.mpr hdraw)).trans
    (if_neg (Nat.not_lt.mpr hcalm)))), ?_, ?_, ⟨rfl, rfl, rfl, rfl⟩, rfl, rfl, rfl, rfl⟩
  · exact getD_set_self (Nat.lt_of_lt_of_eq ht hlen.symm) _
  · exact getD_set_self (Nat.lt_of_lt_of_eq ht hlen'.symm) _

/-- The warps stand still, and the device has logged the halt (R383). -/
def State.stoodStill (s : State) : State :=
  { s with
    warps := mapAll s.warps fun _ x => { x with halted := true }
    dev := { s.dev with halted := true, thermLog := s.dev.thermLog ++ [s.cycOf 0] } }

theorem thermalHalt_exec (s : State) : exec .thermalHalt s = .next
    (((List.range 128).foldl (fun s c => s.modColumn c fun k => { k with halted := true }) s).stoodStill.raiseVector 4) := rfl

theorem thermalHalt_answers (s : State) : Answers .thermalHalt s fun t => (∀ c < 128, (t.column c).halted = true)
      ∧ (∀ w x, s.warp w = some x → t.warp w = some { x with halted := true }) ∧ bit t.dev.irqst 4 = true
      ∧ t.dev.halted = true ∧ t.dev.thermLog = s.dev.thermLog ++ [s.cycOf 0] ∧ SameBytes s t := by
  obtain ⟨cols, hu⟩ := foldl_modColumn_eq (fun _ k => { k with halted := true }) (List.range 128) s
  have hcol (c : Nat) (h : c < 128) :=
    column_foldl_modColumn (fun _ k => { k with halted := true }) s List.nodup_range (List.mem_range.mpr h)
  have hexec := thermalHalt_exec s
  rw [hu] at hexec hcol
  obtain ⟨sent, pend, msgs, hraise⟩ := raiseVector_eq ({ s with columns := cols } : State).stoodStill 4
  rw [hraise] at hexec
  refine ⟨_, hexec, fun c hc => congrArg Column.halted (hcol c hc), fun w x hx => ?_, bit_cause _ (by decide), rfl, rfl,
    rfl, rfl, rfl, rfl⟩
  exact (mapGet_mapAll (fun _ (x : Warp) => { x with halted := true }) s.warps w).trans (congrArg (Option.map _) hx)

/-- Settles O56: each event's answer is the lemma about it. -/
theorem maintenanceCompletes : Obligations.MaintenanceCompletes := by
  intro s hc
  refine ⟨fun col k line hk hcol => ⟨_, rfl, ?_⟩, fun line invalidate hline => cxlCacheSnoop_answers hc hline invalidate,
    fun col hcol hf => rebalance_answers hcol hf,
    fun col line sym pat hcol hline hf h => patrolScrub_answers hcol hline hf h,
    fun col line hcol hline hf h => patrolScrub_clean hcol hline hf h,
    fun col x h => transferRetry_answers h, fun col lane x hlane h => laneTest_answers hlane h,
    fun col bus hbus => retraining_answers s col bus hbus,
    fun flow => ⟨_, rfl, mem_setIns_self _ _, ⟨rfl, rfl, rfl, rfl⟩, rfl, rfl, rfl, rfl⟩,
    fun link => ⟨_, rfl, ⟨rfl, rfl, rfl, rfl⟩, ⟨rfl, rfl, rfl, rfl⟩, rfl⟩,
    fun port hport => ⟨_, congrArg Host.Outcome.next (if_neg (Nat.not_le.mpr hport)), mapGet_mapSet_same _ _ _,
      ⟨rfl, rfl, rfl, rfl⟩, rfl, rfl, rfl, rfl⟩,
    fun port hport => congrArg Host.Outcome.next (if_pos hport), fun tower ht => ?_, thermalHalt_answers s⟩
  · obtain ⟨hline, hhost⟩ := releaseHost_written hc hk hcol
    have kept := kept_cleanLines s (fun k => k / 2 ^ 47 == col) 0
    exact ⟨hline, hhost, kept.mem, kept.spad, kept.peer⟩
  · have raised := raiseThrottle_raised hc ht
    refine ⟨fun draw hdraw => ⟨_, congrArg Host.Outcome.next (if_pos ⟨hdraw, ht⟩), raised⟩,
      fun draw hdraw => congrArg Host.Outcome.next (if_neg fun h => absurd h.1 (Nat.not_lt.mpr hdraw)),
      fun draw hdraw hcalm => throttleLower_answers hc ht hdraw hcalm,
      fun draw hdraw hcalm => congrArg Host.Outcome.next ((if_neg (Nat.not_le.mpr ht)).trans
        ((if_neg (Nat.not_le.mpr hdraw)).trans (if_pos hcalm))), ?_⟩
    obtain ⟨sent, pend, msgs, hraise⟩ := raiseVector_eq (s.raiseThrottle tower) 4
    exact ⟨_, congrArg Host.Outcome.next ((if_neg (Nat.not_le.mpr ht)).trans hraise), raised, bit_cause _ (by decide)⟩

end Sys2Proof.Machine
end

section
/-! What the engines' accesses leave as it is (R209, R219, R320): the blocks with their tiles, the copy and bank commands, and
the queues of the matrix engines. -/

namespace Sys2Proof.Machine

open Sys2Proof

/-- One state follows another by an engine's access to memory. -/
structure EngineKept (s t : State) : Prop where
  blocks : t.blocks = s.blocks
  copies : t.copies = s.copies
  queues : ∀ c k, (t.core c k).engine = (s.core c k).engine

theorem engineKept_of {s t : State} (hb : t.blocks = s.blocks) (hc : t.copies = s.copies) (hk : t.cores = s.cores) :
    EngineKept s t :=
  ⟨hb, hc, fun c k => by unfold State.core; rw [hk]⟩

theorem engineKept_same (s : State) : EngineKept s s := engineKept_of rfl rfl rfl

theorem engineKept_trans {s t u : State} (h : EngineKept s t) (g : EngineKept t u) : EngineKept s u :=
  ⟨g.blocks.trans h.blocks, g.copies.trans h.copies, fun c k => (g.queues c k).trans (h.queues c k)⟩

theorem engineKept_ite {p : Prop} [Decidable p] {s t u : State} (h : EngineKept s t) (g : EngineKept s u) :
    EngineKept s (if p then t else u) := by
  split
  · exact h
  · exact g

theorem engineKept_foldl {α : Type} {g : State → α → State} (h : ∀ s a, EngineKept s (g s a)) (l : List α) (s : State) :
    EngineKept s (l.foldl g s) :=
  List.foldlRecOn (motive := EngineKept s) l g (engineKept_same s) fun t ht a _ => engineKept_trans ht (h t a)

theorem engineKept_modCore (s : State) (c k : Nat) {f : Core → Core} (hf : ∀ x, (f x).engine = x.engine) :
    EngineKept s (s.modCore c k f) := by
  refine ⟨rfl, rfl, fun d j => ?_⟩
  unfold State.core State.modCore
  by_cases h : 4 * d + j = 4 * c + k
  · rw [h, mapGetD_mapSet_same, hf]
    rfl
  · rw [mapGetD_mapSet_ne _ _ _ h]

/-! ### Lines and sectors -/

theorem engineKept_correctLine (s : State) (c l o m : Nat) : EngineKept s (s.correctLine c l o m) := by
  obtain ⟨b, hb⟩ := needLine_eq s c l
  unfold State.correctLine
  rw [hb]
  simp only []
  split
  · exact engineKept_of rfl rfl rfl
  · next sym pat _ =>
    split
    · obtain ⟨e, d, n, he, -⟩ := cellLog_eq { s with
        blocked := b, errs := mapErase s.errs (memKey c (32 * l) / 32), memPsn := setIns s.memPsn (memKey c (32 * l) / 32) }
        c l 255 0 m
      rw [he]
      exact engineKept_of rfl rfl rfl
    · obtain ⟨e, d, n, he, -⟩ := cellLog_eq (({ s with
        blocked := b, errs := mapErase s.errs (memKey c (32 * l) / 32) } : State).upkeep c 7) c l sym pat o
      rw [he]
      exact engineKept_of rfl rfl rfl

theorem engineKept_cleanLines (s : State) (hit : Nat → Bool) : EngineKept s (s.cleanLines hit) := by
  obtain ⟨_, _, _, h⟩ := cleanLines_frame s hit
  rw [h]
  exact engineKept_of rfl rfl rfl

theorem engineKept_bookkeeping : Bookkeeping EngineKept where
  same := engineKept_same
  trans := engineKept_trans
  column _ _ _ := engineKept_of rfl rfl rfl
  metered _ _ _ _ _ := engineKept_of rfl rfl rfl
  cleaned := engineKept_cleanLines
  corrected := engineKept_correctLine
  marked _ _ _ := engineKept_of rfl rfl rfl

theorem engineKept_readLines (s : State) (c f n : Nat) : EngineKept s (s.readLines c f n) := by
  have made (t : State) (k : Nat) : EngineKept t (t.readMade k) := engineKept_of rfl rfl rfl
  exact engineKept_ite (engineKept_same s)
    (engineKept_foldl (fun t _ => engineKept_trans (engineKept_correctLine t _ _ _ _) (made _ _)) _ s)

theorem engineKept_correctWalk (s : State) (a p l o : Nat) : EngineKept s (s.correctWalk a p l o) := by
  unfold State.correctWalk
  split
  · exact engineKept_ite (engineKept_same s) (engineKept_foldl (fun t _ => engineKept_readLines t _ _ _) _ s)
  · exact engineKept_same s

theorem engineKept_walkPtr (s : State) (a c : Nat) (ptr : Addr) : EngineKept s (s.walkPtr a c ptr) := by
  have walked (k n b p l o : Nat) : EngineKept s ((s.meter b p k n).correctWalk a p l o) :=
    engineKept_trans (engineKept_bookkeeping.metered s b p k n) (engineKept_correctWalk _ _ _ _ _)
  have filled (p : Nat) (e : TlbEntry) : EngineKept s (s.fillTlb p e) := by
    unfold State.fillTlb
    refine engineKept_trans (engineKept_ite (engineKept_same s) ?_) (engineKept_bookkeeping.column _ _ _)
    exact engineKept_trans (engineKept_bookkeeping.metered s _ _ _ _) (engineKept_correctWalk _ _ _ _ _)
  unfold State.walkPtr
  split
  · exact engineKept_same s
  · split
    · exact engineKept_same s
    · split
      · exact filled _ _
      · exact walked _ _ _ _ _ _

theorem engineKept_touchLoc (s : State) (a c : Nat) (l : Loc) (o : Nat) (t : Touch) : EngineKept s (s.touchLoc a c l o t) := by
  have touched (u : State) (d n k : Nat) (b : Bool) := bookkeeping_touchSector engineKept_bookkeeping u a d n k o b t
  have fetched (p : Nat) : EngineKept s (s.fetchHost c p) := by
    unfold State.fetchHost
    split
    · exact engineKept_same s
    · exact engineKept_of rfl rfl rfl
  have owned (u : State) (p : Nat) : EngineKept u (u.ownHost c p a t.store) := by
    unfold State.ownHost
    split
    · exact engineKept_ite (engineKept_of rfl rfl rfl) (engineKept_same _)
    · exact engineKept_same _
  unfold State.touchLoc
  split
  · exact touched _ _ _ _ _
  · exact engineKept_trans (engineKept_trans (fetched _) (owned _ _)) (touched _ _ _ _ _)
  · exact engineKept_same s
  · exact engineKept_same s

/-! ### L1 lines -/

theorem engineKept_markLine (s : State) (v : Nat) (l : Loc) (b : Bool) : EngineKept s (s.markLine v l b) := by
  unfold State.markLine
  cases l with
  | mem c p k => exact engineKept_ite (engineKept_of rfl rfl rfl) (engineKept_of rfl rfl rfl)
  | spad c o => exact engineKept_of rfl rfl rfl
  | peer d a p => exact engineKept_of rfl rfl rfl
  | host pa =>
    simp only []
    split
    · exact engineKept_of rfl rfl rfl
    · exact engineKept_of rfl rfl rfl

theorem engineKept_settleBelow (s : State) (l : Loc) : EngineKept s (s.settleBelow l) := by
  unfold State.settleBelow
  split
  · exact engineKept_of rfl rfl rfl
  · exact engineKept_same s

theorem engineKept_cleanL1 (s : State) (c : Nat) (hit : L1Line → Bool) : EngineKept s (s.cleanL1 c hit) := by
  refine engineKept_foldl (fun t k => engineKept_ite (engineKept_same t) (engineKept_trans ?_ (engineKept_modCore _ _ _ ?_))) _ s
  · refine engineKept_foldl (fun u e => engineKept_ite ?_ (engineKept_same u)) _ t
    refine engineKept_trans (engineKept_trans (engineKept_ite ?_ (engineKept_same u)) (engineKept_settleBelow _ _))
      (engineKept_touchLoc _ _ _ _ _ _)
    exact engineKept_trans (engineKept_markLine _ _ _ _) (engineKept_markLine _ _ _ _)
  · exact fun _ => rfl

theorem engineKept_shootL1 (s : State) (c k : Nat) (l : Loc) (own : Bool) : EngineKept s (s.shootL1 c k l own) :=
  engineKept_foldl (fun t _ => engineKept_ite (engineKept_same t)
    (engineKept_ite (engineKept_same t) (engineKept_modCore _ _ _ (by exact fun _ => rfl)))) _ s

/-! ### Engines -/

theorem engineKept_engineTouch (s : State) (c a o : Nat) (ls : List Loc) (store : Bool) :
    EngineKept s (s.engineTouch c a o ls store) := by
  refine engineKept_foldl (fun t l => engineKept_trans (engineKept_touchLoc t a c l o { store := store })
    (engineKept_ite ?_ (engineKept_same _))) _ s
  split
  · exact engineKept_shootL1 _ _ _ _ _
  · exact engineKept_shootL1 _ _ _ _ _

theorem engineKept_putByte (s : State) (v : Nat) (l : Loc) (b : Byte) : EngineKept s (s.putByte v l b) := by
  have h : Wrote s (s.putByte v l b) := wrote_putByte s v l b
  exact engineKept_of (by rw [h]) (by rw [h]) (by rw [h])

theorem engineKept_writeBytes (s : State) (v : Nat) (bs : List ByteW) : EngineKept s (s.writeBytes v bs) := by
  refine engineKept_trans (engineKept_trans (engineKept_foldl (fun t (b : ByteW) => engineKept_putByte t v b.loc b.byte) bs s)
    (engineKept_foldl (fun t (b : ByteW) => ?_) bs _)) (engineKept_ite (engineKept_same _) (engineKept_of rfl rfl rfl))
  exact engineKept_ite (engineKept_markLine _ _ _ _) (engineKept_ite (engineKept_markLine _ _ _ _) (engineKept_same t))

theorem engineKept_engineWrite (s : State) (c a o : Nat) (ls : List Loc) (bs : List (Byte × Bool)) :
    EngineKept s (s.engineWrite c a o ls bs) :=
  engineKept_trans (engineKept_trans (engineKept_foldl (fun t l => engineKept_cleanL1 t _ fun e => e.ploc.same64 l) _ s)
    (engineKept_engineTouch _ _ _ _ _ _)) (engineKept_writeBytes _ _ _)

section
variable {s t : State} (h : EngineKept s t)
include h

theorem engineKept_block (b : Nat) : t.block b = s.block b := congrArg (mapGet · b) h.blocks

/-- A command performed for a block that is there is kept until it is reported. -/
theorem endCopy_kept {b : Block} {c : CopyCmd} (hb : s.block c.block = some b) (hr : b.retired = false) (k : Nat) :
    t.endCopy k c = { t with copies := mapSet t.copies k { c with stage := 2 } } := by
  unfold State.endCopy
  rw [engineKept_block h, hb, Option.map_some, hr]
  rfl

end

end Sys2Proof.Machine
end

section
/-! The copy engine (R321, R322, R363): a chunk of a copy stores the bytes it reads, and a chunk that faults ends its command. -/

namespace Sys2Proof.Machine

open Sys2Proof

/-! ### Walks -/

theorem walkPtr_host (s : State) (a c : Nat) (ptr : Addr) : (s.walkPtr a c ptr).host = s.host := by
  have h : s.walkPtr a c ptr = _ := apart_walkPtr s.inbound s.host s.hostCopy s.hostPsn s a c ptr
  rw [h]
  rfl

theorem sameBytes_of_kept {s t : State} (h : Kept s t) (hh : t.host = s.host) : SameBytes s t :=
  ⟨(h 0).mem, (h 0).spad, hh, (h 0).peer⟩

/-- What some walks leave: every byte, and what the engines have to do. -/
structure Walked (s t : State) : Prop where
  undisturbed : Undisturbed s t
  bytes : SameBytes s t
  engines : EngineKept s t

theorem walked_same (s : State) : Walked s s := ⟨undisturbed_same s, ⟨rfl, rfl, rfl, rfl⟩, engineKept_same s⟩

theorem walked_trans {s t u : State} (h : Walked s t) (g : Walked t u) : Walked s u :=
  ⟨undisturbed_trans h.undisturbed g.undisturbed, sameBytes_trans h.bytes g.bytes, engineKept_trans h.engines g.engines⟩

theorem walked_ite {p : Prop} [Decidable p] {s t u : State} (h : Walked s t) (g : Walked s u) :
    Walked s (if p then t else u) := by
  split
  · exact h
  · exact g

theorem walked_foldl {α : Type} {g : State → α → State} (h : ∀ s a, Walked s (g s a)) (l : List α) (s : State) :
    Walked s (l.foldl g s) :=
  List.foldlRecOn (motive := Walked s) l g (walked_same s) fun t ht a _ => walked_trans ht (h t a)

theorem walked_walkPtr (s : State) (a c : Nat) (ptr : Addr) : Walked s (s.walkPtr a c ptr) :=
  ⟨undisturbed_walkPtr s a c ptr, sameBytes_of_kept (undisturbed_walkPtr s a c ptr).kept (walkPtr_host s a c ptr),
    engineKept_walkPtr s a c ptr⟩

theorem walked_walkBytes (s : State) (a c : Nat) (ptr : Addr) (n : Nat) : Walked s (s.walkBytes a c ptr n) :=
  walked_ite (walked_same s) (walked_foldl (fun t _ => walked_walkPtr t _ _ _) _ s)

theorem walked_walkSide (s : State) (c : CopyCmd) (write : Bool) (idx : List Nat) : Walked s (s.walkSide c write idx) :=
  walked_ite (walked_same s) (walked_foldl (fun t p => walked_walkPtr t _ _ p) _ s)

/-! ### Bytes stored -/

/-- What an engine writes is stored, poisoned or not, between bookkeeping of the caches. -/
theorem engineWrite_stores {s t u : State} (hc : Canonical s) (h : SameArrays s t) {col asid off : Nat} {ls : List Loc}
    {data : List Byte} {psn : Bool} (g : SameArrays (t.engineWrite col asid off ls (data.map fun b => (b, psn))) u) :
    StoresHere s u (writtenAt ls data) := by
  obtain ⟨v, hv, he⟩ := engineWrite_spec t col asid off ls data psn
  rw [he] at g
  exact storesHere_poisonedAs (storesHere_of_writeBytes hc.mem hc.spad (sameArrays_trans h (sameArrays_of_undisturbed hv)) g)

theorem undisturbed_zeroSectors (s : State) (c : CopyCmd) (idx : List Nat) (dst : List Loc) :
    Undisturbed s (s.zeroSectors c idx dst) :=
  undisturbed_foldl (fun t _ => undisturbed_ite (undisturbed_touchLoc t _ _ _ _ _) (undisturbed_same t)) _ s

theorem engineKept_zeroSectors (s : State) (c : CopyCmd) (idx : List Nat) (dst : List Loc) :
    EngineKept s (s.zeroSectors c idx dst) :=
  engineKept_foldl (fun t _ => engineKept_ite (engineKept_touchLoc t _ _ _ _ _) (engineKept_same t)) _ s

/-! ### A chunk -/

/-- The bytes of a copy's next chunk. -/
def CopyCmd.next (c : CopyCmd) : List Nat := (List.range (min 256 (c.len - c.done))).map (c.done + ·)

/-- A copy once its next chunk is performed. -/
def CopyCmd.after (c : CopyCmd) : CopyCmd :=
  if c.len ≤ c.done + 256 then { c with done := c.len, stage := 2 } else { c with done := c.done + 256, stage := 1 }

/-- A chunk whose places are found is read, and its bytes stored. -/
theorem copyChunk_stores {s t : State} (hc : Canonical s) (h : Undisturbed s t) {c : CopyCmd} {idx : List Nat} {k : Nat}
    (hidx : (List.range (min 256 (c.len - 256 * k))).map (256 * k + ·) = idx) {src dst : List Loc}
    (hsrc : (if c.op = .cpyz then Except.ok [] else placesOrFault (t.copyByte c false) idx) = .ok src)
    (hdst : placesOrFault (t.copyByte c true) idx = .ok dst) :
    ∃ u, t.copyChunk c k = .ok u ∧ EngineKept t u ∧ StoresHere s u
      (writtenAt dst ((if c.op = .cpyz then idx.map fun _ => ((0 : Byte), false) else t.engineRead c.col src).map Prod.fst)) := by
  let got := if c.op = .cpyz then idx.map fun _ => ((0 : Byte), false) else t.engineRead c.col src
  let v := t.engineTouch c.col c.asid (c.src.toNat % 2 ^ 48) src false
  let w := v.engineWrite c.col c.asid (c.dst.toNat % 2 ^ 48) dst (got.map fun b => (b.1, got.any Prod.snd))
  let z := if c.op = .cpyz then w.zeroSectors c idx dst else w
  let u := z.meter c.asid c.col 2 idx.length
  have hz : Undisturbed w z := undisturbed_ite (undisturbed_zeroSectors _ _ _ _) (undisturbed_same _)
  have hu : Undisturbed w (if c.op = .cpyx then u.meter c.asid c.col 8 idx.length else u) :=
    undisturbed_trans (undisturbed_trans hz (undisturbed_meter _ _ _ _ _))
      (undisturbed_ite (undisturbed_meter _ _ _ _ _) (undisturbed_same _))
  have written : EngineKept t w := engineKept_trans (engineKept_engineTouch t _ _ _ _ _) (engineKept_engineWrite v _ _ _ _ _)
  have zeroed : EngineKept w z := engineKept_ite (engineKept_zeroSectors _ _ _ _) (engineKept_same _)
  have metered : EngineKept z u := engineKept_bookkeeping.metered z _ _ _ _
  refine ⟨if c.op = .cpyx then u.meter c.asid c.col 8 idx.length else u, ?_, ?_, ?_⟩
  · unfold State.copyChunk
    simp only [hidx, hsrc, hdst]
    rfl
  · exact engineKept_trans (engineKept_trans (engineKept_trans written zeroed) metered)
      (engineKept_ite (engineKept_bookkeeping.metered u _ _ _ _) (engineKept_same u))
  · refine engineWrite_stores (t := v) (col := c.col) (asid := c.asid) (off := c.dst.toNat % 2 ^ 48) (psn := got.any Prod.snd)
      hc (sameArrays_of_undisturbed (undisturbed_trans h (undisturbed_engineTouch _ _ _ _ _ _))) ?_
    rw [List.map_map]
    exact sameArrays_of_undisturbed hu

/-- A chunk whose source, or else whose destination, meets a fault is not performed. -/
theorem copyChunk_faults {s : State} {c : CopyCmd} {idx : List Nat} {k : Nat}
    (hidx : (List.range (min 256 (c.len - 256 * k))).map (256 * k + ·) = idx) (hop : c.op ≠ .cpyz) {e : Cause}
    (he : placesOrFault (s.copyByte c false) idx = .error e) : s.copyChunk c k = .error e := by
  unfold State.copyChunk
  simp only [hidx, if_neg hop, he]

section
variable {s : State} {c : CopyCmd} {k : Nat}

/-- The machine once the walks of a copy's next chunk are made. -/
def State.walkedFor (s : State) (c : CopyCmd) : State := (s.walkSide c false c.next).walkSide c true c.next

theorem walked_walkedFor (s : State) (c : CopyCmd) : Walked s (s.walkedFor c) :=
  walked_trans (walked_walkSide s c false _) (walked_walkSide _ c true _)

theorem next_chunk (hd : c.done % 256 = 0) :
    (List.range (min 256 (c.len - 256 * (c.done / 256)))).map (256 * (c.done / 256) + ·) = c.next := by
  rw [show 256 * (c.done / 256) = c.done by omega]
  rfl

theorem performCopy_eq (hlen : c.done < c.len) (hacq : c.stage = 0 → c.ord.acq = false) : s.performCopy k c =
    match (s.walkedFor c).copyChunk c (c.done / 256) with
    | .error e => (s.walkedFor c).endCopy k { c with fault := some (e.code, e.addr) }
    | .ok s =>
      let c := { c with done := min (c.done + 256) c.len, stage := 1 }
      if c.done < c.len then { s with copies := mapSet s.copies k c } else s.finishCopy k c := by
  have hbegin : (if c.stage = 0 then s.engineAcquire c.col 0 c.ord else s) = s := by
    split
    · next h => exact if_neg (by rw [hacq h]; decide)
    · rfl
  unfold State.performCopy
  simp only [hbegin]
  rw [if_neg (by omega)]
  rfl

/-- A chunk performed: the command stands at its next chunk, or is over without an arrival to make. -/
theorem performCopy_stores (hc : Canonical s) {b : Block} (hlen : c.done < c.len) (hd : c.done % 256 = 0)
    (hacq : c.stage = 0 → c.ord.acq = false)
    (hlast : c.len ≤ c.done + 256 → bit c.barrier 31 = false ∧ c.ord.rel = false) (hb : s.block c.block = some b)
    (hr : b.retired = false) {src dst : List Loc}
    (hsrc : (if c.op = .cpyz then Except.ok [] else placesOrFault ((s.walkedFor c).copyByte c false) c.next) = .ok src)
    (hdst : placesOrFault ((s.walkedFor c).copyByte c true) c.next = .ok dst) :
    mapGet (s.performCopy k c).copies k = some c.after ∧ StoresHere s (s.performCopy k c) (writtenAt dst
      ((if c.op = .cpyz then c.next.map fun _ => ((0 : Byte), false) else (s.walkedFor c).engineRead c.col src).map Prod.fst)) := by
  have hw := walked_walkedFor s c
  obtain ⟨u, hu, hk, hs⟩ := copyChunk_stores hc hw.undisturbed (next_chunk hd) hsrc hdst
  have hk := engineKept_trans hw.engines hk
  rw [performCopy_eq hlen hacq, hu]
  simp only [CopyCmd.after]
  by_cases hend : c.len ≤ c.done + 256
  · obtain ⟨hbar, hrel⟩ := hlast hend
    have hfin : u.finishCopy k { c with done := min (c.done + 256) c.len, stage := 1 }
        = { u with copies := mapSet u.copies k { c with done := c.len, stage := 2 } } := by
      unfold State.finishCopy State.engineRelease
      simp only [hbar, hrel]
      refine (endCopy_kept hk (c := { c with done := min (c.done + 256) c.len, stage := 1 }) hb hr k).trans ?_
      simp only [Nat.min_eq_right hend]
    rw [if_neg (by omega), if_pos hend, hfin]
    exact ⟨mapGet_mapSet_same _ _ _, hs⟩
  · rw [if_pos (by omega), if_neg hend, Nat.min_eq_left (by omega)]
    exact ⟨mapGet_mapSet_same _ _ _, hs⟩

/-- A chunk whose source faults: every byte stands, and the command waits to report its fault. -/
theorem performCopy_faults {b : Block} (hlen : c.done < c.len) (hd : c.done % 256 = 0) (hacq : c.stage = 0 → c.ord.acq = false)
    (hb : s.block c.block = some b) (hr : b.retired = false) (hop : c.op ≠ .cpyz) {e : Cause}
    (he : placesOrFault ((s.walkedFor c).copyByte c false) c.next = .error e) :
    SameBytes s (s.performCopy k c)
      ∧ mapGet (s.performCopy k c).copies k = some { c with fault := some (e.code, e.addr), stage := 2 } := by
  have hw := walked_walkedFor s c
  rw [performCopy_eq hlen hacq, copyChunk_faults (next_chunk hd) hop he]
  simp only []
  rw [endCopy_kept hw.engines (c := { c with fault := some (e.code, e.addr) }) hb hr k]
  exact ⟨hw.bytes, mapGet_mapSet_same _ _ _⟩

end

/-- The first command of a column's copy queue is performed where nothing holds it back. -/
theorem copyPerform_exec {s : State} {col k : Nat} {c : CopyCmd} (hheld : s.copyHeld c = false)
    (hfind : (mapFind s.copies fun _ c => c.col == col && !c.bank && c.stage != 2 && s.gangRuns c.gang) = some (k, c))
    (hf : (s.column col).failed ≠ 2) (hh : (s.column col).halted = false) :
    exec (.copyPerform col) s = .next (s.performCopy k c) ∧ c.col = col := by
  refine ⟨congrArg Host.Outcome.next ?_, ?_⟩
  · unfold State.runCopy
    rw [hfind]
    simp only []
    rw [if_neg (by simp [hf, hh, hheld])]
  · have := List.find?_some hfind
    simp only [Bool.and_eq_true, beq_iff_eq] at this
    exact this.1.1.1

theorem copyPerform_answers {s : State} (hc : Canonical s) {col k : Nat} {c : CopyCmd} {b : Block} (hheld : s.copyHeld c = false)
    (hfind : (mapFind s.copies fun _ c => c.col == col && !c.bank && c.stage != 2 && s.gangRuns c.gang) = some (k, c))
    (hf : (s.column col).failed ≠ 2) (hh : (s.column col).halted = false) (hlen : c.done < c.len) (hd : c.done % 256 = 0)
    (hacq : c.stage = 0 → c.ord.acq = false)
    (hlast : c.len ≤ c.done + 256 → bit c.barrier 31 = false ∧ c.ord.rel = false) (hb : s.block c.block = some b)
    (hr : b.retired = false) :
    (∀ src dst, c.op = .cpy ∨ c.op = .cpy2 ∨ c.op = .cpyx → placesOrFault ((s.walkedFor c).copyByte c false) c.next = .ok src →
      placesOrFault ((s.walkedFor c).copyByte c true) c.next = .ok dst →
      Answers (.copyPerform col) s fun t => mapGet t.copies k = some c.after
        ∧ StoresHere s t (writtenAt dst (src.map fun l => ((s.walkedFor c).readLoc col l).1)))
    ∧ (∀ dst, c.op = .cpyz → placesOrFault ((s.walkedFor c).copyByte c true) c.next = .ok dst →
        Answers (.copyPerform col) s fun t => mapGet t.copies k = some c.after
          ∧ StoresHere s t (writtenAt dst (List.replicate c.next.length 0)))
    ∧ ∀ e, c.op = .cpy ∨ c.op = .cpy2 ∨ c.op = .cpyx → placesOrFault ((s.walkedFor c).copyByte c false) c.next = .error e →
        Answers (.copyPerform col) s fun t => SameBytes s t
          ∧ mapGet t.copies k = some { c with fault := some (e.code, e.addr), stage := 2 } := by
  obtain ⟨hexec, hcol⟩ := copyPerform_exec hheld hfind hf hh
  have moves (h : c.op = .cpy ∨ c.op = .cpy2 ∨ c.op = .cpyx) : c.op ≠ .cpyz := by
    rintro e
    rw [e] at h
    simp at h
  refine ⟨fun src dst hop hsrc hdst => ⟨_, hexec, ?_⟩, fun dst hop hdst => ⟨_, hexec, ?_⟩, fun e hop he => ⟨_, hexec, ?_⟩⟩
  · have h := performCopy_stores (k := k) hc hlen hd hacq hlast hb hr ((if_neg (moves hop)).trans hsrc) hdst
    rw [if_neg (moves hop), State.engineRead, List.map_map, hcol] at h
    exact h
  · have h := performCopy_stores (k := k) hc hlen hd hacq hlast hb hr (if_pos hop) hdst
    rw [if_pos hop, List.map_map, show (Prod.fst ∘ fun _ : Nat => ((0 : Byte), false)) = Function.const Nat 0 from rfl,
      List.map_const] at h
    exact h
  · exact performCopy_faults hlen hd hacq hb hr (moves hop) he

end Sys2Proof.Machine
end

section
/-! The bank logic (R324-R326): a unit of BZERO and of BCOPY stores its bytes, and BFENCE leaves its queue. -/

namespace Sys2Proof.Machine

open Sys2Proof

/-! ### Places -/

theorem length_placesOrFault {f : Nat → Except Cause Loc} : ∀ {l : List Nat} {ls : List Loc},
    placesOrFault f l = .ok ls → ls.length = l.length
  | [], ls, h => by cases h; rfl
  | i :: l, ls, h => by
    unfold placesOrFault at h
    split at h
    · cases h
    · split at h
      · cases h
      · next hrest =>
        cases h
        exact congrArg (· + 1) (length_placesOrFault hrest)

/-- A unit of a bank command lies in 1,024 bytes of column memory (R325). -/
theorem bankUnit_places {s : State} {c : CopyCmd} {write : Bool} {u : Nat} {ls : List Loc} (h : s.bankUnit c write u = .ok ls) :
    ls.length = 1024 ∧ ∀ l ∈ ls, Here l := by
  unfold State.bankUnit at h
  simp only [] at h
  split at h
  · cases h
  · next hp =>
    split at h
    · next hall =>
      cases h
      refine ⟨(length_placesOrFault hp).trans (by simp), fun l hl => ?_⟩
      have := List.all_eq_true.mp hall l hl
      cases l with
      | mem _ _ _ => trivial
      | host _ | spad _ _ | peer _ _ _ => cases this
    · cases h

theorem writtenAt_zeros {ls : List Loc} {n : Nat} (h : ls.length = n) :
    (ls.map fun l => ({ loc := l, va := 0, byte := 0, poison := false } : ByteW)) = writtenAt ls (List.replicate n 0) := by
  have hz : ls.zip (ls.map fun _ => (0 : Byte)) = ls.map fun l => (l, 0) := by
    simpa using List.zip_map' (l := ls) (f := id) (g := fun _ => (0 : Byte))
  rw [writtenAt, ← h, ← List.map_const', hz, List.map_map]
  rfl

/-! ### What the bank logic does to the caches -/

theorem undisturbed_onSector (s : State) (a c : Nat) (l : Loc) (g : Sector → Option Sector) : Undisturbed s (s.onSector a c l g) := by
  unfold State.onSector
  simp only []
  refine undisturbed_foldl (fun t x => ?_) _ s
  split
  · exact undisturbed_dropSector _ _ _ _
  · refine undisturbed_trans (undisturbed_ite (undisturbed_same t) (undisturbed_ite (undisturbed_cleanLines _ _) ?_))
      (undisturbed_modColumn _ _ _ fun _ => rfl)
    exact undisturbed_trans (undisturbed_storePsn _ _ _) (undisturbed_meter _ _ _ _ _)

theorem engineKept_onSector (s : State) (a c : Nat) (l : Loc) (g : Sector → Option Sector) : EngineKept s (s.onSector a c l g) := by
  have stored (t : State) (n : Nat) : EngineKept t (t.storePsn c n) := engineKept_of rfl rfl rfl
  unfold State.onSector
  simp only []
  refine engineKept_foldl (fun t x => ?_) _ s
  split
  · exact bookkeeping_dropSector engineKept_bookkeeping _ _ _ _
  · refine engineKept_trans (engineKept_ite (engineKept_same t) (engineKept_ite (engineKept_cleanLines _ _) ?_))
      (engineKept_bookkeeping.column _ _ _)
    exact engineKept_trans (stored _ _) (engineKept_bookkeeping.metered _ _ _ _ _)

theorem bankReads_kept (s : State) (c : CopyCmd) (ls : List Loc) :
    Undisturbed s (s.bankReads c ls) ∧ EngineKept s (s.bankReads c ls) := by
  unfold State.bankReads State.cleanSector
  split
  · exact ⟨undisturbed_trans (undisturbed_trans (undisturbed_cleanL1 _ _ _) (undisturbed_onSector _ _ _ _ _))
        (undisturbed_correctSector _ _ _),
      engineKept_trans (engineKept_trans (engineKept_cleanL1 _ _ _) (engineKept_onSector _ _ _ _ _))
        (bookkeeping_correctSector engineKept_bookkeeping _ _ _)⟩
  · exact ⟨undisturbed_same s, engineKept_same s⟩

theorem bankWrote_kept (s : State) (c : CopyCmd) (ls : List Loc) :
    SameArrays s (s.bankWrote c ls) ∧ EngineKept s (s.bankWrote c ls) := by
  unfold State.bankWrote
  split
  · next l _ =>
    simp only []
    generalize ((List.range 4).flatMap fun k => (s.core c.col k).l1.filter fun e => e.dirty && e.ploc.sameSector l) = gone
    have settled : Undisturbed s (gone.foldl (fun s e => s.settleBelow e.ploc) s) ∧ EngineKept s _ :=
      ⟨undisturbed_foldl (fun t e => undisturbed_settleBelow t e.ploc) gone s,
        engineKept_foldl (fun t e => engineKept_settleBelow t e.ploc) gone s⟩
    generalize gone.foldl (fun s e => s.settleBelow e.ploc) s = t at settled ⊢
    have dropped (u : State) (k : Nat) : SameArrays u (if mapGet u.cores (4 * c.col + k) = none then u
          else u.modCore c.col k fun k => { k with l1 := k.l1.filter fun e => !e.ploc.sameSector l })
        ∧ EngineKept u (if mapGet u.cores (4 * c.col + k) = none then u
          else u.modCore c.col k fun k => { k with l1 := k.l1.filter fun e => !e.ploc.sameSector l }) := by
      split
      · exact ⟨⟨rfl, rfl, rfl, rfl, rfl⟩, engineKept_same u⟩
      · exact ⟨⟨rfl, rfl, rfl, rfl, rfl⟩, engineKept_modCore _ _ _ fun _ => rfl⟩
    have swept (u : State) := List.foldlRecOn (motive := fun v : State => SameArrays u v ∧ EngineKept u v) (List.range 4)
      (fun u k => if mapGet u.cores (4 * c.col + k) = none then u
        else u.modCore c.col k fun k => { k with l1 := k.l1.filter fun e => !e.ploc.sameSector l })
      ⟨⟨rfl, rfl, rfl, rfl, rfl⟩, engineKept_same u⟩
      fun v hv k _ => ⟨sameArrays_trans hv.1 (dropped v k).1, engineKept_trans hv.2 (dropped v k).2⟩
    obtain ⟨hu, hk⟩ := settled
    refine ⟨sameArrays_trans (sameArrays_of_undisturbed hu) (sameArrays_trans ?_ (swept _).1),
      engineKept_trans hk (engineKept_trans (engineKept_bookkeeping.column t c.col _) (swept _).2)⟩
    exact ⟨rfl, rfl, rfl, rfl, rfl⟩
  · exact ⟨⟨rfl, rfl, rfl, rfl, rfl⟩, engineKept_same s⟩

theorem bankMeter_kept (s : State) (c : CopyCmd) : SameArrays s (s.bankMeter c) ∧ EngineKept s (s.bankMeter c) := by
  unfold State.bankMeter
  simp only []
  split_ifs <;> exact ⟨⟨rfl, rfl, rfl, rfl, rfl⟩, engineKept_of rfl rfl rfl⟩

theorem walked_walkUnit (s : State) (c : CopyCmd) (u : Nat) : Walked s (s.walkUnit c u) := by
  have side (t : State) (ptr : Addr) : Walked t (if 2 ^ 48 ≤ ptr.toNat % 2 ^ 48 + 1024 * u then t
      else t.walkBytes c.asid c.col (ptr + BitVec.ofNat 64 (1024 * u)) 1024) :=
    walked_ite (walked_same t) (walked_walkBytes _ _ _ _ _)
  exact walked_ite (side s c.dst) (walked_trans (side s c.src) (side _ c.dst))

/-! ### A unit -/

/-- Bytes stored are stored whether or not they are poisoned. -/
theorem storesHere_map_poisonedAs {s t : State} {bs : List ByteW} (psn : Bool) (h : StoresHere s t bs) :
    StoresHere s t (bs.map (poisonedAs psn)) := by
  intro l hl hk
  rw [lastByte_map (poisonedAs psn) fun b => ⟨rfl, rfl⟩]
  exact h l hl (by simpa [poisonedAs] using hk)

theorem bankStep_zeroes {s t : State} (hc : Canonical s) (h : Undisturbed s t) {c : CopyCmd} {u : Nat} {ls : List Loc}
    (hop : c.op = .bzero) (hls : t.bankUnit c true u = .ok ls) :
    ∃ v, t.bankStep c u = .ok (v, none) ∧ EngineKept t v ∧ StoresHere s v (writtenAt ls (List.replicate 1024 0)) := by
  let w := t.writeBytes c.col (writtenAt ls (List.replicate 1024 0))
  obtain ⟨arrays, kept⟩ := bankWrote_kept w c ls
  refine ⟨w.bankWrote c ls, ?_, engineKept_trans (engineKept_writeBytes _ _ _) kept,
    storesHere_of_writeBytes hc.mem hc.spad (sameArrays_of_undisturbed h) arrays⟩
  unfold State.bankStep
  simp only [hop, hls]
  rw [writtenAt_zeros (bankUnit_places hls).1]

theorem bankStep_copies {s t : State} (hc : Canonical s) (h : Undisturbed s t) {c : CopyCmd} {u : Nat} {src ls : List Loc}
    (hop : c.op = .bcopy) (hsrc : t.bankUnit c false u = .ok src) (hls : t.bankUnit c true u = .ok ls) :
    ∃ v, t.bankStep c u = .ok (v, none) ∧ EngineKept t v
      ∧ StoresHere s v (writtenAt ls (src.map fun l => (t.readLoc c.col l).1)) := by
  let r := t.bankReads c src
  let bs := (ls.zip (r.engineRead c.col src)).map fun p => ({ loc := p.1, va := 0, byte := p.2.1, poison := p.2.2 } : ByteW)
  obtain ⟨hr, hrk⟩ := bankReads_kept t c src
  obtain ⟨arrays, kept⟩ := bankWrote_kept (r.writeBytes c.col bs) c ls
  have hbs : bs.map (poisonedAs false) = writtenAt ls (src.map fun l => (t.readLoc c.col l).1) := by
    have hread : (r.engineRead c.col src).map Prod.fst = src.map fun l => (t.readLoc c.col l).1 := by
      rw [State.engineRead, List.map_map]
      exact List.map_congr_left fun l hl =>
        readLoc_sameArrays (sameArrays_of_undisturbed hr) c.col ((bankUnit_places hsrc).2 l hl)
    rw [writtenAt, ← hread, List.zip_map_right, List.map_map, List.map_map]
    rfl
  refine ⟨(r.writeBytes c.col bs).bankWrote c ls, ?_,
    engineKept_trans hrk (engineKept_trans (engineKept_writeBytes _ _ _) kept), ?_⟩
  · unfold State.bankStep
    simp only [hop, hsrc, hls]
    rfl
  · rw [← hbs]
    exact storesHere_map_poisonedAs false
      (storesHere_of_writeBytes hc.mem hc.spad (sameArrays_of_undisturbed (undisturbed_trans h hr)) arrays)

/-- A unit performed without a difference found: the command stands at its next unit, or is over. -/
theorem performBank_stores {s : State} {n : Nat} {c : CopyCmd} {b : Block} (hlen : c.done < c.len)
    (hacq : c.stage = 0 → c.ord.acq = false) (hrel : c.len ≤ c.done + 1024 → c.ord.rel = false)
    (hb : s.block c.block = some b) (hr : b.retired = false) {v : State} {bs : List ByteW}
    (hstep : (s.walkUnit c (c.done / 1024)).bankStep c (c.done / 1024) = .ok (v, none)) (hk : EngineKept s v)
    (hs : StoresHere s v bs) :
    mapGet (s.performBank n c).copies n
        = some { c with done := c.done + 1024, stage := if c.len ≤ c.done + 1024 then 2 else 1 }
      ∧ StoresHere s (s.performBank n c) bs := by
  have hbegin : (if c.stage = 0 then s.engineAcquire c.col 0 c.ord else s) = s := by
    split
    · next h => exact if_neg (by rw [hacq h]; decide)
    · rfl
  obtain ⟨arrays, metered⟩ := bankMeter_kept v c
  have hk := engineKept_trans hk metered
  have stored {t : State} (ht : SameArrays (v.bankMeter c) t) : StoresHere s t bs := fun l hl hkey =>
    (readLoc_sameArrays (sameArrays_trans arrays ht) 0 hl).trans (hs l hl hkey)
  unfold State.performBank
  simp only [hbegin]
  rw [if_neg (by omega), hstep]
  simp only []
  by_cases hend : c.len ≤ c.done + 1024
  · rw [if_neg (by omega), if_pos hend, State.engineRelease, if_neg (by simp [hrel hend]),
      endCopy_kept hk (c := { c with done := c.done + 1024, stage := 1 }) hb hr n]
    exact ⟨mapGet_mapSet_same _ _ _, stored ⟨rfl, rfl, rfl, rfl, rfl⟩⟩
  · rw [if_pos (by omega), if_neg hend]
    exact ⟨mapGet_mapSet_same _ _ _, stored ⟨rfl, rfl, rfl, rfl, rfl⟩⟩

/-- What a command of a bank queue that may begin, and that nothing holds back, does. -/
theorem bankPerform_exec {s : State} {col n : Nat} {c : CopyCmd} (hn : mapGet s.copies n = some c) (hcol : c.col = col)
    (hbank : c.bank = true) (hst : c.stage ≠ 2) (hg : s.gangRuns c.gang = true) (hf : (s.column col).failed ≠ 2)
    (hh : (s.column col).halted = false) (hready : s.bankReady n c = true) (hheld : s.copyHeld c = false) :
    exec (.bankCommandPerform col n) s = .next (if c.op = .bfence
      then ({ s with copies := mapErase s.copies n } : State).continueRest c.warp else s.performBank n c) := by
  refine congrArg Host.Outcome.next ?_
  unfold State.runBank
  simp only [hn]
  rw [if_neg (by simp [hcol, hbank, hst, hg, hf, hh, hready, hheld])]

theorem bankPerform_answers {s : State} (hc : Canonical s) {col n : Nat} {c : CopyCmd} (hn : mapGet s.copies n = some c)
    (hcol : c.col = col) (hbank : c.bank = true) (hst : c.stage ≠ 2) (hg : s.gangRuns c.gang = true)
    (hf : (s.column col).failed ≠ 2) (hh : (s.column col).halted = false) (hready : s.bankReady n c = true)
    (hheld : s.copyHeld c = false) :
    (c.op = .bfence → exec (.bankCommandPerform col n) s
      = .next (({ s with copies := mapErase s.copies n } : State).continueRest c.warp))
    ∧ ∀ ls b, c.done < c.len → (c.stage = 0 → c.ord.acq = false) → (c.len ≤ c.done + 1024 → c.ord.rel = false) →
        s.block c.block = some b → b.retired = false →
        let s1 := s.walkUnit c (c.done / 1024)
        s1.bankUnit c true (c.done / 1024) = .ok ls →
        let unit (bs : List Byte) : Prop := Answers (.bankCommandPerform col n) s fun t =>
          mapGet t.copies n
            = some { c with done := c.done + 1024, stage := if c.len ≤ c.done + 1024 then 2 else 1 }
          ∧ StoresHere s t (writtenAt ls bs)
        (c.op = .bzero → unit (List.replicate 1024 0))
        ∧ ∀ src, c.op = .bcopy → s1.bankUnit c false (c.done / 1024) = .ok src →
            unit (src.map fun l => (s1.readLoc col l).1) := by
  have hexec := bankPerform_exec hn hcol hbank hst hg hf hh hready hheld
  have hw := walked_walkUnit s c (c.done / 1024)
  refine ⟨fun hop => hexec.trans (congrArg _ (if_pos hop)), fun ls b hlen hacq hrel hb hr => ?_⟩
  intro s1 hls unit
  refine ⟨fun hop => ?_, fun src hop hsrc => ?_⟩
  · obtain ⟨v, hv, hk, hs⟩ := bankStep_zeroes hc hw.undisturbed hop hls
    exact ⟨_, hexec.trans (congrArg _ (if_neg (by rw [hop]; decide))),
      performBank_stores hlen hacq hrel hb hr hv (engineKept_trans hw.engines hk) hs⟩
  · obtain ⟨v, hv, hk, hs⟩ := bankStep_copies hc hw.undisturbed hop hsrc hls
    rw [hcol] at hs
    exact ⟨_, hexec.trans (congrArg _ (if_neg (by rw [hop]; decide))),
      performBank_stores hlen hacq hrel hb hr hv (engineKept_trans hw.engines hk) hs⟩

end Sys2Proof.Machine
end

section
/-! A change of the scratchpad's partition (R296, R353). -/

namespace Sys2Proof.Machine

open Sys2Proof

/-- Without an arrival to settle nothing changes. -/
theorem settleSome_none {s : State} {mine : Nat × Nat × Nat × Word → Bool} (h : ∀ kv ∈ s.arrivals, mine kv.2 = false) :
    s.settleSome mine = s := by
  have hgone : s.arrivals.filter (fun kv => mine kv.2) = [] := List.filter_eq_nil_iff.mpr fun kv hk => by simp [h kv hk]
  have hstay : s.arrivals.filter (fun kv => !mine kv.2) = s.arrivals := List.filter_eq_self.mpr fun kv hk => by simp [h kv hk]
  unfold State.settleSome
  rw [hgone, hstay]
  rfl

/-- A warp whose run has nothing behind it goes on no further. -/
theorem continueRest_done {s : State} {w : Nat} (h : ∀ x, s.warp w = some x → x.rest = none) : s.continueRest w = s := by
  have once : s.continueOnce w = s := by
    unfold State.continueOnce
    cases hw : s.warp w with
    | none => rfl
    | some x => simp only [h x hw]
  exact List.foldlRecOn (motive := (· = s)) _ _ rfl fun t ht _ _ => by rw [ht, once]

/-- Bytes of a scratchpad made zero. -/
theorem cellGet_clearSpad {s : State} (hw : Memory.wf s.spad = true) {col lo hi : Nat} (hlo : lo ≤ 2 ^ 24) (hhi : hi ≤ 2 ^ 24)
    {c o : Nat} (ho : o < 2 ^ 24) : cellGet (s.clearSpad col lo hi).spad (spadKey c o)
      = if c = col ∧ lo ≤ o ∧ o < hi then 0 else cellGet s.spad (spadKey c o) := by
  have h := cellGet_filter (fun n => decide (n < spadKey col lo) || decide (spadKey col hi ≤ n)) hw (spadKey c o)
  simp only [Bool.or_eq_true, decide_eq_true_eq] at h
  refine h.trans ?_
  unfold spadKey
  by_cases hin : c = col ∧ lo ≤ o ∧ o < hi
  · rw [if_neg (by omega), if_pos hin]
  · rw [if_pos (by omega), if_neg hin]

/-- The machine once the cache has given up its ways to a scratchpad that grows to `v` ways. -/
def State.waysGiven (s : State) (col v : Nat) : State :=
  if (s.column col).cwp < v then
    ((s.column col).sectors.filter fun x =>
      !x.zero && decide (16 - v ≤ x.way) && decide (x.way < 16 - (s.column col).cwp)).foldl
        (fun s x => s.dropSector (((mapGet s.keys x.slot).map Prod.fst).getD 0) col x) s
  else s

theorem setWays_eq (s : State) (col v : Nat) : s.setWays col v
    = ((s.waysGiven col v).clearSpad col (min v (s.column col).cwp * 2 ^ 20) (max v (s.column col).cwp * 2 ^ 20)).modColumn col
      fun c => { c with cwp := v } := by
  unfold State.setWays State.waysGiven
  simp only []
  split
  · next h => rw [Nat.min_eq_right (by omega), Nat.max_eq_left (by omega)]
  · next h => rw [Nat.min_eq_left (by omega), Nat.max_eq_right (by omega)]

theorem waysGiven_kept (s : State) (col v : Nat) : Kept s (s.waysGiven col v) ∧ Cached s (s.waysGiven col v) := by
  unfold State.waysGiven
  exact ⟨kept_ite (kept_foldl (fun t x => kept_dropSector t _ _ _) _ s) (kept_same s),
    cached_ite (cached_foldl (fun t x => cached_dropSector t _ _ _) _ s) (cached_same s)⟩

theorem sameWork_of_cached {s t : State} (h : Cached s t) : SameWork s t := by
  rw [h.eq]
  exact ⟨rfl, rfl, rfl, rfl⟩

/-- The next waiting change of a partition, with no arrival before it (R296). -/
theorem nextPart_spec {s : State} (hc : Canonical s) {col v w : Nat} {rest : List (Nat × Nat)}
    (hp : (s.column col).parts = (v, w) :: rest) (hv : v ≤ 12) (hk : (s.column col).cwp ≤ 12) (hheld : s.poolHeld col w = false)
    (hbefore : s.beforePart w = false) (harr : ∀ kv ∈ s.arrivals, kv.2.2.1 ≠ col) :
    let t := s.nextPart col
    (t.column col).cwp = v ∧ (t.column col).parts = rest
      ∧ (∀ c o, o < 2 ^ 24 → cellGet t.spad (spadKey c o)
          = if c = col ∧ min v (s.column col).cwp * 2 ^ 20 ≤ o ∧ o < max v (s.column col).cwp * 2 ^ 20 then 0
            else cellGet s.spad (spadKey c o))
      ∧ t.mem = s.mem ∧ t.peer = s.peer ∧ WrittenBack s t ∧ SameWork s t := by
  have he : s.nextPart col = (s.setWays col v).modColumn col fun c => { c with parts := rest } := by
    unfold State.nextPart
    simp only [hp, hheld, hbefore]
    rw [settleSome_none fun kv h => by simpa using harr kv h]
    rfl
  obtain ⟨kept, cached⟩ := waysGiven_kept s col v
  have hspad := (kept 0).spad
  obtain ⟨hwarps, hblocks, hgangs, hgrids⟩ := sameWork_of_cached cached
  intro t
  have ht : t = _ := he
  rw [setWays_eq] at ht
  rw [ht]
  generalize s.waysGiven col v = u at kept hspad hwarps hblocks hgangs hgrids
  refine ⟨?_, ?_, fun c o ho => ?_, (kept 0).mem, (kept 0).peer, ((kept 0).host hc.host).2, hwarps, hblocks, hgangs, hgrids⟩
  · rw [State.column_modColumn, State.column_modColumn]
  · rw [State.column_modColumn]
  · refine (cellGet_clearSpad (s := u) (by rw [hspad]; exact hc.spad) ?_ ?_ ho).trans (by rw [hspad])
    · omega
    · omega

theorem partitionChange_answers {s : State} (hc : Canonical s) {col v w : Nat} {rest : List (Nat × Nat)}
    (hp : (s.column col).parts = (v, w) :: rest) (hv : v ≤ 12) (hk : (s.column col).cwp ≤ 12) (hheld : s.poolHeld col w = false)
    (hbefore : s.beforePart w = false) :
    exec (.partitionChange col) s = .next ((s.nextPart col).continueRest w) ∧ ((∀ x, s.warp w = some x → x.rest = none) →
      (∀ kv ∈ s.arrivals, kv.2.2.1 ≠ col) →
      Answers (.partitionChange col) s fun t => (t.column col).cwp = v ∧ (t.column col).parts = rest
        ∧ (∀ c o, o < 2 ^ 24 → cellGet t.spad (spadKey c o)
            = if c = col ∧ min v (s.column col).cwp * 2 ^ 20 ≤ o ∧ o < max v (s.column col).cwp * 2 ^ 20 then 0
              else cellGet s.spad (spadKey c o))
        ∧ t.mem = s.mem ∧ t.peer = s.peer ∧ WrittenBack s t ∧ SameWork s t) := by
  have hexec : exec (.partitionChange col) s = .next ((s.nextPart col).continueRest w) := by
    refine congrArg Host.Outcome.next ?_
    unfold State.changePart
    rw [hp]
  refine ⟨hexec, fun hrest harr => ⟨_, hexec, ?_⟩⟩
  have hspec := nextPart_spec hc hp hv hk hheld hbefore harr
  have ⟨_, _, _, _, _, _, hwarps, _⟩ := hspec
  rw [continueRest_done fun x hx => hrest x (by rw [State.warp, hwarps] at hx; exact hx)]
  exact hspec

end Sys2Proof.Machine
end

section
/-! What a walk and an operand of the matrix engine do not meet (R213, R225, R363-R366): the cores, with the block that an
engine serves. -/

namespace Sys2Proof.Machine

open Sys2Proof

/-- A machine with other cores. -/
def State.withCores (s : State) (k : AMap Core) : State := { s with cores := k }

section
variable (k : AMap Core)

@[simp] theorem withCores_errs (s : State) : (s.withCores k).errs = s.errs := rfl
@[simp] theorem withCores_column (s : State) (n : Nat) : (s.withCores k).column n = s.column n := rfl
@[simp] theorem withCores_ctx (s : State) (n : Nat) : (s.withCores k).ctx n = s.ctx n := rfl
@[simp] theorem withCores_calm (s : State) (n : Nat) : (s.withCores k).calm n = s.calm n := rfl
@[simp] theorem withCores_pte (s : State) (n a : Nat) : (s.withCores k).pte n a = s.pte n a := rfl
@[simp] theorem withCores_resolve (s : State) (a n : Nat) (ptr : Addr) : (s.withCores k).resolve a n ptr = s.resolve a n ptr := rfl
@[simp] theorem withCores_meter (s : State) (a c n m : Nat) : (s.withCores k).meter a c n m = (s.meter a c n m).withCores k := rfl
@[simp] theorem withCores_modColumn (s : State) (c : Nat) (f : Column → Column) :
    (s.withCores k).modColumn c f = (s.modColumn c f).withCores k := rfl
@[simp] theorem withCores_readMade (s : State) (n : Nat) : (s.withCores k).readMade n = (s.readMade n).withCores k := rfl

theorem withCores_ite {b : Prop} [Decidable b] (s t : State) :
    (if b then s else t).withCores k = if b then s.withCores k else t.withCores k := apply_ite (State.withCores · k) b s t

theorem withCores_foldl {α : Type} {g : State → α → State} (h : ∀ s a, g (s.withCores k) a = (g s a).withCores k)
    (l : List α) (s : State) : l.foldl g (s.withCores k) = (l.foldl g s).withCores k :=
  List.foldl_hom (fun s : State => s.withCores k) h

@[simp] theorem withCores_raiseVector (s : State) (v : Nat) : (s.withCores k).raiseVector v = (s.raiseVector v).withCores k := by
  simp only [State.raiseVector, State.trySend, withCores_ite]
  rfl

@[simp] theorem withCores_cellLog (s : State) (c l y q m : Nat) :
    (s.withCores k).cellLog c l y q m = (s.cellLog c l y q m).withCores k := by
  simp only [State.cellLog, withCores_ite, withCores_modColumn, withCores_raiseVector]
  rfl

@[simp] theorem withCores_needLine (s : State) (c l : Nat) : (s.withCores k).needLine c l = (s.needLine c l).withCores k := by
  simp only [State.needLine, withCores_ite]
  rfl

@[simp] theorem withCores_correctLine (s : State) (c l o m : Nat) :
    (s.withCores k).correctLine c l o m = (s.correctLine c l o m).withCores k := by
  simp only [State.correctLine, withCores_needLine, withCores_errs]
  generalize s.needLine c l = t
  cases mapGet t.errs (memKey c (32 * l) / 32) with
  | none => rfl
  | some e =>
    simp only [withCores_ite, ← withCores_cellLog]
    rfl

@[simp] theorem withCores_readLines (s : State) (c f n : Nat) :
    (s.withCores k).readLines c f n = (s.readLines c f n).withCores k := by
  rw [State.readLines, State.readLines, withCores_ite]
  exact if_congr Iff.rfl rfl (withCores_foldl k (fun s i => by rw [withCores_correctLine, withCores_readMade]) _ s)

@[simp] theorem withCores_walkPath (s : State) (p o : Nat) :
    ∀ (l : List Nat) (t : Nat), (s.withCores k).walkPath p o l t = s.walkPath p o l t
  | [], _ => rfl
  | level :: rest, t => by simp only [State.walkPath, withCores_pte, withCores_walkPath s p o rest]

@[simp] theorem withCores_correctWalk (s : State) (a p l o : Nat) :
    (s.withCores k).correctWalk a p l o = (s.correctWalk a p l o).withCores k := by
  simp only [State.correctWalk, withCores_walkPath, withCores_ctx, withCores_calm]
  cases (s.ctx a).rootOf p l with
  | none => rfl
  | some root =>
    simp only [withCores_ite]
    exact if_congr Iff.rfl rfl (withCores_foldl k (fun s b => withCores_readLines k s _ _ _) _ s)

@[simp] theorem withCores_fillTlb (s : State) (p : Nat) (e : TlbEntry) :
    (s.withCores k).fillTlb p e = (s.fillTlb p e).withCores k := by
  simp only [State.fillTlb, withCores_meter, withCores_correctWalk, ← withCores_modColumn, withCores_ite]
  rfl

theorem withCores_walkFrom (s : State) (a p l o : Nat) (ptr : Addr) : ∀ (ls : List Nat) (t : Nat),
    (s.withCores k).walkFrom a p l o ptr ls t = s.walkFrom a p l o ptr ls t
  | [], _ => rfl
  | level :: rest, t => by
    simp only [State.walkFrom, withCores_pte, withCores_walkFrom s a p l o ptr rest]
    rfl

@[simp] theorem withCores_leaf (s : State) (a p l o : Nat) (ptr : Addr) :
    (s.withCores k).leaf a p l o ptr = s.leaf a p l o ptr := by
  simp only [State.leaf, withCores_walkFrom, withCores_column, withCores_ctx]

theorem withCores_walkPtr (s : State) (a c : Nat) (ptr : Addr) :
    (s.withCores k).walkPtr a c ptr = (s.walkPtr a c ptr).withCores k := by
  simp only [State.walkPtr, withCores_leaf, withCores_fillTlb, withCores_walkPath, withCores_meter, withCores_correctWalk,
    withCores_ctx, withCores_resolve]
  cases s.resolve a c ptr with
  | error _ => rfl
  | ok lo =>
    simp only []
    cases (s.ctx a).pcol lo.1 with
    | none => rfl
    | some q => cases hl : s.leaf a q lo.1 lo.2 ptr <;> simp only [hl]

/-- The walks for an operand are the same beside any cores. -/
theorem withCores_matWalk (s : State) (c : MatCtx) (d : Desc) (os : List Nat) :
    (s.withCores k).matWalk c d os = (s.matWalk c d os).withCores k := by
  simp only [State.matWalk, withCores_ite]
  exact if_congr Iff.rfl rfl (withCores_foldl k (fun s p => withCores_walkPtr k s _ _ p) _ s)

/-- And so is where its bytes lie. -/
theorem withCores_matByte (s : State) (c : MatCtx) (d : Desc) (need : Need) :
    (s.withCores k).matByte c d need = s.matByte c d need := by
  funext o
  simp only [State.matByte, State.engineByte, State.enginePlace, withCores_leaf, withCores_resolve, withCores_column]
  rfl

theorem withCores_matElem (s : State) (c : MatCtx) (d : Desc) (w j n : Nat) :
    (s.withCores k).matElem c d w j n = s.matElem c d w j n := by
  simp only [State.matElem, withCores_matByte]
  rfl

theorem withCores_chunkOf (s : State) (c : MatCtx) (d : Desc) (sl : Slot64) (along : Bool) (n ch i : Nat) :
    (s.withCores k).chunkOf c d sl along n ch i = s.chunkOf c d sl along n ch i := by
  simp only [State.chunkOf, State.operand, withCores_matElem]

theorem withCores_matLine (s : State) (c : MatCtx) (m : MatCmd) (j : Nat) :
    (s.withCores k).matLine c m j = s.matLine c m j := by
  simp only [State.matLine, withCores_matElem]

theorem withCores_mstPlaces (s : State) (c : MatCtx) (m : MatCmd) (j : Nat) :
    (s.withCores k).mstPlaces c m j = s.mstPlaces c m j := by
  simp only [State.mstPlaces, withCores_matByte]

end

end Sys2Proof.Machine
end

section
/-! A unit of the matrix engine (R209, R215-R217, R224, R225, R228-R231): a chunk of MMA and MMAT, MZERO, and a line of MLDZ and
MST, for the block that the engine serves. -/

namespace Sys2Proof.Machine

open Sys2Proof

/-! ### Elements of a tile -/

/-- A map made by a rule that leaves one value out. -/
theorem mapGet_ruled {α : Type} [DecidableEq α] (z : α) (g : Nat → α) (n : Nat) : ∀ k,
    mapGet ((List.range k).filterMap fun i => if g i = z then none else some (i, g i)) n
      = if n < k ∧ g n ≠ z then some (g n) else none
  | 0 => by simp [mapGet]
  | k + 1 => by
    rw [List.range_succ, List.filterMap_append, mapGet_append, mapGet_ruled z g n k]
    by_cases hk : n = k
    · subst hk
      by_cases hg : g n = z
      · simp [hg, mapGet]
      · simp [hg, mapGet]
    · have hlt : n < k + 1 ↔ n < k := by omega
      by_cases hg : g k = z
      · simp [hg, mapGet, hlt]
      · simp [hg, mapGet, hlt, Ne.symm hk]

/-- A tile made by a rule holds what the rule says. -/
theorem mapGetD_tileElems (g : Nat → Nat → BitVec 48) {i j : Nat} (hi : i < 192) (hj : j < 128) :
    mapGetD (tileElems g) (128 * i + j) 0 = g i j := by
  have h := mapGet_ruled 0 (fun n => g (n / 128) (n % 128)) (128 * i + j) (192 * 128)
  rw [show (128 * i + j) / 128 = i by omega, show (128 * i + j) % 128 = j by omega] at h
  refine (congrArg (Option.getD · 0) h).trans ?_
  by_cases hg : g i j = 0
  · rw [if_neg fun hn => hn.2 hg, hg]
    rfl
  · rw [if_pos ⟨by omega, hg⟩]
    rfl

/-- The values of position `p` of a chunk. -/
def chunkRow (ch : Nat) (l : List MatElem) (p : Nat) : List FVal := ((l.drop (p * ch)).take ch).map MatElem.v

theorem getD_map_range {α : Type} (f : Nat → List α) {n i : Nat} (h : i < n) : ((List.range n).map f).getD i [] = f i := by
  simp [List.getD_eq_getElem?_getD, h]

/-- An integer tile after a chunk (R215). -/
theorem addChunk_int (t : Tile) (ch : Nat) (as bs : List MatElem) {i j : Nat} (hi : i < 192) (hj : j < 128) :
    (t.addChunk true ch as bs).at_ i j = BitVec.ofInt 48 ((t.at_ i j).toInt
      + (((chunkRow ch as i).zip (chunkRow ch bs j)).map fun p => p.1.int * p.2.int).sum) := by
  unfold Tile.addChunk
  simp only [if_true]
  unfold Tile.at_
  rw [mapGetD_tileElems _ hi hj, getD_map_range _ hi, getD_map_range _ hj]
  rfl

/-- A floating tile after a chunk (R215). -/
theorem addChunk_float (t : Tile) (ch : Nat) (as bs : List MatElem) {i j : Nat} (hi : i < 192) (hj : j < 128) :
    (t.addChunk false ch as bs).at_ i j = BitVec.ofNat 48 (add32 ((t.at_ i j).toNat % 2 ^ 32)
      (chunkTerm ((chunkRow ch as i).zip (chunkRow ch bs j)))) := by
  unfold Tile.addChunk
  simp only [Bool.false_eq_true, if_false]
  unfold Tile.at_
  rw [mapGetD_tileElems _ hi hj, getD_map_range _ hi, getD_map_range _ hj]
  rfl

/-- A chunk changes neither a tile's mode and product nor its fault. -/
theorem addChunk_state (t : Tile) (int : Bool) (ch : Nat) (as bs : List MatElem) :
    (t.addChunk int ch as bs).mode = t.mode ∧ (t.addChunk int ch as bs).prod = t.prod
      ∧ (t.addChunk int ch as bs).flt = t.flt := by
  unfold Tile.addChunk
  simp only []
  split
  · exact ⟨rfl, rfl, rfl⟩
  · exact ⟨rfl, rfl, rfl⟩

/-! ### A line loaded -/

/-- The key of element `i` of line `j` of a tile. -/
def lineKey (ori : Bool) (j i : Nat) : Nat := 128 * (linePlace ori j i).1 + (linePlace ori j i).2

/-- One element of a line put in its place. -/
def putElem (fmt : Nat) (ori : Bool) (j : Nat) (es : List MatElem) (l : AMap (BitVec 48)) (i : Nat) : AMap (BitVec 48) :=
  match es[i]? with
  | some e => if e.loaded fmt = 0 then mapErase l (lineKey ori j i) else mapSet l (lineKey ori j i) (e.loaded fmt)
  | none => l

theorem mapGetD_putElem (fmt : Nat) (ori : Bool) (j : Nat) {es : List MatElem} (l : AMap (BitVec 48)) {i : Nat} {e : MatElem}
    (he : es[i]? = some e) : mapGetD (putElem fmt ori j es l i) (lineKey ori j i) 0 = e.loaded fmt := by
  unfold putElem
  rw [he]
  simp only []
  split
  · next h => rw [h, mapGetD, mapGet_mapErase, if_pos rfl]; rfl
  · exact mapGetD_mapSet_same _ _ _ _

theorem mapGetD_putElem_ne (fmt : Nat) (ori : Bool) (j : Nat) (es : List MatElem) (l : AMap (BitVec 48)) {i n : Nat}
    (hn : n ≠ lineKey ori j i) : mapGetD (putElem fmt ori j es l i) n 0 = mapGetD l n 0 := by
  unfold putElem
  split
  · split
    · rw [mapGetD, mapGetD, mapGet_mapErase, if_neg hn]
    · exact mapGetD_mapSet_ne _ _ _ hn
  · rfl

theorem lineKey_ne {ori : Bool} {j i k : Nat} (h : k ≠ i) : lineKey ori j k ≠ lineKey ori j i := by
  cases ori
  · simp [lineKey, linePlace, h]
  · simp [lineKey, linePlace, h]

theorem putLine_same (fmt : Nat) (ori : Bool) (j : Nat) {es : List MatElem} (l : AMap (BitVec 48)) {i : Nat} {e : MatElem}
    (he : es[i]? = some e) : ∀ {k}, i < k →
      mapGetD ((List.range k).foldl (putElem fmt ori j es) l) (lineKey ori j i) 0 = e.loaded fmt
  | k + 1, h => by
    rw [List.range_succ, List.foldl_append, List.foldl_cons, List.foldl_nil]
    by_cases hk : i = k
    · rw [← hk]
      exact mapGetD_putElem fmt ori j _ he
    · rw [mapGetD_putElem_ne _ _ _ _ _ (lineKey_ne hk)]
      exact putLine_same fmt ori j l he (by omega)

theorem putLine_ne (fmt : Nat) (ori : Bool) (j : Nat) (es : List MatElem) (l : AMap (BitVec 48)) {n k : Nat}
    (hn : ∀ i < k, n ≠ lineKey ori j i) : mapGetD ((List.range k).foldl (putElem fmt ori j es) l) n 0 = mapGetD l n 0 :=
  List.foldlRecOn (motive := fun m => mapGetD m n 0 = mapGetD l n 0) (List.range k) _ rfl fun m hm i hi =>
    (mapGetD_putElem_ne fmt ori j es m (hn i (List.mem_range.mp hi))).trans hm

/-- A line of a tile lies apart from every other. -/
theorem lineKey_apart {m : MatCmd} (hline : m.next < (lineCount m).1) {i j : Nat} (hj : j < 128)
    (h : (if (descOf m.descA).ori then j else i) ≠ m.next) (k : Nat) (hk : k < (lineCount m).2) :
    128 * i + j ≠ lineKey (descOf m.descA).ori m.next k := by
  unfold lineCount at hline hk
  unfold lineKey linePlace
  cases hori : (descOf m.descA).ori with
  | false =>
    simp only [hori, Bool.false_eq_true, if_false] at h hline hk ⊢
    omega
  | true =>
    simp only [hori, if_true] at h hline hk ⊢
    omega

/-! ### The block of an engine's command -/

/-- What an engine leaves of a command's block before its queue moves on: one tile of the block is `z`. -/
structure TileLeft (s t : State) (m : MatCmd) (b : Block) (z : Tile) : Prop where
  queues : ∀ c k, (t.core c k).engine = (s.core c k).engine
  tile : ∃ b', t.block m.block = some b' ∧ b'.tiles = b.tiles.set m.tile z

section
variable {s t : State} {m : MatCmd} {b : Block} {z : Tile}

theorem tileLeft_of_kept (hb : s.block m.block = some b) (hz : b.tiles[m.tile]? = some z) (h : EngineKept s t) :
    TileLeft s t m b z := by
  refine ⟨h.queues, b, (engineKept_block h _).trans hb, ?_⟩
  obtain ⟨hlt, rfl⟩ := List.getElem?_eq_some_iff.mp hz
  exact (List.set_getElem_self hlt).symm

theorem tileLeft_trans {u : State} (h : TileLeft s t m b z) (g : EngineKept t u) : TileLeft s u m b z := by
  obtain ⟨b', hb, hz⟩ := h.tile
  exact ⟨fun c k => (g.queues c k).trans (h.queues c k), b', (engineKept_block g _).trans hb, hz⟩

theorem tileLeft_modBlock (h : TileLeft s t m b z) {z' : Tile} {f : Block → Block}
    (hf : ∀ x, x.tiles = b.tiles.set m.tile z → (f x).tiles = b.tiles.set m.tile z') :
    TileLeft s (t.modBlock m.block f) m b z' := by
  obtain ⟨b', hb, hz⟩ := h.tile
  unfold State.modBlock
  rw [hb]
  exact ⟨h.queues, f b', mapGet_mapSet_same _ _ _, hf b' hz⟩

theorem tileLeft_setTile (h : TileLeft s t m b z) (z' : Tile) : TileLeft s (t.setTile m z') m b z' :=
  tileLeft_modBlock h fun x hx => by rw [hx, List.set_set]

theorem tileLeft_setCir (h : TileLeft s t m b z) (a c n : Nat) : TileLeft s (t.setCir a c n) m b z :=
  tileLeft_trans h (engineKept_of rfl rfl rfl)

theorem tileLeft_engineConsume (h : TileLeft s t m b z) (a c : Nat) : TileLeft s (t.engineConsume a c m.block) m b z := by
  have counted : TileLeft s ((t.setCir a c 0).countCir a c 32 1) m b z :=
    tileLeft_trans (tileLeft_setCir h a c 0) (engineKept_of rfl rfl rfl)
  exact tileLeft_modBlock counted fun _ hx => hx

theorem tileLeft_ite {p : Prop} [Decidable p] {u : State} (h : TileLeft s t m b z) (g : TileLeft s u m b z) :
    TileLeft s (if p then t else u) m b z := by
  split
  · exact h
  · exact g

theorem engineKept_modWarp (s : State) (w : Nat) (f : Warp → Warp) : EngineKept s (s.modWarp w f) := by
  unfold State.modWarp
  split
  · exact engineKept_of rfl rfl rfl
  · exact engineKept_same s

theorem tileLeft_matFault (h : TileLeft s t m b z) (z' : Tile) (done : Nat) (addr : Addr) :
    TileLeft s (t.matFault m z' done addr) m b { z' with flt := true, fltAt := done } :=
  tileLeft_trans (tileLeft_setTile h _) (engineKept_modWarp _ _ _)

theorem tileOfCmd_eq (h : TileLeft s t m b z) (hz : b.tiles[m.tile]? = some z) : t.tileOfCmd m = z := by
  obtain ⟨b', hb, ht⟩ := h.tile
  obtain ⟨hlt, -⟩ := List.getElem?_eq_some_iff.mp hz
  unfold State.tileOfCmd
  rw [hb, Option.map_some, Option.getD_some, ht]
  simp [List.getD_eq_getElem?_getD, hlt]

/-- The block's tile replaced, and the queue moved on. -/
theorem unitDone_of_left (h : TileLeft s t m b z) (col core units : Nat) :
    UnitDone s (t.modCore col core fun k => { k with
      engine := if decide (units ≤ m.next + 1) then k.engine.erase m else k.engine.replace m { m with next := m.next + 1 } })
      col core m b z units := by
  refine ⟨?_, h.tile⟩
  unfold State.modCore
  rw [State.core, mapGetD_mapSet_same]
  simp only [decide_eq_true_eq, h.queues]

end

/-! ### Bytes that a unit leaves -/

theorem sameBytes_setTile (s : State) (m : MatCmd) (z : Tile) : SameBytes s (s.setTile m z) := by
  unfold State.setTile State.modBlock
  split
  · exact ⟨rfl, rfl, rfl, rfl⟩
  · exact sameBytes_same s

theorem sameBytes_matFault (s : State) (m : MatCmd) (z : Tile) (done : Nat) (addr : Addr) :
    SameBytes s (s.matFault m z done addr) :=
  sameBytes_trans (sameBytes_setTile s m _) (sameBytes_modWarp _ _ _)

theorem kept_setBlock (s : State) (n : Nat) (f : Block → Block) : Kept s (s.modBlock n f) := by
  unfold State.modBlock
  split
  · exact kept_of rfl
  · exact kept_same s

theorem kept_engineConsume (s : State) (a c n : Nat) : Kept s (s.engineConsume a c n) :=
  kept_trans (kept_trans (kept_modCtx s a _) (kept_modCtx _ a _)) (kept_setBlock _ _ _)

theorem kept_matTouch (s : State) (c : MatCtx) (d : Desc) (os : List Nat) : Kept s (s.matTouch c d os) := by
  unfold State.matTouch
  split
  · exact (undisturbed_engineTouch _ _ _ _ _ _).kept
  · exact kept_same s

theorem engineKept_matTouch (s : State) (c : MatCtx) (d : Desc) (os : List Nat) : EngineKept s (s.matTouch c d os) := by
  unfold State.matTouch
  split
  · exact engineKept_engineTouch _ _ _ _ _ _
  · exact engineKept_same s

theorem walked_matWalk (s : State) (c : MatCtx) (d : Desc) (os : List Nat) : Walked s (s.matWalk c d os) :=
  walked_ite (walked_same s) (walked_foldl (fun t _ => walked_walkPtr t _ _ _) _ s)

/-! ### A unit performed -/

/-- A unit of a command performed, and whether the command is over with it (R224). -/
def State.matUnit (s : State) (c : MatCtx) (m : MatCmd) : Unit224 :=
  match m.op with
  | .mma | .mmat => s.performMma c m
  | .mzero => (s.setTile m Tile.clear, true)
  | .mldz => s.performMldz c m
  | .mst => s.performMst c m

/-- The machine once the walks of a chunk of MMA or MMAT are made. -/
def State.walkedChunk (s : State) (c : MatCtx) (m : MatCmd) (ch : Nat) : State :=
  (s.matWalk c (descOf m.descA) (chunkPieces (descOf m.descA) (c.rcd.slot m.slotA) (!(descOf m.descA).ori) 192 ch m.next)).matWalk
    c (descOf m.descB) (chunkPieces (descOf m.descB) (c.rcd.slot m.slotB) (descOf m.descB).ori 128 ch m.next)

/-- The machine once the walks of a line of MLDZ or MST are made. -/
def State.walkedLine (s : State) (c : MatCtx) (m : MatCmd) : State :=
  s.matWalk c (descOf m.descA) ((descOf m.descA).pieces m.next 0 ((lineCount m).2 * slotBits (c.rcd.slot m.slotA).fmt / 8))

theorem walked_walkedChunk (s : State) (c : MatCtx) (m : MatCmd) (ch : Nat) : Walked s (s.walkedChunk c m ch) :=
  walked_trans (walked_matWalk s c _ _) (walked_matWalk _ c _ _)

theorem walked_walkedLine (s : State) (c : MatCtx) (m : MatCmd) : Walked s (s.walkedLine c m) := walked_matWalk s c _ _

theorem withCores_walkedChunk (k : AMap Core) (s : State) (c : MatCtx) (m : MatCmd) (ch : Nat) :
    (s.withCores k).walkedChunk c m ch = (s.walkedChunk c m ch).withCores k := by
  simp only [State.walkedChunk, withCores_matWalk]

theorem withCores_walkedLine (k : AMap Core) (s : State) (c : MatCtx) (m : MatCmd) :
    (s.withCores k).walkedLine c m = (s.walkedLine c m).withCores k := withCores_matWalk k s c _ _

/-- The next chunk of the A operand of MMA or MMAT. -/
def State.chunkA (s : State) (c : MatCtx) (m : MatCmd) (ch : Nat) : Except Cause (List MatElem) :=
  s.chunkOf c (descOf m.descA) (c.rcd.slot m.slotA) (!(descOf m.descA).ori) 192 ch m.next

/-- The next chunk of its B operand. -/
def State.chunkB (s : State) (c : MatCtx) (m : MatCmd) (ch : Nat) : Except Cause (List MatElem) :=
  s.chunkOf c (descOf m.descB) (c.rcd.slot m.slotB) (descOf m.descB).ori 128 ch m.next

/-- The formats of a command's operands, as R214 pairs them. -/
def MatCmd.pairIn (m : MatCmd) (rcd : Record) : Option (Nat × Bool) :=
  matPair (m.op == .mmat) (rcd.slot m.slotA).fmt (rcd.slot m.slotB).fmt

section
variable {s t : State} {c : MatCtx} {m : MatCmd} {b : Block} {z : Tile} {units : Nat}

theorem unitBegin_eq (h : m.next = 0 → m.ord.acq = false) (s : State) (c : MatCtx) : s.unitBegin c m = s := by
  unfold State.unitBegin
  split
  · next h0 => exact if_neg (by rw [h h0]; decide)
  · rfl

theorem unitDone_eq (h : units ≤ m.next + 1 → m.ord.rel = false) (s : State) (c : MatCtx) :
    s.unitDone c m units = (s, decide (units ≤ m.next + 1)) := by
  unfold State.unitDone
  by_cases hu : m.next + 1 < units
  · rw [if_pos hu, decide_eq_false (by omega)]
  · rw [if_neg hu, decide_eq_true (by omega), State.engineRelease, if_neg (by simp [h (by omega)])]

/-- A tile as the first chunk on it counts it (R218). -/
def Tile.counted (z : Tile) (m : MatCmd) (rcd : Record) : Tile :=
  { z with mode := (m.counts rcd (z.mode, z.prod)).1, prod := (m.counts rcd (z.mode, z.prod)).2 }

/-- A tile after a chunk, with the poison met. -/
def Tile.multiplied (z : Tile) (m : MatCmd) (rcd : Record) (int : Bool) (ch : Nat) (as bs : List MatElem) : Tile :=
  { (z.counted m rcd).addChunk int ch as bs with psn := z.psn || (as.any MatElem.psn || bs.any MatElem.psn) }

/-- The machine once the caches have taken a chunk of MMA or MMAT. -/
def State.chunkTouched (s : State) (c : MatCtx) (m : MatCmd) (ch : Nat) : State :=
  (s.matTouch c (descOf m.descA)
    (chunkPieces (descOf m.descA) (c.rcd.slot m.slotA) (!(descOf m.descA).ori) 192 ch m.next)).matTouch
    c (descOf m.descB) (chunkPieces (descOf m.descB) (c.rcd.slot m.slotB) (descOf m.descB).ori 128 ch m.next)

/-- The machine once a chunk of MMA or MMAT has been read, with what it leaves in CIR and in its block. -/
def State.chunkRead (s : State) (c : MatCtx) (m : MatCmd) (ch : Nat) (as bs : List MatElem) : State :=
  let s := if as.any MatElem.psn || bs.any MatElem.psn then (s.chunkTouched c m ch).engineConsume c.asid c.col m.block
    else s.chunkTouched c m ch
  if (c.rcd.slot m.slotB).fmt = 8 ∧ bs.any fun e => e.raw == 2 then s.setCir c.asid c.col 3 else s

theorem kept_chunkRead (s : State) (c : MatCtx) (m : MatCmd) (ch : Nat) (as bs : List MatElem) :
    Kept s (s.chunkRead c m ch as bs) := by
  have touched : Kept s (s.chunkTouched c m ch) := kept_trans (kept_matTouch s c _ _) (kept_matTouch _ c _ _)
  have consumed := kept_ite (p := (as.any MatElem.psn || bs.any MatElem.psn) = true)
    (kept_trans touched (kept_engineConsume _ c.asid c.col m.block)) touched
  exact kept_ite (kept_trans consumed (kept_modCtx _ _ _)) consumed

theorem tileLeft_chunkRead (h : TileLeft s t m b z) (c : MatCtx) (ch : Nat) (as bs : List MatElem) :
    TileLeft s (t.chunkRead c m ch as bs) m b z := by
  have touched : TileLeft s (t.chunkTouched c m ch) m b z :=
    tileLeft_trans (tileLeft_trans h (engineKept_matTouch t c _ _)) (engineKept_matTouch _ c _ _)
  have consumed := tileLeft_ite (p := (as.any MatElem.psn || bs.any MatElem.psn) = true)
    (tileLeft_engineConsume touched c.asid c.col) touched
  exact tileLeft_ite (tileLeft_setCir consumed _ _ _) consumed

/-- A chunk on a tile that stands: it is read and multiplied, or its first fault is recorded. -/
theorem performMma_eq (hz : t.tileOfCmd m = z) (hflt : z.flt = false) {ch : Nat} {int : Bool}
    (hbegin : m.next = 0 → m.ord.acq = false) (hpair : m.pairIn c.rcd = some (ch, int)) :
    t.performMma c m = match (t.walkedChunk c m ch).chunkA c m ch, (t.walkedChunk c m ch).chunkB c m ch with
      | .error e, _ => ((t.walkedChunk c m ch).matFault m (z.counted m c.rcd) m.next e.addr, true)
      | .ok _, .error e => ((t.walkedChunk c m ch).matFault m (z.counted m c.rcd) m.next e.addr, true)
      | .ok as, .ok bs => (((t.walkedChunk c m ch).chunkRead c m ch as bs).setTile m
          (z.multiplied m c.rcd int ch as bs)).unitDone c m ((descOf m.descA).k / ch) := by
  obtain ⟨elems, prod, mode, flt, psn, ovf, fltAt⟩ := z
  obtain rfl : flt = false := hflt
  unfold MatCmd.pairIn at hpair
  unfold State.performMma
  simp only [hz, hpair, unitBegin_eq hbegin]
  rfl

/-- A chunk performed. -/
theorem performMma_multiplies (h : TileLeft s t m b z) (hz : b.tiles[m.tile]? = some z) (hflt : z.flt = false) {ch : Nat}
    {int : Bool} (hbegin : m.next = 0 → m.ord.acq = false)
    (hend : (descOf m.descA).k / ch ≤ m.next + 1 → m.ord.rel = false) (hpair : m.pairIn c.rcd = some (ch, int))
    {as bs : List MatElem} (ha : (t.walkedChunk c m ch).chunkA c m ch = .ok as)
    (hb : (t.walkedChunk c m ch).chunkB c m ch = .ok bs) :
    ∃ v, t.performMma c m = (v, decide ((descOf m.descA).k / ch ≤ m.next + 1)) ∧ Kept t v
      ∧ TileLeft s v m b (z.multiplied m c.rcd int ch as bs) := by
  have hw := walked_walkedChunk t c m ch
  refine ⟨((t.walkedChunk c m ch).chunkRead c m ch as bs).setTile m (z.multiplied m c.rcd int ch as bs), ?_, ?_, ?_⟩
  · rw [performMma_eq (tileOfCmd_eq h hz) hflt hbegin hpair, ha, hb]
    exact unitDone_eq hend _ c
  · exact kept_trans (kept_trans hw.undisturbed.kept (kept_chunkRead _ c m ch as bs)) (kept_setBlock _ _ _)
  · exact tileLeft_setTile (tileLeft_chunkRead (tileLeft_trans h hw.engines) c ch as bs) _

/-- A chunk whose A operand faults. -/
theorem performMma_faults (h : TileLeft s t m b z) (hz : b.tiles[m.tile]? = some z) (hflt : z.flt = false) {ch : Nat}
    {int : Bool} (hbegin : m.next = 0 → m.ord.acq = false) (hpair : m.pairIn c.rcd = some (ch, int)) {e : Cause}
    (he : (t.walkedChunk c m ch).chunkA c m ch = .error e) :
    ∃ v, t.performMma c m = (v, true) ∧ SameBytes t v
      ∧ TileLeft s v m b { z.counted m c.rcd with flt := true, fltAt := m.next } := by
  have hw := walked_walkedChunk t c m ch
  refine ⟨(t.walkedChunk c m ch).matFault m (z.counted m c.rcd) m.next e.addr, ?_, ?_, ?_⟩
  · rw [performMma_eq (tileOfCmd_eq h hz) hflt hbegin hpair, he]
  · exact sameBytes_trans hw.bytes (sameBytes_matFault _ _ _ _ _)
  · exact tileLeft_matFault (tileLeft_trans h hw.engines) _ _ _

/-- A command of a tile with a fault performs no chunk and no line (R225). -/
theorem performMma_stopped (hz : t.tileOfCmd m = z) (hflt : z.flt = true) : t.performMma c m = (t, true) := by
  unfold State.performMma
  simp only [hz, hflt]

theorem performMst_stopped (hz : t.tileOfCmd m = z) (hflt : z.flt = true) : t.performMst c m = (t, true) := by
  unfold State.performMst
  rw [hz]
  exact if_pos hflt

/-! ### A line performed -/

/-- A tile as a line of MLDZ finds it. -/
def Tile.found (z : Tile) (m : MatCmd) (rcd : Record) : Tile := if m.next = 0 then z.begun (rcd.slot m.slotA) else z

/-- A tile after a line of MLDZ. -/
def Tile.loaded (z : Tile) (m : MatCmd) (rcd : Record) (es : List MatElem) : Tile :=
  { z.found m rcd with
    elems := (List.range (lineCount m).2).foldl (putElem (rcd.slot m.slotA).fmt (descOf m.descA).ori m.next es) z.elems
    psn := (z.found m rcd).psn || es.any MatElem.psn }

theorem found_elems (z : Tile) (m : MatCmd) (rcd : Record) : (z.found m rcd).elems = z.elems := by
  unfold Tile.found
  split
  · rfl
  · rfl

/-- The machine once a line of MLDZ has been read, with what it leaves in CIR and in its block. -/
def State.lineRead (s : State) (c : MatCtx) (m : MatCmd) (es : List MatElem) : State :=
  let s := s.matTouch c (descOf m.descA)
    ((descOf m.descA).pieces m.next 0 ((lineCount m).2 * slotBits (c.rcd.slot m.slotA).fmt / 8))
  if es.any MatElem.psn then s.engineConsume c.asid c.col m.block else s

theorem kept_lineRead (s : State) (c : MatCtx) (m : MatCmd) (es : List MatElem) : Kept s (s.lineRead c m es) :=
  kept_trans (kept_matTouch s c _ _) (kept_ite (kept_engineConsume _ _ _ _) (kept_same _))

theorem tileLeft_lineRead (h : TileLeft s t m b z) (c : MatCtx) (es : List MatElem) : TileLeft s (t.lineRead c m es) m b z := by
  have touched := tileLeft_trans h (engineKept_matTouch t c (descOf m.descA)
    ((descOf m.descA).pieces m.next 0 ((lineCount m).2 * slotBits (c.rcd.slot m.slotA).fmt / 8)))
  exact tileLeft_ite (tileLeft_engineConsume touched c.asid c.col) touched

/-- A line of MLDZ performed. -/
theorem performMldz_loads (h : TileLeft s t m b z) (hz : b.tiles[m.tile]? = some z) (hbegin : m.next = 0 → m.ord.acq = false)
    (hend : (lineCount m).1 ≤ m.next + 1 → m.ord.rel = false) {es : List MatElem}
    (hes : (t.walkedLine c m).matLine c m m.next = .ok es) :
    ∃ v, t.performMldz c m = (v, decide ((lineCount m).1 ≤ m.next + 1)) ∧ Kept t v
      ∧ TileLeft s v m b (z.loaded m c.rcd es) := by
  have hw := walked_walkedLine t c m
  refine ⟨((t.walkedLine c m).lineRead c m es).setTile m (z.loaded m c.rcd es), ?_, ?_, ?_⟩
  · unfold State.walkedLine at hes
    unfold State.performMldz
    simp only [unitBegin_eq hbegin, tileOfCmd_eq h hz, hes]
    refine Eq.trans ?_ (unitDone_eq hend _ c)
    unfold Tile.loaded
    rw [← found_elems z m c.rcd]
    rfl
  · exact kept_trans (kept_trans hw.undisturbed.kept (kept_lineRead _ c m es)) (kept_setBlock _ _ _)
  · exact tileLeft_setTile (tileLeft_lineRead (tileLeft_trans h hw.engines) c es) _

/-- A line of MST performed. -/
theorem performMst_stores (hc : Canonical s) (harr : SameArrays s t) (h : TileLeft s t m b z) (hz : b.tiles[m.tile]? = some z)
    (hflt : z.flt = false) (hbegin : m.next = 0 → m.ord.acq = false)
    (hend : (lineCount m).1 ≤ m.next + 1 → m.ord.rel = false) {ls : List Loc}
    (hls : (t.walkedLine c m).mstPlaces c m m.next = .ok ls) :
    ∃ v, t.performMst c m = (v, decide ((lineCount m).1 ≤ m.next + 1))
      ∧ StoresHere s v (writtenAt ls (z.line (c.rcd.slot m.slotA) m m.next)) ∧ TileLeft s v m b z := by
  have hw := walked_walkedLine t c m
  let off := ((descOf m.descA).off + m.next * (descOf m.descA).stride) % 2 ^ 48
  refine ⟨(t.walkedLine c m).engineWrite c.col c.asid off ls ((z.line (c.rcd.slot m.slotA) m m.next).map fun b => (b, z.psn)),
    ?_, ?_, ?_⟩
  · unfold State.walkedLine at hls
    unfold State.performMst
    simp only [unitBegin_eq hbegin, tileOfCmd_eq h hz, hflt, hls]
    exact unitDone_eq hend _ c
  · exact engineWrite_stores hc (sameArrays_trans harr (sameArrays_of_undisturbed hw.undisturbed)) ⟨rfl, rfl, rfl, rfl, rfl⟩
  · exact tileLeft_trans h (engineKept_trans hw.engines (engineKept_engineWrite _ _ _ _ _ _))

/-! ### What a unit leaves in its tile -/

theorem counted_at (z : Tile) (m : MatCmd) (rcd : Record) (i j : Nat) : (z.counted m rcd).at_ i j = z.at_ i j := by
  unfold Tile.counted Tile.at_
  rfl

theorem multiplied_at (z : Tile) (m : MatCmd) (rcd : Record) (int : Bool) (ch : Nat) (as bs : List MatElem) (i j : Nat) :
    (z.multiplied m rcd int ch as bs).at_ i j = ((z.counted m rcd).addChunk int ch as bs).at_ i j := by
  unfold Tile.multiplied Tile.at_
  rfl

theorem multiplied_spec (hflt : z.flt = false) (m : MatCmd) (rcd : Record) (int : Bool) (ch : Nat) (as bs : List MatElem) :
    ((z.multiplied m rcd int ch as bs).mode, (z.multiplied m rcd int ch as bs).prod) = m.counts rcd (z.mode, z.prod)
      ∧ (z.multiplied m rcd int ch as bs).flt = false
      ∧ (z.multiplied m rcd int ch as bs).psn = (z.psn || (as ++ bs).any MatElem.psn)
      ∧ ∀ i < 192, ∀ j < 128,
        let pairs := (chunkRow ch as i).zip (chunkRow ch bs j)
        (int = true → (z.multiplied m rcd int ch as bs).at_ i j
          = BitVec.ofInt 48 ((z.at_ i j).toInt + (pairs.map fun p => p.1.int * p.2.int).sum))
        ∧ (int = false → (z.multiplied m rcd int ch as bs).at_ i j
          = BitVec.ofNat 48 (add32 ((z.at_ i j).toNat % 2 ^ 32) (chunkTerm pairs))) := by
  obtain ⟨hmode, hprod, hstate⟩ := addChunk_state (z.counted m rcd) int ch as bs
  refine ⟨Prod.ext hmode hprod, hstate.trans hflt, by rw [List.any_append]; rfl, fun i hi j hj => ⟨?_, ?_⟩⟩
  · rintro rfl
    rw [multiplied_at, addChunk_int _ ch as bs hi hj, counted_at]
  · rintro rfl
    rw [multiplied_at, addChunk_float _ ch as bs hi hj, counted_at]

theorem loaded_spec (z : Tile) (rcd : Record) (es : List MatElem) (hline : m.next < (lineCount m).1) :
    let z' := z.loaded m rcd es
    let z0 := z.found m rcd
    let ori := (descOf m.descA).ori
    (z'.mode, z'.prod, z'.flt, z'.ovf) = (z0.mode, z0.prod, z0.flt, z0.ovf)
      ∧ z'.psn = (z0.psn || es.any MatElem.psn)
      ∧ (∀ i < (lineCount m).2, ∀ e, es[i]? = some e → z'.at_ (linePlace ori m.next i).1 (linePlace ori m.next i).2
          = e.loaded (rcd.slot m.slotA).fmt)
      ∧ ∀ i < 192, ∀ j < 128, (if ori then j else i) ≠ m.next → z'.at_ i j = z.at_ i j :=
  ⟨rfl, rfl, fun _ hi _ he => putLine_same _ _ _ z.elems he hi,
    fun _ _ _ hj hne => putLine_ne _ _ _ es z.elems fun k hk => lineKey_apart hline hj hne k hk⟩

end

/-! ### The engine's next unit -/

theorem matUnit_mma {s : State} {c : MatCtx} {m : MatCmd} (h : m.op = .mma ∨ m.op = .mmat) :
    s.matUnit c m = s.performMma c m := by
  unfold State.matUnit
  rcases h with h | h
  · rw [h]
  · rw [h]

theorem mma_kind {m : MatCmd} (h : m.op = .mma ∨ m.op = .mmat) : [MatOp.mma, .mmat].contains m.op = true := by
  rcases h with h | h
  · rw [h]; decide
  · rw [h]; decide

theorem matUnit_mzero {s : State} {c : MatCtx} {m : MatCmd} (h : m.op = .mzero) :
    s.matUnit c m = (s.setTile m Tile.clear, true) := by
  unfold State.matUnit
  rw [h]

theorem matUnit_mldz {s : State} {c : MatCtx} {m : MatCmd} (h : m.op = .mldz) : s.matUnit c m = s.performMldz c m := by
  unfold State.matUnit
  rw [h]

theorem matUnit_mst {s : State} {c : MatCtx} {m : MatCmd} (h : m.op = .mst) : s.matUnit c m = s.performMst c m := by
  unfold State.matUnit
  rw [h]

section
variable {s : State} {col core : Nat} {m : MatCmd} {b : Block} {z : Tile} (hn : Next s col core m b)
  (hz : b.tiles[m.tile]? = some z)
include hn

/-- An engine that serves no other block serves that of its command. -/
theorem switchTiles_next : ∃ k, s.switchTiles col core m.block = s.withCores k ∧ EngineKept s (s.withCores k) := by
  obtain ⟨-, -, -, -, hserve, -⟩ := hn
  unfold State.switchTiles
  rcases hserve with h | h
  · rw [h]
    exact ⟨_, rfl, engineKept_modCore s col core (f := fun c => { c with serving := some m.block }) fun _ => rfl⟩
  · rw [h]
    exact ⟨s.cores, if_pos rfl, engineKept_same s⟩

theorem engineStep_next {kinds : List MatOp} (hkind : kinds.contains m.op = true) : s.engineStep col core kinds =
    let r := (s.switchTiles col core m.block).matUnit (matCtxOf s col core b) m
    r.1.modCore col core fun k =>
      { k with engine := if r.2 then k.engine.erase m else k.engine.replace m { m with next := m.next + 1 } } := by
  obtain ⟨hnext, hb, hfailed, hhalted, -, hheld⟩ := hn
  unfold State.engineStep
  simp only [hnext, hb]
  rw [if_neg (by rw [hkind]; simp [hfailed, hhalted, hheld])]
  rfl

include hz

/-- What a unit performed leaves, where it rests on no core. -/
theorem engineStep_done {kinds : List MatOp} (hkind : kinds.contains m.op = true) {P : State → Prop} {z' : Tile} {units : Nat}
    (hP : ∀ v c k f, P v → P (v.modCore c k f))
    (hunit : ∀ k, TileLeft s (s.withCores k) m b z → ∃ v,
      (s.withCores k).matUnit (matCtxOf s col core b) m = (v, decide (units ≤ m.next + 1)) ∧ P v ∧ TileLeft s v m b z') :
    UnitDone s (s.engineStep col core kinds) col core m b z' units ∧ P (s.engineStep col core kinds) := by
  obtain ⟨k, hk, kept⟩ := switchTiles_next hn
  have ⟨_, hb, _⟩ := hn
  obtain ⟨v, hv, hp, hleft⟩ := hunit k (tileLeft_of_kept hb hz kept)
  rw [engineStep_next hn hkind, hk, hv]
  exact ⟨unitDone_of_left hleft col core units, hP _ _ _ _ hp⟩

/-- A command that is over without a chunk or a line. -/
theorem engineStep_stopped {kinds : List MatOp} (hkind : kinds.contains m.op = true)
    (hstop : ∀ t : State, t.tileOfCmd m = z → t.matUnit (matCtxOf s col core b) m = (t, true)) :
    UnitDone s (s.engineStep col core kinds) col core m b z 0 ∧ SameBytes s (s.engineStep col core kinds) :=
  engineStep_done hn hz hkind (fun _ _ _ _ h => h) fun k hk =>
    ⟨s.withCores k, by rw [hstop _ (tileOfCmd_eq hk hz), decide_eq_true (Nat.zero_le _)], ⟨rfl, rfl, rfl, rfl⟩, hk⟩

theorem engineStep_clears (hop : m.op = .mzero) :
    UnitDone s (s.engineStep col core [.mzero]) col core m b Tile.clear 0 ∧ SameBytes s (s.engineStep col core [.mzero]) :=
  engineStep_done hn hz (by rw [hop]; decide) (fun _ _ _ _ h => h) fun k hk =>
    ⟨(s.withCores k).setTile m Tile.clear, by rw [matUnit_mzero hop, decide_eq_true (Nat.zero_le _)],
      sameBytes_setTile (s.withCores k) m _, tileLeft_setTile hk _⟩

theorem engineStep_multiplies (hop : m.op = .mma ∨ m.op = .mmat) (hflt : z.flt = false) {ch : Nat} {int : Bool}
    (hbegin : m.next = 0 → m.ord.acq = false) (hend : (descOf m.descA).k / ch ≤ m.next + 1 → m.ord.rel = false)
    (hpair : m.pairIn (matCtxOf s col core b).rcd = some (ch, int)) {as bs : List MatElem}
    (ha : (s.walkedChunk (matCtxOf s col core b) m ch).chunkA (matCtxOf s col core b) m ch = .ok as)
    (hb : (s.walkedChunk (matCtxOf s col core b) m ch).chunkB (matCtxOf s col core b) m ch = .ok bs) :
    let t := s.engineStep col core [.mma, .mmat]
    UnitDone s t col core m b (z.multiplied m (matCtxOf s col core b).rcd int ch as bs) ((descOf m.descA).k / ch)
      ∧ Unwritten s t := by
  refine engineStep_done hn hz (mma_kind hop) (fun _ _ _ _ h => h) fun k hk => ?_
  obtain ⟨v, hv, kept, hleft⟩ := performMma_multiplies (c := matCtxOf s col core b) hk hz hflt hbegin hend hpair
    (by rw [withCores_walkedChunk, State.chunkA, withCores_chunkOf]; exact ha)
    (by rw [withCores_walkedChunk, State.chunkB, withCores_chunkOf]; exact hb)
  have kept : Kept s v := kept_trans (kept_of rfl : Kept s (s.withCores k)) kept
  exact ⟨v, (matUnit_mma hop).trans hv, unwritten_of_kept kept, hleft⟩

theorem engineStep_faults (hop : m.op = .mma ∨ m.op = .mmat) (hflt : z.flt = false) {ch : Nat} {int : Bool}
    (hbegin : m.next = 0 → m.ord.acq = false) (hpair : m.pairIn (matCtxOf s col core b).rcd = some (ch, int)) {e : Cause}
    (he : (s.walkedChunk (matCtxOf s col core b) m ch).chunkA (matCtxOf s col core b) m ch = .error e) :
    let t := s.engineStep col core [.mma, .mmat]
    UnitDone s t col core m b { z.counted m (matCtxOf s col core b).rcd with flt := true, fltAt := m.next } 0
      ∧ SameBytes s t := by
  refine engineStep_done hn hz (mma_kind hop) (fun _ _ _ _ h => h) fun k hk => ?_
  obtain ⟨v, hv, bytes, hleft⟩ := performMma_faults (c := matCtxOf s col core b) hk hz hflt hbegin hpair
    (by rw [withCores_walkedChunk, State.chunkA, withCores_chunkOf]; exact he)
  have bytes : SameBytes s v := bytes
  exact ⟨v, by rw [matUnit_mma hop, hv, decide_eq_true (Nat.zero_le _)], bytes, hleft⟩

theorem engineStep_loads (hop : m.op = .mldz) (hbegin : m.next = 0 → m.ord.acq = false)
    (hend : (lineCount m).1 ≤ m.next + 1 → m.ord.rel = false) {es : List MatElem}
    (hes : (s.walkedLine (matCtxOf s col core b) m).matLine (matCtxOf s col core b) m m.next = .ok es) :
    let t := s.engineStep col core [.mldz]
    UnitDone s t col core m b (z.loaded m (matCtxOf s col core b).rcd es) (lineCount m).1 ∧ Unwritten s t := by
  refine engineStep_done hn hz (by rw [hop]; decide) (fun _ _ _ _ h => h) fun k hk => ?_
  obtain ⟨v, hv, kept, hleft⟩ := performMldz_loads (c := matCtxOf s col core b) hk hz hbegin hend
    (by rw [withCores_walkedLine, withCores_matLine]; exact hes)
  have kept : Kept s v := kept_trans (kept_of rfl : Kept s (s.withCores k)) kept
  exact ⟨v, (matUnit_mldz hop).trans hv, unwritten_of_kept kept, hleft⟩

theorem engineStep_stores (hc : Canonical s) (hop : m.op = .mst) (hflt : z.flt = false)
    (hbegin : m.next = 0 → m.ord.acq = false) (hend : (lineCount m).1 ≤ m.next + 1 → m.ord.rel = false) {ls : List Loc}
    (hls : (s.walkedLine (matCtxOf s col core b) m).mstPlaces (matCtxOf s col core b) m m.next = .ok ls) :
    let t := s.engineStep col core [.mst]
    UnitDone s t col core m b z (lineCount m).1
      ∧ StoresHere s t (writtenAt ls (z.line ((matCtxOf s col core b).rcd.slot m.slotA) m m.next)) := by
  refine engineStep_done hn hz
    (P := fun t => StoresHere s t (writtenAt ls (z.line ((matCtxOf s col core b).rcd.slot m.slotA) m m.next)))
    (by rw [hop]; decide) (fun v c k f h => ?_) fun k hk => ?_
  · exact fun l hl hkey => (readLoc_sameArrays (s := v) ⟨rfl, rfl, rfl, rfl, rfl⟩ 0 hl).trans (h l hl hkey)
  · obtain ⟨v, hv, stores, hleft⟩ := performMst_stores (t := s.withCores k) (c := matCtxOf s col core b) hc
      ⟨rfl, rfl, rfl, rfl, rfl⟩ hk hz hflt hbegin hend (by rw [withCores_walkedLine, withCores_mstPlaces]; exact hls)
    exact ⟨v, (matUnit_mst hop).trans hv, stores, hleft⟩

end

/-- Settles O58: an engine's access touches the caches alone before it writes, so the bytes it reads are those that stand, and
what it writes is the last of each byte; the tiles of a command's block change by its own unit. -/
theorem enginesComplete : Obligations.EnginesComplete := by
  intro s hc
  refine ⟨fun col k c b hheld hfind hworks hlen hd hacq hlast hb hr => ?_,
    fun col n c hn hcol hbank hst hg hworks hready hheld => ?_, fun col core m b z hn hz => ?_,
    fun col v w rest hp hv hk hheld hbefore => partitionChange_answers hc hp hv hk hheld hbefore⟩
  · obtain ⟨hf, hh⟩ := hworks
    exact copyPerform_answers hc hheld hfind hf hh hlen hd hacq hlast hb hr
  · obtain ⟨hf, hh⟩ := hworks
    exact bankPerform_answers hc hn hcol hbank hst hg hf hh hready hheld
  · refine ⟨fun hop hflt => ⟨_, rfl, engineStep_stopped hn hz (mma_kind hop) fun t ht => ?_⟩,
      fun ch int as bs hop hflt horders hpair ha hb => ⟨_, rfl, ?_⟩,
      fun ch int e hop hflt horders hpair he => ⟨_, rfl, ?_⟩, fun hop => ⟨_, rfl, engineStep_clears hn hz hop⟩,
      fun es hop hline horders hes => ⟨_, rfl, ?_⟩,
      fun hop hflt => ⟨_, rfl, engineStep_stopped hn hz (by rw [hop]; decide) fun t ht => ?_⟩,
      fun ls hop hflt horders hls => ⟨_, rfl, engineStep_stores hn hz hc hop hflt horders.1 horders.2 hls⟩⟩
    · exact (matUnit_mma hop).trans (performMma_stopped ht hflt)
    · obtain ⟨hdone, hun⟩ := engineStep_multiplies hn hz hop hflt horders.1 horders.2 hpair ha hb
      exact ⟨hun, _, hdone, multiplied_spec hflt m (matCtxOf s col core b).rcd int ch as bs⟩
    · obtain ⟨hdone, hbytes⟩ := engineStep_faults hn hz hop hflt horders.1 hpair he
      exact ⟨hbytes, _, hdone, rfl, rfl, rfl⟩
    · obtain ⟨hdone, hun⟩ := engineStep_loads hn hz hop horders.1 horders.2 hes
      exact ⟨hun, _, hdone, loaded_spec z _ es hline⟩
    · exact (matUnit_mst hop).trans (performMst_stopped ht hflt)

end Sys2Proof.Machine
end

section
/-! What the caches' bookkeeping leaves of the TLBs and the contexts (R276, R280-R285, R363, R375): every TLB as it was, and of a
context all but its meters. -/

namespace Sys2Proof.Machine

open Sys2Proof

/-- One state follows another with every TLB as it was, and every context but for its meters. -/
structure TablesKept (s t : State) : Prop where
  tlb : ∀ c, (t.column c).tlb = (s.column c).tlb
  ctx : ∀ a, ∃ m, t.ctx a = { s.ctx a with meters := m }

theorem tablesKept_of {s t : State} (hk : t.columns = s.columns) (hc : t.contexts = s.contexts) : TablesKept s t where
  tlb c := by unfold State.column; rw [hk]
  ctx a := ⟨(s.ctx a).meters, by unfold State.ctx; rw [hc]⟩

theorem tablesKept_same (s : State) : TablesKept s s := tablesKept_of rfl rfl

theorem tablesKept_trans {s t u : State} (h : TablesKept s t) (g : TablesKept t u) : TablesKept s u where
  tlb c := (g.tlb c).trans (h.tlb c)
  ctx a := by
    obtain ⟨m, hm⟩ := g.ctx a
    obtain ⟨n, hn⟩ := h.ctx a
    exact ⟨m, by rw [hm, hn]⟩

theorem tablesKept_ite {p : Prop} [Decidable p] {s t u : State} (h : TablesKept s t) (g : TablesKept s u) :
    TablesKept s (if p then t else u) := by
  split
  · exact h
  · exact g

theorem tablesKept_foldl {α : Type} {g : State → α → State} (h : ∀ s a, TablesKept s (g s a)) (l : List α) (s : State) :
    TablesKept s (l.foldl g s) :=
  List.foldlRecOn (motive := TablesKept s) l g (tablesKept_same s) fun t ht a _ => tablesKept_trans ht (h t a)

/-! ### One part changed -/

theorem tablesKept_modColumn (s : State) (c : Nat) {f : Column → Column} (hf : ∀ x, (f x).tlb = x.tlb) :
    TablesKept s (s.modColumn c f) where
  tlb d := by
    by_cases h : d = c
    · rw [h, State.column_modColumn, hf]
    · rw [State.column_modColumn_ne s f h]
  ctx a := ⟨(s.ctx a).meters, rfl⟩

theorem tablesKept_meter (s : State) (a c n k : Nat) : TablesKept s (s.meter a c n k) where
  tlb _ := rfl
  ctx b := by
    unfold State.meter
    by_cases h : b = a
    · rw [h, State.ctx_modCtx]
      exact ⟨_, rfl⟩
    · rw [State.ctx_modCtx_ne s _ h]
      exact ⟨_, rfl⟩

theorem tablesKept_cellLog (s : State) (c l y p k : Nat) : TablesKept s (s.cellLog c l y p k) := by
  have raised (t : State) (v : Nat) : TablesKept t (t.raiseVector v) := by
    obtain ⟨_, _, _, h⟩ := raiseVector_eq t v
    rw [h]
    exact tablesKept_of rfl rfl
  unfold State.cellLog
  exact tablesKept_ite (tablesKept_trans (tablesKept_modColumn s c (by exact fun _ => rfl)) (raised _ 2))
    (tablesKept_modColumn s c (by exact fun _ => rfl))

theorem tablesKept_correctLine (s : State) (c l o m : Nat) : TablesKept s (s.correctLine c l o m) := by
  obtain ⟨b, hb⟩ := needLine_eq s c l
  unfold State.correctLine
  rw [hb]
  simp only []
  split
  · exact tablesKept_of rfl rfl
  · refine tablesKept_ite (tablesKept_trans ?_ (tablesKept_cellLog _ _ _ _ _ _))
      (tablesKept_trans (tablesKept_trans ?_ (tablesKept_modColumn _ c ?_)) (tablesKept_cellLog _ _ _ _ _ _))
    · exact tablesKept_of rfl rfl
    · exact tablesKept_of rfl rfl
    · exact fun _ => rfl

/-! ### Host lines and sectors -/

theorem tablesKept_cleanHost (s : State) (k : Nat) (h : HostLine) : TablesKept s (s.cleanHost k h) := by
  have written (t : State) (i : Nat) : TablesKept t (if h.dirty.testBit i then
      { t with host := cellSet t.host (64 * (k % 2 ^ 47) + i) (h.bytes.getD i 0) } else t) :=
    tablesKept_ite (tablesKept_of rfl rfl) (tablesKept_same t)
  have half (t : State) (i d : Nat) : TablesKept t (if d = 0 then t
      else if h.psn.testBit i = true then { t with hostPsn := setIns t.hostPsn (2 * (k % 2 ^ 47) + i) }
      else if d = 2 ^ 32 - 1 then { t with hostPsn := setDel t.hostPsn (2 * (k % 2 ^ 47) + i) } else t) :=
    tablesKept_ite (tablesKept_same t)
      (tablesKept_ite (tablesKept_of rfl rfl) (tablesKept_ite (tablesKept_of rfl rfl) (tablesKept_same t)))
  unfold State.cleanHost
  refine tablesKept_ite (tablesKept_same s) (tablesKept_trans ?_ (tablesKept_meter _ _ _ _ _))
  exact tablesKept_trans (tablesKept_trans (tablesKept_foldl written _ s) (half _ 0 _)) (half _ 1 _)

theorem tablesKept_cleanLines (s : State) (hit : Nat → Bool) : TablesKept s (s.cleanLines hit) := by
  refine tablesKept_trans (tablesKept_foldl (g := fun s kv => if hit kv.1 then s.cleanHost kv.1 kv.2 else s)
    (fun t kv => ?_) s.hostCopy s) (tablesKept_of rfl rfl)
  exact tablesKept_ite (tablesKept_cleanHost t _ _) (tablesKept_same t)

theorem tablesKept_dropSector (s : State) (a c : Nat) (x : Sector) : TablesKept s (s.dropSector a c x) := by
  unfold State.dropSector
  refine tablesKept_trans ?_ (tablesKept_modColumn _ c (by exact fun _ => rfl))
  refine tablesKept_ite (tablesKept_ite (tablesKept_same s) (tablesKept_of rfl rfl))
    (tablesKept_ite (tablesKept_cleanLines s _) (tablesKept_trans ?_ (tablesKept_meter _ _ _ _ _)))
  exact tablesKept_of rfl rfl

theorem tablesKept_freeWay (s : State) (a c l t w : Nat) (z : Bool) : TablesKept s (s.freeWay a c l t w z).2 := by
  unfold State.freeWay
  simp only []
  split
  · exact tablesKept_same s
  · split
    · exact tablesKept_dropSector s _ _ _
    · exact tablesKept_same s

theorem tablesKept_noteSector (s : State) (asid col addr slot off slice : Nat) (host : Bool) (t : Touch) :
    TablesKept s (s.noteSector asid col addr slot off slice host t) := by
  have sectors (s : State) (f : Column → List Sector) : TablesKept s (s.modColumn col fun c => { c with sectors := f c }) :=
    tablesKept_modColumn s col fun _ => rfl
  have corrected (s : State) : TablesKept s (s.correctSector col addr) :=
    tablesKept_ite (tablesKept_same s) (tablesKept_foldl (fun t i => tablesKept_correctLine t col (32 * addr + i) 1 2) _ s)
  unfold State.noteSector
  simp only []
  split
  · refine tablesKept_ite ?_ (tablesKept_ite ?_ (sectors _ _))
    · exact tablesKept_trans (sectors _ _) (tablesKept_trans (tablesKept_freeWay _ _ _ _ _ _ _) (sectors _ _))
    · exact tablesKept_trans (sectors _ _) (tablesKept_trans (tablesKept_freeWay _ _ _ _ _ _ _) (sectors _ _))
  · refine tablesKept_trans (tablesKept_trans (tablesKept_trans ?_ (tablesKept_ite (tablesKept_freeWay _ _ _ _ _ _ _)
      (tablesKept_same _))) (tablesKept_freeWay _ _ _ _ _ _ _)) (sectors _ _)
    exact tablesKept_ite (tablesKept_same s) (tablesKept_ite (tablesKept_meter _ _ _ _ _)
      (tablesKept_trans (tablesKept_trans (tablesKept_meter _ _ _ _ _) (corrected _)) (tablesKept_of rfl rfl)))

theorem tablesKept_touchSector (s : State) (asid col addr slot off : Nat) (host : Bool) (t : Touch) :
    TablesKept s (s.touchSector asid col addr slot off host t) := by
  have counted (f : Column → AMap Nat) : TablesKept s (s.modColumn col fun c => { c with requests := f c }) :=
    tablesKept_modColumn s col fun _ => rfl
  unfold State.touchSector
  simp only []
  refine tablesKept_trans ?_ (tablesKept_noteSector _ _ _ _ _ _ _ _ _)
  split
  · exact tablesKept_trans (counted _) (tablesKept_dropSector _ _ _ _)
  · exact counted _

theorem tablesKept_touchLoc (s : State) (a c : Nat) (l : Loc) (o : Nat) (t : Touch) :
    TablesKept s (s.touchLoc a c l o t) := by
  have fetched (pa : Nat) : TablesKept s (s.fetchHost c pa) := by
    unfold State.fetchHost
    split
    · exact tablesKept_same s
    · exact tablesKept_of rfl rfl
  have owned (u : State) (pa : Nat) : TablesKept u (u.ownHost c pa a t.store) := by
    unfold State.ownHost
    split
    · exact tablesKept_ite (tablesKept_of rfl rfl) (tablesKept_same u)
    · exact tablesKept_same u
  cases l with
  | mem d pa k => exact tablesKept_touchSector s _ _ _ _ _ _ _
  | host pa => exact tablesKept_trans (tablesKept_trans (fetched pa) (owned _ pa)) (tablesKept_touchSector _ _ _ _ _ _ _ _)
  | spad _ _ | peer _ _ _ => exact tablesKept_same s

/-! ### Lines of the L1s -/

theorem tablesKept_markLine (s : State) (v : Nat) (l : Loc) (b : Bool) : TablesKept s (s.markLine v l b) := by
  unfold State.markLine
  cases l with
  | mem c p k => exact tablesKept_ite (tablesKept_of rfl rfl) (tablesKept_of rfl rfl)
  | spad c o => exact tablesKept_of rfl rfl
  | peer d a p => exact tablesKept_of rfl rfl
  | host pa =>
    simp only []
    split
    · exact tablesKept_of rfl rfl
    · exact tablesKept_of rfl rfl

theorem tablesKept_writeBack (s : State) (c : Nat) (e : L1Line) : TablesKept s (s.writeBack c e) := by
  have settled (u : State) : TablesKept u (u.settleBelow e.ploc) := by
    cases e.ploc <;> exact tablesKept_of rfl rfl
  unfold State.writeBack
  refine tablesKept_ite (tablesKept_trans (tablesKept_trans ?_ (settled _)) (tablesKept_touchLoc _ _ _ _ _ _))
    (tablesKept_same s)
  exact tablesKept_ite (tablesKept_trans (tablesKept_markLine _ _ _ _) (tablesKept_markLine _ _ _ _)) (tablesKept_same s)

end Sys2Proof.Machine
end

section
/-! What is dropped of a context's translations and cached lines (R362, R366, R369, R376): the TLB entries and the L1 lines that a
test names, its runs in flight, and the sectors of key slots. -/

namespace Sys2Proof.Machine

open Sys2Proof

/-! ### TLB entries and L1 lines -/

/-- The TLB entries of a context that a test names, dropped. -/
def State.dropEntries (s : State) (asid : Nat) (hit : Nat → Nat → Nat → Bool) : State :=
  { s with columns := mapAll s.columns fun _ c => { c with
      tlb := c.tlb.filter fun e => !(e.asid == asid && hit e.lcol (e.page * 2 ^ e.shift) (2 ^ e.shift)) } }

/-- Is an L1 line one of a context that a test names? -/
def L1Line.named (e : L1Line) (asid : Nat) (hit : Nat → Nat → Nat → Bool) : Bool :=
  e.asid == asid && hit e.lcol (64 * e.vline) 64

/-- Those of the L1 lines written back. -/
def State.backNamed (s : State) (asid : Nat) (hit : Nat → Nat → Nat → Bool) : State :=
  s.cores.foldl (fun s kv => (kv.2.l1.filter (·.named asid hit)).foldl (fun s e => s.writeBack (kv.1 / 4) e) s) s

theorem dropMapped_eq (s : State) (asid : Nat) (hit : Nat → Nat → Nat → Bool) :
    s.dropMapped asid (fun _ k o n => hit k o n)
      = { (s.dropEntries asid hit).backNamed asid hit with
          cores := mapAll ((s.dropEntries asid hit).backNamed asid hit).cores fun _ c =>
            { c with l1 := c.l1.filter fun e => !e.named asid hit } } := rfl

section
variable (s : State) (asid : Nat) (hit : Nat → Nat → Nat → Bool)

theorem kept_backNamed : Kept s (s.backNamed asid hit) := by
  unfold State.backNamed
  refine kept_foldl (fun t kv => ?_) _ _
  exact kept_foldl (fun u e => kept_writeBack u _ e) _ _

theorem cached_backNamed : Cached s (s.backNamed asid hit) := by
  unfold State.backNamed
  refine cached_foldl (fun t kv => ?_) _ _
  exact cached_foldl (fun u e => cached_writeBack u _ e) _ _

theorem tablesKept_backNamed : TablesKept s (s.backNamed asid hit) := by
  unfold State.backNamed
  refine tablesKept_foldl (fun t kv => ?_) _ _
  exact tablesKept_foldl (fun u e => tablesKept_writeBack u _ e) _ _

theorem kept_dropMapped : Kept s (s.dropMapped asid fun _ k o n => hit k o n) := by
  rw [dropMapped_eq]
  exact kept_trans (kept_trans (t := s.dropEntries asid hit) (kept_of rfl) (kept_backNamed _ asid hit)) (kept_of rfl)

theorem column_dropEntries (p : Nat) : (s.dropEntries asid hit).column p = { s.column p with
    tlb := (s.column p).tlb.filter fun e => !(e.asid == asid && hit e.lcol (e.page * 2 ^ e.shift) (2 ^ e.shift)) } := by
  unfold State.column State.dropEntries mapGetD
  dsimp only
  rw [mapGet_mapAll]
  cases mapGet s.columns p with
  | none => rfl
  | some c => rfl

theorem cached_dropMapped : Cached s (s.dropMapped asid fun _ k o n => hit k o n) := by
  have entries : Cached s (s.dropEntries asid hit) := ⟨rfl, fun _ => rfl, fun c => by rw [column_dropEntries]⟩
  rw [dropMapped_eq]
  exact cached_trans (cached_trans entries (cached_backNamed _ asid hit)) (cached_of rfl)

theorem ctx_dropMapped (a : Nat) : ∃ m, (s.dropMapped asid fun _ k o n => hit k o n).ctx a = { s.ctx a with meters := m } :=
  (tablesKept_backNamed (s.dropEntries asid hit) asid hit).ctx a

theorem core_mapAll {s t : State} {f : Core → Core} (h : t.cores = mapAll s.cores fun _ c => f c) (hf : f Core.idle = Core.idle)
    (c k : Nat) : t.core c k = f (s.core c k) := by
  unfold State.core mapGetD
  rw [h, mapGet_mapAll]
  cases mapGet s.cores (4 * c + k) with
  | none => exact hf.symm
  | some x => rfl

theorem forgotten_dropMapped : Forgotten (s.dropMapped asid fun _ k o n => hit k o n) asid hit := by
  rw [dropMapped_eq]
  refine ⟨fun p e he ha => ?_, fun c k _ e he ha => ?_⟩
  · have he : e ∈ ((s.dropEntries asid hit).column p).tlb := (tablesKept_backNamed _ asid hit).tlb p ▸ he
    rw [column_dropEntries] at he
    simpa [ha] using (List.mem_filter.mp he).2
  · rw [core_mapAll (s := (s.dropEntries asid hit).backNamed asid hit)
      (f := fun c => { c with l1 := c.l1.filter fun e => !e.named asid hit }) rfl rfl] at he
    simpa [L1Line.named, ha] using (List.mem_filter.mp he).2

end

/-! ### Runs in flight, with what they may hold -/

/-- A context's runs in flight discarded, with the TLB entries and the L1 lines that a test names (R362, R366). -/
def State.cutOff (s : State) (asid : Nat) (hit : Nat → Nat → Nat → Bool) : State :=
  (s.discardRuns asid).dropMapped asid fun _ k o n => hit k o n

/-- What a context's runs discarded, and its entries and lines dropped, leave. -/
structure CutOff (s t : State) (asid : Nat) (hit : Nat → Nat → Nat → Bool) : Prop where
  keys : t.keys = s.keys
  unwritten : Unwritten s t
  runs : RunsDiscarded s t asid
  forgotten : Forgotten t asid hit

theorem warp_discardRuns (s : State) (asid w : Nat) : (s.discardRuns asid).warp w
    = (s.warp w).map fun x => if x.run.isSome && s.asidOf x == asid then x.discard else x :=
  mapGet_mapAll (fun _ (x : Warp) => if x.run.isSome && s.asidOf x == asid then x.discard else x) s.warps w

theorem cutOff_spec (s : State) (asid : Nat) (hit : Nat → Nat → Nat → Bool) : CutOff s (s.cutOff asid hit) asid hit where
  keys := by
    unfold State.cutOff
    rw [(cached_dropMapped (s.discardRuns asid) asid hit).eq]
    rfl
  unwritten := by
    have hun : Unwritten (s.discardRuns asid) (s.cutOff asid hit) := unwritten_of_kept (kept_dropMapped _ asid hit)
    exact hun
  runs v x hx := by
    unfold State.cutOff
    rw [cached_warp (cached_dropMapped (s.discardRuns asid) asid hit), warp_discardRuns, hx]
    by_cases h : s.asidOf x = asid ∧ x.run.isSome = true
    · rw [if_pos h]
      simp [h.1, h.2]
    · rw [if_neg h, Option.map_some, if_neg (by simpa [and_comm] using h)]
  forgotten := forgotten_dropMapped (s.discardRuns asid) asid hit

theorem ctx_cutOff (s : State) (asid : Nat) (hit : Nat → Nat → Nat → Bool) (a : Nat) :
    ∃ m, (s.cutOff asid hit).ctx a = { s.ctx a with meters := m } := ctx_dropMapped (s.discardRuns asid) asid hit a

/-- Contexts, registers of the device and messages have no part in it. -/
theorem cutOff_changed {s u : State} {asid : Nat} {hit : Nat → Nat → Nat → Bool} (h : CutOff s u asid hit) (cx : AMap Context)
    (d : Dev) (n : List Msg) : CutOff s { u with contexts := cx, dev := d, msgs := n } asid hit := by
  obtain ⟨keys, unwritten, runs, forgotten⟩ := h
  exact ⟨keys, unwritten, runs, forgotten⟩

/-! ### Sectors of key slots -/

/-- A sector of column memory dropped: no byte changes, and nothing of the device. -/
theorem dropSector_frame (s : State) (a c : Nat) {x : Sector} (hx : x.host = false) : ∃ cx cs mp rp, s.dropSector a c x
    = { s with contexts := cx, columns := cs, memPsn := mp, readPsn := rp } := by
  unfold State.dropSector
  simp only [hx, Bool.false_eq_true, if_false]
  split
  · exact ⟨_, _, _, _, rfl⟩
  · exact ⟨_, _, _, _, rfl⟩

theorem dropSlots_frame (s : State) (a : Nat) (slot : Nat → Bool) : ∃ cx cs mp rp, s.dropSlots a slot
    = { s with contexts := cx, columns := cs, memPsn := mp, readPsn := rp } := by
  let framed (t : State) : Prop := ∃ cx cs mp rp, t = { s with contexts := cx, columns := cs, memPsn := mp, readPsn := rp }
  refine List.foldlRecOn (motive := framed) _ _ ⟨_, _, _, _, rfl⟩ fun t ht kv _ => ?_
  refine List.foldlRecOn (motive := framed) _ _ ht fun u hu x hx => ?_
  obtain ⟨cx, cs, mp, rp, rfl⟩ := hu
  have hx : x.host = false := by simpa using (Bool.and_eq_true_iff.mp (List.mem_filter.mp hx).2).1
  obtain ⟨cx', cs', mp', rp', he⟩ := dropSector_frame { s with contexts := cx, columns := cs, memPsn := mp, readPsn := rp }
    a kv.1 hx
  exact ⟨cx', cs', mp', rp', he⟩

theorem tablesKept_dropSlots (s : State) (a : Nat) (slot : Nat → Bool) : TablesKept s (s.dropSlots a slot) := by
  unfold State.dropSlots
  refine tablesKept_foldl (fun t kv => ?_) _ _
  exact tablesKept_foldl (fun u x => tablesKept_dropSector u a _ x) _ _

end Sys2Proof.Machine
end

section
/-! A context-management command written or under way (R360, R362, R374): its checks, its end with or without an error, and the
wait of one that changes what accesses reach. -/

namespace Sys2Proof.Machine

open Sys2Proof

/-! ### Arguments -/

theorem bit_eq_decide {n : Nat} (x : BitVec n) (i : Nat) : bit x i = decide (x.toNat / 2 ^ i % 2 = 1) :=
  Nat.testBit_eq_decide_div_mod_eq

/-- The highest field of an argument, where it is one bit. -/
theorem bit_top {n k lo : Nat} {x : BitVec n} {v : Bool} (h : x.toNat = lo + v.toNat * 2 ^ k) (hlo : lo < 2 ^ k) :
    bit x k = v := by
  rw [bit_eq_decide, h, Nat.add_mul_div_right _ _ (Nat.two_pow_pos k), Nat.div_eq_of_lt hlo]
  cases v <;> rfl

/-- A free interface takes a command with the arguments now written, and the one under way has those it was written with. -/
structure Takes (s : State) (code asid : Nat) (b : Busy) : Prop where
  free : s.dev.occupied code asid = false
  args : s.dev.args code asid = b

theorem takes_idle {s : State} (h : s.dev.busy = none) (code asid : Nat) : Takes s code asid
    { code := code, asid := asid, arg0 := s.dev.cmarg0, arg1 := s.dev.cmarg1, arg2 := s.dev.cmarg2 } where
  free := by unfold Dev.occupied; rw [h]
  args := by unfold Dev.args; rw [h]

theorem takes_underway {s : State} {b : Busy} (h : s.dev.busy = some b) : Takes s b.code b.asid b where
  free := by unfold Dev.occupied; rw [h]; simp
  args := by unfold Dev.args; rw [h]

/-! ### Checks -/

section
variable {asid : Nat} (ha : asid < 8192)
include ha

theorem failing_eq (checks : List (Bool × Nat)) : failing asid checks = checks.find? fun c => c.1 := by
  unfold failing
  rw [List.find?_cons_of_neg (by simpa using ha)]

theorem failing_eq_none {checks : List (Bool × Nat)} (h : ∀ c ∈ checks, c.1 = false) : failing asid checks = none := by
  rw [failing_eq ha, List.find?_eq_none]
  exact fun c hc => by rw [h c hc]; exact Bool.false_ne_true

theorem failing_nil : failing asid [] = none := failing_eq_none ha fun _ h => absurd h List.not_mem_nil

theorem failing_head {c : Bool} (h : c = true) (result : Nat) (checks : List (Bool × Nat)) :
    failing asid ((c, result) :: checks) = some (c, result) := by
  rw [failing_eq ha, List.find?_cons_of_pos h]

theorem failing_tail {c : Bool} (h : c = false) (result : Nat) (checks : List (Bool × Nat)) :
    failing asid ((c, result) :: checks) = failing asid checks := by
  rw [failing_eq ha, failing_eq ha, List.find?_cons_of_neg (by simp [h])]

end

/-! ### Ends -/

theorem endManage_eq (s : State) (code asid result : Nat) : ∃ d m, s.endManage code asid result = { s with dev := d, msgs := m }
    ∧ d.cmcmd = BitVec.ofNat 32 (code + asid % 8192 * 2 ^ 16) ∧ d.cmstat = BitVec.ofNat 32 (result * 2 ^ 8)
    ∧ bit d.irqst 3 = true := by
  obtain ⟨_, _, _, h⟩ := raiseVector_eq { s with dev := { s.dev with
    cmcmd := BitVec.ofNat 32 (code + asid % 8192 * 2 ^ 16), cmstat := BitVec.ofNat 32 (result * 2 ^ 8), busy := none } } 3
  exact ⟨_, _, h, rfl, rfl, bit_cause _ (by decide)⟩

/-- A command ended without an error: what holds of its state whatever the device's registers and messages. -/
theorem managed_endManage (s : State) (code asid : Nat) {p : State → Prop} (hp : ∀ d m, p { s with dev := d, msgs := m }) :
    Managed (s.endManage code asid 0) code asid ∧ p (s.endManage code asid 0) := by
  obtain ⟨d, m, h, hcmd, hstat, hirq⟩ := endManage_eq s code asid 0
  rw [h]
  exact ⟨⟨hcmd, hstat, hirq⟩, hp d m⟩

theorem notManaged_endManage (s : State) (code asid result : Nat) :
    NotManaged s (s.endManage code asid result) code asid result := by
  obtain ⟨d, m, h, hcmd, hstat, hirq⟩ := endManage_eq s code asid result
  rw [h]
  exact ⟨hcmd, hstat, hirq, rfl, rfl, ⟨rfl, rfl, rfl, rfl⟩, rfl, rfl, rfl, rfl⟩

section
variable {s : State} (hup : s.dev.bootst = 4) {code asid : Nat} {checks : List (Bool × Nat)} {f : State → State}
include hup

theorem manage_ends (hfree : s.dev.occupied code asid = false) (hc : failing asid checks = none) :
    s.manage code asid checks f = (f s).endManage code asid 0 := by
  unfold State.manage
  rw [up_of_booted hup, hfree, hc]
  rfl

theorem manage_refuses (hfree : s.dev.occupied code asid = false) {c : Bool} {result : Nat}
    (hc : failing asid checks = some (c, result)) : s.manage code asid checks f = s.endManage code asid result := by
  unfold State.manage
  rw [up_of_booted hup, hfree, hc]
  rfl

/-- A command that fails a check ends with the result of the first that fails (R360). -/
theorem answers_refused {i : Instr} (hi : exec i s = .next (s.manage code asid checks f)) (hb : s.dev.busy = none)
    {c : Bool} {result : Nat} (hc : failing asid checks = some (c, result)) :
    Answers i s fun t => NotManaged s t code asid result := by
  refine ⟨_, hi, ?_⟩
  rw [manage_refuses hup (takes_idle hb code asid).free hc]
  exact notManaged_endManage s code asid result

/-- A command that passes its checks is carried out (R360). -/
theorem answers_managed {i : Instr} (hi : exec i s = .next (s.manage code asid checks f)) (hb : s.dev.busy = none)
    (hc : failing asid checks = none) {p : State → Prop} (hp : ∀ d m, p { f s with dev := d, msgs := m }) :
    Answers i s fun t => Managed t code asid ∧ p t := by
  refine ⟨_, hi, ?_⟩
  rw [manage_ends hup (takes_idle hb code asid).free hc]
  exact managed_endManage (f s) code asid hp

end

/-! ### Commands that change their context -/

/-- One context changed, and nothing else but the device's registers. -/
def Installed (s t : State) (asid : Nat) (c : Context) : Prop :=
  t.ctx asid = c ∧ OtherContexts s t asid ∧ t.keys = s.keys ∧ SameBytes s t ∧ SameWork s t

/-- A command of that kind whose checks pass, and what it makes of its context. -/
def Installs (s t : State) (code asid : Nat) (g : Context → Context) : Prop :=
  ∃ checks f, failing asid checks = none ∧ f s = s.modCtx asid g ∧ t = s.manage code asid checks f

theorem answers_installed {s t : State} (hup : s.dev.bootst = 4) (hb : s.dev.busy = none) {code asid : Nat} {i : Instr}
    (hi : exec i s = .next t) {g : Context → Context} (h : Installs s t code asid g) :
    Answers i s fun t => Managed t code asid ∧ Installed s t asid (g (s.ctx asid)) := by
  obtain ⟨checks, f, hc, hf, rfl⟩ := h
  refine answers_managed hup hi hb hc fun d m => ?_
  rw [hf]
  exact ⟨State.ctx_modCtx s asid g, fun _ h => State.ctx_modCtx_ne s g h, rfl, ⟨rfl, rfl, rfl, rfl⟩, rfl, rfl, rfl, rfl⟩

/-! ### Commands that change what accesses reach -/

/-- A command of that kind whose checks pass, and the machine as it changes it. -/
def Remaps (s t : State) (code asid : Nat) (u : State) : Prop :=
  ∃ checks f, failing asid checks = none ∧ f s = u ∧ t = s.remap code asid checks f

section
variable {s t u : State} (hup : s.dev.bootst = 4) {code asid : Nat} {b : Busy} (hb : Takes s code asid b)
  (h : Remaps s t code asid u)
include hup hb h

theorem remaps_ends (hheld : s.holdsAccess asid = false) : t = u.endManage code asid 0 := by
  obtain ⟨checks, f, hc, rfl, rfl⟩ := h
  unfold State.remap
  rw [hheld, Bool.and_false, if_neg Bool.false_ne_true]
  exact manage_ends hup hb.free hc

theorem remaps_waits (ha : asid < 8192) (hheld : s.holdsAccess asid = true) : t = { s with dev := { s.dev with
    cmcmd := BitVec.ofNat 32 (code + asid * 2 ^ 16), busy := some b } } := by
  obtain ⟨checks, f, hc, rfl, rfl⟩ := h
  unfold State.remap
  rw [up_of_booted hup, hb.free, hc, hheld, hb.args, Nat.mod_eq_of_lt ha]
  rfl

section
variable (hheld : s.holdsAccess asid = false) {hit : Nat → Nat → Nat → Bool}
include hheld

/-- Such a command that changes nothing of the context itself. -/
theorem remaps_cutOff (hu : u = s.cutOff asid hit) : Managed t code asid ∧ CutOff s t asid hit := by
  rw [remaps_ends hup hb h hheld, hu]
  exact managed_endManage _ code asid (p := fun t => CutOff s t asid hit) fun d n => cutOff_changed (cutOff_spec s asid hit) _ d n

/-- Such a command, with what holds of the context that it changes, whatever its meters. -/
theorem remaps_changes {g : Context → Context} (hu : u = (s.cutOff asid hit).modCtx asid g) {p : Context → Prop}
    (hp : ∀ m, p (g { s.ctx asid with meters := m })) : Managed t code asid ∧ p (t.ctx asid) ∧ CutOff s t asid hit := by
  rw [remaps_ends hup hb h hheld, hu]
  obtain ⟨m, hm⟩ := ctx_cutOff s asid hit asid
  have hctx : p (((s.cutOff asid hit).modCtx asid g).ctx asid) := by
    rw [State.ctx_modCtx, hm]
    exact hp m
  exact managed_endManage _ code asid (p := fun t => p (t.ctx asid) ∧ CutOff s t asid hit) fun d n =>
    ⟨hctx, cutOff_changed (cutOff_spec s asid hit) _ d n⟩

end

end

/-- A command of that kind is carried out alike as it is written and under way from before. -/
theorem answers_remap {s : State} {i : Instr} {code asid : Nat} {command : Nat → State}
    (hi : exec i s = .next (command asid)) (hend : ∀ b, s.dev.busy = some b → b.code = code → s.endBusy = command b.asid)
    {p : Busy → State → Prop} (hp : ∀ b, Takes s code asid b → p b (command asid)) :
    (s.dev.busy = none → Answers i s
      (p { code := code, asid := asid, arg0 := s.dev.cmarg0, arg1 := s.dev.cmarg1, arg2 := s.dev.cmarg2 }))
    ∧ ∀ b, s.dev.busy = some b → b.code = code → b.asid = asid → p b s.endBusy := by
  refine ⟨fun h => ⟨_, hi, hp _ (takes_idle h code asid)⟩, fun b h hc ha => ?_⟩
  rw [hend b h hc, ha]
  subst hc ha
  exact hp b (takes_underway h)

end Sys2Proof.Machine
end

section
/-! MAPCOL, SETROOT and INVAL (R360, R362, R363, R366). -/

namespace Sys2Proof.Machine

open Sys2Proof

/-! ### The column map and the roots -/

/-- A column map's entries but those of one logical column. -/
theorem find?_unmapped (m : List (Nat × Nat)) (l k : Nat) :
    (m.filter fun e => e.1 != l).find? (fun e => e.1 == k) = if k = l then none else m.find? fun e => e.1 == k := by
  rw [List.find?_filter]
  by_cases h : k = l
  · rw [if_pos h, List.find?_eq_none]
    intro e _
    simp [h]
  · rw [if_neg h]
    congr 1
    funext e
    by_cases he : e.1 = k
    · simp [he, h]
    · simp [he]

theorem pcol_mapTo (c : Context) (l k : Nat) (p : Option Nat) :
    (c.mapTo l p).pcol k = if k = l then p else c.pcol k := by
  cases p with
  | none =>
    unfold Context.mapTo Context.pcol
    dsimp only
    rw [find?_unmapped]
    split
    · rfl
    · rfl
  | some q =>
    unfold Context.mapTo
    dsimp only
    by_cases hsame : c.pcol l = some q
    · rw [if_pos hsame]
      split
      · next h => rw [h, hsame]
      · rfl
    · rw [if_neg hsame]
      unfold Context.pcol
      dsimp only
      rw [List.find?_append, find?_unmapped]
      by_cases h : k = l
      · simp [h]
      · have h' : ¬ l = k := fun e => h e.symm
        simp [h, h']

/-- The root of one logical column on a physical one set, or removed where it is 0 (R360, R363). -/
def Context.setLogical (c : Context) (p l root : Nat) : Context :=
  let rest := c.lroots.filter fun r => !(r.1 == p && r.2.1 == l)
  { c with lroots := if root = 0 then rest else rest ++ [(p, l, root)] }

/-- The logical roots but that of one logical column on a physical one. -/
theorem find?_unrooted (rs : List (Nat × Nat × Nat)) (p l q k : Nat) :
    (rs.filter fun r => !(r.1 == p && r.2.1 == l)).find? (fun r => r.1 == q && r.2.1 == k)
      = if (q, k) = (p, l) then none else rs.find? fun r => r.1 == q && r.2.1 == k := by
  rw [List.find?_filter]
  by_cases h : (q, k) = (p, l)
  · obtain ⟨rfl, rfl⟩ := Prod.mk.inj h
    rw [if_pos rfl, List.find?_eq_none]
    intro r _
    cases r.1 == q && r.2.1 == k <;> decide
  · rw [if_neg h]
    congr 1
    funext r
    by_cases hr : r.1 = q ∧ r.2.1 = k
    · obtain ⟨rfl, rfl⟩ := hr
      have hne : (r.1 == p && r.2.1 == l) = false := by
        rw [Bool.eq_false_iff]
        exact fun e => h (by simpa [Prod.ext_iff] using e)
      simp [hne]
    · have hr : (r.1 == q && r.2.1 == k) = false := by simpa using hr
      simp [hr]

theorem rootOf_setLogical (c : Context) (p l root q k : Nat) : (c.setLogical p l root).rootOf q k =
    if (q, k) = (p, l) then (if root = 0 then mapGet c.roots p else some root) else c.rootOf q k := by
  unfold Context.setLogical Context.rootOf
  dsimp only
  by_cases hr : root = 0
  · rw [if_pos hr, find?_unrooted, if_pos hr]
    by_cases h : (q, k) = (p, l)
    · rw [if_pos h, if_pos h, (Prod.mk.inj h).1]
    · rw [if_neg h, if_neg h]
  · rw [if_neg hr, List.find?_append, find?_unrooted]
    by_cases h : (q, k) = (p, l)
    · obtain ⟨rfl, rfl⟩ := Prod.mk.inj h
      simp [hr]
    · have h' : ¬ (p = q ∧ l = k) := fun e => h (by rw [e.1, e.2])
      simp [h, h']

/-! ### The commands -/

theorem dead_of_live {s : State} {asid : Nat} (hlive : (s.ctx asid).live = true) : s.dead asid = false := by
  unfold State.dead
  rw [hlive]
  rfl

section
variable {s : State} {asid : Nat} (ha : asid < 8192) (hlive : (s.ctx asid).live = true) {b : Busy}
include ha hlive

theorem mapColumn_remaps (hb : s.dev.args 3 asid = b) {l p : Nat} {valid : Bool} (hl : l < 255) (hp : p < 128)
    (hcol : valid = true → s.columnLive p = true) (harg : b.arg0.toNat = l + p * 2 ^ 8 + valid.toNat * 2 ^ 15) :
    Remaps s (s.mapColumn asid) 3 asid ((s.cutOff asid fun k _ _ => k == l).modCtx asid
      fun c => c.mapTo l (if valid then some p else none)) := by
  have hv := valid.toNat_lt
  have hdl : b.arg0.toNat % 256 = l := by omega
  have hdp : b.arg0.toNat / 2 ^ 8 % 128 = p := by omega
  have hdv : bit b.arg0 15 = valid := bit_top harg (by omega)
  unfold State.mapColumn
  simp only [hb, hdl, hdp, hdv]
  refine ⟨_, _, failing_eq_none ha ?_, rfl, rfl⟩
  have hres : b.arg0.toNat / 2 ^ 16 = 0 := by omega
  have hcol : (valid && !s.columnLive p) = false := by cases valid with
    | false => rfl
    | true => simp [hcol rfl]
  have hne : l ≠ 255 := by omega
  simpa [hne, hcol, dead_of_live hlive] using hres

theorem setRoot_remaps_physical (hb : s.dev.args 4 asid = b) {p : Nat} (hp : p < 128) (harg : b.arg0.toNat = p)
    (hroot : b.arg1.toNat < 2 ^ 34) (halign : b.arg1.toNat % 4096 = 0) :
    Remaps s (s.setRoot asid) 4 asid ((s.cutOff asid fun k _ _ => (s.ctx asid).pcol k == some p).modCtx asid
      fun c => { c with roots := mapSet c.roots p b.arg1.toNat }) := by
  have hdp : b.arg0.toNat % 128 = p := by omega
  have hdl : b.arg0.toNat / 2 ^ 16 % 256 = 0 := by omega
  have hlog : bit b.arg0 31 = false := by
    rw [bit_eq_decide]
    exact decide_eq_false (by omega)
  unfold State.setRoot
  simp only [hb, hdp, hdl, hlog, Bool.false_eq_true, if_false]
  refine ⟨_, _, failing_eq_none ha ?_, rfl, rfl⟩
  have h1 : b.arg0.toNat < 2 ^ 32 := by omega
  have h2 : b.arg0.toNat / 2 ^ 24 % 128 = 0 := by omega
  have h3 : b.arg0.toNat / 2 ^ 7 % 512 = 0 := by omega
  simpa [halign, dead_of_live hlive] using And.intro ⟨⟨h1, h2⟩, h3⟩ hroot

theorem setRoot_remaps_logical (hb : s.dev.args 4 asid = b) {p l : Nat} (hp : p < 128) (hl : l < 255)
    (harg : b.arg0.toNat = p + l * 2 ^ 16 + 2 ^ 31) (hroot : b.arg1.toNat < 2 ^ 34) (halign : b.arg1.toNat % 4096 = 0)
    (hroom : b.arg1.toNat = 0 ∨ ((s.ctx asid).lroots.filter fun r => r.1 == p).length < 8) :
    Remaps s (s.setRoot asid) 4 asid ((s.cutOff asid fun k _ _ => k == l).modCtx asid
      fun c => c.setLogical p l b.arg1.toNat) := by
  have hdp : b.arg0.toNat % 128 = p := by omega
  have hdl : b.arg0.toNat / 2 ^ 16 % 256 = l := by omega
  have hlog : bit b.arg0 31 = true := by
    rw [bit_eq_decide]
    exact decide_eq_true (by omega)
  unfold State.setRoot
  simp only [hb, hdp, hdl, hlog, if_true]
  refine ⟨_, _, failing_eq_none ha ?_, rfl, rfl⟩
  have h1 : b.arg0.toNat < 2 ^ 32 := by omega
  have h2 : b.arg0.toNat / 2 ^ 24 % 128 = 0 := by omega
  have h3 : b.arg0.toNat / 2 ^ 7 % 512 = 0 := by omega
  have hne : l ≠ 255 := by omega
  have hroom : b.arg1.toNat ≠ 0 → ((s.ctx asid).lroots.filter fun r => r.1 == p).length < 8 := hroom.resolve_left
  simpa [hne, halign, dead_of_live hlive] using And.intro ⟨⟨⟨h1, h2⟩, h3⟩, hroot⟩ fun h _ => hroom h

theorem invalidate_remaps (hb : s.dev.args 5 asid = b) {l : Nat} (hl : l < 256) (harg : b.arg0.toNat = l) :
    Remaps s (s.invalidate asid) 5 asid (s.cutOff asid fun k o len => (l == 255 || k == l) && (b.arg2.toNat == 0
      || (decide (o < b.arg1.toNat + b.arg2.toNat) && decide (b.arg1.toNat < o + len)))) := by
  have hdl : b.arg0.toNat % 256 = l := by omega
  have hres : b.arg0.toNat / 2 ^ 8 = 0 := by omega
  unfold State.invalidate
  simp only [hb, hdl]
  refine ⟨_, _, failing_eq_none ha ?_, rfl, rfl⟩
  simpa [dead_of_live hlive] using hres

end

end Sys2Proof.Machine
end

section
/-! CREATE and DESTROY (R331, R357, R360, R369, R376). -/

namespace Sys2Proof.Machine

open Sys2Proof

/-! ### What DESTROY drops -/

/-- What a context left in the registers, latches and cache entries of the cores, dropped. -/
def State.dropLeft (s : State) (asid : Nat) : State :=
  { s with cores := mapAll s.cores fun _ c => { c with left := c.left.filter fun kv => kv.2.1 != asid } }

/-- The sectors of a context's key slots, dropped. -/
def State.dropOwnSlots (s : State) (asid : Nat) : State :=
  s.dropSlots asid fun n => ((mapGet s.keys n).map Prod.fst) == some asid && n != 0

/-- A context's keys, grids, rounds, merge commands and copies, dropped. -/
def State.dropOwned (s : State) (asid : Nat) : State :=
  { s with keys := s.keys.filter fun kv => kv.1 == 0 || kv.2.1 != asid
           grids := s.grids.filter fun kv => kv.2.asid != asid
           rounds := s.rounds.filter fun kv => kv.2.asid != asid
           merges := s.merges.filter fun kv => kv.2.asid != asid
           copies := s.copies.filter fun kv => kv.2.asid != asid }

/-- A context whose meters are closed (R376). -/
def Context.ended (c : Context) : Context := { Context.empty with meters := c.meters, closed := true }

/-- The machine once a context is destroyed. -/
def State.destroyed (s : State) (asid : Nat) : State :=
  ((((s.dropMapped asid fun _ _ _ _ => true).dropLeft asid).dropOwnSlots asid).dropOwned asid).modCtx asid Context.ended

theorem destroyCtx_eq (s : State) (asid : Nat) : s.destroyCtx asid
    = s.manage 2 asid [(s.hasGrid asid, 1), (s.dead asid, 4)] fun s => s.destroyed asid := rfl

/-- What is left of a context that is destroyed: nothing but its closed meters. -/
structure Destroyed (s t : State) (asid : Nat) : Prop where
  ctx : ∃ m, t.ctx asid = { Context.empty with meters := m, closed := true }
  unwritten : Unwritten s t
  rounds : ∀ kv ∈ t.rounds, kv.2.asid ≠ asid
  merges : ∀ kv ∈ t.merges, kv.2.asid ≠ asid
  copies : ∀ kv ∈ t.copies, kv.2.asid ≠ asid
  left : ∀ c, ∀ k < 4, ∀ e ∈ (t.core c k).left, e.2.1 ≠ asid
  keys : ∀ k ∈ t.keys, k.1 = 0 ∨ k.2.1 ≠ asid
  forgotten : Forgotten t asid fun _ _ _ => true

theorem core_dropLeft (s : State) (asid c k : Nat) : (s.dropLeft asid).core c k
    = { s.core c k with left := (s.core c k).left.filter fun kv => kv.2.1 != asid } :=
  core_mapAll (s := s) (t := s.dropLeft asid) (f := fun c => { c with left := c.left.filter fun kv => kv.2.1 != asid }) rfl rfl c k

theorem forgotten_dropLeft {s : State} {asid : Nat} {hit : Nat → Nat → Nat → Bool} (h : Forgotten s asid hit) :
    Forgotten (s.dropLeft asid) asid hit := by
  obtain ⟨tlb, l1⟩ := h
  refine ⟨tlb, fun c k hk e he => l1 c k hk e ?_⟩
  rw [core_dropLeft] at he
  exact he

theorem core_dropSlots (s : State) (a : Nat) (slot : Nat → Bool) (c k : Nat) : (s.dropSlots a slot).core c k = s.core c k := by
  obtain ⟨_, _, _, _, h⟩ := dropSlots_frame s a slot
  rw [h]
  rfl

theorem forgotten_dropSlots {s : State} {asid : Nat} {hit : Nat → Nat → Nat → Bool} (h : Forgotten s asid hit) (a : Nat)
    (slot : Nat → Bool) : Forgotten (s.dropSlots a slot) asid hit := by
  obtain ⟨tlb, l1⟩ := h
  exact ⟨fun p e he => tlb p e ((tablesKept_dropSlots s a slot).tlb p ▸ he),
    fun c k hk e he => l1 c k hk e (core_dropSlots s a slot c k ▸ he)⟩

theorem kept_dropSlots (s : State) (a : Nat) (slot : Nat → Bool) : Kept s (s.dropSlots a slot) := by
  obtain ⟨_, _, _, _, h⟩ := dropSlots_frame s a slot
  rw [h]
  exact kept_of rfl

/-- What `dropOwned` leaves of a context in a state whose caches and cores have nothing more of it. -/
theorem destroyed_dropOwned {s u : State} {asid : Nat} (hk : Unwritten s u) (hf : Forgotten u asid fun _ _ _ => true)
    (hl : ∀ c, ∀ k < 4, ∀ e ∈ (u.core c k).left, e.2.1 ≠ asid) (d : Dev) (n : List Msg) :
    Destroyed s { (u.dropOwned asid).modCtx asid Context.ended with dev := d, msgs := n } asid where
  ctx := ⟨(u.ctx asid).meters, State.ctx_modCtx (u.dropOwned asid) asid Context.ended⟩
  unwritten := hk
  rounds kv h := by simpa using (List.mem_filter.mp h).2
  merges kv h := by simpa using (List.mem_filter.mp h).2
  copies kv h := by simpa using (List.mem_filter.mp h).2
  left := hl
  keys k h := by simpa using (List.mem_filter.mp h).2
  forgotten := hf

theorem destroyed_spec (s : State) (asid : Nat) (d : Dev) (n : List Msg) :
    Destroyed s { s.destroyed asid with dev := d, msgs := n } asid := by
  have hf := forgotten_dropSlots (forgotten_dropLeft (forgotten_dropMapped s asid fun _ _ _ => true)) asid
  have hk (slot : Nat → Bool) := kept_trans (t := State.dropLeft _ asid)
    (kept_trans (kept_dropMapped s asid fun _ _ _ => true) (kept_of rfl)) (kept_dropSlots _ asid slot)
  refine destroyed_dropOwned (unwritten_of_kept (hk _)) (hf _) (fun c k _ e he => ?_) d n
  rw [core_dropSlots, core_dropLeft] at he
  simpa using (List.mem_filter.mp he).2

end Sys2Proof.Machine
end

section
/-! The context-management commands that end at once (R284, R360, R361, R367, R369, R373, R376). -/

namespace Sys2Proof.Machine

open Sys2Proof

section
variable {s : State} {asid : Nat} (hup : s.dev.bootst = 4) (ha : asid < 8192) (hb : s.dev.busy = none)
include hup ha hb

theorem create_answers (hc : (s.ctx asid).closed = false) (hl : (s.ctx asid).live = false) :
    Answers (.create asid) s fun t => Managed t 1 asid ∧ Installed s t asid { Context.empty with live := true } :=
  answers_installed (g := fun _ => { Context.empty with live := true }) hup hb rfl
    ⟨_, _, (failing_tail ha hc _ _).trans ((failing_tail ha hl _ _).trans (failing_nil ha)), rfl, rfl⟩

theorem destroy_answers (hg : s.hasGrid asid = false) (hl : (s.ctx asid).live = true) :
    Answers (.destroy asid) s fun t => Managed t 2 asid ∧ Destroyed s t asid :=
  answers_managed hup (congrArg _ (destroyCtx_eq s asid)) hb
    ((failing_tail ha hg _ _).trans ((failing_tail ha (dead_of_live hl) _ _).trans (failing_nil ha)))
    (destroyed_spec s asid)

end

/-! ### KEYLOAD -/

/-- Is a key slot the device's, or another context's (R360, R367)? -/
def State.slotTaken (s : State) (asid slot : Nat) : Bool :=
  slot == 0 || (match mapGet s.keys slot with | some k => k.1 != asid | none => false)

theorem slotTaken_iff (s : State) (asid slot : Nat) :
    s.slotTaken asid slot = true ↔ slot = 0 ∨ ∃ k, mapGet s.keys slot = some k ∧ k.1 ≠ asid := by
  unfold State.slotTaken
  cases mapGet s.keys slot with
  | none => simp
  | some k => simp

/-- A slot loaded with a key of the device's own or with the one given, once its sectors are dropped (R360, R369). -/
def State.keyLoaded (s : State) (asid slot : Nat) (own : Bool) : State :=
  let u := s.dropSlots asid fun n => n == slot
  { u with nextId := u.nextId + 1
           keys := mapSet u.keys slot (asid, if own then 2 * u.nextId else 2 * u.dev.cmkey.toNat + 1) }

theorem loadKey_eq {s : State} (asid : Nat) {slot : Nat} {own : Bool} (hs : slot < 4096)
    (harg : s.dev.cmarg0.toNat = slot + own.toNat * 2 ^ 16) : ∃ reserved f, reserved = false ∧ f s = s.keyLoaded asid slot own
      ∧ s.loadKey asid = s.manage 6 asid [(reserved, 2), (s.dead asid, 4), (s.slotTaken asid slot, 5)] f := by
  have ho := own.toNat_lt
  have hslot : s.dev.cmarg0.toNat % 4096 = slot := by omega
  have hown : bit s.dev.cmarg0 16 = own := bit_top harg (by omega)
  unfold State.loadKey
  simp only [hslot, hown]
  exact ⟨_, _, Bool.or_eq_false_iff.mpr ⟨decide_eq_false (by omega), decide_eq_false (by omega)⟩, rfl, rfl⟩

section
variable {s : State} {asid : Nat} (hup : s.dev.bootst = 4) (ha : asid < 8192) (hb : s.dev.busy = none)
  (hl : (s.ctx asid).live = true)
include hup ha hb hl

theorem keyload_loads {slot : Nat} {own : Bool} (hpos : 0 < slot) (hs : slot < 4096)
    (harg : s.dev.cmarg0.toNat = slot + own.toNat * 2 ^ 16) (hmine : ∀ k, mapGet s.keys slot = some k → k.1 = asid) :
    Answers (.keyload asid) s fun t => Managed t 6 asid
      ∧ (∀ n, mapGet t.keys n = if n = slot then some (asid, if own then 2 * s.nextId else 2 * s.dev.cmkey.toNat + 1)
          else mapGet s.keys n) ∧ SameBytes s t ∧ SameWork s t := by
  have hfree : s.slotTaken asid slot = false := by
    rw [Bool.eq_false_iff, ne_eq, slotTaken_iff]
    rintro (h | ⟨k, hk, hne⟩)
    · omega
    · exact hne (hmine k hk)
  obtain ⟨reserved, f, hr, hf, he⟩ := loadKey_eq asid hs harg
  refine answers_managed hup (congrArg _ he) hb ((failing_tail ha hr _ _).trans ((failing_tail ha (dead_of_live hl) _ _).trans
    ((failing_tail ha hfree _ _).trans (failing_nil ha)))) fun d m => ?_
  rw [hf]
  unfold State.keyLoaded
  obtain ⟨_, _, _, _, hd⟩ := dropSlots_frame s asid fun n => n == slot
  rw [hd]
  exact ⟨mapGet_mapSet _ s.keys slot, ⟨rfl, rfl, rfl, rfl⟩, rfl, rfl, rfl, rfl⟩

theorem keyload_refused {slot : Nat} {own : Bool} (hs : slot < 4096) (harg : s.dev.cmarg0.toNat = slot + own.toNat * 2 ^ 16)
    (hother : slot = 0 ∨ ∃ k, mapGet s.keys slot = some k ∧ k.1 ≠ asid) :
    Answers (.keyload asid) s fun t => NotManaged s t 6 asid 5 := by
  obtain ⟨reserved, f, hr, -, he⟩ := loadKey_eq asid hs harg
  exact answers_refused hup (congrArg _ he) hb ((failing_tail ha hr _ _).trans ((failing_tail ha (dead_of_live hl) _ _).trans
    (failing_head ha ((slotTaken_iff s asid slot).mpr hother) _ _)))

end

/-! ### SETSCHED, PAIR, SAVEAREA and PRIVAREA -/

/-- SAVEAREA and PRIVAREA check first that the context has no warp on the column (R360). -/
theorem setSave_checks_warps (s : State) (asid : Nat) : ∃ checks f, s.setSave asid
    = s.manage 9 asid ((s.onColumn asid (s.dev.cmarg0.toNat % 128), 1) :: checks) f := by
  unfold State.setSave
  exact ⟨_, _, rfl⟩

theorem setPrivate_checks_warps (s : State) (asid : Nat) : ∃ checks f, s.setPrivate asid
    = s.manage 10 asid ((s.onColumn asid (s.dev.cmarg0.toNat % 128), 1) :: checks) f := by
  unfold State.setPrivate
  exact ⟨_, _, rfl⟩

section
variable {s : State} {asid : Nat} (ha : asid < 8192) (hl : (s.ctx asid).live = true)
include ha hl

/-- The entry that SETSCHED writes: CMARG1 and CMARG2 without the low bits of its bounds (R284). -/
def Dev.schedEntry (d : Dev) : BitVec 128 :=
  let keep : BitVec 128 := ~~~(0x3FF ||| (0x3FF <<< 48))
  (d.cmarg2 ++ d.cmarg1) &&& keep

theorem setSched_installs {p e : Nat} (hp : p < 128) (he : e < 16) (harg : s.dev.cmarg0.toNat = p + e * 2 ^ 8) :
    Installs s (s.setSched asid) 7 asid fun c => { c with sched := mapSet c.sched (16 * p + e) s.dev.schedEntry } := by
  have hcol : s.dev.cmarg0.toNat % 128 = p := by omega
  have hentry : s.dev.cmarg0.toNat / 2 ^ 8 % 16 = e := by omega
  unfold State.setSched
  simp only [hcol, hentry]
  refine ⟨_, _, (failing_tail ha ?_ _ _).trans ((failing_tail ha (dead_of_live hl) _ _).trans (failing_nil ha)), rfl, rfl⟩
  exact Bool.or_eq_false_iff.mpr ⟨decide_eq_false (by omega), (bit_eq_decide _ _).trans (decide_eq_false (by omega))⟩

/-- PAIR of a device number that there is, with nothing reserved set: it pairs or unpairs by bit 31 (R373). -/
theorem setPair_installs {d : Nat} (hd : d ≤ 287) (hdev : s.dev.cmarg0.toNat % 512 = d) {pairs : Bool}
    (hbit : bit s.dev.cmarg0 31 = pairs) (h32 : s.dev.cmarg0.toNat < 2 ^ 32) (h29 : s.dev.cmarg0.toNat / 2 ^ 29 % 4 = 0)
    (h9 : s.dev.cmarg0.toNat / 2 ^ 9 % 128 = 0) : Installs s (s.setPair asid) 8 asid fun c =>
      { c with pairs := if pairs then mapSet c.pairs d (s.dev.cmarg0.toNat / 2 ^ 16 % 8192) else mapErase c.pairs d } := by
  unfold State.setPair
  simp only [hdev, hbit]
  refine ⟨_, _, (failing_tail ha ?_ _ _).trans ((failing_tail ha (dead_of_live hl) _ _).trans (failing_nil ha)), rfl, rfl⟩
  simp only [Bool.or_eq_false_iff, decide_eq_false_iff_not]
  omega

theorem setSave_installs {p slot : Nat} (hp : p < 128) (hpos : 0 < slot) (hs : slot < 4096)
    (harg : s.dev.cmarg0.toNat = p + slot * 2 ^ 16) (hon : s.onColumn asid p = false)
    (halign : s.dev.cmarg1.toNat % 2 ^ 21 = 0) (hfits : s.dev.cmarg1.toNat + 96 * 2 ^ 20 ≤ 2 ^ 34)
    (hkey : (mapGet s.keys slot).map Prod.fst = some asid) : Installs s (s.setSave asid) 9 asid
      fun c => { c with save := mapSet c.save p (s.dev.cmarg1.toNat, slot) } := by
  have hcol : s.dev.cmarg0.toNat % 128 = p := by omega
  have hslot : s.dev.cmarg0.toNat / 2 ^ 16 % 4096 = slot := by omega
  obtain ⟨k, hk, hmine⟩ := Option.map_eq_some_iff.mp hkey
  unfold State.setSave
  simp only [hcol, hslot, hk, hmine]
  refine ⟨_, _, (failing_tail ha hon _ _).trans ((failing_tail ha ?_ _ _).trans ((failing_tail ha (dead_of_live hl) _ _).trans
    ((failing_tail ha ?_ _ _).trans (failing_nil ha)))), rfl, rfl⟩
  · simp only [Bool.or_eq_false_iff, decide_eq_false_iff_not]
    omega
  · simpa using hpos.ne'

theorem setPrivate_installs {p : Nat} (hp : p < 128) (harg : s.dev.cmarg0.toNat = p) (hon : s.onColumn asid p = false)
    (hoff : s.dev.cmarg1.toNat % 2 ^ 16 = 0) (hlen : s.dev.cmarg2.toNat % 2 ^ 16 = 0)
    (hfits : s.dev.cmarg1.toNat + s.dev.cmarg2.toNat ≤ 2 ^ 48) : Installs s (s.setPrivate asid) 10 asid
      fun c => { c with priv := mapSet c.priv p (s.dev.cmarg1.toNat, s.dev.cmarg2.toNat) } := by
  have hcol : s.dev.cmarg0.toNat % 128 = p := by omega
  unfold State.setPrivate
  simp only [hcol]
  refine ⟨_, _, (failing_tail ha hon _ _).trans ((failing_tail ha ?_ _ _).trans ((failing_tail ha (dead_of_live hl) _ _).trans
    (failing_nil ha))), rfl, rfl⟩
  simp only [Bool.or_eq_false_iff, decide_eq_false_iff_not]
  omega

end

end Sys2Proof.Machine
end

section
/-! The context-management commands as a whole. -/

namespace Sys2Proof.Machine

open Sys2Proof

/-! ### Commands under way -/

theorem endBusy_mapcol {s : State} (b : Busy) (h : s.dev.busy = some b) (hc : b.code = 3) : s.endBusy = s.mapColumn b.asid := by
  unfold State.endBusy
  simp only [h]
  rw [if_pos hc]

theorem endBusy_setroot {s : State} (b : Busy) (h : s.dev.busy = some b) (hc : b.code = 4) : s.endBusy = s.setRoot b.asid := by
  unfold State.endBusy
  simp only [h]
  rw [if_neg (by omega), if_pos hc]

theorem endBusy_inval {s : State} (b : Busy) (h : s.dev.busy = some b) (hc : b.code = 5) : s.endBusy = s.invalidate b.asid := by
  unfold State.endBusy
  simp only [h]
  rw [if_neg (by omega), if_neg (by omega)]

theorem cutOff_iff {s t : State} {asid : Nat} {hit : Nat → Nat → Nat → Bool} : CutOff s t asid hit ↔
    (t.keys = s.keys ∧ Unwritten s t) ∧ RunsDiscarded s t asid ∧ Forgotten t asid hit :=
  ⟨fun h => ⟨⟨h.keys, h.unwritten⟩, h.runs, h.forgotten⟩, fun ⟨⟨hk, hu⟩, hr, hf⟩ => ⟨hk, hu, hr, hf⟩⟩

section
variable {s : State} {asid : Nat} (hup : s.dev.bootst = 4) (ha : asid < 8192) (hlive : (s.ctx asid).live = true)
  (hheld : s.holdsAccess asid = false) {b : Busy}
include hup ha hlive hheld

theorem mapColumn_spec (hb : Takes s 3 asid b) {l p : Nat} {valid : Bool} (hl : l < 255) (hp : p < 128)
    (hcol : valid = true → s.columnLive p = true) (harg : b.arg0.toNat = l + p * 2 ^ 8 + valid.toNat * 2 ^ 15) :
    Managed (s.mapColumn asid) 3 asid
      ∧ (∀ k, ((s.mapColumn asid).ctx asid).pcol k = if k = l then (if valid then some p else none) else (s.ctx asid).pcol k)
      ∧ CutOff s (s.mapColumn asid) asid fun k _ _ => k == l :=
  remaps_changes hup hb (mapColumn_remaps ha hlive hb.args hl hp hcol harg) hheld rfl
    (p := fun c => ∀ k, c.pcol k = if k = l then (if valid then some p else none) else (s.ctx asid).pcol k)
    fun m k => pcol_mapTo { s.ctx asid with meters := m } l k _

theorem setRoot_spec_physical (hb : Takes s 4 asid b) {p : Nat} (hp : p < 128) (harg : b.arg0.toNat = p)
    (hroot : b.arg1.toNat < 2 ^ 34) (halign : b.arg1.toNat % 4096 = 0) : Managed (s.setRoot asid) 4 asid
      ∧ ((∀ q, mapGet ((s.setRoot asid).ctx asid).roots q
            = if q = p then some b.arg1.toNat else mapGet (s.ctx asid).roots q)
          ∧ ((s.setRoot asid).ctx asid).lroots = (s.ctx asid).lroots)
      ∧ CutOff s (s.setRoot asid) asid fun k _ _ => (s.ctx asid).pcol k == some p :=
  remaps_changes hup hb (setRoot_remaps_physical ha hlive hb.args hp harg hroot halign) hheld rfl
    (p := fun c => (∀ q, mapGet c.roots q = if q = p then some b.arg1.toNat else mapGet (s.ctx asid).roots q)
      ∧ c.lroots = (s.ctx asid).lroots) fun _ => ⟨mapGet_mapSet _ (s.ctx asid).roots p, rfl⟩

theorem setRoot_spec_logical (hb : Takes s 4 asid b) {p l : Nat} (hp : p < 128) (hl : l < 255)
    (harg : b.arg0.toNat = p + l * 2 ^ 16 + 2 ^ 31) (hroot : b.arg1.toNat < 2 ^ 34) (halign : b.arg1.toNat % 4096 = 0)
    (hroom : b.arg1.toNat = 0 ∨ ((s.ctx asid).lroots.filter fun r => r.1 == p).length < 8) :
    Managed (s.setRoot asid) 4 asid
      ∧ (∀ q k, ((s.setRoot asid).ctx asid).rootOf q k = if (q, k) = (p, l)
          then (if b.arg1.toNat = 0 then mapGet (s.ctx asid).roots p else some b.arg1.toNat) else (s.ctx asid).rootOf q k)
      ∧ CutOff s (s.setRoot asid) asid fun k _ _ => k == l :=
  remaps_changes hup hb (setRoot_remaps_logical ha hlive hb.args hp hl harg hroot halign hroom) hheld rfl
    (p := fun c => ∀ q k, c.rootOf q k = if (q, k) = (p, l)
      then (if b.arg1.toNat = 0 then mapGet (s.ctx asid).roots p else some b.arg1.toNat) else (s.ctx asid).rootOf q k)
    fun m => rootOf_setLogical { s.ctx asid with meters := m } p l b.arg1.toNat

end

/-- Settles O53: each command is its checks and, where they pass, one change; what reaches into the caches writes back and drops,
and leaves the contexts all but their meters. -/
theorem contextsManaged : Obligations.ContextsManaged := by
  intro s asid hup ha a kept set keep entry args remaps waits
  have remap {i code p} {command : Nat → State} (hi : exec i s = .next (command asid))
      (hend : ∀ b, s.dev.busy = some b → b.code = code → s.endBusy = command b.asid)
      (hp : s.holdsAccess asid = false → ∀ b, Takes s code asid b → p b (command asid)) : remaps i code p :=
    fun hheld => answers_remap (p := p) hi hend (hp hheld)
  clear_value remaps
  refine ⟨fun hb => ⟨?createClosed, ?createLive, create_answers hup ha hb, ?destroyBusy, ?destroyDead, ?destroy⟩,
    fun hl => ⟨?mapcol, ?mapcolWaits, ?setrootPhysical, ?setrootLogical, ?setrootWaits, ?inval, ?invalWaits⟩,
    fun hb hl => ⟨fun _ _ => keyload_loads hup ha hb hl, fun _ _ => keyload_refused hup ha hb hl,
      fun p e hp he harg => answers_installed hup hb rfl (setSched_installs ha hl hp he harg), ?pair, ?unpair,
      fun p slot hp hpos hs harg hon halign hfits hkey =>
        answers_installed hup hb rfl (setSave_installs ha hl hp hpos hs harg hon halign hfits hkey),
      fun p hp harg hon hoff hlen hfits =>
        answers_installed hup hb rfl (setPrivate_installs ha hl hp harg hon hoff hlen hfits),
      fun hon => ⟨?savearea, ?privarea⟩⟩⟩
  case createClosed => exact fun hc => answers_refused hup rfl hb (failing_head ha hc _ _)
  case createLive =>
    exact fun hc hl => answers_refused hup rfl hb ((failing_tail ha hc _ _).trans (failing_head ha hl _ _))
  case destroyBusy =>
    exact fun hg => answers_refused hup (congrArg _ (destroyCtx_eq s asid)) hb (failing_head ha hg _ _)
  case destroyDead =>
    intro hg hl
    have hdead : s.dead asid = true := by unfold State.dead; rw [hl]; rfl
    exact answers_refused hup (congrArg _ (destroyCtx_eq s asid)) hb
      ((failing_tail ha hg _ _).trans (failing_head ha hdead _ _))
  case destroy =>
    intro hg hl
    obtain ⟨t, ht, hm, h⟩ := destroy_answers hup ha hb hg hl
    exact ⟨t, ht, hm, h.ctx, h.unwritten, h.rounds, h.merges, h.copies, h.left, h.keys, h.forgotten⟩
  case mapcol =>
    intro l p valid hlog hp hcol
    refine remap rfl endBusy_mapcol fun hheld b hb harg => ?_
    obtain ⟨hm, hpcol, hcut⟩ := mapColumn_spec hup ha hl hheld hb hlog hp hcol harg
    exact ⟨hm, (hpcol l).trans (if_pos rfl), fun k hk => (hpcol k).trans (if_neg hk), cutOff_iff.mp hcut⟩
  case mapcolWaits =>
    intro l p valid hlog hp hcol harg hb hheld
    have htakes := takes_idle hb 3 asid
    exact congrArg _ (remaps_waits hup htakes (mapColumn_remaps ha hl htakes.args hlog hp hcol harg) ha hheld)
  case setrootPhysical =>
    intro p hp
    refine remap rfl endBusy_setroot fun hheld b hb harg hroot halign => ?_
    obtain ⟨hm, ⟨hroots, hlroots⟩, hcut⟩ := setRoot_spec_physical hup ha hl hheld hb hp harg hroot halign
    exact ⟨hm, hroots, hlroots, cutOff_iff.mp hcut⟩
  case setrootLogical =>
    intro p l hp hlog
    refine remap rfl endBusy_setroot fun hheld b hb harg hroot halign hroom => ?_
    obtain ⟨hm, hrootOf, hcut⟩ := setRoot_spec_logical hup ha hl hheld hb hp hlog harg hroot halign hroom
    exact ⟨hm, (hrootOf p l).trans (if_pos rfl), fun q k hne => (hrootOf q k).trans (if_neg hne), cutOff_iff.mp hcut⟩
  case setrootWaits =>
    intro hp hroot halign hb hheld
    have htakes := takes_idle hb 4 asid
    exact congrArg _ (remaps_waits hup htakes (setRoot_remaps_physical ha hl htakes.args hp rfl hroot halign) ha hheld)
  case inval =>
    intro l hlog
    refine remap rfl endBusy_inval fun hheld b hb harg => ?_
    obtain ⟨hm, hcut⟩ := remaps_cutOff hup hb (invalidate_remaps ha hl hb.args hlog harg) hheld rfl
    exact ⟨hm, cutOff_iff.mp hcut⟩
  case invalWaits =>
    intro hlog hb hheld
    have htakes := takes_idle hb 5 asid
    exact congrArg _ (remaps_waits hup htakes (invalidate_remaps ha hl htakes.args hlog rfl) ha hheld)
  case pair =>
    intro d peer hd hpeer harg
    have harg : s.dev.cmarg0.toNat = d + peer * 2 ^ 16 + 2 ^ 31 := harg
    have hset : bit s.dev.cmarg0 31 = true := (bit_eq_decide _ _).trans (decide_eq_true (by omega))
    have hfield : s.dev.cmarg0.toNat / 2 ^ 16 % 8192 = peer := by omega
    have h := setPair_installs ha hl hd (by omega) hset (by omega) (by omega) (by omega)
    rw [hfield] at h
    exact answers_installed hup hb rfl h
  case unpair =>
    intro d hd harg
    have harg : s.dev.cmarg0.toNat = d := harg
    have hclear : bit s.dev.cmarg0 31 = false := (bit_eq_decide _ _).trans (decide_eq_false (by omega))
    exact answers_installed hup hb rfl (setPair_installs ha hl hd (by omega) hclear (by omega) (by omega) (by omega))
  case savearea =>
    obtain ⟨_, _, h⟩ := setSave_checks_warps s asid
    exact answers_refused hup (congrArg _ h) hb (failing_head ha hon _ _)
  case privarea =>
    obtain ⟨_, _, h⟩ := setPrivate_checks_warps s asid
    exact answers_refused hup (congrArg _ h) hb (failing_head ha hon _ _)

end Sys2Proof.Machine
end
